-- ==== Sys2Proof/Word.lean ====
section
/-! DEFINITION. The word types of the Azril A9 (R2, R3, R62). -/
namespace Sys2Proof

/-- Eight bits, the unit of memory (R3). -/
abbrev Byte := BitVec 8
/-- A scalar register (R62). -/
abbrev Word := BitVec 64
/-- A vector register (R62). -/
abbrev Vec := BitVec 2048
/-- A mask register (R62). -/
abbrev Mask := BitVec 256
/-- An instruction of the longest length; the shorter ones stand in its low bits (R81). -/
abbrev IWord := BitVec 128
/-- An expiry tag: PKG in [18:12], INDEX in [11:0] (R187). -/
abbrev Tag := BitVec 19

end Sys2Proof
end

