-- ==== Sys2Proof/Syntax.lean ====
section
/-! DEFINITION. Operands and instructions of the Azril A9, one constructor of `Instr` per row of
spec/opcode_table.json: the 174 instruction rows, then the 80 rows of events of the machine's units. -/
namespace Sys2Proof

/-- A scalar operand (R20, R85): values 48 to 62 have no constructor. -/
inductive Sc where
  | g (n : Fin 16)
  | c (n : Fin 16)
  | i (n : Fin 16)
  | zr
  deriving DecidableEq, Repr

/-- A vector operand `v0` to `v63` (R20). -/
abbrev VReg := Fin 64
/-- A mask operand `k0` to `k7` (R20, R85). -/
abbrev KReg := Fin 8
/-- An accumulator operand `a0` to `a3` (R85). -/
abbrev AReg := Fin 4

/-- Condition codes (R88). -/
inductive Cond where
  | eq | ne | lt | le | gt | ge
  deriving DecidableEq, Repr

/-- Element types (R87). -/
inductive ETy where
  | f64 | f32 | bf16 | f16 | e4m3 | e5m2 | e2m1 | tw8 | i64 | i32 | i16 | i8 | i4
  deriving DecidableEq, Repr

/-- Access widths (R90). -/
inductive Width where
  | b | h | w | d
  deriving DecidableEq, Repr

/-- Scopes with a suffix (R30); the absent scope, code 0, is `none` of `Option Scope`. -/
inductive Scope where
  | core | quad | die | pkg | pod
  deriving DecidableEq, Repr

/-- An immediate, by the field that holds it (R84). -/
inductive Imm where
  | i27 (v : BitVec 27)
  | i32 (v : BitVec 32)
  | i64 (v : BitVec 64)
  deriving DecidableEq, Repr

/-- The second source of the scalar integer class (R89, I bit). -/
inductive Src2 where
  | reg (r : Sc)
  | imm (v : Imm)
  deriving DecidableEq, Repr

/-- The second source of the vector class: a register, or the element immediate of the 96-bit form (R337). -/
inductive VSrc where
  | reg (v : VReg)
  | imm (x : BitVec 32)
  deriving DecidableEq, Repr

/-- `AMO` operations (R90). -/
inductive AmoOp where
  | add | max | min | and | or | xor | swap
  deriving DecidableEq, Repr

/-- Sign operations of `FSGN` and `VSGN` (R297). -/
inductive SgnOp where
  | cpy | ncp | xor
  deriving DecidableEq, Repr

/-- Operators of `VRED` and `VSCAN` (R348). -/
inductive RedOp where
  | add | max | min
  deriving DecidableEq, Repr

/-- `CMO` operations (R90). -/
inductive CmoOp where
  | cl | inv | cli
  deriving DecidableEq, Repr

/-- `CMO` levels (R90). -/
inductive CmoLvl where
  | l1 | l2 | hbm | ipath
  deriving DecidableEq, Repr

/-- Full/empty load modes (R90). -/
inductive LdMode where
  | ig | wf | wfe
  deriving DecidableEq, Repr

/-- Full/empty store modes (R90). -/
inductive StMode where
  | ig | wef | sf
  deriving DecidableEq, Repr

/-- Copy operations of `CPY` (R139). -/
inductive CpyOp where
  | copy | add | max | min
  deriving DecidableEq, Repr

/-- Collective kinds (R215). -/
inductive CollKind where
  | ar | ag | rs | bc
  deriving DecidableEq, Repr

/-- Operators of a named buffer (R213). -/
inductive CbufOp where
  | sum | max | min | smerge | none
  deriving DecidableEq, Repr

/-- A multicast fan-out entry (R208). -/
structure Fan where
  out : BitVec 28
  shift : BitVec 16
  total : BitVec 12
  valid : Bool
  deriving DecidableEq, Repr

/-- A host window: a local-address range with permissions (R210). -/
structure Window where
  base : Nat
  size : Nat
  rd : Bool
  wr : Bool
  deriving DecidableEq, Repr

/-- Operations a host may request (R210). -/
inductive HostOp where
  | ld | st | ldwf | ldwfe | stsf | stwef | amo (op : AmoOp)
  deriving DecidableEq, Repr

/-- A firmware image as it stands in the staging area: the header fields of R261 and the body. -/
structure FwImage where
  kind : BitVec 32
  svn : BitVec 32
  size : BitVec 64
  digest : BitVec 384
  sige : BitVec 512
  sigm : BitVec 26472
  body : List Byte
  deriving DecidableEq, Repr

/-- A request for an attestation report (R263): its nonce, and the requester's memory that takes the report, or none for a
host's request through the mailbox. -/
structure AttestReq where
  nonce : BitVec 256
  into : Option Nat
  deriving DecidableEq, Repr

/-- Why a bit pattern is no instruction (R93). `limits`: a type the entry does not accept, a number beyond
its limit, a misaligned offset or a destination `k0`. -/
inductive Illegal where
  | reservedMajor | lengthNotPermitted | reservedSub | reservedType
  | nonzeroField | scalarOperand | maskOperand | accumulatorOperand | scopeCode | limits
  deriving DecidableEq, Repr

/-- A bit pattern that decodes to nothing: its fault is illegal-length or illegal-instruction (R82, R93). -/
inductive Bad where
  | illegalLength
  | illegal (why : Illegal)
  deriving DecidableEq, Repr

/-- The instructions and the events. Operand names follow the reference entries: `d`, `a`, `b`, `c` are
the fields D, A, B, C; `off` a byte offset; `k` the lane mask; `z`, `sat`, `win` the modifiers. A core is
named by its core id (R47 layout), a thread slot by 8 × core id + slot, a die by 4 × package + die, a quad
by 512 × die + quad. -/
inductive Instr where
  -- scalar integer (R267, R285, R326, R281, R275, R325, R311, R310, R315)
  | add (d a : Sc) (b : Src2)
  | sub (d a : Sc) (b : Src2)
  | mul (d a : Sc) (b : Src2)
  | mulh (z : Bool) (d a : Sc) (b : Src2)
  | div (z : Bool) (d a : Sc) (b : Src2)
  | rem (z : Bool) (d a : Sc) (b : Src2)
  | and (d a : Sc) (b : Src2)
  | or (d a : Sc) (b : Src2)
  | xor (d a : Sc) (b : Src2)
  | andn (d a : Sc) (b : Src2)
  | shl (d a : Sc) (b : Src2)
  | shr (d a : Sc) (b : Src2)
  | sar (d a : Sc) (b : Src2)
  | min (z : Bool) (d a : Sc) (b : Src2)
  | max (z : Bool) (d a : Sc) (b : Src2)
  | setc (cc : Cond) (z : Bool) (d a : Sc) (b : Src2)
  | clz (d a : Sc)
  | ctz (d a : Sc)
  | popc (d a : Sc)
  | bfx (z : Bool) (d a b : Sc)
  | bfxImm (z : Bool) (d a : Sc) (pos : BitVec 6) (width : BitVec 7)
  | bfi (d a b c : Sc)
  | sel (d a : Sc) (b : Src2) (c : Sc)
  | li (d : Sc) (v : BitVec 27)
  | li96 (d : Sc) (v : BitVec 32)
  | li128 (d : Sc) (v : BitVec 64)
  | lea (d : Sc) (b : Src2)
  | mov (d a : Sc)
  -- scalar floating point (R289, R295, R296, R293, R292, R297)
  | fadd (t : ETy) (d a b : Sc)
  | fsub (t : ETy) (d a b : Sc)
  | fmul (t : ETy) (d a b : Sc)
  | ffma (t : ETy) (d a b c : Sc)
  | fdiv (t : ETy) (d a b : Sc)
  | fsqrt (t : ETy) (d a : Sc)
  | fmin (t : ETy) (d a b : Sc)
  | fmax (t : ETy) (d a b : Sc)
  | fsetc (cc : Cond) (t : ETy) (d a b : Sc)
  | fcvt (dt st : ETy) (z sat : Bool) (d a : Sc)
  | fclass (t : ETy) (d a : Sc)
  | fsgn (op : SgnOp) (t : ETy) (d a b : Sc)
  -- control (R271, R302, R319, R300, R351)
  | br (cc : Cond) (z : Bool) (a b : Sc) (off : BitVec 27)
  | j (off : BitVec 27)
  | j96 (off : BitVec 32)
  | jl (d : Sc) (off : BitVec 27)
  | jl96 (d : Sc) (off : BitVec 32)
  | jr (d a : Sc)
  | haltKeep (a : Sc)
  -- memory (R308, R332, R309, R269, R279, R294, R160, R159, R158, R335, R162, R163, R209)
  | ld (acq z : Bool) (w : Width) (sc : Option Scope) (d a : Sc) (off : BitVec 27)
  | st (rel : Bool) (w : Width) (sc : Option Scope) (a : Sc) (off : BitVec 27) (b : Sc)
  | lds (m : LdMode) (z : Bool) (w : Width) (sc : Option Scope) (d a : Sc) (off : BitVec 27)
  | sts (m : StMode) (w : Width) (sc : Option Scope) (a : Sc) (off : BitVec 27) (b : Sc)
  | amo (op : AmoOp) (z : Bool) (w : Width) (sc : Option Scope) (d a : Sc) (off : BitVec 27) (b : Sc)
  | cas (w : Width) (sc : Option Scope) (d a : Sc) (off : BitVec 32) (b c : Sc)
  | fence (sc : Scope)
  | acq (sc : Option Scope) (d a : Sc) (off : BitVec 27) (b : Sc)
  | rel (sc : Option Scope) (a : Sc) (off : BitVec 27) (b : Sc)
  | bind (sc : Option Scope) (a : Sc) (off : BitVec 32) (b c : Sc)
  | unbind (a : Sc) (off : BitVec 27)
  | cmo (op : CmoOp) (lvl : CmoLvl) (a : Sc) (off : BitVec 27) (b : Sc)
  | mcast (sc : Option Scope) (n : BitVec 6) (a : Sc) (off : BitVec 32) (b c : Sc)
  | mcast128 (sc : Option Scope) (n : BitVec 6) (a : Sc) (off : BitVec 64) (b c : Sc)
  -- vector memory (R345, R344, R343)
  | vld (t : ETy) (d : VReg) (a : Sc) (off : BitVec 27) (k : KReg)
  | vst (t : ETy) (a : Sc) (off : BitVec 27) (b : VReg) (k : KReg)
  | vgath (t : ETy) (d : VReg) (a : Sc) (off : BitVec 27) (b : VReg) (k : KReg)
  | vscat (t : ETy) (a : Sc) (off : BitVec 27) (d b : VReg) (k : KReg)
  | vspill (a : Sc) (off : BitVec 27) (f : VReg) (n : BitVec 6)
  | vfill (f : VReg) (a : Sc) (off : BitVec 27) (n : BitVec 6)
  -- vector (R338, R342, R339, R341, R349, R348, R346, R340, R350, R347)
  | vadd (t : ETy) (d a : VReg) (b : VSrc) (k : KReg)
  | vsub (t : ETy) (d a : VReg) (b : VSrc) (k : KReg)
  | vmul (t : ETy) (d a : VReg) (b : VSrc) (k : KReg)
  | vfma (win : Bool) (t : ETy) (d a : VReg) (b : VSrc) (c : VReg) (k : KReg)
  | vmin (z : Bool) (t : ETy) (d a : VReg) (b : VSrc) (k : KReg)
  | vmax (z : Bool) (t : ETy) (d a : VReg) (b : VSrc) (k : KReg)
  | vsgn (op : SgnOp) (t : ETy) (d a b : VReg) (k : KReg)
  | vdiv (t : ETy) (d a : VReg) (b : VSrc) (k : KReg)
  | vexp2 (t : ETy) (d a : VReg) (k : KReg)
  | vlog2 (t : ETy) (d a : VReg) (k : KReg)
  | vrcp (t : ETy) (d a : VReg) (k : KReg)
  | vrsq (t : ETy) (d a : VReg) (k : KReg)
  | vtanh (t : ETy) (d a : VReg) (k : KReg)
  | viadd (z sat : Bool) (t : ETy) (d a : VReg) (b : VSrc) (k : KReg)
  | visub (z sat : Bool) (t : ETy) (d a : VReg) (b : VSrc) (k : KReg)
  | vimul (t : ETy) (d a : VReg) (b : VSrc) (k : KReg)
  | vand (t : ETy) (d a : VReg) (b : VSrc) (k : KReg)
  | vor (t : ETy) (d a : VReg) (b : VSrc) (k : KReg)
  | vxor (t : ETy) (d a : VReg) (b : VSrc) (k : KReg)
  | vshl (t : ETy) (d a : VReg) (b : VSrc) (k : KReg)
  | vshr (t : ETy) (d a : VReg) (b : VSrc) (k : KReg)
  | vsar (t : ETy) (d a : VReg) (b : VSrc) (k : KReg)
  | vcvt (dt st : ETy) (z sat : Bool) (d a : VReg) (part : BitVec 6) (k : KReg)
  | vsetc (cc : Cond) (z : Bool) (t : ETy) (d : KReg) (a : VReg) (b : VSrc) (k : KReg)
  | vsel (t : ETy) (d a b : VReg) (c : KReg) (k : KReg)
  | vred (op : RedOp) (z win : Bool) (t : ETy) (d : Sc) (a : VReg) (k : KReg)
  | vscan (op : RedOp) (z win : Bool) (t : ETy) (d a : VReg) (k : KReg)
  | vperm (t : ETy) (d a b : VReg) (k : KReg)
  | vslide (t : ETy) (d a b : VReg) (c : Sc) (k : KReg)
  | vbcast (t : ETy) (d : VReg) (a : Sc) (k : KReg)
  | vext (z : Bool) (t : ETy) (d : Sc) (a : VReg) (b : Sc)
  | vins (t : ETy) (d : VReg) (a b : Sc)
  | vidx (t : ETy) (d : VReg) (a : Sc) (k : KReg)
  | vtopk (t : ETy) (d a : VReg) (n : BitVec 6) (c : Sc) (k : KReg)
  | vrand (d : VReg) (a b c : Sc) (k : KReg)
  -- masks (R303)
  | kand (d a b : KReg)
  | kor (d a b : KReg)
  | kxor (d a b : KReg)
  | knot (d a : KReg)
  | kpopc (d : Sc) (a : KReg)
  | kfirst (d : Sc) (a : KReg)
  | kmov (d a : KReg)
  -- matrix (R113)
  | mma (fa fb : ETy) (seam : Bool) (n : AReg) (a b : Sc) (depth : BitVec 9) (tag : BitVec 16) (k : KReg)
  | mxzero (n : AReg) (k : KReg)
  | mxld (n : AReg) (a : Sc) (k : KReg)
  | mxst (t : ETy) (sat : Bool) (a : Sc) (n : AReg) (k : KReg)
  | mxflg (d : KReg) (n : AReg)
  | mxwait (n : BitVec 4)
  -- threads, tasks, events, streams (R330, R333, R286, R313, R70, R71, R272, R37, R322, R324)
  | spawn (a b : Sc)
  | task (wait : Bool) (d a : Sc) (off : BitVec 32) (kw ks : KReg)
  | evset (a : KReg)
  | evclr (a : KReg)
  | evwait (a : KReg)
  | migr (a : Sc)
  | grow (wait : Bool) (d : Sc) (n : BitVec 27)
  | growReg (wait : Bool) (d b : Sc)
  | shrink (d : Sc) (n : BitVec 27)
  | shrinkReg (d b : Sc)
  | bar (sc : Scope) (id : BitVec 4)
  | bjoin (sc : Scope) (id : BitVec 4) (b : Sc)
  | bleave (sc : Scope) (id : BitVec 4)
  | slotw (a b : Sc)
  | rfillArm (d : Sc)
  | rfillSend (wait : Bool) (a b c : Sc)
  | sbind (d : VReg) (a : Sc) (off : BitVec 27)
  | sfree (d : VReg)
  -- expiry (R190)
  | exnew (d a : Sc)
  | exjoin (d a b : Sc)
  | exset (a : Sc)
  | exchk (d a : Sc)
  | exfree (a : Sc)
  -- engines (R139, R215, R213, R250, R306)
  | cpy (op : CpyOp) (t : Option ETy) (acq rel : Bool) (sc : Option Scope) (d a b c : Sc) (tag : BitVec 16)
  | cpyRfg (acq : Bool) (sc : Option Scope) (d a c : Sc)
  | cpyRfv (acq : Bool) (sc : Option Scope) (d : VReg) (a c : Sc)
  | cpgb (acq rel : Bool) (sc : Option Scope) (d a c : Sc) (tag : BitVec 16)
  | kvapp (acq rel : Bool) (sc : Option Scope) (a b c : Sc)
  | cpwait (d a : Sc)
  | coll (kind : CollKind) (acq rel : Bool) (sc : Option Scope) (id : BitVec 10) (root : BitVec 7) (c : Sc)
  | cbuf (op : CbufOp) (t : ETy) (id : BitVec 10) (a : Sc)
  | gmload (a : Sc)
  | gmstep (d a b : Sc)
  | gmstepRst (d a : Sc)
  | gmmask (d : VReg) (a b : Sc)
  | gmmaskK (d : KReg) (a b : Sc)
  | launch (a : Sc)
  -- system (R225, R224, R331, R320)
  | trap (n : BitVec 8)
  | brk (n : BitVec 8)
  | srd (d : Sc) (sys : BitVec 12)
  | swr (sys : BitVec 12) (a : Sc)
  | swrEx (a : Sc)
  | swrCsplit (a : Sc)
  | swrOvh (a : Sc)
  | swrHvec (a : Sc)
  | swrMq (a : Sc)
  | swrWdog (a : Sc)
  | rdtime (d : Sc)
  -- events: cores and threads
  | sharedRegisterWriteLands (core : Nat)
  | handlerThreadStart (core : Nat)
  | spawnRequestMessage (core : Nat)
  | migrationArrival (core : Nat)
  | sharerOverflow (core : Nat)
  | overflowWrite (core : Nat)
  | messageReplyTaken (core : Nat)
  | messageReplyTimeout (core : Nat)
  | spawnRefused (slot : Nat)
  | migrationResend (slot : Nat)
  | powerGrant (pkg : Nat) (grants avg : List Nat) (reserve : Nat) (cool : List Nat)
  | currentSlotDisable (die avg : Nat)
  | thermalSlotDisable (core : Nat)
  | hardwareDisplacement (slot : Nat)
  -- events: matrix unit and copy channel
  | matrixCommandAccept (core : Nat)
  | matrixCommandExecute (core : Nat)
  | matrixCommandComplete (core : Nat)
  | copyCommandAccept (core : Nat)
  | copyCommandExecute (core : Nat)
  | copyCommandComplete (core : Nat)
  | copyDeferred (core : Nat)
  | copyResume (core : Nat)
  -- events: translation
  | pageWalk (core : Nat) (va : Word)
  | shootdownRequest (die : Nat)
  | shootdownDone (die : Nat)
  -- events: requests, replies, retry lists
  | remoteRequestArrival (pkg : Nat)
  | replyArrival (pkg : Nat)
  | listedNotice (pkg : Nat)
  | busyReply (pkg : Nat)
  | busyResend (core rtag : Nat)
  | requestResend (core rtag : Nat)
  | remoteTimeoutExpiry (core rtag : Nat)
  | replayEntryExpiry (pkg : Nat)
  | retryListExamine (home : Nat)
  | retryListResend (seq : Nat)
  | syncTimeout (seq : Nat)
  -- events: tasks and streams
  | taskDispatch (quad : Nat)
  | streamReadAhead (slot : Nat) (v : VReg)
  -- events: expiry
  | expiryLapse (pkg index : Nat)
  | unpickWaveArrival (pkg : Nat)
  | waveComplete (pkg index : Nat)
  | quarantineExpiry (pkg index : Nat)
  | reachNote (pkg : Nat)
  | reachNoteAck (pkg : Nat)
  | lapsedTagFilterExpiry (pkg : Nat)
  -- events: fabric
  | flitQueueTimeout (pkg port : Nat)
  | frameReceive (pkg port : Nat) (ok : Bool) (lost : List Nat)
  | keyStage (pkg port : Nat) (key : BitVec 256)
  | keySwitch (pkg port : Nat)
  | keyExhaustion (pkg port : Nat)
  | multicastDelivery (pkg : Nat)
  | multicastAck (pkg : Nat)
  | hostRequest (pkg port : Nat) (op : HostOp) (addr size : Nat) (value : Word) (tag : Tag)
  | patternTableWrite (pkg port entry : Nat) (v : BitVec 8)
  | fanOutEntryWrite (pkg n : Nat) (v : Fan)
  | hostWindowWrite (pkg port n : Nat) (v : Window)
  | registrationMessage (pkg : Nat)
  | collContributionAccept (pkg id : Nat)
  | collComplete (pkg id : Nat)
  -- events: traps, partitions, management
  | trapEntry (slot : Nat)
  | managementThreadEnd (slot : Nat)
  | haltRequest (part : Nat) (save : Bool)
  | quiesceComplete (part : Nat)
  | saveRequest (part : Nat)
  | resumeRequest (part : Nat)
  | saveComplete (part : Nat)
  | saveTimeout (part : Nat)
  | restoreRequest (part : Nat)
  | restoreComplete (part : Nat) (consistent : Bool)
  | restoreTimeout (part : Nat)
  | watchdogReport (part : Nat)
  | coreMigrationRequest (src dst : Nat)
  | forwardingEntryClear (src : Nat)
  | linkTrainingWake (pkg port : Nat)
  | imageSubmit (pkg die : Nat) (img : FwImage)
  | attestationRequest (pkg : Nat) (req : AttestReq)
  | powerOff (pkg : Nat)
  | partitionCreate (part : Nat) (dies : List Nat) (root : Nat)
  | thermalRankingTableWrite (die : Nat) (cores : List Nat)
  | frameSend (pkg port : Nat)
  -- instructions without operands (R319, R300, R351, R291, R316, R224)
  | nop
  | nop96
  | nop128
  | halt
  | yield
  | fbar
  | mxbeg
  | mxend
  | tret
  | tretSkip
  | track
  deriving DecidableEq, Repr

end Sys2Proof
end

