-- ==== Sys2Proof/WellFormed.lean ====
section
/-! DEFINITION. What an encoding may hold beyond the types of `Instr`: accepted types, lengths, limits and
offsets (R84 to R93, and the reference entries). A term that fails has no word: its fields meet R93. -/
namespace Sys2Proof

/-- Types of the scalar floating-point class (R89). -/
def ETy.isScalarFp : ETy → Bool
  | .f64 | .f32 | .bf16 | .f16 => true
  | _ => false

/-- Types `FCVT` accepts (R293). -/
def ETy.isFcvt : ETy → Bool
  | .f64 | .f32 | .bf16 | .f16 | .i64 | .i32 => true
  | _ => false

/-- Integer types. -/
def ETy.isInt : ETy → Bool
  | .i64 | .i32 | .i16 | .i8 | .i4 => true
  | _ => false

/-- `.f32`, `.bf16` and `.f16` (R338). -/
def ETy.isVecFp : ETy → Bool
  | .f32 | .bf16 | .f16 => true
  | _ => false

/-- `.i32`, `.i16` and `.i8` (R339). -/
def ETy.isVecInt : ETy → Bool
  | .i32 | .i16 | .i8 => true
  | _ => false

/-- Every 8-, 16- and 32-bit type (R339). -/
def ETy.isVec : ETy → Bool
  | .f32 | .bf16 | .f16 | .e4m3 | .e5m2 | .tw8 | .i32 | .i16 | .i8 => true
  | _ => false

/-- Every vector type, the 4-bit ones included (R345, R341). -/
def ETy.isVecAny : ETy → Bool
  | .f64 | .i64 => false
  | _ => true

/-- `.f32` and `.i32` (R344). -/
def ETy.isLane32 : ETy → Bool
  | .f32 | .i32 => true
  | _ => false

/-- Width of an element in bits (R96, R98, R99). -/
def ETy.bits : ETy → Nat
  | .f64 | .i64 => 64
  | .f32 | .i32 => 32
  | .bf16 | .f16 | .i16 => 16
  | .e4m3 | .e5m2 | .tw8 | .i8 => 8
  | .e2m1 | .i4 => 4

/-- Elements of a type in a vector register (R63, R98, R341). -/
def ETy.lanes (t : ETy) : Nat := 2048 / t.bits

/-- An offset whose bits [1:0] are zero (R93). -/
def aligned4 {n : Nat} (v : BitVec n) : Bool := v.toNat % 4 == 0

/-- An element immediate stands in the type's width of Y32 (R84, R337). -/
def VSrc.fits (t : ETy) : VSrc → Bool
  | .reg _ => true
  | .imm x => x.toNat < 2 ^ t.bits

/-- `.z` with `.d` meets R93 (R90). -/
def Width.zOk (w : Width) (z : Bool) : Bool := !(z && w == .d)

/-- `.w` or `.d` (R90). -/
def Width.isAmo : Width → Bool
  | .w | .d => true
  | _ => false

/-- Engine-class scope: zero unless ACQ or REL is set (R89). -/
def engineScope (aq rl : Bool) (sc : Option Scope) : Bool := aq || rl || sc.isNone

/-- System registers with a row of their own for `SWR`. -/
def swrOwnRow (sys : BitVec 12) : Bool :=
  sys == 0x000#12 || sys == 0x020#12 || sys == 0x021#12 || sys == 0x022#12 || sys == 0x023#12 || sys == 0x024#12

/-- Rate classes of `MMA` (R113): the FP8 pair and the 16-bit pair. -/
def mmaPair (fa fb : ETy) : Bool :=
  ((fa == .e4m3 || fa == .e5m2) && (fb == .e4m3 || fb == .e5m2 || fb == .tw8)) ||
  ((fa == .bf16 || fa == .f16) && (fb == .bf16 || fb == .f16))

/-- The depth limits of R114. -/
def mmaDepth (fa : ETy) (n : BitVec 9) : Bool :=
  let m := n.toNat
  let step := if fa == .e4m3 || fa == .e5m2 then 8 else 4
  m % step == 0 && step ≤ m && m ≤ 256

/-- Bits 31 to 27 of the row numbers that `CPY` types may use (R139). -/
def cpyType : ETy → Bool
  | .f32 | .bf16 | .f16 | .i32 | .i64 => true
  | _ => false

/-- The encoding conditions of each instruction. An event is no encoding and is always well formed. -/
def Instr.wf : Instr → Bool
  | .bfxImm _ _ _ pos width => 1 ≤ width.toNat && pos.toNat + width.toNat ≤ 64
  | .sel _ _ b _ => match b with
    | .imm (.i27 _) => false
    | _ => true
  | .fadd t _ _ _ | .fsub t _ _ _ | .fmul t _ _ _ | .ffma t _ _ _ _ | .fdiv t _ _ _ | .fsqrt t _ _
  | .fmin t _ _ _ | .fmax t _ _ _ | .fsetc _ t _ _ _ | .fclass t _ _ | .fsgn _ t _ _ _ => t.isScalarFp
  | .fcvt dt sty z _ _ _ => dt.isFcvt && sty.isFcvt && !(dt.isInt && sty.isInt) && (!z || dt.isInt || sty.isInt)
  | .br _ _ _ _ off | .j off | .jl _ off => aligned4 off
  | .j96 off | .jl96 _ off => aligned4 off
  | .ld aq z w sc _ _ _ => w.zOk z && (aq || sc.isNone)
  | .st rl _ sc _ _ _ => rl || sc.isNone
  | .lds m z w sc _ _ _ => w.zOk z && (m != .ig || sc.isNone)
  | .sts m _ sc _ _ _ => m != .ig || sc.isNone
  | .amo _ z w _ _ _ _ _ => w.isAmo && w.zOk z
  | .cas w _ _ _ _ _ _ => w.isAmo
  | .cmo op lvl _ _ _ => lvl != .ipath || op == .inv
  | .vld t _ _ _ _ | .vst t _ _ _ _ => t.isVecAny
  | .vgath t _ _ _ _ _ | .vscat t _ _ _ _ _ => t.isLane32
  | .vspill _ _ _ n | .vfill _ _ _ n => n != 0
  | .vadd t _ _ b _ | .vsub t _ _ b _ | .vmul t _ _ b _ | .vdiv t _ _ b _ | .vfma _ t _ _ b _ _ =>
    t.isVecFp && b.fits t
  | .vmin z t _ _ b _ | .vmax z t _ _ b _ => (t.isVecInt || (t.isVecFp && !z)) && b.fits t
  | .vsgn _ t _ _ _ _ => t.isVecFp
  | .vexp2 t _ _ _ | .vlog2 t _ _ _ | .vrcp t _ _ _ | .vrsq t _ _ _ | .vtanh t _ _ _ => t.isVecFp
  | .viadd z sat t _ _ b _ | .visub z sat t _ _ b _ => t.isVecInt && (!z || sat) && b.fits t
  | .vimul t _ _ b _ | .vshl t _ _ b _ | .vshr t _ _ b _ | .vsar t _ _ b _ => t.isVecInt && b.fits t
  | .vand t _ _ b _ | .vor t _ _ b _ | .vxor t _ _ b _ => t.isVec && b.fits t
  | .vcvt dt sty z _ _ _ part _ =>
    dt.isVecAny && sty.isVecAny && !(dt.isInt && sty.isInt) && (!z || dt.isInt || sty.isInt) &&
    decide (part.toNat < Nat.max dt.lanes sty.lanes / Nat.min dt.lanes sty.lanes)
  | .vsetc _ z t d _ b _ => (t.isVecInt || (t.isVecFp && !z)) && d != 0 && b.fits t
  | .vsel t _ _ _ _ _ => t.isVec
  | .vred op z win t _ _ _ | .vscan op z win t _ _ _ =>
    (t.isVecFp && !z && (!win || op == .add)) || (t.isVecInt && !win && (!z || op != .add))
  | .vperm t _ _ _ _ | .vslide t _ _ _ _ _ | .vbcast t _ _ _ | .vins t _ _ _ => t.isVec
  | .vext z t _ _ _ => t.isVec && (!z || t.isInt)
  | .vidx t _ _ _ => t.isVecInt
  | .vtopk t d _ n _ _ => (t.isVecFp || t.isVecInt) && n != 0 && d != 63 && decide (n.toNat ≤ t.lanes)
  | .kand d _ _ | .kor d _ _ | .kxor d _ _ | .knot d _ | .kmov d _ => d != 0
  | .mma fa fb seam _ _ _ depth tag _ => mmaPair fa fb && mmaDepth fa depth && (seam || tag == 0)
  | .mxst t sat _ _ _ => (t == .f32 && !sat) || t == .bf16 || t == .f16 || t == .e4m3
  | .mxflg d _ => d != 0
  | .bjoin sc _ b => match sc with
    | .core | .quad => b == .g 0
    | _ => true
  | .rfillArm d => d != .zr
  | .cpy op t aq rl sc _ _ _ _ tag =>
    engineScope aq rl sc &&
    (match op, t with
     | .copy, none => true
     | .copy, some _ => false
     | _, some t => cpyType t
     | _, none => false)
  | .cpyRfg aq sc _ _ _ => engineScope aq false sc
  | .cpyRfv aq sc _ _ _ => engineScope aq false sc
  | .cpgb aq rl sc _ _ _ _ | .kvapp aq rl sc _ _ _ => engineScope aq rl sc
  | .coll kind aq rl sc _ root _ => engineScope aq rl sc && (kind == .bc || root == 0)
  | .cbuf _ t _ _ => t == .f32 || t == .bf16 || t == .f16 || t == .i32
  | .gmmaskK d _ _ => d != 0
  | .swr sys _ => !swrOwnRow sys
  | _ => true

end Sys2Proof
end

