-- ==== Sys2Proof/Decode.lean ====
section
/-! DEFINITION. Decoding and encoding (R81 to R93, R113, R139, R161, R190, R209, R213, R215, R250 and the
encoding tables of the reference entries). -/
namespace Sys2Proof

/-- The fields of an instruction (R81). `y` is Y32 or Y64; it is zero above the instruction's length. -/
structure Fields where
  len : BitVec 2
  major : BitVec 8
  d : BitVec 6
  a : BitVec 6
  b : BitVec 6
  sub : BitVec 6
  k : BitVec 3
  x : BitVec 27
  y : BitVec 64
  deriving DecidableEq, Repr

/-- Bits of `y` an encoding of this length has (R81). -/
def yMask (len : BitVec 2) : BitVec 64 :=
  if len == 2#2 then BitVec.allOnes 64 else if len == 1#2 then 0xFFFFFFFF#64 else 0#64

/-- The fields of a word; bits above the length are not part of the instruction. -/
def Fields.unpack (w : IWord) : Fields :=
  let len := w.extractLsb' 0 2
  { len := len, major := w.extractLsb' 2 8, d := w.extractLsb' 10 6, a := w.extractLsb' 16 6,
    b := w.extractLsb' 22 6, sub := w.extractLsb' 28 6, k := w.extractLsb' 34 3,
    x := w.extractLsb' 37 27, y := w.extractLsb' 64 64 &&& yMask len }

/-- The word of the fields (R81). -/
def Fields.pack (f : Fields) : IWord :=
  f.y ++ f.x ++ f.k ++ f.sub ++ f.b ++ f.a ++ f.d ++ f.major ++ f.len

/-- Bytes of an instruction of a length code (R81). -/
def lenBytes (len : BitVec 2) : Nat := if len == 0#2 then 8 else if len == 1#2 then 12 else 16

/-! ## Operand fields (R83, R85 to R88, R90) -/

abbrev Dec := Except Bad

/-- The illegal-instruction fault unless `c` holds (R93). -/
def need (c : Bool) (w : Illegal) : Dec Unit := if c then .ok () else .error (.illegal w)

def encSc : Sc → BitVec 6
  | .g n => BitVec.ofNat 6 n.val
  | .c n => BitVec.ofNat 6 (16 + n.val)
  | .i n => BitVec.ofNat 6 (32 + n.val)
  | .zr => 63#6

def decSc (v : BitVec 6) : Dec Sc :=
  if h : v.toNat < 16 then .ok (.g ⟨v.toNat, h⟩)
  else if h : v.toNat - 16 < 16 then .ok (.c ⟨v.toNat - 16, h⟩)
  else if h : v.toNat - 32 < 16 then .ok (.i ⟨v.toNat - 32, h⟩)
  else if v == 63#6 then .ok .zr else .error (.illegal .scalarOperand)

def encV (v : VReg) : BitVec 6 := BitVec.ofNat 6 v.val
def decV (v : BitVec 6) : VReg := ⟨v.toNat, v.isLt⟩

def encK (k : KReg) : BitVec 6 := BitVec.ofNat 6 k.val
def decK (v : BitVec 6) : Dec KReg :=
  if h : v.toNat < 8 then .ok ⟨v.toNat, h⟩ else .error (.illegal .maskOperand)
/-- The lane mask in the field K (R86). -/
def encLm (k : KReg) : BitVec 3 := BitVec.ofNat 3 k.val
def decLm (v : BitVec 3) : KReg := ⟨v.toNat, v.isLt⟩

def encA (n : AReg) : BitVec 6 := BitVec.ofNat 6 n.val
def decA (v : BitVec 6) : Dec AReg :=
  if h : v.toNat < 4 then .ok ⟨v.toNat, h⟩ else .error (.illegal .accumulatorOperand)

def encScope : Option Scope → BitVec 3
  | none => 0#3
  | some .core => 1#3
  | some .quad => 2#3
  | some .die => 3#3
  | some .pkg => 4#3
  | some .pod => 5#3

def decScope (k : BitVec 3) : Dec (Option Scope) :=
  match k.toNat with
  | 0 => .ok none
  | 1 => .ok (some .core)
  | 2 => .ok (some .quad)
  | 3 => .ok (some .die)
  | 4 => .ok (some .pkg)
  | 5 => .ok (some .pod)
  | _ => .error (.illegal .scopeCode)

/-- A scope that must be written (R294, R272). -/
def decScopeReq (k : BitVec 3) : Dec Scope := do
  match ← decScope k with
  | some s => .ok s
  | none => .error (.illegal .scopeCode)

def encTy : ETy → BitVec 4
  | .f64 => 0#4 | .f32 => 1#4 | .bf16 => 2#4 | .f16 => 3#4 | .e4m3 => 4#4 | .e5m2 => 5#4 | .e2m1 => 6#4
  | .tw8 => 7#4 | .i64 => 8#4 | .i32 => 9#4 | .i16 => 10#4 | .i8 => 11#4 | .i4 => 12#4

def decTy (v : BitVec 4) : Dec ETy :=
  match v.toNat with
  | 0 => .ok .f64 | 1 => .ok .f32 | 2 => .ok .bf16 | 3 => .ok .f16 | 4 => .ok .e4m3 | 5 => .ok .e5m2
  | 6 => .ok .e2m1 | 7 => .ok .tw8 | 8 => .ok .i64 | 9 => .ok .i32 | 10 => .ok .i16 | 11 => .ok .i8
  | 12 => .ok .i4
  | _ => .error (.illegal .reservedType)

def encCond : Cond → BitVec 4
  | .eq => 0#4 | .ne => 1#4 | .lt => 2#4 | .le => 3#4 | .gt => 4#4 | .ge => 5#4

def decCond (v : Nat) : Dec Cond :=
  match v with
  | 0 => .ok .eq | 1 => .ok .ne | 2 => .ok .lt | 3 => .ok .le | 4 => .ok .gt | 5 => .ok .ge
  | _ => .error (.illegal .reservedSub)

def encWidth : Width → BitVec 2
  | .b => 0#2 | .h => 1#2 | .w => 2#2 | .d => 3#2

def decWidth (v : BitVec 2) : Width :=
  match v.toNat with
  | 0 => .b | 1 => .h | 2 => .w | _ => .d

def encAmoOp : AmoOp → BitVec 3
  | .add => 0#3 | .max => 1#3 | .min => 2#3 | .and => 3#3 | .or => 4#3 | .xor => 5#3 | .swap => 6#3

def decAmoOp (v : BitVec 3) : Dec AmoOp :=
  match v.toNat with
  | 0 => .ok .add | 1 => .ok .max | 2 => .ok .min | 3 => .ok .and | 4 => .ok .or | 5 => .ok .xor
  | 6 => .ok .swap
  | _ => .error (.illegal .reservedSub)

def encLdMode : LdMode → BitVec 2
  | .ig => 0#2 | .wf => 1#2 | .wfe => 2#2

def decLdMode (v : BitVec 2) : Dec LdMode :=
  match v.toNat with
  | 0 => .ok .ig | 1 => .ok .wf | 2 => .ok .wfe
  | _ => .error (.illegal .reservedSub)

def encStMode : StMode → BitVec 2
  | .ig => 0#2 | .wef => 1#2 | .sf => 2#2

def decStMode (v : BitVec 2) : Dec StMode :=
  match v.toNat with
  | 0 => .ok .ig | 1 => .ok .wef | 2 => .ok .sf
  | _ => .error (.illegal .reservedSub)

def encCmoOp : CmoOp → BitVec 2
  | .cl => 0#2 | .inv => 1#2 | .cli => 2#2

def decCmoOp (v : BitVec 2) : Dec CmoOp :=
  match v.toNat with
  | 0 => .ok .cl | 1 => .ok .inv | 2 => .ok .cli
  | _ => .error (.illegal .reservedSub)

def encCmoLvl : CmoLvl → BitVec 2
  | .l1 => 0#2 | .l2 => 1#2 | .hbm => 2#2 | .ipath => 3#2

def decCmoLvl (v : BitVec 2) : CmoLvl :=
  match v.toNat with
  | 0 => .l1 | 1 => .l2 | 2 => .hbm | _ => .ipath

def encSgnOp : SgnOp → BitVec 6
  | .cpy => 0#6 | .ncp => 1#6 | .xor => 2#6

def decSgnOp (v : BitVec 6) : Dec SgnOp :=
  match v.toNat with
  | 0 => .ok .cpy | 1 => .ok .ncp | 2 => .ok .xor
  | _ => .error (.illegal .reservedSub)

def encRedOp : RedOp → BitVec 6
  | .add => 0#6 | .max => 1#6 | .min => 2#6

def decRedOp (v : BitVec 6) : Dec RedOp :=
  match v.toNat with
  | 0 => .ok .add | 1 => .ok .max | 2 => .ok .min
  | _ => .error (.illegal .reservedSub)

def encCbufOp : CbufOp → BitVec 4
  | .sum => 0#4 | .max => 1#4 | .min => 2#4 | .smerge => 3#4 | .none => 4#4

def decCbufOp (v : BitVec 4) : Dec CbufOp :=
  match v.toNat with
  | 0 => .ok .sum | 1 => .ok .max | 2 => .ok .min | 3 => .ok .smerge | 4 => .ok .none
  | _ => .error (.illegal .reservedSub)

def encCollKind : CollKind → BitVec 4
  | .ar => 0#4 | .ag => 1#4 | .rs => 2#4 | .bc => 3#4

def decCollKind (v : BitVec 4) : Dec CollKind :=
  match v.toNat with
  | 0 => .ok .ar | 1 => .ok .ag | 2 => .ok .rs | 3 => .ok .bc
  | _ => .error (.illegal .reservedSub)

/-- X27 in the C form (R83). -/
def cForm (c : BitVec 6) (t2 : BitVec 4) (sat win seam : Bool) : BitVec 27 :=
  0#14 ++ BitVec.ofBool seam ++ BitVec.ofBool win ++ BitVec.ofBool sat ++ t2 ++ c

def Fields.c (f : Fields) : BitVec 6 := f.x.extractLsb' 0 6
def Fields.t2 (f : Fields) : BitVec 4 := f.x.extractLsb' 6 4
def Fields.sat (f : Fields) : Bool := f.x.getLsbD 10
def Fields.win (f : Fields) : Bool := f.x.getLsbD 11
def Fields.seam (f : Fields) : Bool := f.x.getLsbD 12
def Fields.xRest (f : Fields) : BitVec 14 := f.x.extractLsb' 13 14
/-- SUB[3:0], SUB[4] and SUB[5]. -/
def Fields.lo4 (f : Fields) : BitVec 4 := f.sub.extractLsb' 0 4
def Fields.z (f : Fields) : Bool := f.sub.getLsbD 4
def Fields.i (f : Fields) : Bool := f.sub.getLsbD 5
def Fields.y32 (f : Fields) : BitVec 32 := f.y.extractLsb' 0 32

/-- SUB from its parts. -/
def mkSub (i z : Bool) (lo : BitVec 4) : BitVec 6 := BitVec.ofBool i ++ BitVec.ofBool z ++ lo

/-- The fields of a 64-bit instruction. -/
def f64w (major : BitVec 8) (d a b sub : BitVec 6) (k : BitVec 3) (x : BitVec 27) : Fields :=
  { len := 0#2, major := major, d := d, a := a, b := b, sub := sub, k := k, x := x, y := 0#64 }

/-- The fields of a 96-bit instruction. -/
def f96w (major : BitVec 8) (d a b sub : BitVec 6) (k : BitVec 3) (x : BitVec 27) (y : BitVec 32) : Fields :=
  { len := 1#2, major := major, d := d, a := a, b := b, sub := sub, k := k, x := x, y := y.setWidth 64 }

/-- The fields of a 128-bit instruction. -/
def f128w (major : BitVec 8) (d a b sub : BitVec 6) (k : BitVec 3) (x : BitVec 27) (y : BitVec 64) : Fields :=
  { len := 2#2, major := major, d := d, a := a, b := b, sub := sub, k := k, x := x, y := y }

def isLen (f : Fields) (l : BitVec 2) : Dec Unit := need (f.len == l) .lengthNotPermitted
def zeroOf (c : Bool) : Dec Unit := need c .nonzeroField

/-! ## Decoding by class (R89) -/

/-- The second source of the scalar integer class (R84, R89). -/
def decSrc2 (f : Fields) : Dec Src2 := do
  if f.i then
    zeroOf (f.b == 0#6)
    if f.len == 0#2 then .ok (.imm (.i27 f.x))
    else
      zeroOf (f.x == 0#27)
      if f.len == 1#2 then .ok (.imm (.i32 f.y32)) else .ok (.imm (.i64 f.y))
  else
    isLen f 0#2
    zeroOf (f.x == 0#27)
    .ok (.reg (← decSc f.b))

/-- The second source of `SEL`, which never stands in IMM27 (R325). -/
def decSelSrc (f : Fields) : Dec Src2 := do
  if f.i then
    zeroOf (f.b == 0#6)
    if f.len == 1#2 then .ok (.imm (.i32 f.y32))
    else if f.len == 2#2 then .ok (.imm (.i64 f.y)) else .error (.illegal .lengthNotPermitted)
  else
    isLen f 0#2
    .ok (.reg (← decSc f.b))

/-- The common shape of the scalar integer class: `gD, gA, b` (R267, R285). -/
def decAlu (f : Fields) (zOk : Bool) : Dec (Sc × Sc × Src2) := do
  need (f.lo4 == 0#4 && (zOk || !f.z)) .reservedSub
  need (f.k == 0#3) .scopeCode
  .ok (← decSc f.d, ← decSc f.a, ← decSrc2 f)

/-- 64 bits with nothing but D and A (R281, R315). -/
def decDA (f : Fields) : Dec (Sc × Sc) := do
  isLen f 0#2
  need (f.sub == 0#6) .reservedSub
  need (f.k == 0#3) .scopeCode
  zeroOf (f.b == 0#6 && f.x == 0#27)
  .ok (← decSc f.d, ← decSc f.a)

def decInt (f : Fields) : Dec Instr :=
  match f.major.toNat with
  | 0x01 => do let (d, a, b) ← decAlu f false; .ok (.add d a b)
  | 0x02 => do let (d, a, b) ← decAlu f false; .ok (.sub d a b)
  | 0x03 => do let (d, a, b) ← decAlu f false; .ok (.mul d a b)
  | 0x04 => do let (d, a, b) ← decAlu f true; .ok (.mulh f.z d a b)
  | 0x05 => do let (d, a, b) ← decAlu f true; .ok (.div f.z d a b)
  | 0x06 => do let (d, a, b) ← decAlu f true; .ok (.rem f.z d a b)
  | 0x07 => do let (d, a, b) ← decAlu f false; .ok (.and d a b)
  | 0x08 => do let (d, a, b) ← decAlu f false; .ok (.or d a b)
  | 0x09 => do let (d, a, b) ← decAlu f false; .ok (.xor d a b)
  | 0x0A => do let (d, a, b) ← decAlu f false; .ok (.andn d a b)
  | 0x0B => do let (d, a, b) ← decAlu f false; .ok (.shl d a b)
  | 0x0C => do let (d, a, b) ← decAlu f false; .ok (.shr d a b)
  | 0x0D => do let (d, a, b) ← decAlu f false; .ok (.sar d a b)
  | 0x0E => do let (d, a, b) ← decAlu f true; .ok (.min f.z d a b)
  | 0x0F => do let (d, a, b) ← decAlu f true; .ok (.max f.z d a b)
  | 0x10 => do
    let cc ← decCond f.lo4.toNat
    need (f.k == 0#3) .scopeCode
    .ok (.setc cc f.z (← decSc f.d) (← decSc f.a) (← decSrc2 f))
  | 0x11 => do let (d, a) ← decDA f; .ok (.clz d a)
  | 0x12 => do let (d, a) ← decDA f; .ok (.ctz d a)
  | 0x13 => do let (d, a) ← decDA f; .ok (.popc d a)
  | 0x14 => do
    isLen f 0#2
    need (f.lo4 == 0#4) .reservedSub
    need (f.k == 0#3) .scopeCode
    let d ← decSc f.d
    let a ← decSc f.a
    if f.i then
      zeroOf (f.b == 0#6 && f.x.extractLsb' 13 14 == 0#14)
      .ok (.bfxImm f.z d a (f.x.extractLsb' 0 6) (f.x.extractLsb' 6 7))
    else
      zeroOf (f.x == 0#27)
      .ok (.bfx f.z d a (← decSc f.b))
  | 0x15 => do
    isLen f 0#2
    need (f.sub == 0#6) .reservedSub
    need (f.k == 0#3) .scopeCode
    zeroOf (f.xRest == 0#14 && f.t2 == 0#4 && !f.sat && !f.win && !f.seam)
    .ok (.bfi (← decSc f.d) (← decSc f.a) (← decSc f.b) (← decSc f.c))
  | 0x16 => do
    need (f.lo4 == 0#4 && !f.z) .reservedSub
    need (f.k == 0#3) .scopeCode
    zeroOf (f.xRest == 0#14 && f.t2 == 0#4 && !f.sat && !f.win && !f.seam)
    .ok (.sel (← decSc f.d) (← decSc f.a) (← decSelSrc f) (← decSc f.c))
  | 0x17 => do
    need (f.lo4 == 0#4 && !f.z && f.i) .reservedSub
    need (f.k == 0#3) .scopeCode
    zeroOf (f.a == 0#6 && f.b == 0#6)
    let d ← decSc f.d
    if f.len == 0#2 then .ok (.li d f.x)
    else
      zeroOf (f.x == 0#27)
      if f.len == 1#2 then .ok (.li96 d f.y32) else .ok (.li128 d f.y)
  | 0x18 => do
    need (f.lo4 == 0#4 && !f.z) .reservedSub
    need (f.k == 0#3) .scopeCode
    zeroOf (f.b == 0#6)
    let d ← decSc f.d
    if f.i then
      zeroOf (f.a == 0#6)
      if f.len == 0#2 then .ok (.lea d (.imm (.i27 f.x)))
      else
        zeroOf (f.x == 0#27)
        if f.len == 1#2 then .ok (.lea d (.imm (.i32 f.y32))) else .ok (.lea d (.imm (.i64 f.y)))
    else
      isLen f 0#2
      zeroOf (f.x == 0#27)
      .ok (.lea d (.reg (← decSc f.a)))
  | 0x19 => do let (d, a) ← decDA f; .ok (.mov d a)
  | _ => .error (.illegal .reservedMajor)

/-- The checks common to the scalar floating-point class but for `FCVT` (R89). -/
def decFpHead (f : Fields) : Dec (ETy × Sc × Sc) := do
  isLen f 0#2
  need (!f.i && !f.z) .reservedSub
  let t ← decTy f.lo4
  need (f.k == 0#3) .scopeCode
  zeroOf (f.xRest == 0#14 && f.t2 == 0#4 && !f.sat && !f.win && !f.seam)
  .ok (t, ← decSc f.d, ← decSc f.a)

/-- Two sources (R289, R295). -/
def decFp2 (f : Fields) : Dec (ETy × Sc × Sc × Sc) := do
  let (t, d, a) ← decFpHead f
  zeroOf (f.c == 0#6)
  .ok (t, d, a, ← decSc f.b)

/-- One source (R289, R292). -/
def decFp1 (f : Fields) : Dec (ETy × Sc × Sc) := do
  let (t, d, a) ← decFpHead f
  zeroOf (f.b == 0#6 && f.c == 0#6)
  .ok (t, d, a)

def decFp (f : Fields) : Dec Instr :=
  match f.major.toNat with
  | 0x20 => do let (t, d, a, b) ← decFp2 f; .ok (.fadd t d a b)
  | 0x21 => do let (t, d, a, b) ← decFp2 f; .ok (.fsub t d a b)
  | 0x22 => do let (t, d, a, b) ← decFp2 f; .ok (.fmul t d a b)
  | 0x23 => do let (t, d, a) ← decFpHead f; .ok (.ffma t d a (← decSc f.b) (← decSc f.c))
  | 0x24 => do let (t, d, a, b) ← decFp2 f; .ok (.fdiv t d a b)
  | 0x25 => do let (t, d, a) ← decFp1 f; .ok (.fsqrt t d a)
  | 0x26 => do let (t, d, a, b) ← decFp2 f; .ok (.fmin t d a b)
  | 0x27 => do let (t, d, a, b) ← decFp2 f; .ok (.fmax t d a b)
  | 0x28 => do
    let (t, d, a) ← decFpHead f
    .ok (.fsetc (← decCond f.c.toNat) t d a (← decSc f.b))
  | 0x29 => do
    isLen f 0#2
    need (!f.i) .reservedSub
    need (f.k == 0#3) .scopeCode
    zeroOf (f.b == 0#6 && f.c == 0#6 && f.xRest == 0#14 && !f.win && !f.seam)
    .ok (.fcvt (← decTy f.lo4) (← decTy f.t2) f.z f.sat (← decSc f.d) (← decSc f.a))
  | 0x2A => do let (t, d, a) ← decFp1 f; .ok (.fclass t d a)
  | 0x2B => do
    let (t, d, a) ← decFpHead f
    .ok (.fsgn (← decSgnOp f.c) t d a (← decSc f.b))
  | _ => .error (.illegal .reservedMajor)

/-- D, A and B zero, SUB and K zero. -/
def decBare (f : Fields) : Dec Unit := do
  need (f.sub == 0#6) .reservedSub
  need (f.k == 0#3) .scopeCode
  zeroOf (f.d == 0#6 && f.a == 0#6 && f.b == 0#6)

def decCtl (f : Fields) : Dec Instr :=
  match f.major.toNat with
  | 0x30 => do
    isLen f 0#2
    need (!f.i) .reservedSub
    need (f.k == 0#3) .scopeCode
    zeroOf (f.d == 0#6)
    .ok (.br (← decCond f.lo4.toNat) f.z (← decSc f.a) (← decSc f.b) f.x)
  | 0x31 => do
    decBare f
    if f.len == 0#2 then .ok (.j f.x)
    else
      isLen f 1#2
      zeroOf (f.x == 0#27)
      .ok (.j96 f.y32)
  | 0x32 => do
    need (f.sub == 0#6) .reservedSub
    need (f.k == 0#3) .scopeCode
    zeroOf (f.a == 0#6 && f.b == 0#6)
    let d ← decSc f.d
    if f.len == 0#2 then .ok (.jl d f.x)
    else
      isLen f 1#2
      zeroOf (f.x == 0#27)
      .ok (.jl96 d f.y32)
  | 0x33 => do let (d, a) ← decDA f; .ok (.jr d a)
  | 0x34 => do
    decBare f
    zeroOf (f.x == 0#27 && f.y == 0#64)
    if f.len == 0#2 then .ok .nop else if f.len == 1#2 then .ok .nop96 else .ok .nop128
  | 0x35 => do
    isLen f 0#2
    need (f.k == 0#3) .scopeCode
    zeroOf (f.d == 0#6 && f.b == 0#6 && f.x == 0#27)
    if f.sub == 0#6 then
      zeroOf (f.a == 0#6)
      .ok .halt
    else
      need (f.sub == 1#6) .reservedSub
      .ok (.haltKeep (← decSc f.a))
  | 0x36 => do
    isLen f 0#2
    decBare f
    zeroOf (f.x == 0#27)
    .ok .yield
  | _ => .error (.illegal .reservedMajor)

def decMem (f : Fields) : Dec Instr :=
  match f.major.toNat with
  | 0x40 => do
    isLen f 0#2
    need (!f.i && !f.z) .reservedSub
    zeroOf (f.b == 0#6)
    .ok (.ld (f.sub.getLsbD 3) (f.sub.getLsbD 2) (decWidth (f.sub.extractLsb' 0 2)) (← decScope f.k)
      (← decSc f.d) (← decSc f.a) f.x)
  | 0x41 => do
    isLen f 0#2
    need (!f.i && f.sub.extractLsb' 2 2 == 0#2) .reservedSub
    zeroOf (f.d == 0#6)
    .ok (.st f.z (decWidth (f.sub.extractLsb' 0 2)) (← decScope f.k) (← decSc f.a) f.x (← decSc f.b))
  | 0x42 => do
    isLen f 0#2
    need (!f.i) .reservedSub
    zeroOf (f.b == 0#6)
    .ok (.lds (← decLdMode (f.sub.extractLsb' 3 2)) (f.sub.getLsbD 2) (decWidth (f.sub.extractLsb' 0 2))
      (← decScope f.k) (← decSc f.d) (← decSc f.a) f.x)
  | 0x43 => do
    isLen f 0#2
    need (!f.i && !f.sub.getLsbD 2) .reservedSub
    zeroOf (f.d == 0#6)
    .ok (.sts (← decStMode (f.sub.extractLsb' 3 2)) (decWidth (f.sub.extractLsb' 0 2)) (← decScope f.k)
      (← decSc f.a) f.x (← decSc f.b))
  | 0x44 => do
    isLen f 0#2
    .ok (.amo (← decAmoOp (f.sub.extractLsb' 3 3)) (f.sub.getLsbD 2) (decWidth (f.sub.extractLsb' 0 2))
      (← decScope f.k) (← decSc f.d) (← decSc f.a) f.x (← decSc f.b))
  | 0x45 => do
    isLen f 1#2
    need (f.sub.extractLsb' 2 4 == 0#4) .reservedSub
    zeroOf (f.xRest == 0#14 && f.t2 == 0#4 && !f.sat && !f.win && !f.seam)
    .ok (.cas (decWidth (f.sub.extractLsb' 0 2)) (← decScope f.k) (← decSc f.d) (← decSc f.a) f.y32
      (← decSc f.b) (← decSc f.c))
  | 0x46 => do
    isLen f 0#2
    need (f.sub == 0#6) .reservedSub
    zeroOf (f.d == 0#6 && f.a == 0#6 && f.b == 0#6 && f.x == 0#27)
    .ok (.fence (← decScopeReq f.k))
  | 0x47 => do
    isLen f 0#2
    need (f.sub == 0#6) .reservedSub
    .ok (.acq (← decScope f.k) (← decSc f.d) (← decSc f.a) f.x (← decSc f.b))
  | 0x48 => do
    isLen f 0#2
    need (f.sub == 0#6) .reservedSub
    zeroOf (f.d == 0#6)
    .ok (.rel (← decScope f.k) (← decSc f.a) f.x (← decSc f.b))
  | 0x49 => do
    isLen f 1#2
    need (f.sub == 0#6) .reservedSub
    zeroOf (f.d == 0#6 && f.xRest == 0#14 && f.t2 == 0#4 && !f.sat && !f.win && !f.seam)
    .ok (.bind (← decScope f.k) (← decSc f.a) f.y32 (← decSc f.b) (← decSc f.c))
  | 0x4A => do
    isLen f 0#2
    need (f.sub == 0#6) .reservedSub
    need (f.k == 0#3) .scopeCode
    zeroOf (f.d == 0#6 && f.b == 0#6)
    .ok (.unbind (← decSc f.a) f.x)
  | 0x4B => do
    isLen f 0#2
    need (f.sub.extractLsb' 4 2 == 0#2) .reservedSub
    need (f.k == 0#3) .scopeCode
    zeroOf (f.d == 0#6)
    .ok (.cmo (← decCmoOp (f.sub.extractLsb' 2 2)) (decCmoLvl (f.sub.extractLsb' 0 2)) (← decSc f.a) f.x
      (← decSc f.b))
  | 0x4C => do
    isLen f 0#2
    decBare f
    zeroOf (f.x == 0#27)
    .ok .fbar
  | 0x4D => do
    need (f.sub == 0#6) .reservedSub
    zeroOf (f.xRest == 0#14 && f.t2 == 0#4 && !f.sat && !f.win && !f.seam)
    let sc ← decScope f.k
    let a ← decSc f.a
    let b ← decSc f.b
    let c ← decSc f.c
    if f.len == 1#2 then .ok (.mcast sc f.d a f.y32 b c)
    else
      isLen f 2#2
      .ok (.mcast128 sc f.d a f.y b c)
  | _ => .error (.illegal .reservedMajor)

/-- A vector instruction in the C form: SAT, WIN, T2 and C as an entry permits (R337). -/
def decVC (f : Fields) (satOk winOk t2Ok cOk zOk : Bool) : Dec ETy := do
  need (!f.i && (zOk || !f.z)) .reservedSub
  let t ← decTy f.lo4
  zeroOf (f.xRest == 0#14 && !f.seam && (satOk || !f.sat) && (winOk || !f.win) && (t2Ok || f.t2 == 0#4) &&
    (cOk || f.c == 0#6))
  .ok t

/-- The second source of the vector class (R337). -/
def decVSrc (f : Fields) : Dec VSrc := do
  if f.len == 0#2 then .ok (.reg (decV f.b))
  else
    isLen f 1#2
    zeroOf (f.b == 0#6)
    .ok (.imm f.y32)

/-- A vector instruction in the immediate form (R345). -/
def decVM (f : Fields) : Dec ETy := do
  isLen f 0#2
  need (!f.i && !f.z) .reservedSub
  decTy f.lo4

def decVec (f : Fields) : Dec Instr :=
  match f.major.toNat with
  | 0x60 => do
    let t ← decVM f
    zeroOf (f.b == 0#6)
    .ok (.vld t (decV f.d) (← decSc f.a) f.x (decLm f.k))
  | 0x61 => do
    let t ← decVM f
    zeroOf (f.d == 0#6)
    .ok (.vst t (← decSc f.a) f.x (decV f.b) (decLm f.k))
  | 0x62 => do let t ← decVM f; .ok (.vgath t (decV f.d) (← decSc f.a) f.x (decV f.b) (decLm f.k))
  | 0x63 => do let t ← decVM f; .ok (.vscat t (← decSc f.a) f.x (decV f.d) (decV f.b) (decLm f.k))
  | 0x64 => do
    isLen f 0#2
    need (f.sub == 0#6) .reservedSub
    zeroOf (f.k == 0#3)
    .ok (.vspill (← decSc f.a) f.x (decV f.d) f.b)
  | 0x65 => do
    isLen f 0#2
    need (f.sub == 0#6) .reservedSub
    zeroOf (f.k == 0#3)
    .ok (.vfill (decV f.d) (← decSc f.a) f.x f.b)
  | 0x66 => do
    let t ← decVC f false false false false false
    .ok (.vadd t (decV f.d) (decV f.a) (← decVSrc f) (decLm f.k))
  | 0x67 => do
    let t ← decVC f false false false false false
    .ok (.vsub t (decV f.d) (decV f.a) (← decVSrc f) (decLm f.k))
  | 0x68 => do
    let t ← decVC f false false false false false
    .ok (.vmul t (decV f.d) (decV f.a) (← decVSrc f) (decLm f.k))
  | 0x69 => do
    let t ← decVC f false true false true false
    .ok (.vfma f.win t (decV f.d) (decV f.a) (← decVSrc f) (decV f.c) (decLm f.k))
  | 0x6A => do
    let t ← decVC f false false false false true
    .ok (.vmin f.z t (decV f.d) (decV f.a) (← decVSrc f) (decLm f.k))
  | 0x6B => do
    let t ← decVC f false false false false true
    .ok (.vmax f.z t (decV f.d) (decV f.a) (← decVSrc f) (decLm f.k))
  | 0x6C => do
    isLen f 0#2
    let t ← decVC f false false false true false
    .ok (.vsgn (← decSgnOp f.c) t (decV f.d) (decV f.a) (decV f.b) (decLm f.k))
  | 0x6D => do
    let t ← decVC f false false false false false
    .ok (.vdiv t (decV f.d) (decV f.a) (← decVSrc f) (decLm f.k))
  | 0x6E => do
    isLen f 0#2
    let t ← decVC f false false false false false
    zeroOf (f.b == 0#6)
    .ok (.vexp2 t (decV f.d) (decV f.a) (decLm f.k))
  | 0x6F => do
    isLen f 0#2
    let t ← decVC f false false false false false
    zeroOf (f.b == 0#6)
    .ok (.vlog2 t (decV f.d) (decV f.a) (decLm f.k))
  | 0x70 => do
    isLen f 0#2
    let t ← decVC f false false false false false
    zeroOf (f.b == 0#6)
    .ok (.vrcp t (decV f.d) (decV f.a) (decLm f.k))
  | 0x71 => do
    isLen f 0#2
    let t ← decVC f false false false false false
    zeroOf (f.b == 0#6)
    .ok (.vrsq t (decV f.d) (decV f.a) (decLm f.k))
  | 0x72 => do
    isLen f 0#2
    let t ← decVC f false false false false false
    zeroOf (f.b == 0#6)
    .ok (.vtanh t (decV f.d) (decV f.a) (decLm f.k))
  | 0x73 => do
    let t ← decVC f true false false false true
    .ok (.viadd f.z f.sat t (decV f.d) (decV f.a) (← decVSrc f) (decLm f.k))
  | 0x74 => do
    let t ← decVC f true false false false true
    .ok (.visub f.z f.sat t (decV f.d) (decV f.a) (← decVSrc f) (decLm f.k))
  | 0x75 => do
    let t ← decVC f false false false false false
    .ok (.vimul t (decV f.d) (decV f.a) (← decVSrc f) (decLm f.k))
  | 0x76 => do
    let t ← decVC f false false false false false
    .ok (.vand t (decV f.d) (decV f.a) (← decVSrc f) (decLm f.k))
  | 0x77 => do
    let t ← decVC f false false false false false
    .ok (.vor t (decV f.d) (decV f.a) (← decVSrc f) (decLm f.k))
  | 0x78 => do
    let t ← decVC f false false false false false
    .ok (.vxor t (decV f.d) (decV f.a) (← decVSrc f) (decLm f.k))
  | 0x79 => do
    let t ← decVC f false false false false false
    .ok (.vshl t (decV f.d) (decV f.a) (← decVSrc f) (decLm f.k))
  | 0x7A => do
    let t ← decVC f false false false false false
    .ok (.vshr t (decV f.d) (decV f.a) (← decVSrc f) (decLm f.k))
  | 0x7B => do
    let t ← decVC f false false false false false
    .ok (.vsar t (decV f.d) (decV f.a) (← decVSrc f) (decLm f.k))
  | 0x7C => do
    isLen f 0#2
    let t ← decVC f true false true true true
    zeroOf (f.b == 0#6)
    .ok (.vcvt t (← decTy f.t2) f.z f.sat (decV f.d) (decV f.a) f.c (decLm f.k))
  | 0x7D => do
    let t ← decVC f false false false true true
    .ok (.vsetc (← decCond f.c.toNat) f.z t (← decK f.d) (decV f.a) (← decVSrc f) (decLm f.k))
  | 0x7E => do
    isLen f 0#2
    let t ← decVC f false false false true false
    .ok (.vsel t (decV f.d) (decV f.a) (decV f.b) (← decK f.c) (decLm f.k))
  | 0x7F => do
    isLen f 0#2
    let t ← decVC f false true false true true
    zeroOf (f.b == 0#6)
    .ok (.vred (← decRedOp f.c) f.z f.win t (← decSc f.d) (decV f.a) (decLm f.k))
  | 0x80 => do
    isLen f 0#2
    let t ← decVC f false true false true true
    zeroOf (f.b == 0#6)
    .ok (.vscan (← decRedOp f.c) f.z f.win t (decV f.d) (decV f.a) (decLm f.k))
  | 0x81 => do
    isLen f 0#2
    let t ← decVC f false false false false false
    .ok (.vperm t (decV f.d) (decV f.a) (decV f.b) (decLm f.k))
  | 0x82 => do
    isLen f 0#2
    let t ← decVC f false false false false false
    zeroOf (f.b == 0#6)
    .ok (.vbcast t (decV f.d) (← decSc f.a) (decLm f.k))
  | 0x83 => do
    isLen f 0#2
    let t ← decVC f false false false true false
    .ok (.vslide t (decV f.d) (decV f.a) (decV f.b) (← decSc f.c) (decLm f.k))
  | 0x84 => do
    isLen f 0#2
    let t ← decVC f false false false false true
    zeroOf (f.k == 0#3)
    .ok (.vext f.z t (← decSc f.d) (decV f.a) (← decSc f.b))
  | 0x85 => do
    isLen f 0#2
    let t ← decVC f false false false false false
    zeroOf (f.k == 0#3)
    .ok (.vins t (decV f.d) (← decSc f.a) (← decSc f.b))
  | 0x86 => do
    isLen f 0#2
    let t ← decVC f false false false true false
    .ok (.vtopk t (decV f.d) (decV f.a) f.b (← decSc f.c) (decLm f.k))
  | 0x87 => do
    isLen f 0#2
    let t ← decVC f false false false false false
    zeroOf (f.b == 0#6)
    .ok (.vidx t (decV f.d) (← decSc f.a) (decLm f.k))
  | 0x88 => do
    isLen f 0#2
    let t ← decVC f false false false true false
    need (t == .i32) .limits
    .ok (.vrand (decV f.d) (← decSc f.a) (← decSc f.b) (← decSc f.c) (decLm f.k))
  | _ => .error (.illegal .reservedMajor)

def decMask (f : Fields) : Dec Instr := do
  isLen f 0#2
  need (f.sub == 0#6) .reservedSub
  need (f.k == 0#3) .scopeCode
  zeroOf (f.x == 0#27)
  match f.major.toNat with
  | 0xA0 => .ok (.kand (← decK f.d) (← decK f.a) (← decK f.b))
  | 0xA1 => .ok (.kor (← decK f.d) (← decK f.a) (← decK f.b))
  | 0xA2 => .ok (.kxor (← decK f.d) (← decK f.a) (← decK f.b))
  | 0xA3 => zeroOf (f.b == 0#6); .ok (.knot (← decK f.d) (← decK f.a))
  | 0xA4 => zeroOf (f.b == 0#6); .ok (.kpopc (← decSc f.d) (← decK f.a))
  | 0xA5 => zeroOf (f.b == 0#6); .ok (.kfirst (← decSc f.d) (← decK f.a))
  | 0xA6 => zeroOf (f.b == 0#6); .ok (.kmov (← decK f.d) (← decK f.a))
  | _ => .error (.illegal .reservedMajor)

def decMatrix (f : Fields) : Dec Instr :=
  match f.major.toNat with
  | 0xB0 => do
    isLen f 1#2
    need (!f.i && !f.z) .reservedSub
    zeroOf (f.xRest == 0#14 && f.c == 0#6 && !f.sat && !f.win && f.y32.extractLsb' 9 7 == 0#7)
    .ok (.mma (← decTy f.lo4) (← decTy f.t2) f.seam (← decA f.d) (← decSc f.a) (← decSc f.b)
      (f.y32.extractLsb' 0 9) (f.y32.extractLsb' 16 16) (decLm f.k))
  | 0xB1 => do
    isLen f 0#2
    decBare f
    zeroOf (f.x == 0#27)
    .ok .mxbeg
  | 0xB2 => do
    isLen f 0#2
    decBare f
    zeroOf (f.x == 0#27)
    .ok .mxend
  | 0xB3 => do
    isLen f 0#2
    need (f.sub == 0#6) .reservedSub
    zeroOf (f.a == 0#6 && f.b == 0#6 && f.x == 0#27)
    .ok (.mxzero (← decA f.d) (decLm f.k))
  | 0xB4 => do
    isLen f 0#2
    need (f.sub == 1#6) .reservedSub
    zeroOf (f.b == 0#6 && f.x == 0#27)
    .ok (.mxld (← decA f.d) (← decSc f.a) (decLm f.k))
  | 0xB5 => do
    isLen f 0#2
    need (!f.i && !f.z) .reservedSub
    zeroOf (f.d == 0#6 && f.xRest == 0#14 && f.c == 0#6 && f.t2 == 0#4 && !f.win && !f.seam)
    .ok (.mxst (← decTy f.lo4) f.sat (← decSc f.a) (← decA f.b) (decLm f.k))
  | 0xB6 => do
    isLen f 0#2
    need (f.sub == 0#6) .reservedSub
    zeroOf (f.k == 0#3 && f.b == 0#6 && f.x == 0#27)
    .ok (.mxflg (← decK f.d) (← decA f.a))
  | 0xB7 => do
    isLen f 0#2
    decBare f
    need (f.x.extractLsb' 4 23 == 0#23) .limits
    .ok (.mxwait (f.x.extractLsb' 0 4))
  | _ => .error (.illegal .reservedMajor)

/-- 64 bits, A alone (R190, R286, R306, R313). -/
def decA64 (f : Fields) : Dec Sc := do
  isLen f 0#2
  need (f.sub == 0#6) .reservedSub
  need (f.k == 0#3) .scopeCode
  zeroOf (f.d == 0#6 && f.b == 0#6 && f.x == 0#27)
  decSc f.a

/-- 64 bits, a mask in A (R286). -/
def decKA64 (f : Fields) : Dec KReg := do
  isLen f 0#2
  need (f.sub == 0#6) .reservedSub
  need (f.k == 0#3) .scopeCode
  zeroOf (f.d == 0#6 && f.b == 0#6 && f.x == 0#27)
  decK f.a

/-- 64 bits, A and B (R37, R330). -/
def decAB64 (f : Fields) : Dec (Sc × Sc) := do
  isLen f 0#2
  need (f.sub == 0#6) .reservedSub
  need (f.k == 0#3) .scopeCode
  zeroOf (f.d == 0#6 && f.x == 0#27)
  .ok (← decSc f.a, ← decSc f.b)

/-- The barrier id of `BAR`, `BJOIN` and `BLEAVE`, and the scope (R272). -/
def decBar (f : Fields) : Dec (Scope × BitVec 4) := do
  isLen f 0#2
  need (f.sub == 0#6) .reservedSub
  zeroOf (f.d == 0#6 && f.x == 0#27)
  need (f.a.extractLsb' 4 2 == 0#2) .limits
  .ok (← decScopeReq f.k, f.a.extractLsb' 0 4)

def decThread (f : Fields) : Dec Instr :=
  match f.major.toNat with
  | 0xC0 => do let (a, b) ← decAB64 f; .ok (.spawn a b)
  | 0xC1 => do
    isLen f 1#2
    need (!f.i && f.lo4 == 0#4) .reservedSub
    need (f.k == 0#3) .scopeCode
    zeroOf (f.xRest == 0#14 && f.t2 == 0#4 && !f.sat && !f.win && !f.seam)
    .ok (.task f.z (← decSc f.d) (← decSc f.a) f.y32 (← decK f.b) (← decK f.c))
  | 0xC2 => do let a ← decKA64 f; .ok (.evset a)
  | 0xC3 => do let a ← decKA64 f; .ok (.evclr a)
  | 0xC4 => do let a ← decKA64 f; .ok (.evwait a)
  | 0xC5 => do let a ← decA64 f; .ok (.migr a)
  | 0xC6 => do
    isLen f 0#2
    need (f.lo4 == 0#4) .reservedSub
    need (f.k == 0#3) .scopeCode
    zeroOf (f.a == 0#6)
    let d ← decSc f.d
    if f.i then
      zeroOf (f.b == 0#6)
      .ok (.grow f.z d f.x)
    else
      zeroOf (f.x == 0#27)
      .ok (.growReg f.z d (← decSc f.b))
  | 0xC7 => do
    isLen f 0#2
    need (f.lo4 == 0#4 && !f.z) .reservedSub
    need (f.k == 0#3) .scopeCode
    zeroOf (f.a == 0#6)
    let d ← decSc f.d
    if f.i then
      zeroOf (f.b == 0#6)
      .ok (.shrink d f.x)
    else
      zeroOf (f.x == 0#27)
      .ok (.shrinkReg d (← decSc f.b))
  | 0xC8 => do
    let (s, n) ← decBar f
    zeroOf (f.b == 0#6)
    .ok (.bar s n)
  | 0xC9 => do
    let (s, n) ← decBar f
    .ok (.bjoin s n (← decSc f.b))
  | 0xCA => do
    let (s, n) ← decBar f
    zeroOf (f.b == 0#6)
    .ok (.bleave s n)
  | 0xCB => do let (a, b) ← decAB64 f; .ok (.slotw a b)
  | 0xCC => do
    isLen f 0#2
    need (!f.i && f.lo4 == 0#4) .reservedSub
    need (f.k == 0#3) .scopeCode
    let d ← decSc f.d
    if d == .zr then
      zeroOf (f.xRest == 0#14 && f.t2 == 0#4 && !f.sat && !f.win && !f.seam)
      .ok (.rfillSend f.z (← decSc f.a) (← decSc f.b) (← decSc f.c))
    else
      zeroOf (f.a == 0#6 && f.b == 0#6 && f.x == 0#27 && !f.z)
      .ok (.rfillArm d)
  | 0xCD => do
    isLen f 0#2
    need (f.sub == 0#6) .reservedSub
    need (f.k == 0#3) .scopeCode
    zeroOf (f.b == 0#6)
    .ok (.sbind (decV f.d) (← decSc f.a) f.x)
  | 0xCE => do
    isLen f 0#2
    need (f.sub == 0#6) .reservedSub
    need (f.k == 0#3) .scopeCode
    zeroOf (f.a == 0#6 && f.b == 0#6 && f.x == 0#27)
    .ok (.sfree (decV f.d))
  | _ => .error (.illegal .reservedMajor)

/-- The seam tag of Y32, whose other bits are zero (R139). -/
def decTag16 (f : Fields) : Dec (BitVec 16) := do
  zeroOf (f.y32.extractLsb' 16 16 == 0#16)
  .ok (f.y32.extractLsb' 0 16)

/-- The C form of the engine class: C alone (R89). -/
def decEngC (f : Fields) : Dec Sc := do
  zeroOf (f.xRest == 0#14 && f.t2 == 0#4 && !f.sat && !f.win && !f.seam)
  decSc f.c

/-- The operation code in SUB[5:2] (R91). -/
def Fields.op (f : Fields) : BitVec 4 := f.sub.extractLsb' 2 4
def Fields.acq (f : Fields) : Bool := f.sub.getLsbD 0
def Fields.rel (f : Fields) : Bool := f.sub.getLsbD 1

/-- SUB[1:0] and K zero, 64 bits, X27 zero (R250, R306). -/
def decEng64 (f : Fields) : Dec Unit := do
  isLen f 0#2
  need (!f.acq && !f.rel) .reservedSub
  need (f.k == 0#3) .scopeCode
  zeroOf (f.x == 0#27)

def decCpy (f : Fields) : Dec Instr := do
  isLen f 1#2
  let sc ← decScope f.k
  let c ← decEngC f
  let a ← decSc f.a
  let t ← decTy (f.y32.extractLsb' 16 4)
  zeroOf (f.y32.extractLsb' 20 12 == 0#12)
  let tag := f.y32.extractLsb' 0 16
  match f.op.toNat with
  | 0 => do
    zeroOf (t == .f64)
    .ok (.cpy .copy none f.acq f.rel sc (← decSc f.d) a (← decSc f.b) c tag)
  | 1 => .ok (.cpy .add (some t) f.acq f.rel sc (← decSc f.d) a (← decSc f.b) c tag)
  | 2 => .ok (.cpy .max (some t) f.acq f.rel sc (← decSc f.d) a (← decSc f.b) c tag)
  | 3 => .ok (.cpy .min (some t) f.acq f.rel sc (← decSc f.d) a (← decSc f.b) c tag)
  | 4 => do
    zeroOf (f.b == 0#6 && f.y32 == 0#32 && !f.rel)
    .ok (.cpyRfg f.acq sc (← decSc f.d) a c)
  | 5 => do
    zeroOf (f.b == 0#6 && f.y32 == 0#32 && !f.rel)
    .ok (.cpyRfv f.acq sc (decV f.d) a c)
  | _ => .error (.illegal .reservedSub)

/-- 64 bits of the expiry class (R190). -/
def decEx (f : Fields) : Dec Unit := do
  isLen f 0#2
  need (f.sub == 0#6) .reservedSub
  need (f.k == 0#3) .scopeCode
  zeroOf (f.x == 0#27)

def decEng (f : Fields) : Dec Instr :=
  match f.major.toNat with
  | 0xD0 => do
    decEx f
    zeroOf (f.b == 0#6)
    .ok (.exnew (← decSc f.d) (← decSc f.a))
  | 0xD1 => do decEx f; .ok (.exjoin (← decSc f.d) (← decSc f.a) (← decSc f.b))
  | 0xD2 => do let a ← decA64 f; .ok (.exset a)
  | 0xD3 => do
    decEx f
    zeroOf (f.b == 0#6)
    .ok (.exchk (← decSc f.d) (← decSc f.a))
  | 0xD4 => do let a ← decA64 f; .ok (.exfree a)
  | 0xD8 => decCpy f
  | 0xD9 => do
    isLen f 1#2
    need (f.op == 0#4) .reservedSub
    zeroOf (f.b == 0#6)
    .ok (.cpgb f.acq f.rel (← decScope f.k) (← decSc f.d) (← decSc f.a) (← decEngC f) (← decTag16 f))
  | 0xDA => do
    isLen f 1#2
    need (f.op == 0#4) .reservedSub
    zeroOf (f.d == 0#6 && f.y32 == 0#32)
    .ok (.kvapp f.acq f.rel (← decScope f.k) (← decSc f.a) (← decSc f.b) (← decEngC f))
  | 0xDB => do
    decEng64 f
    need (f.op == 0#4) .reservedSub
    zeroOf (f.b == 0#6)
    .ok (.cpwait (← decSc f.d) (← decSc f.a))
  | 0xDC => do
    isLen f 1#2
    zeroOf (f.d == 0#6 && f.a == 0#6 && f.b == 0#6 && f.y32.extractLsb' 17 15 == 0#15)
    .ok (.coll (← decCollKind f.op) f.acq f.rel (← decScope f.k) (f.y32.extractLsb' 0 10)
      (f.y32.extractLsb' 10 7) (← decEngC f))
  | 0xDD => do
    isLen f 2#2
    need (!f.acq && !f.rel) .reservedSub
    need (f.k == 0#3) .scopeCode
    zeroOf (f.d == 0#6 && f.b == 0#6 && f.xRest == 0#14 && f.c == 0#6 && !f.sat && !f.win && !f.seam &&
      f.y.extractLsb' 10 54 == 0#54)
    .ok (.cbuf (← decCbufOp f.op) (← decTy f.t2) (f.y.extractLsb' 0 10) (← decSc f.a))
  | 0xDE => do
    decEng64 f
    need (f.op == 0#4) .reservedSub
    zeroOf (f.d == 0#6 && f.b == 0#6)
    .ok (.gmload (← decSc f.a))
  | 0xDF => do
    decEng64 f
    if f.op == 0#4 then .ok (.gmstep (← decSc f.d) (← decSc f.a) (← decSc f.b))
    else
      need (f.op == 1#4) .reservedSub
      zeroOf (f.b == 0#6)
      .ok (.gmstepRst (← decSc f.d) (← decSc f.a))
  | 0xE0 => do
    decEng64 f
    if f.op == 0#4 then .ok (.gmmask (decV f.d) (← decSc f.a) (← decSc f.b))
    else
      need (f.op == 1#4) .reservedSub
      .ok (.gmmaskK (← decK f.d) (← decSc f.a) (← decSc f.b))
  | 0xE1 => do let a ← decA64 f; .ok (.launch a)
  | _ => .error (.illegal .reservedMajor)

/-- The `SWR` row of a system register's number (R73). -/
def swrOf (sys : BitVec 12) (a : Sc) : Instr :=
  if sys == 0x000#12 then .swrEx a else if sys == 0x020#12 then .swrCsplit a
  else if sys == 0x021#12 then .swrOvh a else if sys == 0x022#12 then .swrWdog a
  else if sys == 0x023#12 then .swrHvec a else if sys == 0x024#12 then .swrMq a else .swr sys a

def decSys (f : Fields) : Dec Instr :=
  match f.major.toNat with
  | 0xF0 => do
    isLen f 0#2
    decBare f
    need (f.x.extractLsb' 8 19 == 0#19) .limits
    .ok (.trap (f.x.extractLsb' 0 8))
  | 0xF1 => do
    isLen f 0#2
    need (f.k == 0#3) .scopeCode
    zeroOf (f.d == 0#6 && f.a == 0#6 && f.b == 0#6 && f.x == 0#27)
    if f.sub == 0#6 then .ok .tret
    else
      need (f.sub == 1#6) .reservedSub
      .ok .tretSkip
  | 0xF2 => do
    isLen f 0#2
    decBare f
    zeroOf (f.x == 0#27)
    .ok .track
  | 0xF3 => do
    isLen f 0#2
    need (f.sub == 0#6) .reservedSub
    need (f.k == 0#3) .scopeCode
    zeroOf (f.a == 0#6 && f.b == 0#6)
    need (f.x.extractLsb' 12 15 == 0#15) .limits
    .ok (.srd (← decSc f.d) (f.x.extractLsb' 0 12))
  | 0xF4 => do
    isLen f 0#2
    need (f.sub == 0#6) .reservedSub
    need (f.k == 0#3) .scopeCode
    zeroOf (f.d == 0#6 && f.b == 0#6)
    need (f.x.extractLsb' 12 15 == 0#15) .limits
    .ok (swrOf (f.x.extractLsb' 0 12) (← decSc f.a))
  | 0xF5 => do
    isLen f 0#2
    need (f.sub == 0#6) .reservedSub
    need (f.k == 0#3) .scopeCode
    zeroOf (f.a == 0#6 && f.b == 0#6 && f.x == 0#27)
    .ok (.rdtime (← decSc f.d))
  | 0xF6 => do
    isLen f 0#2
    decBare f
    need (f.x.extractLsb' 8 19 == 0#19) .limits
    .ok (.brk (f.x.extractLsb' 0 8))
  | _ => .error (.illegal .reservedMajor)

/-- The class of a major (R92). -/
def decClass (f : Fields) : Dec Instr :=
  let m := f.major.toNat
  if m < 0x20 then decInt f
  else if m < 0x30 then decFp f
  else if m < 0x40 then decCtl f
  else if m < 0x60 then decMem f
  else if m < 0x90 then decVec f
  else if m < 0xB0 then decMask f
  else if m < 0xC0 then decMatrix f
  else if m < 0xD0 then decThread f
  else if m < 0xF0 then decEng f
  else decSys f

/-- The instruction of the fields, or the fault of R82 and R93. -/
def decodeF (f : Fields) : Dec Instr :=
  if f.len == 3#2 then .error .illegalLength
  else do
    let i ← decClass f
    need i.wf .limits
    .ok i

/-- The decoder: total on any 128 bits. -/
def decode (w : IWord) : Dec Instr := decodeF (Fields.unpack w)

/-! ## Encoding -/

/-- `gD, gA, b` of the scalar integer class (R84, R267). -/
def encAlu (major : BitVec 8) (z : Bool) (lo : BitVec 4) (d a : Sc) : Src2 → Fields
  | .reg r => f64w major (encSc d) (encSc a) (encSc r) (mkSub false z lo) 0#3 0#27
  | .imm (.i27 v) => f64w major (encSc d) (encSc a) 0#6 (mkSub true z lo) 0#3 v
  | .imm (.i32 v) => f96w major (encSc d) (encSc a) 0#6 (mkSub true z lo) 0#3 0#27 v
  | .imm (.i64 v) => f128w major (encSc d) (encSc a) 0#6 (mkSub true z lo) 0#3 0#27 v

def encDA (major : BitVec 8) (d a : Sc) : Fields := f64w major (encSc d) (encSc a) 0#6 0#6 0#3 0#27

/-- The scalar floating-point class. -/
def encFp (major : BitVec 8) (t : ETy) (d a : Sc) (b c : BitVec 6) : Fields :=
  f64w major (encSc d) (encSc a) b (mkSub false false (encTy t)) 0#3 (cForm c 0#4 false false false)

/-- The vector class in the C form. -/
def encV3 (major : BitVec 8) (z : Bool) (t : ETy) (d a b : BitVec 6) (k : KReg) (x : BitVec 27) : Fields :=
  f64w major d a b (mkSub false z (encTy t)) (encLm k) x

/-- The vector class with a second source that may be an immediate (R337). -/
def encVS (major : BitVec 8) (z : Bool) (t : ETy) (d a : BitVec 6) (b : VSrc) (k : KReg) (x : BitVec 27) : Fields :=
  match b with
  | .reg r => f64w major d a (encV r) (mkSub false z (encTy t)) (encLm k) x
  | .imm v => f96w major d a 0#6 (mkSub false z (encTy t)) (encLm k) x v

def engSub (op : BitVec 4) (rl aq : Bool) : BitVec 6 := op ++ BitVec.ofBool rl ++ BitVec.ofBool aq
def cOnly (c : Sc) : BitVec 27 := cForm (encSc c) 0#4 false false false

def encCpyOp : CpyOp → BitVec 4
  | .copy => 0#4 | .add => 1#4 | .max => 2#4 | .min => 3#4

/-- SUB of the loads and stores (R90): bits [5:2] and the width. -/
def memSub (hi : BitVec 4) (w : Width) : BitVec 6 := hi ++ encWidth w

/-- The fields of an instruction; an event has none. -/
def encodeF : Instr → Option Fields
  | .add d a b => some (encAlu 0x01 false 0 d a b)
  | .sub d a b => some (encAlu 0x02 false 0 d a b)
  | .mul d a b => some (encAlu 0x03 false 0 d a b)
  | .mulh z d a b => some (encAlu 0x04 z 0 d a b)
  | .div z d a b => some (encAlu 0x05 z 0 d a b)
  | .rem z d a b => some (encAlu 0x06 z 0 d a b)
  | .and d a b => some (encAlu 0x07 false 0 d a b)
  | .or d a b => some (encAlu 0x08 false 0 d a b)
  | .xor d a b => some (encAlu 0x09 false 0 d a b)
  | .andn d a b => some (encAlu 0x0A false 0 d a b)
  | .shl d a b => some (encAlu 0x0B false 0 d a b)
  | .shr d a b => some (encAlu 0x0C false 0 d a b)
  | .sar d a b => some (encAlu 0x0D false 0 d a b)
  | .min z d a b => some (encAlu 0x0E z 0 d a b)
  | .max z d a b => some (encAlu 0x0F z 0 d a b)
  | .setc cc z d a b => some (encAlu 0x10 z (encCond cc) d a b)
  | .clz d a => some (encDA 0x11 d a)
  | .ctz d a => some (encDA 0x12 d a)
  | .popc d a => some (encDA 0x13 d a)
  | .bfx z d a b => some (f64w 0x14 (encSc d) (encSc a) (encSc b) (mkSub false z 0) 0 0)
  | .bfxImm z d a pos width =>
    some (f64w 0x14 (encSc d) (encSc a) 0 (mkSub true z 0) 0 (0#14 ++ width ++ pos))
  | .bfi d a b c => some (f64w 0x15 (encSc d) (encSc a) (encSc b) 0 0 (cOnly c))
  | .sel d a b c => match b with
    | .reg r => some (f64w 0x16 (encSc d) (encSc a) (encSc r) 0 0 (cOnly c))
    | .imm (.i27 _) => none
    | .imm (.i32 v) => some (f96w 0x16 (encSc d) (encSc a) 0 (mkSub true false 0) 0 (cOnly c) v)
    | .imm (.i64 v) => some (f128w 0x16 (encSc d) (encSc a) 0 (mkSub true false 0) 0 (cOnly c) v)
  | .li d v => some (f64w 0x17 (encSc d) 0 0 (mkSub true false 0) 0 v)
  | .li96 d v => some (f96w 0x17 (encSc d) 0 0 (mkSub true false 0) 0 0 v)
  | .li128 d v => some (f128w 0x17 (encSc d) 0 0 (mkSub true false 0) 0 0 v)
  | .lea d b => match b with
    | .reg r => some (f64w 0x18 (encSc d) (encSc r) 0 0 0 0)
    | .imm (.i27 v) => some (f64w 0x18 (encSc d) 0 0 (mkSub true false 0) 0 v)
    | .imm (.i32 v) => some (f96w 0x18 (encSc d) 0 0 (mkSub true false 0) 0 0 v)
    | .imm (.i64 v) => some (f128w 0x18 (encSc d) 0 0 (mkSub true false 0) 0 0 v)
  | .mov d a => some (encDA 0x19 d a)
  | .fadd t d a b => some (encFp 0x20 t d a (encSc b) 0)
  | .fsub t d a b => some (encFp 0x21 t d a (encSc b) 0)
  | .fmul t d a b => some (encFp 0x22 t d a (encSc b) 0)
  | .ffma t d a b c => some (encFp 0x23 t d a (encSc b) (encSc c))
  | .fdiv t d a b => some (encFp 0x24 t d a (encSc b) 0)
  | .fsqrt t d a => some (encFp 0x25 t d a 0 0)
  | .fmin t d a b => some (encFp 0x26 t d a (encSc b) 0)
  | .fmax t d a b => some (encFp 0x27 t d a (encSc b) 0)
  | .fsetc cc t d a b => some (encFp 0x28 t d a (encSc b) (0#2 ++ encCond cc))
  | .fcvt dt sty z sat d a =>
    some (f64w 0x29 (encSc d) (encSc a) 0 (mkSub false z (encTy dt)) 0 (cForm 0 (encTy sty) sat false false))
  | .fclass t d a => some (encFp 0x2A t d a 0 0)
  | .fsgn op t d a b => some (encFp 0x2B t d a (encSc b) (encSgnOp op))
  | .br cc z a b off => some (f64w 0x30 0 (encSc a) (encSc b) (mkSub false z (encCond cc)) 0 off)
  | .j off => some (f64w 0x31 0 0 0 0 0 off)
  | .j96 off => some (f96w 0x31 0 0 0 0 0 0 off)
  | .jl d off => some (f64w 0x32 (encSc d) 0 0 0 0 off)
  | .jl96 d off => some (f96w 0x32 (encSc d) 0 0 0 0 0 off)
  | .jr d a => some (encDA 0x33 d a)
  | .nop => some (f64w 0x34 0 0 0 0 0 0)
  | .nop96 => some (f96w 0x34 0 0 0 0 0 0 0)
  | .nop128 => some (f128w 0x34 0 0 0 0 0 0 0)
  | .halt => some (f64w 0x35 0 0 0 0 0 0)
  | .haltKeep a => some (f64w 0x35 0 (encSc a) 0 1 0 0)
  | .yield => some (f64w 0x36 0 0 0 0 0 0)
  | .ld aq z w sc d a off =>
    some (f64w 0x40 (encSc d) (encSc a) 0 (memSub (0#2 ++ BitVec.ofBool aq ++ BitVec.ofBool z) w) (encScope sc) off)
  | .st rl w sc a off b =>
    some (f64w 0x41 0 (encSc a) (encSc b) (memSub (0#1 ++ BitVec.ofBool rl ++ 0#2) w) (encScope sc) off)
  | .lds m z w sc d a off =>
    some (f64w 0x42 (encSc d) (encSc a) 0 (memSub (0#1 ++ encLdMode m ++ BitVec.ofBool z) w) (encScope sc) off)
  | .sts m w sc a off b =>
    some (f64w 0x43 0 (encSc a) (encSc b) (memSub (0#1 ++ encStMode m ++ 0#1) w) (encScope sc) off)
  | .amo op z w sc d a off b =>
    some (f64w 0x44 (encSc d) (encSc a) (encSc b) (memSub (encAmoOp op ++ BitVec.ofBool z) w) (encScope sc) off)
  | .cas w sc d a off b c =>
    some (f96w 0x45 (encSc d) (encSc a) (encSc b) (memSub 0#4 w) (encScope sc) (cOnly c) off)
  | .fence sc => some (f64w 0x46 0 0 0 0 (encScope (some sc)) 0)
  | .acq sc d a off b => some (f64w 0x47 (encSc d) (encSc a) (encSc b) 0 (encScope sc) off)
  | .rel sc a off b => some (f64w 0x48 0 (encSc a) (encSc b) 0 (encScope sc) off)
  | .bind sc a off b c => some (f96w 0x49 0 (encSc a) (encSc b) 0 (encScope sc) (cOnly c) off)
  | .unbind a off => some (f64w 0x4A 0 (encSc a) 0 0 0 off)
  | .cmo op lvl a off b =>
    some (f64w 0x4B 0 (encSc a) (encSc b) (0#2 ++ encCmoOp op ++ encCmoLvl lvl) 0 off)
  | .fbar => some (f64w 0x4C 0 0 0 0 0 0)
  | .mcast sc n a off b c => some (f96w 0x4D n (encSc a) (encSc b) 0 (encScope sc) (cOnly c) off)
  | .mcast128 sc n a off b c => some (f128w 0x4D n (encSc a) (encSc b) 0 (encScope sc) (cOnly c) off)
  | .vld t d a off k => some (encV3 0x60 false t (encV d) (encSc a) 0 k off)
  | .vst t a off b k => some (encV3 0x61 false t 0 (encSc a) (encV b) k off)
  | .vgath t d a off b k => some (encV3 0x62 false t (encV d) (encSc a) (encV b) k off)
  | .vscat t a off d b k => some (encV3 0x63 false t (encV d) (encSc a) (encV b) k off)
  | .vspill a off r n => some (f64w 0x64 (encV r) (encSc a) n 0 0 off)
  | .vfill r a off n => some (f64w 0x65 (encV r) (encSc a) n 0 0 off)
  | .vadd t d a b k => some (encVS 0x66 false t (encV d) (encV a) b k 0)
  | .vsub t d a b k => some (encVS 0x67 false t (encV d) (encV a) b k 0)
  | .vmul t d a b k => some (encVS 0x68 false t (encV d) (encV a) b k 0)
  | .vfma win t d a b c k => some (encVS 0x69 false t (encV d) (encV a) b k (cForm (encV c) 0 false win false))
  | .vmin z t d a b k => some (encVS 0x6A z t (encV d) (encV a) b k 0)
  | .vmax z t d a b k => some (encVS 0x6B z t (encV d) (encV a) b k 0)
  | .vsgn op t d a b k => some (encV3 0x6C false t (encV d) (encV a) (encV b) k (cForm (encSgnOp op) 0 false false false))
  | .vdiv t d a b k => some (encVS 0x6D false t (encV d) (encV a) b k 0)
  | .vexp2 t d a k => some (encV3 0x6E false t (encV d) (encV a) 0 k 0)
  | .vlog2 t d a k => some (encV3 0x6F false t (encV d) (encV a) 0 k 0)
  | .vrcp t d a k => some (encV3 0x70 false t (encV d) (encV a) 0 k 0)
  | .vrsq t d a k => some (encV3 0x71 false t (encV d) (encV a) 0 k 0)
  | .vtanh t d a k => some (encV3 0x72 false t (encV d) (encV a) 0 k 0)
  | .viadd z sat t d a b k => some (encVS 0x73 z t (encV d) (encV a) b k (cForm 0 0 sat false false))
  | .visub z sat t d a b k => some (encVS 0x74 z t (encV d) (encV a) b k (cForm 0 0 sat false false))
  | .vimul t d a b k => some (encVS 0x75 false t (encV d) (encV a) b k 0)
  | .vand t d a b k => some (encVS 0x76 false t (encV d) (encV a) b k 0)
  | .vor t d a b k => some (encVS 0x77 false t (encV d) (encV a) b k 0)
  | .vxor t d a b k => some (encVS 0x78 false t (encV d) (encV a) b k 0)
  | .vshl t d a b k => some (encVS 0x79 false t (encV d) (encV a) b k 0)
  | .vshr t d a b k => some (encVS 0x7A false t (encV d) (encV a) b k 0)
  | .vsar t d a b k => some (encVS 0x7B false t (encV d) (encV a) b k 0)
  | .vcvt dt sty z sat d a part k =>
    some (encV3 0x7C z dt (encV d) (encV a) 0 k (cForm part (encTy sty) sat false false))
  | .vsetc cc z t d a b k =>
    some (encVS 0x7D z t (encK d) (encV a) b k (cForm (0#2 ++ encCond cc) 0 false false false))
  | .vsel t d a b c k => some (encV3 0x7E false t (encV d) (encV a) (encV b) k (cForm (encK c) 0 false false false))
  | .vred op z win t d a k =>
    some (encV3 0x7F z t (encSc d) (encV a) 0 k (cForm (encRedOp op) 0 false win false))
  | .vscan op z win t d a k =>
    some (encV3 0x80 z t (encV d) (encV a) 0 k (cForm (encRedOp op) 0 false win false))
  | .vperm t d a b k => some (encV3 0x81 false t (encV d) (encV a) (encV b) k 0)
  | .vbcast t d a k => some (encV3 0x82 false t (encV d) (encSc a) 0 k 0)
  | .vslide t d a b c k => some (encV3 0x83 false t (encV d) (encV a) (encV b) k (cOnly c))
  | .vext z t d a b => some (encV3 0x84 z t (encSc d) (encV a) (encSc b) 0 0)
  | .vins t d a b => some (encV3 0x85 false t (encV d) (encSc a) (encSc b) 0 0)
  | .vtopk t d a n c k => some (encV3 0x86 false t (encV d) (encV a) n k (cOnly c))
  | .vidx t d a k => some (encV3 0x87 false t (encV d) (encSc a) 0 k 0)
  | .vrand d a b c k => some (encV3 0x88 false .i32 (encV d) (encSc a) (encSc b) k (cOnly c))
  | .kand d a b => some (f64w 0xA0 (encK d) (encK a) (encK b) 0 0 0)
  | .kor d a b => some (f64w 0xA1 (encK d) (encK a) (encK b) 0 0 0)
  | .kxor d a b => some (f64w 0xA2 (encK d) (encK a) (encK b) 0 0 0)
  | .knot d a => some (f64w 0xA3 (encK d) (encK a) 0 0 0 0)
  | .kpopc d a => some (f64w 0xA4 (encSc d) (encK a) 0 0 0 0)
  | .kfirst d a => some (f64w 0xA5 (encSc d) (encK a) 0 0 0 0)
  | .kmov d a => some (f64w 0xA6 (encK d) (encK a) 0 0 0 0)
  | .mma fa fb seam n a b depth tag k =>
    some (f96w 0xB0 (encA n) (encSc a) (encSc b) (mkSub false false (encTy fa)) (encLm k)
      (cForm 0 (encTy fb) false false seam) (tag ++ 0#7 ++ depth))
  | .mxbeg => some (f64w 0xB1 0 0 0 0 0 0)
  | .mxend => some (f64w 0xB2 0 0 0 0 0 0)
  | .mxzero n k => some (f64w 0xB3 (encA n) 0 0 0 (encLm k) 0)
  | .mxld n a k => some (f64w 0xB4 (encA n) (encSc a) 0 1 (encLm k) 0)
  | .mxst t sat a n k =>
    some (f64w 0xB5 0 (encSc a) (encA n) (mkSub false false (encTy t)) (encLm k) (cForm 0 0 sat false false))
  | .mxflg d n => some (f64w 0xB6 (encK d) (encA n) 0 0 0 0)
  | .mxwait n => some (f64w 0xB7 0 0 0 0 0 (0#23 ++ n))
  | .spawn a b => some (f64w 0xC0 0 (encSc a) (encSc b) 0 0 0)
  | .task wait d a off kw ks =>
    some (f96w 0xC1 (encSc d) (encSc a) (encK kw) (mkSub false wait 0) 0 (cForm (encK ks) 0 false false false) off)
  | .evset a => some (f64w 0xC2 0 (encK a) 0 0 0 0)
  | .evclr a => some (f64w 0xC3 0 (encK a) 0 0 0 0)
  | .evwait a => some (f64w 0xC4 0 (encK a) 0 0 0 0)
  | .migr a => some (f64w 0xC5 0 (encSc a) 0 0 0 0)
  | .grow wait d n => some (f64w 0xC6 (encSc d) 0 0 (mkSub true wait 0) 0 n)
  | .growReg wait d b => some (f64w 0xC6 (encSc d) 0 (encSc b) (mkSub false wait 0) 0 0)
  | .shrink d n => some (f64w 0xC7 (encSc d) 0 0 (mkSub true false 0) 0 n)
  | .shrinkReg d b => some (f64w 0xC7 (encSc d) 0 (encSc b) 0 0 0)
  | .bar sc id => some (f64w 0xC8 0 (0#2 ++ id) 0 0 (encScope (some sc)) 0)
  | .bjoin sc id b => some (f64w 0xC9 0 (0#2 ++ id) (encSc b) 0 (encScope (some sc)) 0)
  | .bleave sc id => some (f64w 0xCA 0 (0#2 ++ id) 0 0 (encScope (some sc)) 0)
  | .slotw a b => some (f64w 0xCB 0 (encSc a) (encSc b) 0 0 0)
  | .rfillArm d => some (f64w 0xCC (encSc d) 0 0 0 0 0)
  | .rfillSend wait a b c => some (f64w 0xCC 63 (encSc a) (encSc b) (mkSub false wait 0) 0 (cOnly c))
  | .sbind d a off => some (f64w 0xCD (encV d) (encSc a) 0 0 0 off)
  | .sfree d => some (f64w 0xCE (encV d) 0 0 0 0 0)
  | .exnew d a => some (encDA 0xD0 d a)
  | .exjoin d a b => some (f64w 0xD1 (encSc d) (encSc a) (encSc b) 0 0 0)
  | .exset a => some (f64w 0xD2 0 (encSc a) 0 0 0 0)
  | .exchk d a => some (encDA 0xD3 d a)
  | .exfree a => some (f64w 0xD4 0 (encSc a) 0 0 0 0)
  | .cpy op t aq rl sc d a b c tag =>
    some (f96w 0xD8 (encSc d) (encSc a) (encSc b) (engSub (encCpyOp op) rl aq) (encScope sc) (cOnly c)
      (0#12 ++ (match t with | none => 0#4 | some t => encTy t) ++ tag))
  | .cpyRfg aq sc d a c =>
    some (f96w 0xD8 (encSc d) (encSc a) 0 (engSub 4 false aq) (encScope sc) (cOnly c) 0)
  | .cpyRfv aq sc d a c =>
    some (f96w 0xD8 (encV d) (encSc a) 0 (engSub 5 false aq) (encScope sc) (cOnly c) 0)
  | .cpgb aq rl sc d a c tag =>
    some (f96w 0xD9 (encSc d) (encSc a) 0 (engSub 0 rl aq) (encScope sc) (cOnly c) (0#16 ++ tag))
  | .kvapp aq rl sc a b c =>
    some (f96w 0xDA 0 (encSc a) (encSc b) (engSub 0 rl aq) (encScope sc) (cOnly c) 0)
  | .cpwait d a => some (encDA 0xDB d a)
  | .coll kind aq rl sc id root c =>
    some (f96w 0xDC 0 0 0 (engSub (encCollKind kind) rl aq) (encScope sc) (cOnly c) (0#15 ++ root ++ id))
  | .cbuf op t id a =>
    some (f128w 0xDD 0 (encSc a) 0 (engSub (encCbufOp op) false false) 0 (cForm 0 (encTy t) false false false)
      (0#54 ++ id))
  | .gmload a => some (f64w 0xDE 0 (encSc a) 0 0 0 0)
  | .gmstep d a b => some (f64w 0xDF (encSc d) (encSc a) (encSc b) 0 0 0)
  | .gmstepRst d a => some (f64w 0xDF (encSc d) (encSc a) 0 (engSub 1 false false) 0 0)
  | .gmmask d a b => some (f64w 0xE0 (encV d) (encSc a) (encSc b) 0 0 0)
  | .gmmaskK d a b => some (f64w 0xE0 (encK d) (encSc a) (encSc b) (engSub 1 false false) 0 0)
  | .launch a => some (f64w 0xE1 0 (encSc a) 0 0 0 0)
  | .trap n => some (f64w 0xF0 0 0 0 0 0 (0#19 ++ n))
  | .brk n => some (f64w 0xF6 0 0 0 0 0 (0#19 ++ n))
  | .tret => some (f64w 0xF1 0 0 0 0 0 0)
  | .tretSkip => some (f64w 0xF1 0 0 0 1 0 0)
  | .track => some (f64w 0xF2 0 0 0 0 0 0)
  | .srd d sys => some (f64w 0xF3 (encSc d) 0 0 0 0 (0#15 ++ sys))
  | .swr sys a => some (f64w 0xF4 0 (encSc a) 0 0 0 (0#15 ++ sys))
  | .swrEx a => some (f64w 0xF4 0 (encSc a) 0 0 0 (0#15 ++ 0x000#12))
  | .swrCsplit a => some (f64w 0xF4 0 (encSc a) 0 0 0 (0#15 ++ 0x020#12))
  | .swrOvh a => some (f64w 0xF4 0 (encSc a) 0 0 0 (0#15 ++ 0x021#12))
  | .swrHvec a => some (f64w 0xF4 0 (encSc a) 0 0 0 (0#15 ++ 0x023#12))
  | .swrMq a => some (f64w 0xF4 0 (encSc a) 0 0 0 (0#15 ++ 0x024#12))
  | .swrWdog a => some (f64w 0xF4 0 (encSc a) 0 0 0 (0#15 ++ 0x022#12))
  | .rdtime d => some (f64w 0xF5 (encSc d) 0 0 0 0 0)
  | _ => none

/-- The encoder: the word of a well-formed instruction; an event has no word. -/
def encode (i : Instr) : Option IWord := if i.wf then (encodeF i).map Fields.pack else none

/-- The length of an instruction in bytes (R81); 0 for an event, which is not fetched. -/
def instrLen (i : Instr) : Nat :=
  match encodeF i with
  | some f => lenBytes f.len
  | none => 0

/-- The instruction read from a row's word (log 16): the bits above `nbits` are zero. -/
def decodeTableWord (nbits w : Nat) : Option Instr :=
  match decode (BitVec.ofNat 128 (w % 2 ^ nbits)) with
  | .ok i => some i
  | .error _ => none

end Sys2Proof
end

