-- ==== Sys2Proof/Config.lean ====
section
/-! DEFINITION. What an implementation fixes and the spec does not define: free values (no body) and the
machine's fixed sizes and times, counted in core clock cycles of 1.75 GHz (R1). -/
namespace Sys2Proof.Config

/-- SHA-384 (R261, R262). FREE VALUE: the spec names the function and does not define it (log 12). -/
opaque sha384 : List Byte → BitVec 384
/-- The Ed25519 check under the Nolian key (R261). FREE VALUE (log 12). -/
opaque verifyEd25519 : List Byte → BitVec 512 → Bool
/-- The ML-DSA-65 check under the Nolian key (R261). FREE VALUE (log 12). -/
opaque verifyMlDsa65 : List Byte → BitVec 26472 → Bool
/-- The fused minimum security version of an image kind (R261). FREE VALUE: each implementation fuses it (log 12). -/
opaque minSvn : Nat → Nat
/-- The package's Ed25519 identity signature (R263). FREE VALUE (log 12). -/
opaque signEd25519 : Nat → List Byte → BitVec 512
/-- The package's ML-DSA-65 identity signature (R263). FREE VALUE (log 12). -/
opaque signMlDsa65 : Nat → List Byte → BitVec 26472

/-- The length that `TRET.skip` takes for a pattern with LEN 0b11, to which R81 gives none. FREE VALUE (log 21). -/
opaque reservedLength : Nat

/-- The OP code of a message by its kind, which R201 does not list. FREE VALUE (log 85). -/
opaque msgOp : Nat → BitVec 8
/-- Where the firmware area of a stack begins, and in stack 0 the mailbox's staging area (R129, R260). -/
def firmwareBase : Nat := 0xB2C000000
/-- Gaps between what the firmware area holds, whose places R263 and R264 do not give. FREE VALUES (log 83). -/
opaque logGap : Nat
opaque lateGap : Nat
opaque overflowGap : Nat
opaque reportGap : Nat
/-- Cores on a die (R7). -/
def coresPerDie : Nat := 1152
/-- Offsets in a die's first stack of the error log's ring, of the cores' late-reply counters and of the overflow count, and in
stack 0 of a host's report: beyond the staging area, and apart (log 83). -/
def logOffset : Nat := firmwareBase + 2 ^ 30 + logGap % 2 ^ 30
def lateOffset : Nat := logOffset + 131072 + lateGap % 2 ^ 30
def overflowOffset : Nat := lateOffset + 4 * coresPerDie + overflowGap % 2 ^ 30
def reportOffset : Nat := overflowOffset + 8 + reportGap % 2 ^ 30

/-- Nanoseconds to cycles: 1.75 GHz is 7 cycles every 4 ns (R1, R14). Rounded up. -/
def nsToCycles (n : Nat) : Nat := (n * 7 + 3) / 4
/-- Pod time in nanoseconds at a cycle (R320): 4 ns every 7 cycles. -/
def cyclesToNs (c : Nat) : Nat := c * 4 / 7

/-- Quads on a die (R7). -/
def quadsPerDie : Nat := 288
/-- Vector registers in a core's pool (R8). -/
def poolSize : Nat := 128
/-- Entries of the matrix command queue (R111). -/
def mxQueueSize : Nat := 16
/-- Entries of the copy-channel queue (R137). -/
def cpQueueSize : Nat := 8
/-- Entries of a quad's task queue (R177). -/
def taskQueueSize : Nat := 64
/-- Request tags per core (R202). -/
def rtagCount : Nat := 64
/-- What a byte of memory reads as when nothing has written it (log 2, DESIGN CHOICE). -/
def coldByte : Byte := 0

end Sys2Proof.Config
end

