-- ==== Sys2Proof/Machine/State.lean ====
section
/-! DEFINITION. The state of an Azril A9 pod as plain data, and the state right after reset. Tables that
the spec sizes by the thousand are lists of (number, entry) with strictly rising numbers; an unlisted
number stands for the entry's reset value. -/
namespace Sys2Proof.Machine

/-- Why the model stops. -/
inductive Fault where
  /-- Raised by the meaning of an instruction when `cur` names a slot that holds no thread: nothing in the
  pod can issue the instruction, so the spec gives it no effect. SAFE: the hardware never issues there. -/
  | noThread
  deriving DecidableEq, Repr

/-- Why an instruction has no meaning. -/
inductive Refusal where
  /-- Raised by the arms of `exec` that have no meaning yet. SAFE: the model stops. -/
  | notModelled (mnemonic : String)
  deriving DecidableEq, Repr

/-- Execution mode (R73, `mode` bit 0). -/
inductive Mode where
  | user | super
  deriving DecidableEq, Repr

/-- An instruction held beside its thread: decoded, or a pattern that raises the fault `cause` (0x01, 0x02 or
0x03) wherever it issues, with its length. -/
inductive Latched where
  | instr (i : Instr)
  | bad (cause len : Nat)
  deriving DecidableEq, Repr

/-- An instruction that waits to issue again, and whether it comes from the retry latch (R224, R229). -/
structure Held where
  what : Latched
  fromLatch : Bool
  deriving DecidableEq, Repr

/-- A fault with its cause, `taddr` and `tinfo` (R227). -/
structure Trap where
  cause : Nat
  addr : Word
  info : Word
  deriving DecidableEq, Repr

/-- Why a thread is parked. -/
inductive Park where
  /-- A register wait (R65): the scalar and vector registers the instruction needs full. -/
  | regs (ss : List Sc) (vs : List VReg)
  /-- A request is in the fabric, or its reply has not come (R34, R203). -/
  | reply
  /-- The request stands in a home's retry list (R164). -/
  | listed
  /-- All 64 request tags are in use (R202). -/
  | noTag
  /-- Earlier stores are unacknowledged (R149, R154). -/
  | acks
  /-- `EVWAIT` (R175). -/
  | event (m : Mask)
  /-- `GROW.wait` (R70). -/
  | grow (n : Nat)
  /-- `TASK.wait` (R177), since the cycle given. -/
  | task (since : Nat)
  /-- `BAR` (R53). -/
  | barrier (key : Nat)
  /-- The matrix queue is full (R111); the command waits to be accepted. -/
  | mxQueue
  /-- `MXWAIT n` (R120). -/
  | mxWait (n : Nat)
  /-- `MXFLG` (R120): the number of commands accepted before it that must complete. -/
  | mxFlag (n : Nat)
  /-- The copy queue is full (R137); the command waits to be accepted. -/
  | cpQueue
  /-- A grammar instruction waits for earlier ones of its quad (R251). -/
  | unit
  /-- `COLL` waits until the base-die engine accepts the contribution (R215). -/
  | engine
  /-- `SPAWN` waits for its target (R47). -/
  | spawn
  /-- The spawn was refused; SPAWN_REFUSED follows (R48). -/
  | refused
  /-- Refused at inline depth 4, or with TRAPENT set: served by the target when a slot frees (R48, R330). -/
  | spawnParked
  /-- `MIGR` waits for its target (R50), and whether the last arrival was refused. -/
  | migr (refused : Bool)
  /-- `MIGR` and a displacement wait for the thread's own commands and deliveries (R112, R313). -/
  | quiesce
  /-- A fault waits for a delivery to `g15` (R222); TRAP_ENTRY follows. -/
  | trap (t : Trap) (l : Option Latched)
  /-- A push waits for room in a chain queue (R182): the queue and the vectors that it must take. -/
  | drain (q n : Nat)
  /-- A wait that a halt withdrew: its instruction issues afresh in RUN (R232). -/
  | withdrawn
  /-- An acquire has read event bits whose setter's earlier stores are not acknowledged (R155, R286; log 73): `EVWAIT`, or
  a dispatched task before its first instruction. -/
  | owed (m : Mask)
  /-- The double-fault state (R226). -/
  | halted
  deriving DecidableEq, Repr

/-- Who a request is made for. -/
inductive Who where
  | thread (uid : Nat)
  | channel (core : Nat)
  | matrix (core : Nat)
  | hub (pkg : Nat)
  deriving DecidableEq, Repr

/-- Barrier operations performed at a barrier's home (R54). -/
inductive BarOp where
  | join (count : Option Nat) | arrive | leave
  deriving DecidableEq, Repr

/-- The scalar context that `MIGR` sends (R49), with what travels by rule beside it (R272, R179, R313). -/
structure MigrCtx where
  uid : Nat
  g : Vector Word 16
  gFull : BitVec 16
  pc : Word
  mode : Mode
  trapent : Bool
  pmode : Mode
  idepth : Nat
  ex : Tag
  fcsr : BitVec 10
  task : Option (Nat × Nat)
  deriving DecidableEq, Repr

/-- A request performed at its home: memory (R150, R164, R166), pegs (R159, R160), binding tables (R158),
expiry entries (R191), barriers (R54), spawns and migrations (R47, R50), remote fills (R322) and the copy
channel's atomic lines and free-block pops (R141, R143). -/
inductive Req where
  | rd (pa n : Nat)
  /-- Asks whether a store of the bytes would meet poison (R230); it changes nothing. -/
  | probe (cells : List Host.Cell)
  | wr (cells : List Host.Cell)
  | amo (op : AmoOp) (z : Bool) (pa n : Nat) (v : Nat)
  | cas (pa n : Nat) (exp new : Nat)
  | feLd (m : LdMode) (pa n : Nat)
  | feSt (m : StMode) (pa n : Nat) (v : Nat)
  | peg (pa : Nat) (cond : Nat)
  | pegWr (pa : Nat) (v : Nat)
  | bindGet (pa : Nat)
  | bindAdd (pa : Nat) (sc : Scope) (base len : Nat)
  | bindRm (pa : Nat)
  | exSet (tag : Tag) (part : Nat) (toPkg : Nat) (check : Bool)
  | exChk (tag : Tag) (part : Nat)
  | exFree (tag : Tag) (part : Nat)
  | exParent (tag : Tag) (part : Nat) (toPkg : Nat)
  | bar (key : Nat) (uid : Nat) (op : BarOp)
  | spawn (core : Nat) (src : Nat) (pc : Word) (tag : Tag) (g : List Word)
  | migr (core : Nat) (src : Nat) (ctx : MigrCtx)
  | rfill (core : Nat) (slot : Option Nat) (reg : Nat) (v : Word) (wait : Bool)
  | line (op : CpyOp) (t : ETy) (pa : Nat) (data : List Byte)
  | popFree (pa head epa : Nat)
  | note (tag : Tag) (ofPkg : Nat)
  /-- A request on an uncached page (R131): what it writes goes on to HBM. -/
  | unc (r : Req)
  /-- A write of the copy channel that gives the line of local store its seam tag (R122, R141). -/
  | seam (tag : BitVec 16) (r : Req)
  deriving DecidableEq, Repr

/-- The answer of a home. -/
inductive Reply where
  | ok
  | val (v : Nat)
  | bytes (l : List Byte)
  | peg (sc : Scope) (ranges : List (Nat × Nat))
  | fault (t : Trap)
  | busy
  | listed
  | refused
  /-- The home's retry list is full, since the cycle given: the requester sends again after 1 μs (R164, R165). -/
  | full (since : Nat)
  deriving DecidableEq, Repr

/-- A reply held for an instruction or a unit that issues again: its step, its request, the answer. -/
structure Mail where
  k : Nat
  epoch : Nat
  req : Req
  rep : Reply
  deriving DecidableEq, Repr

/-- A named-buffer registration as it is sent to the other members (R213). -/
structure RegInfo where
  size : Nat
  ty : ETy
  op : CbufOp
  group : BitVec 128
  l : Nat
  stack : Nat
  deriving DecidableEq, Repr

/-- What a message carries beside its header (R200, R201). A request carries its issuer's `syncl`, and the cycle of
its first refusal by a full retry list (R165). -/
inductive Body where
  | req (r : Req) (limit : Nat) (since : Option Nat)
  | reply (r : Reply)
  | wave (tag : Tag)
  | waveDone (tag : Tag)
  | reg (id serial : Nat) (r : RegInfo)
  | mcast (group : Nat) (addr : Nat) (data : List Byte) (sc : Option Scope) (fe unc : Bool) (uid : Nat)
  | mcastAck (uid : Nat)
  /-- A host's access on its way to the edge port of its host (R210). -/
  | host (op : HostOp) (addr size : Nat) (v : Word)
  deriving DecidableEq, Repr

/-- A fabric message: the header fields of R201 that routers and hubs act on, and the body. -/
structure Msg where
  dst : Nat
  src : Nat
  cls : Nat
  core : Nat
  rtag : Nat
  gen : Nat
  exp : Tag
  resend : Bool
  body : Body
  deriving DecidableEq, Repr

/-- A flit of a message, its number within the message, the cycle it entered its queue, and the output port of a multicast
copy (R200, R201, R208). -/
structure Flit where
  msg : Msg
  idx : Nat
  since : Nat
  via : Option Nat
  deriving DecidableEq, Repr

/-- A pattern frame on a link: its flits, the key that encrypts it, the counter value of its first flit,
and the key switch it carries (R206, R207). -/
structure Frame where
  flits : List Flit
  key : BitVec 256
  counter : Nat
  switch : Bool
  deriving DecidableEq, Repr

/-- One direction of a fabric link, held at its transmitter (R206, R207), with the receiver's keys. A package's links are
numbered by port; 32 more names the direction from a host to an edge port, and 64 and up the ports of its base dies (R9,
R260). -/
structure Link where
  txKey : Option (BitVec 256)
  rxKey : Option (BitVec 256)
  staged : Option (BitVec 256)
  counter : Nat
  wire : List Frame
  badFrames : List Nat
  alerts : Nat
  exhausted : Bool
  deriving DecidableEq, Repr

/-- A request a core, hub or unit has outstanding (R202, R203, R205). -/
structure OutReq where
  rtag : Nat
  gen : Nat
  dst : Nat
  who : Who
  k : Nat
  epoch : Nat
  req : Req
  exp : Tag
  sentAt : Option Nat
  resent : Bool
  busyAt : Option Nat
  pc : Word
  ins : Option Instr
  limit : Nat
  va : Nat
  born : Nat
  fullAt : Option Nat
  deriving DecidableEq, Repr

/-- A listed or refused waiter (R164, R165). `core`, `rtag` and `gen` name a remote requester's request. -/
structure Waiter where
  seq : Nat
  home : Nat
  who : Who
  core : Nat
  rtag : Nat
  gen : Nat
  remote : Bool
  k : Nat
  epoch : Nat
  req : Req
  exp : Tag
  since : Nat
  limit : Nat
  va : Nat
  refusedAt : Option Nat
  deriving DecidableEq, Repr

/-- A stream port (R181 to R186). `drawn` is a vector taken from memory or a ring and not yet committed. -/
structure Port where
  kind : Nat
  base : Nat
  stride : Int
  count : Nat
  ty : ETy
  kreg : Nat
  m : Nat
  h : Nat
  ahead : List Vec
  drawn : Option Vec
  deriving DecidableEq, Repr

/-- A thread's whole context (R31, R62, R73) and the model's bookkeeping of its waits. `kept` holds the scalar operands
of an instruction that has begun and waits; `ahead` holds 8-byte words of code that a fetch on its way has read already,
`fresh` the words that its next fetch reads anew, and `stale` the code lines that another thread has invalidated since this
one's last acquire (R238, R239, R291). -/
structure Thread where
  uid : Nat
  g : Vector Word 16
  gFull : BitVec 16
  gPend : BitVec 16
  gPoison : BitVec 16
  k : Vector Mask 8
  v : Vector Vec 64
  vFull : BitVec 64
  vPend : BitVec 64
  vPoison : BitVec 64
  kPoison : BitVec 8
  pc : Word
  mode : Mode
  trapent : Bool
  pmode : Mode
  idepth : Nat
  df : Bool
  ex : Tag
  fcsr : BitVec 10
  mxctl : BitVec 4
  alot : Nat
  syncl : Word
  tcause : BitVec 8
  tcause2 : BitVec 8
  taddr : Word
  tpc : Word
  tinfo : Word
  latch : Option Latched
  hold : Option Held
  park : Option Park
  mail : List Mail
  stores : List (Nat × Nat × Nat × Nat)
  chain : Bool
  ports : List (Nat × Port)
  task : Option (Nat × Nat)
  doomed : Bool
  lastIssue : Option Nat
  yieldTo : Option Nat
  fbuf : List (Nat × BitVec 256)
  kept : List (Sc × Word)
  ahead : List (Nat × Word)
  fresh : List Nat
  stale : List Nat
  deriving DecidableEq, Repr

/-- A matrix accumulator tile (R112): elements in order 16i + j, LS bits, poison flag. -/
structure Tile where
  el : Vector (BitVec 32) 256
  ls : BitVec 256
  poison : Bool
  deriving DecidableEq, Repr

/-- A 64-byte line of a matrix operand as it was translated at issue: its address, whether the die keeps it as a
visitor line, whether its page is uncached, and the page's base, size and attributes (R115, R131, R133). -/
structure MxLine where
  va : Nat
  pa : Nat
  visits : Bool
  unc : Bool
  base : Nat
  size : Nat
  fmt : Nat
  blk : Nat
  soff : Nat
  deriving DecidableEq, Repr

/-- The work of a matrix command (R117, R119). -/
inductive MxOp where
  | mma (n : AReg) (fa fb : ETy) (a b : List MxLine) (depth : Nat) (k : Mask) (win : Nat) (rz : Bool)
  | zero (n : AReg) (k : Mask)
  | load (n : AReg) (a : List MxLine) (k : Mask)
  | store (n : AReg) (t : ETy) (sat : Bool) (a : List MxLine) (k : Mask) (rz : Bool)
  deriving DecidableEq, Repr

/-- A matrix command with its issuer, the issuer's slot, the cycle of its acceptance, expiry tag and mode (R111,
R125), and the 8-byte words of its operands that the unit has read early (R116). -/
structure MxCmd where
  uid : Nat
  slot : Nat
  at_ : Nat
  exp : Tag
  mode : Mode
  inChain : Bool
  op : MxOp
  early : List (Nat × Word)
  deriving DecidableEq, Repr

/-- The running matrix command and, once all its operands are read, what it will write. -/
structure MxRun where
  cmd : MxCmd
  tile : Option (AReg × Tile)
  cells : List (Nat × List Host.Cell)
  done : Bool
  deriving DecidableEq, Repr

/-- The work of a copy-channel command (R141 to R143). -/
inductive CpOp where
  | cpy (dst src size : Nat) (seam : BitVec 16)
  | atomic (op : CpyOp) (t : ETy) (dst src size : Nat) (seam : BitVec 16)
  | rfg (r : Sc) (src : Nat)
  | rfv (v : VReg) (src : Nat)
  | cpgb (dst table pool count bsh : Nat) (seam : BitVec 16)
  | kvapp (desc table pool ring refc len new bsh esh src : Nat)
  deriving DecidableEq, Repr

/-- A copy-channel command with its issuer, cycle of acceptance, tag, record, whether that is on an uncached page,
ordering bits (R137), the issuer's `syncl` (R165, R186), and whether its fill is discarded (R327). -/
structure CpCmd where
  uid : Nat
  slot : Nat
  at_ : Nat
  exp : Tag
  mode : Mode
  record : Nat
  recUnc : Bool
  acq : Bool
  rel : Bool
  sc : Option Scope
  limit : Nat
  drop : Bool
  op : CpOp
  deriving DecidableEq, Repr

/-- The running copy command (R138, R141 to R146): destination lines written, bytes done, the block-table
entry or append it has reached and the value read there, a popped block, the step of an append, the value of a
register fill, how it ended, a held DEFERRED, and an annulment that waits for the end of a unit. -/
structure CpRun where
  cmd : CpCmd
  progress : Nat
  pos : Nat
  entry : Nat
  tmp : Option Nat
  popped : Option Nat
  phase : Nat
  fill : Nat
  status : Option (Nat × Nat × Nat)
  deferred : Bool
  annul : Bool
  deriving DecidableEq, Repr

/-- A message on its way into a core's message queue (R40, R41, R152); `va` is the address its requester translated. -/
structure MqMsg where
  kind : Nat
  who : Who
  core : Nat
  rtag : Nat
  gen : Nat
  remote : Bool
  k : Nat
  req : Req
  line : Nat
  peer : Nat
  exp : Tag
  limit : Nat
  born : Nat
  va : Nat
  deriving DecidableEq, Repr

/-- A message written in an entry of the queue and not yet acted on (R41). -/
structure MqEnt where
  idx : Nat
  msg : MqMsg
  since : Nat
  deriving DecidableEq, Repr

/-- A translation held in a TLB (R135): the page's virtual base, its size and the leaf entry. -/
structure TlbEnt where
  root : Nat
  base : Nat
  size : Nat
  leaf : Word
  level : Nat
  deriving DecidableEq, Repr

/-- A table pointer held in a die's walk cache (R135): the range of addresses it serves, the level of its table and the
table. -/
structure WalkEnt where
  root : Nat
  base : Nat
  size : Nat
  level : Nat
  table : Nat
  deriving DecidableEq, Repr

/-- A change of a shared register that has not landed (R42): a value, or none where the register empties (R66). `fill`
marks a remote fill. -/
structure CWrite where
  n : Fin 16
  v : Option Word
  issued : Nat
  fill : Bool
  deriving DecidableEq, Repr

/-- What a core holds (R8, R33, R40, R62, R73, R79, R111, R137, R202). -/
structure Core where
  i4 : Word
  i5 : Word
  i6 : Word
  i7 : Word
  i8 : Word
  i10 : Word
  i11 : Word
  c : Vector Word 16
  cFull : BitVec 16
  cPend : BitVec 16
  cPoison : BitVec 16
  cWrites : List CWrite
  tvec : Word
  hvec : Word
  mq : Word
  csplit : Nat
  ovh : Nat
  mqIndex : Nat
  mqIn : List MqMsg
  mqOut : List MqEnt
  parked : List MqMsg
  emptied : Vector Nat 8
  hvecAt : Nat
  slotTab : BitVec 128
  staged : Option (BitVec 128)
  due : Option (BitVec 128)
  disabled : BitVec 8
  keep : Option (BitVec 32)
  growQ : List Nat
  acc : Vector Tile 4
  mxQ : List MxCmd
  mxRun : Option MxRun
  mxWait : List (Nat × MxCmd)
  mxMail : List Mail
  cpQ : List CpCmd
  cpRun : Option CpRun
  cpWait : List (Nat × CpCmd)
  cpMail : List Mail
  reqs : List OutReq
  gens : List (Nat × Nat)
  late : BitVec 32
  tlb : List TlbEnt
  icache : List (Nat × BitVec 512)
  lsOn : Bool
  playedAt : Option Nat
  moving : Option Nat
  heatAt : Option Nat
  deriving DecidableEq, Repr

/-- A posted task (R176, R177). `run` is the uid of its thread once dispatched, `since` the cycle of its acceptance. -/
structure Task where
  serial : Nat
  pc : Word
  args : List Word
  pri : Nat
  kw : Mask
  ks : Mask
  exp : Tag
  run : Option Nat
  since : Nat
  deriving DecidableEq, Repr

/-- The grammar descriptor a `GMLOAD` recorded (R247), with the issuer's address space. -/
structure Grammar where
  cls : Nat
  trans : Nat
  masks : Nat
  vocab : Nat
  nstate : Nat
  nclass : Nat
  nsym : Nat
  depth : Nat
  start : Nat
  deriving DecidableEq, Repr

/-- A grammar context: state and stack, top first (R247). -/
structure GCtx where
  state : Nat
  stack : List Nat
  deriving DecidableEq, Repr

/-- Event bits set by a thread some of whose earlier stores are not yet acknowledged (R155, R286). -/
structure LateEv where
  uid : Nat
  mask : Mask
  stores : List (Nat × Nat × Nat × Nat)
  deriving DecidableEq, Repr

/-- What a quad holds (R135, R174, R177, R178, R247, R249). `evSet` and `evAt` are the bits set in the
cycle `evAt`, for the same-cycle order of R174; `shown` is the value of the events at the end of the last cycle;
`later` holds the bits set whose setters' stores are not acknowledged (R286);
`gmQ` holds the threads whose grammar instruction the unit has begun, in their order (R251). -/
structure Quad where
  events : Mask
  shown : Mask
  evSet : Mask
  evAt : Nat
  later : List LateEv
  tasks : List Task
  nextTask : Nat
  posts : List Nat
  streak : Nat
  dispatchedAt : Option Nat
  grammar : Option Grammar
  ctxs : Vector GCtx 16
  gmCache : List ((Nat × Nat × Nat) × Vec)
  gmQ : List Nat
  tlb : List TlbEnt
  deriving DecidableEq, Repr

/-- An entry of the error log (R264). -/
structure LogEnt where
  detail : Nat
  addr : Nat
  cause : Nat
  kind : Nat
  pkg : Nat
  die : Nat
  core : Nat
  slot : Nat
  time : Nat
  deriving DecidableEq, Repr

/-- A double fault as its die's management core is told of it (R226). -/
structure DfReport where
  part : Option Nat
  die : Nat
  core : Nat
  slot : Nat
  first : Nat
  second : Nat
  addr : Word
  deriving DecidableEq, Repr

/-- What a die holds (R60, R135, R226, R230, R237, R264). `shoot` is the shootdown that runs: the ranges whose accesses it
waits for, and its cycle. `corrected` counts corrected errors, and `cleans` are lines whose clean was withdrawn in flight,
with the cycle by which it has landed or been dropped (R148). -/
structure Die where
  part : Option Nat
  grant : Nat
  disableAt : Option Nat
  ranking : List Nat
  shoot : Option (List (Nat × Nat) × Nat)
  forward : List (Nat × Nat)
  log : List LogEnt
  logLost : Nat
  invEpoch : Nat
  fwRuns : Bool
  dfReports : List DfReport
  corrected : Nat
  walks : List WalkEnt
  cleans : List (Nat × Nat)
  deriving DecidableEq, Repr

/-- The state of an expiry entry (R188). -/
inductive ExSt where
  | free | live | lapsing | lapsed | quarantine
  deriving DecidableEq, Repr

/-- An expiry entry (R188). `done` holds the packages where the wave is complete, `since` the cycle of the
last change of state, `forming` a gusset whose `EXJOIN` still runs (R191). -/
structure ExEnt where
  st : ExSt
  gusset : Bool
  part : Nat
  instant : Nat
  parents : List (Tag × Bool)
  reach : BitVec 128
  freePend : Bool
  done : BitVec 128
  since : Nat
  forming : Option Nat
  deriving DecidableEq, Repr

/-- An entry of the peg binding table (R157). -/
structure PegEnt where
  pa : Nat
  sc : Scope
  ranges : List (Nat × Nat)
  deriving DecidableEq, Repr

/-- A collective instance a package runs (R215, R216); `staged` holds the 8-byte words of the buffer that the engine has
read into its staging SRAM since acceptance (R9, R216). -/
structure CollRun where
  inst : Nat
  kind : CollKind
  root : Nat
  exp : Tag
  uid : Nat
  core : Nat
  record : Nat
  recUnc : Bool
  acq : Bool
  rel : Bool
  sc : Option Scope
  accepted : Bool
  staged : List (Nat × Word)
  deriving DecidableEq, Repr

/-- Another member's registrations of a buffer as a hub holds them, each with its serial number: the one that belongs to
the package's own registration, and a later one that waits for the package to register again (R213, R280). -/
structure Peer where
  cur : Option (Nat × RegInfo)
  next : Option (Nat × RegInfo)
  deriving DecidableEq, Repr

/-- A named buffer of a package (R213 to R215): its pages as (offset, physical address, bytes), its peg and whether that
is on an uncached page, the registration with a serial number of its own, the registration tag, the instances started,
the one that runs, and whether the registration has ended (R214). -/
structure NBuf where
  part : Nat
  segs : List (Nat × Nat × Nat)
  peg : Nat
  pegUnc : Bool
  serial : Nat
  info : RegInfo
  tag : Tag
  started : Nat
  run : Option CollRun
  ended : Bool
  deriving DecidableEq, Repr

/-- A replay-table entry (R205). -/
structure Replay where
  src : Nat
  core : Nat
  rtag : Nat
  gen : Nat
  rep : Reply
  since : Nat
  deriving DecidableEq, Repr

/-- What a package hub and its fabric router hold. `mailbox` holds what stands in the management mailbox: what hosts have
written, and the reports for them (R260, R263). `left` and `gone` name instances by a registration's serial number:
those the package has left one by one, and those from which on it has left (R214, R216). -/
structure Pkg where
  member : Bool
  powered : Bool
  bootStep : Nat
  exTab : List (Nat × ExEnt)
  reachCache : List Tag
  filter : List (Tag × Nat)
  pegs : List PegEnt
  nbufs : List (Nat × NBuf)
  peers : List ((Nat × Nat) × Peer)
  left : List (Nat × Nat)
  gone : List (Nat × Nat)
  fan : List (Nat × Fan)
  windows : List (Nat × Window)
  patterns : List (Nat × BitVec 8)
  queues : List (Nat × List Flit)
  partial_ : List (Msg × List Nat)
  inbox : List Msg
  links : List (Nat × Link)
  drops : List (Nat × Nat)
  cfgErrors : Nat
  mcasts : List (Nat × Nat)
  pkgBars : List (Nat × Nat)
  podBars : List (Nat × Nat × Nat)
  replay : List Replay
  grantAt : Option Nat
  mr : Vector (BitVec 384) 8
  mailbox : List Host.Cell
  hostReplies : List (Nat × Reply)
  deriving DecidableEq, Repr

/-- A visitor line of a die's L2 (R150, R151): its 64 bytes, byte 0 in bits [7:0], and the dirty mask. -/
structure VLine where
  data : BitVec 512
  dirty : BitVec 64
  deriving DecidableEq, Repr

/-- The L1 sharers of a home-slice line (R152). -/
structure Dir where
  sharers : List Nat
  overflowed : Bool
  more : List Nat
  bcast : Bool
  deriving DecidableEq, Repr

/-- A barrier (R53, R54): expected count of a count barrier, members and arrivals by thread. -/
structure Barrier where
  count : Option Nat
  members : List Nat
  arrived : List Nat
  since : List (Nat × Nat)
  deriving DecidableEq, Repr

/-- States of a partition (R231). -/
inductive PSt where
  | run | halting | saving | saved | restoring
  deriving DecidableEq, Repr

/-- What the save engine writes to shadow storage (R233). -/
structure Image where
  threads : List (Nat × Thread)
  cores : List (Nat × Core)
  quads : List (Nat × Quad)
  chains : List (Nat × List Vec)
  barriers : List (Nat × Barrier)
  mem : List Host.Cell
  tags : List Nat
  seams : List (Nat × BitVec 16)
  poison : List Nat
  deriving DecidableEq, Repr

/-- A partition (R128, R231, R234, R235). -/
structure Partition where
  st : PSt
  dies : List Nat
  root : Nat
  quiesced : Bool
  saveReq : Option Nat
  resumeReq : Bool
  restoreAt : Nat
  image : Option Image
  imageValid : Bool
  wdEn : Bool
  wdPeriod : Nat
  hcause : Nat
  wdAt : Nat
  stallAt : Nat
  heldAt : Option Nat
  reports : List (Nat × Nat)
  deriving DecidableEq, Repr

/-- What moves next. An event row, a core's issue cycle, the passing of cycles, and the choices the spec
leaves to replacement, to chance and to the runtime (R54, R151, R156, R230, R238). -/
inductive Turn where
  | event (i : Instr)
  | issue (core : Nat)
  | tick (n : Nat)
  | evictVisitor (die line : Nat)
  | evictSlice (line : Nat)
  | evictCode (core line : Nat)
  | poisonMem (pa : Nat)
  /-- An uncorrectable error of a line in a die's L2 (R230). -/
  | poisonVisitor (die line : Nat)
  | poisonReg (slot : Nat) (r : Sc)
  | poisonVec (slot : Nat) (v : VReg)
  | poisonMask (slot : Nat) (k : KReg)
  | poisonTile (core : Nat) (n : AReg)
  | transient (core slot addr : Nat)
  /-- A correctable error of a die: corrected and counted (R230). -/
  | correct (die : Nat)
  /-- A fetch of a thread, on its way, reads the 8-byte word of code at an address now (R238). -/
  | fetchAhead (slot pa : Nat)
  /-- The thread's next fetch reads the 8-byte word at an address anew, whatever an earlier one has read (R239). -/
  | fetchFresh (slot pa : Nat)
  /-- A fetch that was on its way is given up, or a fetch buffer's block is replaced (R238). -/
  | dropFetch (slot : Nat)
  /-- The matrix command number `n` of a core, the running one first, reads the 8-byte word at an address now (R116,
  R148). -/
  | matrixRead (core n pa : Nat)
  /-- The base-die engine of a package reads the 8-byte word at an address of a buffer's contribution now (R216). -/
  | collRead (pkg id pa : Nat)
  /-- The fabric manager assigns positions of the torus (R13). -/
  | assignPositions (xs ys zs : List Nat)
  | assignPkgBar (pkg id part : Nat)
  | assignPodBar (id part home : Nat)
  deriving DecidableEq, Repr

/-- The pod. -/
structure State where
  cycle : Nat
  turns : List Turn
  cur : Nat
  nextUid : Nat
  nextSeq : Nat
  threads : List (Nat × Thread)
  cores : List (Nat × Core)
  quads : List (Nat × Quad)
  dies : List (Nat × Die)
  pkgs : List (Nat × Pkg)
  parts : List (Nat × Partition)
  barriers : List (Nat × Barrier)
  chains : List (Nat × List Vec)
  retry : List Waiter
  mem : List Host.Cell
  slice : List Host.Cell
  visitors : List (Nat × VLine)
  dirs : List (Nat × Dir)
  tags : List Nat
  seams : List (Nat × BitVec 16)
  poison : List Nat
  deriving DecidableEq, Repr

/-- A tile at partition start (R112). -/
def Tile.reset : Tile := { el := Vector.replicate 256 0, ls := 0, poison := false }

/-- The default slot table (R35). -/
def defaultSlotTab : BitVec 128 := 0xFEDCBA98FEDCBA98FEDCBA98FEDCBA98#128

/-- A core at reset and at partition start (R33, R35, R67, R73, R112). -/
def Core.reset : Core :=
  { i4 := 0, i5 := 0, i6 := 0, i7 := 0, i8 := 0, i10 := 0, i11 := 0,
    c := Vector.replicate 16 0, cFull := 0xFFFF, cPend := 0, cPoison := 0, cWrites := [],
    tvec := 0, hvec := 0, mq := 0, csplit := 4, ovh := 7, mqIndex := 0, mqIn := [], mqOut := [], parked := [],
    emptied := Vector.replicate 8 0, hvecAt := 0, slotTab := defaultSlotTab, staged := none, due := none, disabled := 0, keep := none, growQ := [],
    acc := Vector.replicate 4 Tile.reset, mxQ := [], mxRun := none, mxWait := [], mxMail := [],
    cpQ := [], cpRun := none, cpWait := [], cpMail := [], reqs := [], gens := [], late := 0, tlb := [],
    icache := [], lsOn := true, playedAt := none, moving := none, heatAt := none }

/-- A quad at partition start (R174, R247). -/
def Quad.reset : Quad :=
  { events := 0, shown := 0, evSet := 0, evAt := 0, later := [], tasks := [], nextTask := 0, posts := [], streak := 0, dispatchedAt := none,
    grammar := none, ctxs := Vector.replicate 16 { state := 0, stack := [] }, gmCache := [], gmQ := [], tlb := [] }

/-- A die at reset; its budget is the least an arbiter grants (R58). -/
def Die.reset : Die :=
  { part := none, grant := 350, disableAt := none, ranking := [], shoot := none, forward := [], log := [],
    logLost := 0, invEpoch := 0, fwRuns := false, dfReports := [], corrected := 0, walks := [], cleans := [] }

/-- A link direction without a key (R260). -/
def Link.reset : Link :=
  { txKey := none, rxKey := none, staged := none, counter := 0, wire := [], badFrames := [], alerts := 0,
    exhausted := false }

/-- A free expiry entry (R188). -/
def ExEnt.reset : ExEnt :=
  { st := .free, gusset := false, part := 0, instant := 0, parents := [], reach := 0, freePend := false,
    done := 0, since := 0, forming := none }

/-- A package in power-off (R260, R262). -/
def Pkg.reset : Pkg :=
  { member := false, powered := false, bootStep := 0, exTab := [], reachCache := [], filter := [], pegs := [],
    nbufs := [], peers := [], left := [], gone := [], fan := [], windows := [], patterns := [], queues := [],
    partial_ := [], inbox := [], links := [], drops := [], cfgErrors := 0, mcasts := [], pkgBars := [],
    podBars := [], replay := [], grantAt := none, mr := Vector.replicate 8 0, mailbox := [], hostReplies := [] }

/-- An unconfigured barrier with no members (R53, R54). -/
def Barrier.reset : Barrier := { count := none, members := [], arrived := [], since := [] }

/-- A partition right after its creation (R80, R231). -/
def Partition.reset : Partition :=
  { st := .run, dies := [], root := 0, quiesced := false, saveReq := none, resumeReq := false, restoreAt := 0, image := none,
    imageValid := false, wdEn := false, wdPeriod := 1000, hcause := 0, wdAt := 0,
    stallAt := 0, heldAt := none, reports := [] }

/-- A new thread (R32, R73): user mode, `g0` to `g15` zero and full, `k1` to `k7` zero, allotment 0. -/
def Thread.new (uid : Nat) (pc : Word) (tag : Tag) : Thread :=
  { uid := uid, g := Vector.replicate 16 0, gFull := 0xFFFF, gPend := 0, gPoison := 0,
    k := Vector.replicate 8 0, v := Vector.replicate 64 0, vFull := BitVec.allOnes 64, vPend := 0, vPoison := 0, kPoison := 0,
    pc := pc, mode := .user, trapent := false, pmode := .user, idepth := 0, df := false, ex := tag,
    fcsr := 0, mxctl := 5, alot := 0, syncl := 65536, tcause := 0, tcause2 := 0, taddr := 0, tpc := 0,
    tinfo := 0, latch := none, hold := none, park := none, mail := [], stores := [], chain := false,
    ports := [], task := none, doomed := false, lastIssue := none, yieldTo := none, fbuf := [], kept := [], ahead := [],
    fresh := [], stale := [] }

/-- The pod right after reset: every package in power-off, no thread, no partition, empty tables, pod time
0 (R260; logs 2, 3). -/
def State.reset : State :=
  { cycle := 0, turns := [], cur := 0, nextUid := 1, nextSeq := 0, threads := [], cores := [], quads := [],
    dies := [], pkgs := [], parts := [], barriers := [], chains := [], retry := [], mem := [], slice := [],
    visitors := [], dirs := [], tags := [], seams := [], poison := [] }

end Sys2Proof.Machine
end

