-- ==== Sys2Proof/Machine/Ops.lean ====
section
/-! DEFINITION. The named operations over tables, memory, translation and registers, how an instruction
starts and ends, and taking an exception (R222, R226) and what its return does (R224). -/
namespace Sys2Proof.Machine

/-! ## Tables: lists of (number, entry) with rising numbers -/

def mapGet {α : Type} : List (Nat × α) → Nat → Option α
  | [], _ => none
  | (k, v) :: r, n => if k == n then some v else mapGet r n

def mapPut {α : Type} : List (Nat × α) → Nat → α → List (Nat × α)
  | [], n, v => [(n, v)]
  | (k, w) :: r, n, v =>
    if n < k then (n, v) :: (k, w) :: r else if k == n then (n, v) :: r else (k, w) :: mapPut r n v

def mapDel {α : Type} : List (Nat × α) → Nat → List (Nat × α)
  | [], _ => []
  | (k, w) :: r, n => if k == n then mapDel r n else (k, w) :: mapDel r n

/-- Strictly rising numbers. -/
def mapRising {α : Type} : List (Nat × α) → Bool
  | [] => true
  | [_] => true
  | (a, _) :: (b, w) :: r => decide (a < b) && mapRising ((b, w) :: r)

/-- Insertion in a strictly rising list of numbers. -/
def setIns : List Nat → Nat → List Nat
  | [], n => [n]
  | k :: r, n => if n < k then n :: k :: r else if k == n then k :: r else k :: setIns r n

def setDel (l : List Nat) (n : Nat) : List Nat := l.filter (fun k => k != n)

/-! ## Memory (R3, R129) -/

/-- The canonical form of memory: rising addresses, no entry equal to what an unlisted address reads as. -/
def Memory.wf (m : List Host.Cell) : Bool := mapRising m && m.all (fun c => c.2 != Config.coldByte)

def Memory.read (m : List Host.Cell) (a : Nat) : Byte := (mapGet m a).getD Config.coldByte

def Memory.write (m : List Host.Cell) (a : Nat) (b : Byte) : List Host.Cell :=
  if b == Config.coldByte then mapDel m a else mapPut m a b

/-- Clears the addresses from `lo` up to but not including `hi`. -/
def Memory.clear (m : List Host.Cell) (lo hi : Nat) : List Host.Cell :=
  m.filter (fun c => !(decide (lo ≤ c.1) && decide (c.1 < hi)))

/-- What a pod physical address names (R129). -/
inductive Place where
  | hbm (stack off : Nat)
  | ls (die core off : Nat)
  | tmb (die off : Nat)
  | host (port off : Nat)
  | none
  deriving DecidableEq, Repr

/-- End of a stack's data region (R129). -/
def hbmDataSize : Nat := 0xAF6000000

def placeOf (pa : Nat) : Place :=
  let la := pa % 2 ^ 45
  if la < 2 ^ 40 then
    let o := la % 2 ^ 36
    if o < hbmDataSize then .hbm (la / 2 ^ 36) o else .none
  else if 2 ^ 44 ≤ la ∧ la < 2 ^ 44 + 2 ^ 32 then
    let r := la - 2 ^ 44
    let c := r % 2 ^ 30 / 2 ^ 19
    if c < Config.coresPerDie then .ls (r / 2 ^ 30) c (r % 2 ^ 19) else .none
  else if 0x140000000000 ≤ la ∧ la < 0x140000004000 then
    let r := la - 0x140000000000
    if r % 0x1000 < 32 then .tmb (r / 0x1000) (r % 0x1000) else .none
  else if 0x180000000000 ≤ la then
    let r := la - 0x180000000000
    .host (24 + r / 2 ^ 41) (r % 2 ^ 41)
  else .none

def pkgOfPa (pa : Nat) : Nat := pa / 2 ^ 45

/-- Home die (4 × package + die) of an HBM or local-store address. -/
def homeDie (pa : Nat) : Option Nat :=
  match placeOf pa with
  | .hbm s _ => some (pkgOfPa pa * 4 + s / 4)
  | .ls d _ _ => some (pkgOfPa pa * 4 + d)
  | .tmb d _ => some (pkgOfPa pa * 4 + d)
  | _ => none

/-- Home core of an address (R129). -/
def homeCore (pa : Nat) : Option Nat :=
  match placeOf pa with
  | .hbm s o => some ((pkgOfPa pa * 4 + s / 4) * 2048 + (o / 4096) % Config.coresPerDie)
  | .ls d c _ => some ((pkgOfPa pa * 4 + d) * 2048 + c)
  | _ => none

/-- First address of a core's local store (R129). -/
def lsBase (core : Nat) : Nat :=
  (core / 8192) * 2 ^ 45 + 2 ^ 44 + (core / 2048 % 4) * 2 ^ 30 + (core % 2048) * 2 ^ 19

def isHbm (pa : Nat) : Bool := match placeOf pa with | .hbm _ _ => true | _ => false
def isLs (pa : Nat) : Bool := match placeOf pa with | .ls _ _ _ => true | _ => false
def isHost (pa : Nat) : Bool := match placeOf pa with | .host _ _ => true | _ => false

/-! ## Entries of the pod -/

def dieOfCore (c : Nat) : Nat := c / 2048
def pkgOfCore (c : Nat) : Nat := c / 8192
def quadOfCore (c : Nat) : Nat := dieOfCore c * 512 + c % 2048 / 4
def coreOfTid (t : Nat) : Nat := t / 8
def slotOfTid (t : Nat) : Nat := t % 8

def State.coreAt (s : State) (c : Nat) : Core := (mapGet s.cores c).getD Core.reset
def State.setCore (s : State) (c : Nat) (x : Core) : State := { s with cores := mapPut s.cores c x }
def State.updCore (s : State) (c : Nat) (f : Core → Core) : State := s.setCore c (f (s.coreAt c))
def State.quadAt (s : State) (q : Nat) : Quad := (mapGet s.quads q).getD Quad.reset
def State.setQuad (s : State) (q : Nat) (x : Quad) : State := { s with quads := mapPut s.quads q x }
def State.updQuad (s : State) (q : Nat) (f : Quad → Quad) : State := s.setQuad q (f (s.quadAt q))
def State.dieAt (s : State) (d : Nat) : Die := (mapGet s.dies d).getD Die.reset
def State.setDie (s : State) (d : Nat) (x : Die) : State := { s with dies := mapPut s.dies d x }
def State.updDie (s : State) (d : Nat) (f : Die → Die) : State := s.setDie d (f (s.dieAt d))
def State.pkgAt (s : State) (p : Nat) : Pkg := (mapGet s.pkgs p).getD Pkg.reset
def State.setPkg (s : State) (p : Nat) (x : Pkg) : State := { s with pkgs := mapPut s.pkgs p x }
def State.updPkg (s : State) (p : Nat) (f : Pkg → Pkg) : State := s.setPkg p (f (s.pkgAt p))
def State.partAt (s : State) (p : Nat) : Partition := (mapGet s.parts p).getD Partition.reset
def State.setPart (s : State) (p : Nat) (x : Partition) : State := { s with parts := mapPut s.parts p x }
def State.updPart (s : State) (p : Nat) (f : Partition → Partition) : State := s.setPart p (f (s.partAt p))
def State.barrierAt (s : State) (k : Nat) : Barrier := (mapGet s.barriers k).getD Barrier.reset

def State.thread? (s : State) (t : Nat) : Option Thread := mapGet s.threads t
def State.setThread (s : State) (t : Nat) (x : Thread) : State := { s with threads := mapPut s.threads t x }
def State.updThread (s : State) (t : Nat) (f : Thread → Thread) : State :=
  match s.thread? t with
  | some x => s.setThread t (f x)
  | none => s

/-- The thread an instruction executes for. -/
def State.thr (s : State) : Thread := (s.thread? s.cur).getD (Thread.new 0 0 0)
def State.setThr (s : State) (x : Thread) : State := s.setThread s.cur x
def State.core (s : State) : Nat := coreOfTid s.cur

/-- The threads of a core, by slot. -/
def State.coreThreads (s : State) (core : Nat) : List (Nat × Thread) :=
  (List.range 8).filterMap (fun j => (s.thread? (core * 8 + j)).map (fun t => (core * 8 + j, t)))

/-- Vector registers left in a core's pool (R8, R69). -/
def State.poolFree (s : State) (core : Nat) : Nat :=
  Config.poolSize - (s.coreThreads core).foldl (fun n e => n + e.2.alot) 0

/-- The lowest-numbered free slot of a core: no thread, not disabled for power, not the handler's (R47); a vacated
core counts as occupied while its forwarding entry stands (R237). -/
def State.freeSlot (s : State) (core : Nat) : Option Nat :=
  let c := s.coreAt core
  if (mapGet (s.dieAt (dieOfCore core)).forward core).isSome then none
  else (List.range 8).find? (fun j => (s.thread? (core * 8 + j)).isNone && !c.disabled.getLsbD j && j != c.ovh)

/-- Has a parked `TASK.wait` reached the retry limit of `syncl`, one retry for each 1 μs (R177)? -/
def State.postTimedOut (s : State) (t : Thread) (since : Nat) : Bool :=
  t.syncl != 0 && decide (since + Config.nsToCycles (1000 * t.syncl.toNat) ≤ s.cycle)

/-- Matrix commands of a thread that are accepted and not completed (R120). -/
def State.mxOutstanding (s : State) (core uid : Nat) : Nat :=
  let c := s.coreAt core
  (c.mxQ.filter (fun m => m.uid == uid)).length +
    (match c.mxRun with
     | some r => if r.cmd.uid == uid then 1 else 0
     | none => 0)

/-- The partition of a die or core (R231). -/
def State.partOfDie (s : State) (d : Nat) : Option Nat := (s.dieAt d).part
def State.partOfCore (s : State) (c : Nat) : Option Nat := s.partOfDie (dieOfCore c)

/-- The partition state of the die; a die of no partition counts as not in RUN. -/
def State.coreRuns (s : State) (c : Nat) : Bool :=
  match s.partOfCore c with
  | some p => (s.partAt p).st == .run
  | none => false

/-- Pod time in nanoseconds (R320). -/
def State.podTime (s : State) : Nat := Config.cyclesToNs s.cycle

/-- Adds an entry to a die's error log: in time order, at one time by ascending core; a full ring loses its oldest
entry (R264). -/
def State.logError (s : State) (die : Nat) (e : LogEnt) : State :=
  s.updDie die (fun d =>
    let before (x : LogEnt) : Bool := decide (x.time < e.time) || decide (x.core ≤ e.core)
    let l := d.log.filter before ++ [e] ++ d.log.filter (fun x => !before x)
    if d.log.length < 4096 then { d with log := l } else { d with log := l.tail, logLost := d.logLost + 1 })

/-- An entry of the error log at this instant for a core, or for the hub with core number 2,047 (R264). -/
def State.logEnt (s : State) (core slot kind cause addr detail : Nat) : LogEnt :=
  { detail := detail, addr := addr, cause := cause, kind := kind, pkg := pkgOfCore core,
    die := dieOfCore core % 4, core := core % 2048, slot := slot, time := s.podTime }

/-! ## The home's view of memory (R150, R151): dirty home-slice bytes over HBM -/

def State.byteAt (s : State) (pa : Nat) : Byte :=
  match mapGet s.slice pa with
  | some b => b
  | none => Memory.read s.mem pa

/-- `n` bytes from `pa`, little-endian (R3). -/
def State.readN (s : State) (pa : Nat) : Nat → Nat
  | 0 => 0
  | n + 1 => (s.byteAt pa).toNat + 256 * s.readN (pa + 1) n

/-- Writes one byte at the home: into the home slice for an HBM line, else in place. -/
def State.setByte (s : State) (pa : Nat) (b : Byte) : State :=
  if isHbm pa then { s with slice := mapPut s.slice pa b }
  else { s with mem := Memory.write s.mem pa b }

def State.setBytes (s : State) (pa : Nat) : Nat → Nat → State
  | 0, _ => s
  | n + 1, v => (s.setByte pa (BitVec.ofNat 8 v)).setBytes (pa + 1) n (v / 256)

/-- The size of the unit that poison covers (R230). -/
def granuleSize (pa : Nat) : Nat := if isLs pa then 8 else 64

/-- First addresses of the poison granules that `n` bytes at `pa` touch. -/
def granules (pa n : Nat) : List Nat :=
  let g := granuleSize pa
  (List.range ((pa % g + n + g - 1) / g)).map (fun j => pa / g * g + j * g)

/-- A poisoned granule among those that `n` bytes at `pa` touch (R230). -/
def State.poisoned (s : State) (pa n : Nat) : Bool := (granules pa n).any (fun g => s.poison.contains g)

/-- A write that would cover a poisoned granule in part (R230). -/
def State.partPoison (s : State) (pa n : Nat) : Bool :=
  let g := granuleSize pa
  (granules pa n).any (fun a => s.poison.contains a && !(decide (pa ≤ a) && decide (a + g ≤ pa + n)))

/-- What every write to memory does besides the bytes: seam fields become 0 (R122), and granules
wholly covered lose their poison (R230). -/
def State.wrote (s : State) (pa n : Nat) : State :=
  let g := granuleSize pa
  { s with
    seams := if isLs pa then
        s.seams.filter (fun e => !(decide (pa / 64 ≤ e.1) && decide (e.1 ≤ (pa + n - 1) / 64))) else s.seams
    poison := s.poison.filter (fun a => !((granules pa n).contains a && decide (pa ≤ a) && decide (a + g ≤ pa + n))) }

/-- `n` bytes written at the home. -/
def State.homeWrite (s : State) (pa n v : Nat) : State :=
  if n == 0 then s else (s.setBytes pa n v).wrote pa n

/-- Bytes written at the home one by one, as the home merges a clean (R151). -/
def State.homeWriteCells (s : State) (l : List Host.Cell) : State :=
  l.foldl (fun s c => s.homeWrite c.1 1 c.2.toNat) s

/-- Is every byte of the granule at `g` among the cells? -/
def cellsCover (l : List Host.Cell) (g : Nat) : Bool :=
  (List.range (granuleSize g)).all (fun j => l.any (fun c => c.1 == g + j))

/-- A poisoned granule that the cells cover in part (R230). -/
def State.cellsPoison (s : State) (l : List Host.Cell) : Bool :=
  l.any (fun c => s.poison.contains (c.1 / granuleSize c.1 * granuleSize c.1) &&
    !cellsCover l (c.1 / granuleSize c.1 * granuleSize c.1))

/-- Writes cells at their home, clearing the poison of granules they cover. -/
def State.writeCells (s : State) (l : List Host.Cell) : State :=
  let s1 := s.homeWriteCells l
  { s1 with poison := s1.poison.filter (fun g => !cellsCover l g) }

/-- Dirty bytes of a home slice written to HBM: of two for one address the first stands. -/
def writeBack (mem l : List Host.Cell) : List Host.Cell := l.foldr (fun c m => Memory.write m c.1 c.2) mem

/-- Bytes that the home slice holds dirty go to HBM. -/
def State.flushSpan (s : State) (pa n : Nat) : State :=
  { s with
    mem := writeBack s.mem (s.slice.filter (fun c => decide (pa ≤ c.1) && decide (c.1 < pa + n)))
    slice := s.slice.filter (fun c => !(decide (pa ≤ c.1) && decide (c.1 < pa + n))) }

/-- The full/empty tag of an 8-byte word (R136). -/
def State.tagAt (s : State) (pa : Nat) : Bool := s.tags.contains (pa / 8)
def State.setTag (s : State) (pa : Nat) (full : Bool) : State :=
  { s with tags := if full then setIns s.tags (pa / 8) else setDel s.tags (pa / 8) }

/-- The seam field of a line, 0 outside local store (R122). -/
def State.seamAt (s : State) (pa : Nat) : BitVec 16 := (mapGet s.seams (pa / 64)).getD 0
def State.setSeam (s : State) (pa : Nat) (t : BitVec 16) : State :=
  if t == 0 then { s with seams := mapDel s.seams (pa / 64) }
  else { s with seams := mapPut s.seams (pa / 64) t }

/-- Local-store bytes from offset `lo` up to `hi` read as zero, empty, with seam field 0 (R51, R52, R79). -/
def State.clearStore (s : State) (core lo hi : Nat) : State :=
  let a := lsBase core + lo
  let b := lsBase core + hi
  { s with
    mem := Memory.clear s.mem a b
    tags := s.tags.filter (fun w => !(decide (a ≤ w * 8) && decide (w * 8 < b)))
    seams := s.seams.filter (fun e => !(decide (a ≤ e.1 * 64) && decide (e.1 * 64 < b)))
    poison := s.poison.filter (fun g => !(decide (a ≤ g) && decide (g < b))) }

/-! ## Visitor lines (R150) -/

def visitorKey (die line : Nat) : Nat := die * 2 ^ 46 + line

/-- Where the poison of a visitor line stands in `poison`, beyond every physical address. -/
def visitorPoison (key : Nat) : Nat := 2 ^ 64 + key

def lineByte (d : BitVec 512) (o : Nat) : Byte := (d.extractLsb' (8 * o) 8)

def setLineByte (d : BitVec 512) (o : Nat) (b : Byte) : BitVec 512 :=
  (d &&& ~~~(0xFF#512 <<< (8 * o))) ||| (b.setWidth 512 <<< (8 * o))

/-- The line as the home holds it. -/
def State.homeLine (s : State) (line : Nat) : BitVec 512 := BitVec.ofNat 512 (s.readN (line * 64) 64)

/-- Fills a visitor line with the 64 bytes fetched from its home. -/
def State.fillVisitor (s : State) (die line : Nat) (d : BitVec 512) (poison : Bool) : State :=
  let key := visitorKey die line
  { s with
    visitors := mapPut s.visitors key { data := d, dirty := 0 }
    poison := if poison then setIns s.poison (visitorPoison key) else setDel s.poison (visitorPoison key) }

/-- `n` bytes at offset `o` of a line. -/
def lineRead (d : BitVec 512) (o n : Nat) : Nat := (d.toNat >>> (8 * o)) % 2 ^ (8 * n)

/-- Writes `n` bytes at offset `o` of a visitor line and marks them dirty (R151). -/
def vlineWrite (l : VLine) (o n v : Nat) : VLine :=
  let m : BitVec 512 := BitVec.ofNat 512 ((2 ^ (8 * n) - 1) <<< (8 * o))
  { data := (l.data &&& ~~~m) ||| (BitVec.ofNat 512 (v <<< (8 * o)) &&& m)
    dirty := l.dirty ||| BitVec.ofNat 64 ((2 ^ n - 1) <<< o) }

/-- The dirty bytes of a visitor line, as cells of its home. -/
def dirtyCells (line : Nat) (l : VLine) : List Host.Cell :=
  (List.range 64).filterMap (fun o =>
    if l.dirty.getLsbD o then some (line * 64 + o, lineByte l.data o) else none)

/-- Writes a visitor line's dirty bytes to its home (R151), carrying poison with them; a whole line clears the home's own
(R230). -/
def State.cleanVisitor (s : State) (die line : Nat) : State :=
  let key := visitorKey die line
  match mapGet s.visitors key with
  | none => s
  | some l =>
    let s1 := s.writeCells (dirtyCells line l)
    let s2 := { s1 with visitors := mapPut s1.visitors key { l with dirty := 0 } }
    if s.poison.contains (visitorPoison key) && l.dirty != 0 then
      { s2 with poison := setIns s2.poison (line * 64) } else s2

/-- Drops a visitor line; its dirty bytes are lost (R162). Fetches on their way count as made before it, so they fill
no line. -/
def State.dropVisitor (s : State) (die line : Nat) : State :=
  let key := visitorKey die line
  State.updDie { s with visitors := mapDel s.visitors key, poison := setDel s.poison (visitorPoison key) } die
    (fun d => { d with invEpoch := d.invEpoch + 1 })

/-- Writes the home slice's dirty bytes of a line to HBM (R162). -/
def State.cleanSlice (s : State) (line : Nat) : State :=
  { s with
    mem := writeBack s.mem (s.slice.filter (fun c => c.1 / 64 == line))
    slice := s.slice.filter (fun c => c.1 / 64 != line) }

/-- Drops the home slice's dirty bytes of a line (R162). -/
def State.dropSlice (s : State) (line : Nat) : State :=
  { s with slice := s.slice.filter (fun c => c.1 / 64 != line), dirs := mapDel s.dirs line }

/-! ## Translation (R128 to R135) -/

/-- Bits [hi:lo] of a word. -/
def field (w : Word) (hi lo : Nat) : Nat := (w.toNat >>> lo) % 2 ^ (hi + 1 - lo)

/-- A leaf found for an address. -/
structure Leaf where
  entry : Word
  level : Nat
  vbase : Nat
  size : Nat
  deriving DecidableEq, Repr

/-- What an access needs of its page (R134): rows 7, 8 and 9. `laterCow`: row 9 is checked once every byte has
passed the others. -/
structure Access where
  rd : Bool := false
  wr : Bool := false
  ex : Bool := false
  fe : Bool := false
  laterCow : Bool := false
  deriving DecidableEq, Repr

def loadA : Access := { rd := true }
def storeA : Access := { wr := true }
def fetchA : Access := { ex := true }
def amoA : Access := { rd := true, wr := true }

/-- A translated address with the leaf it was translated by. -/
structure Phys where
  va : Nat
  pa : Nat
  leaf : Leaf
  deriving DecidableEq, Repr

def Leaf.home (l : Leaf) : Nat := field l.entry 54 53
def Leaf.fe (l : Leaf) : Bool := l.entry.getLsbD 63
def Leaf.fmt (l : Leaf) : Nat := field l.entry 60 57
def Leaf.blk (l : Leaf) : Nat := field l.entry 56 55
def Leaf.soff (l : Leaf) : Nat := field l.entry 11 9

def mkTrap (cause addr info : Nat) : Trap :=
  { cause := cause, addr := BitVec.ofNat 64 addr, info := BitVec.ofNat 64 info }

/-- `tinfo` of a translation fault: reason and level (R134). -/
def walkTrap (cause v reason level : Nat) : Trap := mkTrap cause v (reason + 16 * level)

/-- Malformed entries (R130 to R134 row 3). -/
def malformed (e : Word) (level : Nat) : Bool :=
  let isLeaf := field e 3 1 != 0
  if isLeaf then
    let sz := field e 8 5
    let fmt := field e 60 57
    decide (level < 2) ||
    (if level == 3 then decide (8 < sz) else decide (sz < 9)) ||
    decide (field e 51 12 % 2 ^ sz != 0) || decide (8 < fmt) || e.getLsbD 52 ||
    ((fmt == 0 || fmt == 7 || fmt == 8) && (field e 56 55 != 0 || field e 11 9 != 0)) ||
    (e.getLsbD 61 && e.getLsbD 62)
  else
    level == 3 || field e 63 52 != 0 || field e 11 4 != 0

/-- A physical address that a page or a table may name (R129 and R134 row 5): mapped, on a package of the
pod and, for local store, below the core's local-store size. -/
def State.mappable (s : State) (pa : Nat) : Bool :=
  (s.pkgAt (pkgOfPa pa)).member &&
  (match placeOf pa with
   | .none => false
   | .ls d c o => decide (o < 65536 * (s.coreAt ((pkgOfPa pa * 4 + d) * 2048 + c)).csplit)
   | _ => true)

/-- Where the forwarding entries send what is addressed to a core (R237). -/
def forwardFrom (l : List (Nat × Nat)) : Nat → Nat → Nat
  | 0, c => c
  | n + 1, c => match mapGet l c with
    | some t => forwardFrom l n t
    | none => c

/-- An address in the local store of a vacated core stands for the same offset in the core that its
forwarding entry names (R237). -/
def State.forwardPa (s : State) (pa : Nat) : Nat :=
  match placeOf pa with
  | .ls d c o =>
    let die := pkgOfPa pa * 4 + d
    let l := (s.dieAt die).forward
    let t := forwardFrom l l.length (die * 2048 + c)
    if t == die * 2048 + c then pa else lsBase t + o
  | _ => pa

/-- The table entry at index `idx` of a table, read where a forwarding entry sends it (R130, R237). -/
def State.tableEntry (s : State) (table idx : Nat) : Word := BitVec.ofNat 64 (s.readN (s.forwardPa (table + 8 * idx)) 8)

/-- One walk from `table` at `level`, with the levels left (R130, R132). -/
def State.walkFrom (s : State) (v : Nat) : Nat → Nat → Nat → Except Trap Leaf
  | 0, level, _ => .error (walkTrap 0x07 v 2 level)
  | n + 1, level, table =>
    let idx := (v >>> (39 - 9 * level)) % 512
    let e := s.tableEntry table idx
    if !e.getLsbD 0 then .error (walkTrap 0x07 v 1 level)
    else if malformed e level then .error (walkTrap 0x07 v 2 level)
    else if field e 3 1 == 0 then
      let next := field e 51 12 * 4096
      if s.mappable (s.forwardPa next) then s.walkFrom v n (level + 1) next else .error (walkTrap 0x08 v 6 level)
    else
      let sz := field e 8 5
      let count := if level == 3 then 2 ^ sz else 2 ^ (sz - 9)
      let first := s.tableEntry table (idx / count * count)
      if first != e then .error (walkTrap 0x07 v 3 level)
      else
        let size := 4096 * 2 ^ sz
        .ok { entry := e, level := level, vbase := v / size * size, size := size }

def tlbFind (l : List TlbEnt) (root v : Nat) : Option Leaf :=
  match l.find? (fun e => e.root == root && decide (e.base ≤ v) && decide (v < e.base + e.size)) with
  | some e => some { entry := e.leaf, level := e.level, vbase := e.base, size := e.size }
  | none => none

/-- The root table of the core's partition (R128). -/
def State.rootOf (s : State) (c : Nat) : Nat :=
  match s.partOfCore c with
  | some p => (s.partAt p).root
  | none => 0

/-- The deepest table pointer that the die's walk cache holds for an address (R135). -/
def walkFind (l : List WalkEnt) (root v : Nat) : Option WalkEnt :=
  (l.filter (fun e => e.root == root && decide (e.base ≤ v) && decide (v < e.base + e.size))).foldl (fun best e =>
    match best with
    | none => some e
    | some b => if b.level < e.level then some e else some b) none

/-- A walk for an address, from the pointer that the core's die holds or from the root table (R130, R135). -/
def State.walk (s : State) (c v root : Nat) : Except Trap Leaf :=
  match walkFind (s.dieAt (dieOfCore c)).walks root v with
  | some e => s.walkFrom v (4 - e.level) e.level e.table
  | none => s.walkFrom v 4 0 root

/-- The leaf for an address: the core's TLB, then its quad's, then a walk (R135). -/
def State.leafFor (s : State) (c v : Nat) : Except Trap Leaf :=
  let root := s.rootOf c
  match tlbFind (s.coreAt c).tlb root v with
  | some l => .ok l
  | none =>
    match tlbFind (s.quadAt (quadOfCore c)).tlb root v with
    | some l => .ok l
    | none => if s.mappable (s.forwardPa root) then s.walk c v root else .error (walkTrap 0x08 v 6 0)

/-- Rows 5 to 9 of R134 for a leaf; a copy-on-write fault's `tinfo` is 0 (log 84). -/
def State.checkLeaf (s : State) (m : Mode) (x : Access) (v : Nat) (l : Leaf) : Except Trap Phys :=
  let e := l.entry
  let pa := s.forwardPa (field e 51 12 * 4096 + (v - l.vbase))
  let bad (cause reason : Nat) : Except Trap Phys := .error (walkTrap cause v reason l.level)
  if !s.mappable pa then bad 0x08 6
  else if (l.home == 2) != isLs pa then bad 0x08 6
  else if l.fe && isHost pa then bad 0x08 6
  else if m == .user && !e.getLsbD 4 then bad 0x08 5
  else if (x.rd && !e.getLsbD 1) || (x.wr && !e.getLsbD 2) || (x.ex && !e.getLsbD 3) then bad 0x08 4
  else if x.fe && !l.fe then bad 0x08 8
  else if x.wr && e.getLsbD 62 && !x.laterCow then .error (mkTrap 0x0A v 0)
  else .ok { va := v, pa := pa, leaf := l }

/-- Translation and protection of one access (R134). -/
def State.translate (s : State) (c : Nat) (m : Mode) (x : Access) (va : Word) : Except Trap Phys :=
  let v := va.toNat
  if 2 ^ 48 ≤ v then .error (walkTrap 0x08 v 7 0)
  else match s.leafFor c v with
    | .error t => .error t
    | .ok l => s.checkLeaf m x v l

/-- Is the access kept in a visitor line of the core's die (R150)? -/
def Phys.visits (p : Phys) (core : Nat) : Bool :=
  p.leaf.home == 0 && isHbm p.pa && homeDie p.pa != some (dieOfCore core)

/-- A byte as a thread of the core stores it, without the fabric: into the visitor line or at the home, where the line's L1
copies are invalidated (R152; log 91). -/
def State.putByte (s : State) (core : Nat) (p : Phys) (b : Byte) : State :=
  if p.visits core then
    let die := dieOfCore core
    let line := p.pa / 64
    let s1 := match mapGet s.visitors (visitorKey die line) with
      | some _ => s
      | none => s.fillVisitor die line (s.homeLine line) (s.poisoned (line * 64) 64)
    match mapGet s1.visitors (visitorKey die line) with
    | some l => { s1 with visitors := mapPut s1.visitors (visitorKey die line) (vlineWrite l (p.pa % 64) 1 b.toNat) }
    | none => s1
  else
    let s1 : State := { s with dirs := mapDel s.dirs (p.pa / 64) }
    if p.leaf.home == 3 && isHbm p.pa then (s1.homeWrite p.pa 1 b.toNat).flushSpan p.pa 1
    else s1.homeWrite p.pa 1 b.toNat

/-- Poison that a store of one byte to `p` meets (R230). -/
def State.bytePoison (s : State) (core : Nat) (p : Phys) : Bool :=
  if p.visits core then
    match mapGet s.visitors (visitorKey (dieOfCore core) (p.pa / 64)) with
    | some _ => s.poison.contains (visitorPoison (visitorKey (dieOfCore core) (p.pa / 64)))
    | none => s.poisoned p.pa 1
  else s.poisoned p.pa 1

/-- Translates `n` bytes one by one as supervisor stores. -/
def State.frameBytes (s : State) (core : Nat) (va : Word) : Nat → Except Trap (List Phys)
  | 0 => .ok []
  | n + 1 =>
    match s.translate core .super storeA va with
    | .error t => .error t
    | .ok p =>
      match s.frameBytes core (va + 1) n with
      | .error t => .error t
      | .ok l => .ok (p :: l)

/-- Where the poison of a byte's granule stands: in the visitor line or at the home (R230). -/
def Phys.granule (p : Phys) (core : Nat) : Nat :=
  if p.visits core then visitorPoison (visitorKey (dieOfCore core) (p.pa / 64)) else p.pa / granuleSize p.pa * granuleSize p.pa

/-- Do the bytes cover the granule that starts at `g`? No 8 bytes cover a line. -/
def coversGranule (l : List Phys) (g : Nat) : Bool :=
  isLs g && (List.range 8).all (fun j => l.any (fun p => p.pa == g + j))

/-- The request itself, without the mark of an uncached page or the tag of a line. -/
def Req.base : Req → Req
  | .unc r => r
  | .seam _ r => r
  | r => r

/-- The word (or register) a listed request waits on. -/
def Req.word (q : Req) : Option Nat := match q.base with
  | .feLd _ pa _ => some (pa / 8)
  | .feSt _ pa _ _ => some (pa / 8)
  | .peg pa _ => some (pa / 8)
  | .rfill core slot reg _ _ => some (2 ^ 60 + (core * 16 + (match slot with | some x => x | none => 8)) * 16 + reg)
  | _ => none

/-- Each number once. -/
def firsts : List Nat → List Nat
  | [] => []
  | a :: r => if r.contains a then firsts r else a :: firsts r

/-- The retry lists of waiters on words that a trap frame has changed are examined before anything else happens (R164). -/
def State.lookAt (s : State) (words : List Nat) : State :=
  let on (w : Waiter) : Bool := w.refusedAt.isNone && (match w.req.word with
    | some x => words.contains x
    | none => false)
  { s with turns := (firsts ((s.retry.filter on).map (fun w => w.home))).map (fun h => .event (.retryListExamine h)) ++ s.turns }

/-- A supervisor store of 8 bytes with tag 0, as trap entry makes it (R222). It faults on a poisoned granule that it
covers in part; a poisoned value travels with its bytes, but never to host memory (R230). -/
def State.frameStore (s : State) (core : Nat) (va v : Word) (bad : Bool) : Except Trap State :=
  match s.frameBytes core va 8 with
  | .error t => .error t
  | .ok l =>
    match l.find? (fun p => (bad && isHost p.pa) || (s.bytePoison core p && !coversGranule l (p.granule core))) with
    | some p => .error (mkTrap 0x13 p.va 0)
    | none =>
      let s1 := (l.zip (List.range 8)).foldl (fun s e => s.putByte core e.1 (v.extractLsb' (8 * e.2) 8)) s
      let gs := l.map (fun p => p.granule core)
      let rest := s1.poison.filter (fun g => !(gs.contains g && coversGranule l g))
      .ok (State.lookAt { s1 with poison := if bad then gs.foldl setIns rest else rest }
        ((l.filter (fun p => !p.visits core)).map (fun p => p.pa / 8)))

/-! ## Chains (R184): neighbours on the launch grid (R43) -/

/-- The core one row below (`down`) or above on the launch grid, on the same die. -/
def neighbour (c : Nat) (down : Bool) : Option Nat :=
  let n := c % 2048
  let q := n / 4
  let p := n % 4
  let row := 2 * (q / 24) + p / 2
  if down then
    if row + 1 < 24 then
      let r := row + 1
      some (dieOfCore c * 2048 + 4 * (r / 2 * 24 + q % 24) + (r % 2) * 2 + p % 2)
    else none
  else if 0 < row then
    let r := row - 1
    some (dieOfCore c * 2048 + 4 * (r / 2 * 24 + q % 24) + (r % 2) * 2 + p % 2)
  else none

/-- The queue from a core toward the core below or above. -/
def chainKey (src : Nat) (down : Bool) : Nat := 2 * src + (if down then 0 else 1)

/-- The chain queue a receiving port of kind 6 or 7 on core `c` pops (R184). -/
def chainIn (c kind : Nat) : Option Nat :=
  if kind == 6 then (neighbour c false).map (fun n => chainKey n true)
  else (neighbour c true).map (fun n => chainKey n false)

/-! ## Registers (R62 to R68, R72) -/

/-- The writes to a shared register that have landed at this cycle (R42). -/
def landed (cycle : Nat) (w : CWrite) : Bool := decide (w.issued + 8 ≤ cycle)

/-- The last value landed in `c`n. -/
def State.cVal (s : State) (core : Nat) (n : Fin 16) : Word :=
  let x := s.coreAt core
  (x.cWrites.filter (fun w => w.n == n && landed s.cycle w)).foldl (fun v w => w.v.getD v) (x.c.get n)

def State.cFull (s : State) (core : Nat) (n : Fin 16) : Bool :=
  let x := s.coreAt core
  (x.cWrites.filter (fun w => w.n == n && landed s.cycle w)).foldl (fun _ w => w.v.isSome) (x.cFull.getLsbD n.val)

def State.cPois (s : State) (core : Nat) (n : Fin 16) : Bool :=
  let x := s.coreAt core
  x.cPoison.getLsbD n.val && !x.cWrites.any (fun w => w.n == n && w.v.isSome && landed s.cycle w)

/-- An identity register of a core, read by a thread of slot `slot` (R72). -/
def State.ident (s : State) (core slot : Nat) (n : Fin 16) : Word :=
  let x := s.coreAt core
  match n.val with
  | 0 => BitVec.ofNat 64 (core % 2048)
  | 1 => BitVec.ofNat 64 (core % 2048 / 4)
  | 2 => BitVec.ofNat 64 (dieOfCore core % 4)
  | 3 => BitVec.ofNat 64 (pkgOfCore core)
  | 4 => x.i4
  | 5 => x.i5
  | 6 => x.i6
  | 7 => x.i7
  | 8 => x.i8
  | 9 => BitVec.ofNat 64 slot
  | 10 => x.i10
  | 11 => x.i11
  | _ => 0

/-- The value of a scalar operand for the thread. -/
def State.sc (s : State) (r : Sc) : Word :=
  match r with
  | .g n => s.thr.g.get n
  | .c n => s.cVal s.core n
  | .i n => s.ident s.core (slotOfTid s.cur) n
  | .zr => 0

def State.scFull (s : State) (r : Sc) : Bool :=
  match r with
  | .g n => s.thr.gFull.getLsbD n.val
  | .c n => s.cFull s.core n
  | _ => true

def State.scPois (s : State) (r : Sc) : Bool :=
  match r with
  | .g n => s.thr.gPoison.getLsbD n.val
  | .c n => s.cPois s.core n
  | _ => false

def setBit {w : Nat} (b : BitVec w) (n : Nat) : BitVec w := b ||| (1#w <<< n)
def clrBit {w : Nat} (b : BitVec w) (n : Nat) : BitVec w := b &&& ~~~(1#w <<< n)

/-- `g`n of a thread gets a value and becomes full (R65). -/
def Thread.putG (t : Thread) (n : Fin 16) (v : Word) : Thread :=
  { t with g := t.g.set n v, gFull := setBit t.gFull n.val, gPoison := clrBit t.gPoison n.val }

/-- `v`n of a thread gets a value and becomes full (R65). -/
def Thread.putV (t : Thread) (n : VReg) (x : Vec) : Thread :=
  { t with v := t.v.set n x, vFull := setBit t.vFull n.val, vPoison := clrBit t.vPoison n.val }

/-- A mask register of a thread; `k0` reads as all ones (R303) and is never written. -/
def Thread.mask (t : Thread) (n : KReg) : Mask := if n == 0 then BitVec.allOnes 256 else t.k.get n
def Thread.putK (t : Thread) (n : KReg) (x : Mask) : Thread :=
  if n == 0 then t else { t with k := t.k.set n x, kPoison := clrBit t.kPoison n.val }

/-- A mask register that an error has poisoned (R230); `k0` is a constant. -/
def Thread.maskBad (t : Thread) (n : KReg) : Bool := n != 0 && t.kPoison.getLsbD n.val

/-- A change of a shared register enters those on their way, in the order in which they land: by cycle, and within one
cycle local changes before remote fills (R42, R66). -/
def cInsert : List CWrite → CWrite → List CWrite
  | [], w => [w]
  | x :: r, w => if x.issued == w.issued && x.fill && !w.fill then w :: x :: r else x :: cInsert r w

def State.changeC (s : State) (core : Nat) (w : CWrite) : State :=
  s.updCore core (fun x => { x with cWrites := cInsert x.cWrites w })

/-- A write to a shared register, landing 7 cycles after it issues (R42). -/
def State.putC (s : State) (core : Nat) (n : Fin 16) (v : Word) : State :=
  s.changeC core { n := n, v := some v, issued := s.cycle, fill := false }

/-- A write to a scalar destination; `zr` discards it (R67), an `i` destination never gets here (R68). -/
def State.putSc (s : State) (r : Sc) (v : Word) : State :=
  match r with
  | .g n => s.setThr (s.thr.putG n v)
  | .c n => s.putC s.core n v
  | _ => s

/-- Operand value of a scalar register (R20), as `tinfo` of a poison fault gives it. -/
def scNum : Sc → Nat
  | .g n => n.val
  | .c n => 16 + n.val
  | .i n => 32 + n.val
  | .zr => 63

/-- The port bound to a vector register. -/
def Thread.port? (t : Thread) (v : VReg) : Option Port := mapGet t.ports v.val

/-- Does the register read as full (R65, R66)? A bound chain port is empty while its queue is. -/
def State.vFullAt (s : State) (v : VReg) : Bool :=
  match s.thr.port? v with
  | some p =>
    if p.kind == 6 || p.kind == 7 then
      p.drawn.isSome ||
        (match chainIn s.core p.kind with
         | some q => !((mapGet s.chains q).getD []).isEmpty
         | none => false)
    else true
  | none => s.thr.vFull.getLsbD v.val

/-! ## The execution of one instruction -/

/-- Why a meaning ends early: a fault of the instruction (`keep`: its partial progress or its flags stay,
R6, R75), a wait, or a stop of the model. -/
inductive Stop where
  | trap (t : Trap) (keep : Bool)
  | park (p : Park)
  | fault (f : Fault)
  deriving DecidableEq, Repr

/-- Where the thread goes on. -/
inductive Next where
  | seq
  | jump (pc : Word)
  /-- `YIELD`: not ready before the cycle given (R351). -/
  | yielded (upTo : Nat)
  /-- The thread ended, left the core or goes on as the meaning has set it up. -/
  | gone
  deriving DecidableEq, Repr

abbrev M := EStateM Stop State

/-- A fault with `taddr` 0 and `tinfo` 0. -/
def raise {α : Type} (cause : Nat) : M α := throw (.trap (mkTrap cause 0 0) false)
/-- A fault with its `taddr` and `tinfo`. -/
def raiseAt {α : Type} (cause addr info : Nat) : M α := throw (.trap (mkTrap cause addr info) false)
def raiseT {α : Type} (t : Trap) : M α := throw (.trap t false)
def park {α : Type} (p : Park) : M α := throw (.park p)

/-- A scalar operand: as it was read when the instruction began, if it has waited since, else the register. -/
def State.operand (s : State) (r : Sc) : Word :=
  match s.thr.kept.find? (fun e => e.1 == r) with
  | some e => e.2
  | none => s.sc r

/-- Has a waiting instruction read the register already? -/
def State.isKept (s : State) (r : Sc) : Bool := s.thr.kept.any (fun e => e.1 == r)

def rdS (r : Sc) : M Word := fun s => .ok (s.operand r) s
def wrS (r : Sc) (v : Word) : M Unit := fun s => .ok () (s.putSc r v)
def rdK (k : KReg) : M Mask := fun s => .ok (s.thr.mask k) s
def wrK (k : KReg) (x : Mask) : M Unit := fun s => .ok () (s.setThr (s.thr.putK k x))
def getThr : M Thread := fun s => .ok s.thr s
def setThrM (t : Thread) : M Unit := fun s => .ok () (s.setThr t)
def updThr (f : Thread → Thread) : M Unit := fun s => .ok () (s.setThr (f s.thr))
def ofExcept {α : Type} (r : Except Trap α) : M α := fun s =>
  match r with
  | .ok a => .ok a s
  | .error t => .error (.trap t false) s

/-- Translation for the thread in its mode. -/
def trans (x : Access) (va : Word) : M Phys := fun s =>
  match s.translate s.core s.thr.mode x va with
  | .ok p => .ok p s
  | .error t => .error (.trap t false) s

/-- What an instruction names, for the checks before its own operation (R94): scalar destination, scalar
sources, every vector register, the vector registers that must be full, the mask registers read, whether it is
privileged, and whether a run of registers passes the allotment. -/
structure Uses where
  dst : Option Sc := none
  rd : List Sc := []
  vs : List VReg := []
  vrd : List VReg := []
  krd : List KReg := []
  priv : Bool := false
  allot : Bool := false
  deriving DecidableEq, Repr

def Sc.isI : Sc → Bool
  | .i _ => true
  | _ => false

/-- Steps 5 to 7 of R94, the register wait of R65 and the poison of the registers read (R230). -/
def checkUses (u : Uses) (s : State) : Option Stop :=
  let t := s.thr
  if u.priv && t.mode == .user then some (.trap (mkTrap 0x1D 0 0) false)
  else if (match u.dst with | some r => Sc.isI r | none => false) then some (.trap (mkTrap 0x05 0 0) false)
  else if u.allot || u.vs.any (fun v => decide (t.alot ≤ v.val)) then some (.trap (mkTrap 0x04 0 0) false)
  else if u.rd.any (fun r => !s.isKept r && !s.scFull r) || u.vrd.any (fun v => !s.vFullAt v) then some (.park (.regs u.rd u.vrd))
  else match u.rd.find? (fun r => !s.isKept r && s.scPois r) with
    | some r => some (.trap (mkTrap 0x13 0 (scNum r)) false)
    | none =>
      match u.vrd.find? (fun v => t.vPoison.getLsbD v.val && (t.port? v).isNone) with
      | some v => some (.trap (mkTrap 0x13 0 v.val) false)
      | none =>
        match u.krd.find? (fun k => t.maskBad k) with
        | some k => some (.trap (mkTrap 0x13 0 k.val) false)
        | none => none

/-! ## Taking an exception (R222, R226) -/

/-- The double-fault state (R226): the thread halts in its slot, the first trap's registers stay, the die's management
core is told, and the error log records cause 0xFF (log 20). -/
def State.doubleFault (s : State) (tid : Nat) (second : Trap) : State :=
  match s.thread? tid with
  | none => s
  | some t =>
    let t1 := { t with df := true, tcause2 := BitVec.ofNat 8 second.cause, hold := none, mail := [], kept := [],
                       park := some .halted, yieldTo := none }
    let c := coreOfTid tid
    let r : DfReport :=
      { part := s.partOfCore c, die := dieOfCore c % 4, core := c % 2048, slot := slotOfTid tid, first := t.tcause.toNat,
        second := second.cause, addr := second.addr }
    State.logError ((s.setThread tid t1).updDie (dieOfCore c) (fun d => { d with dfReports := d.dfReports ++ [r] }))
      (dieOfCore c) (s.logEnt c (slotOfTid tid) 3 0xFF t.taddr.toNat second.addr.toNat)

/-- The registers that trap entry writes before the frame (R222). -/
def Thread.trapRegs (t : Thread) (what : Option Latched) (tr : Trap) : Thread :=
  { t with
    latch := what, tpc := t.pc, tcause := BitVec.ofNat 8 tr.cause, taddr := tr.addr, tinfo := tr.info,
    pmode := t.mode, trapent := true, mode := .super, hold := none, mail := [], kept := [], park := none,
    yieldTo := none }

/-- Trap entry of a thread with TRAPENT clear, no delivery to `g15` being pending (R222). A fault on the
frame stores is a double fault, and so is every trap while `tvec` lies below 128 (R226). -/
def State.enterTrap (s : State) (tid : Nat) (what : Option Latched) (tr : Trap) : State :=
  match s.thread? tid with
  | none => s
  | some t =>
    let c := coreOfTid tid
    let t1 := t.trapRegs what tr
    let s1 := s.setThread tid t1
    let tvec := (s.coreAt c).tvec
    let f : Word := tvec - 128 + BitVec.ofNat 64 (16 * slotOfTid tid)
    if tvec.toNat < 128 then s1.doubleFault tid (walkTrap 0x08 f.toNat 7 0)
    else match s1.frameStore c f (t.g.get 15) (t.gPoison.getLsbD 15) with
    | .error t2 => s1.doubleFault tid t2
    | .ok s2 =>
      match s2.frameStore c (f + 8) (if t.gFull.getLsbD 15 then 1 else 0) false with
      | .error t2 => s2.doubleFault tid t2
      | .ok s3 => s3.updThread tid (fun t => { t.putG 15 f with pc := tvec, lastIssue := some s.cycle })

/-- A fault of a thread: a double fault while TRAPENT is set (R226), else trap entry, which first waits
while a copy delivery to `g15` is pending (R222). -/
def State.takeTrap (s : State) (tid : Nat) (what : Option Latched) (tr : Trap) : State :=
  match s.thread? tid with
  | none => s
  | some t =>
    if t.df then s
    else if t.trapent then s.doubleFault tid tr
    else if t.gPend.getLsbD 15 then
      s.setThread tid { t with hold := none, mail := [], kept := [], park := some (.trap tr what),
                               lastIssue := some s.cycle, yieldTo := none }
    else s.enterTrap tid what tr

/-- `TRET` (R224) for a thread in supervisor mode, TRACK's part done: the mode comes back from PMODE, and
the thread goes on with the latched instruction, after it (`skip`), or at `tpc`. -/
def Thread.trapReturn (t : Thread) (skip : Bool) : Thread :=
  let t1 := { t with mode := t.pmode, latch := none }
  match t.latch with
  | some l =>
    if skip then
      let n := match l with
        | .instr i => instrLen i
        | .bad _ n => n
      { t1 with pc := t.tpc + BitVec.ofNat 64 n }
    else { t1 with pc := t.tpc, hold := some { what := l, fromLatch := true } }
  | none => { t1 with pc := t.tpc }

/-! ## How an instruction ends -/

/-- The partition of the core makes progress: the watchdog's count starts again (R234). -/
def State.progress (s : State) (core : Nat) : State :=
  match s.partOfCore core with
  | some p => s.updPart p (fun x => { x with wdAt := s.cycle })
  | none => s

/-- A completed instruction: the pc moves, what the issue kept is dropped. -/
def Thread.retire (t : Thread) (len : Nat) (nx : Next) (cycle : Nat) : Thread :=
  { t with
    pc := match nx with
      | .jump pc => pc
      | _ => t.pc + BitVec.ofNat 64 len
    hold := none, park := none, mail := [], kept := [], lastIssue := some cycle
    yieldTo := match nx with
      | .yielded n => some n
      | _ => none }

def State.retire (s : State) (len : Nat) (nx : Next) : State :=
  match nx with
  | .gone => s.progress s.core
  | _ => (s.setThr (s.thr.retire len nx s.cycle)).progress s.core

/-- The instruction waits: it is held beside its thread and issues again. -/
def State.parkHere (s : State) (i : Instr) (p : Park) : State :=
  let t := s.thr
  s.setThr { t with
    hold := some { what := .instr i, fromLatch := match t.hold with | some h => h.fromLatch | none => false }
    park := some p, lastIssue := some s.cycle, yieldTo := none }

/-- Vectors drawn from the chain queues by an instruction that has not completed go back to their heads, the last one
drawn from a queue first (R182). -/
def State.undraw (s : State) : State :=
  [(6, 3), (6, 2), (6, 1), (6, 0), (7, 3), (7, 2), (7, 1), (7, 0)].foldl (fun s e =>
    match s.thr.ports.find? (fun x => x.2.kind == e.1 && x.2.h == e.2 && x.2.drawn.isSome) with
    | none => s
    | some (v, p) =>
      match p.drawn, chainIn s.core p.kind with
      | some x, some q =>
        let s1 : State := { s with chains := mapPut s.chains q (x :: (mapGet s.chains q).getD []) }
        let t := s1.thr
        s1.setThr { t with ports := mapPut t.ports v { p with drawn := none, h := 0 } }
      | _, _ => s) s

/-- The chain vectors that an instruction has drawn since a state go back to their queues. -/
def State.undrawSince (s1 s : State) : State := if s1.thr.ports == s.thr.ports then s1 else s1.undraw

/-- A wait of an instruction that has begun: the scalar operands it has read stay with it. -/
def State.parkBegun (s : State) (i : Instr) (p : Park) (ops : List (Sc × Word)) : State :=
  let s1 := (s.parkHere i p).undraw
  s1.setThr { s1.thr with kept := ops }

/-- An instruction of the thread in `cur`: the checks of R94, then its own operation, then its end. A
fault leaves the state as it was but for what `keep` keeps (R6, R222); a vector it has popped stays in its queue (R182). -/
def run (i : Instr) (u : Uses) (body : M Next) (s : State) : Host.Outcome State Fault Refusal :=
  match s.thread? s.cur with
  | none => .fault .noThread
  | some _ =>
    match checkUses u s with
    | some (.trap t _) => .next (s.takeTrap s.cur (some (.instr i)) t)
    | some (.park p) => .next (s.parkHere i p)
    | some (.fault f) => .fault f
    | none =>
      match body s with
      | .ok nx s1 => .next (s1.retire (instrLen i) nx)
      | .error (.trap t keep) s1 => .next ((if keep then s1.undrawSince s else s).takeTrap s.cur (some (.instr i)) t)
      | .error (.park p) s1 => .next (s1.parkBegun i p (u.rd.map (fun r => (r, s.operand r))))
      | .error (.fault f) _ => .fault f

/-- An event of a unit: always a next state. -/
def event (f : State → State) (s : State) : Host.Outcome State Fault Refusal := .next (f s)

end Sys2Proof.Machine
end

