-- ==== Sys2Proof/Machine/Fabric.lean ====
section
/-! DEFINITION. Messages, routes, flit queues, frames and link keys (R199 to R201, R206, R207). -/
namespace Sys2Proof.Machine

/-! ## Routes (R13, R200) -/

/-- Packages on the ring of `pkg` in dimension 0, 1 or 2, in ascending position. -/
def ringOf (s : State) (pkg dim : Nat) : List Nat :=
  let all := match dim with
    | 0 => (List.range 8).map (fun i => pkg / 8 * 8 + i)
    | 1 => (List.range 4).map (fun i => pkg / 32 * 32 + 8 * i + pkg % 8)
    | _ => (List.range 4).map (fun i => 32 * i + pkg % 32)
  all.filter (fun p => (s.pkgAt p).member || p == pkg)

/-- The neighbour of `pkg` in direction `dir` (0 +x, 1 −x, 2 +y, 3 −y, 4 +z, 5 −z) on its ring. -/
def neighbourPkg (s : State) (pkg dir : Nat) : Nat :=
  let r := ringOf s pkg (dir / 2)
  let i := r.findIdx (fun p => p == pkg)
  let n := r.length
  (r[if dir % 2 == 0 then (i + 1) % n else (i + n - 1) % n]?).getD pkg

/-- The coordinate of a package in a dimension (R13). -/
def coord (pkg dim : Nat) : Nat :=
  match dim with
  | 0 => pkg % 8
  | 1 => pkg / 8 % 4
  | _ => pkg / 32

/-- The fabric manager assigns every combination of positions: those packages belong to the pod (R13). -/
def State.assign (s : State) (xs ys zs : List Nat) : State :=
  (List.range 128).foldl (fun s p =>
    if xs.contains (coord p 0) && ys.contains (coord p 1) && zs.contains (coord p 2) && !(s.pkgAt p).member then
      s.updPkg p (fun x => { x with member := true }) else s) s

/-- Positions that packages of the pod have in a dimension (R13). -/
def State.positions (s : State) (dim : Nat) : List Nat := (s.pkgs.filter (fun e => e.2.member)).map (fun e => coord e.1 dim)

/-- The direction a message at `pkg` takes toward `dst`: x, then y, then z, the shorter way round, the
positive way when both are equal; none at its destination (R200). -/
def nextDir (s : State) (pkg dst : Nat) : Option Nat :=
  let go (dim : Nat) : Option Nat :=
    if coord pkg dim == coord dst dim then none
    else
      let r := ringOf s pkg dim
      let i := r.findIdx (fun p => p == pkg)
      let j := r.findIdx (fun p => coord p dim == coord dst dim)
      let n := r.length
      let fwd := (j + n - i) % n
      some (if 2 * fwd ≤ n then 2 * dim else 2 * dim + 1)
  match go 0 with
  | some d => some d
  | none => match go 1 with
    | some d => some d
    | none => go 2

/-- The core number of a host on an edge port of a package (R201). -/
def hostCore (pkg port : Nat) : Nat := pkg * 8192 + 1152 + (port - 24)

/-- The edge port of a host that has sent a request under its core number. -/
def hostPort (core : Nat) : Option Nat :=
  let c := core % 8192
  if 1152 ≤ c ∧ c < 1156 then some (24 + (c - 1152)) else none

/-- Is the message a reply to a host? -/
def Msg.toHost (m : Msg) : Bool := (match m.body with | .reply _ => true | _ => false) && (hostPort m.core).isSome

/-- The output port a flit takes: link CLASS of its direction, or at its destination a host's edge port (R11, R200). -/
def outPort (s : State) (pkg : Nat) (m : Msg) : Option Nat :=
  match nextDir s pkg m.dst with
  | some d => some (4 * d + m.cls)
  | none => if m.toHost then hostPort m.core else none

/-- The output port of a flit; a multicast copy leaves by the port its fan-out entry names (R208). -/
def Flit.port (f : Flit) (s : State) (pkg : Nat) : Option Nat :=
  match f.via with
  | some p => some p
  | none => outPort s pkg f.msg

/-! ## Stack-link planes (R10, R212) -/

/-- The position of a package's base die on its plane, a torus of 16 by 8. -/
def planePos (pkg : Nat) : Nat × Nat := (pkg % 16, pkg / 16)

/-- Packages on the line of `pkg` through a plane, along u or along v, in ascending position: positions with no package are
skipped. -/
def planeLine (s : State) (pkg : Nat) (alongU : Bool) : List Nat :=
  let all := if alongU then (List.range 16).map (fun i => pkg / 16 * 16 + i) else (List.range 8).map (fun i => 16 * i + pkg % 16)
  all.filter (fun p => (s.pkgAt p).member || p == pkg)

/-- The package whose base die of the same stack a stack-link port leads to: port 0 +u, 1 −u, 2 +v, 3 −v. -/
def planeNeighbour (s : State) (pkg port : Nat) : Nat :=
  let l := planeLine s pkg (decide (port < 2))
  let i := l.findIdx (fun p => p == pkg)
  let n := l.length
  (l[if port % 2 == 0 then (i + 1) % n else (i + n - 1) % n]?).getD pkg

/-! ## Messages -/

/-- Payload bytes of a message beyond its header (R201). -/
def payloadBytes : Body → Nat
  | .req r _ _ => match r.base with
    | .wr cells => cells.length
    | .probe cells => 8 * ((cells.length + 63) / 64)
    | .line _ _ _ data => data.length
    | .amo _ _ _ _ _ => 8
    | .cas _ _ _ _ => 16
    | .feSt _ _ _ _ => 8
    | .pegWr _ _ => 8
    | .spawn _ _ _ _ _ => 48
    | .migr _ _ _ => 160
    | .rfill _ _ _ _ _ => 16
    | _ => 0
  | .reply r => match r with
    | .bytes l => l.length
    | .peg _ rs => 16 * rs.length
    | .val _ => 8
    | _ => 0
  | .reg _ _ _ => 48
  | .mcast _ _ data _ _ _ _ => data.length
  | .host _ _ _ _ => 8
  | _ => 0

/-- Flits of a message of up to 1,008 payload bytes: the header flit and its data flits (R201). -/
def flitsOf (p : Nat) : Nat := 1 + (p - 48 + 63) / 64

/-- Payload bytes of each message that one `Msg` stands for: beyond 1,008 bytes it travels as several messages of that size
and one of the rest, which the receiver puts together again (R201; log 26). -/
def partSizes (p : Nat) : List Nat :=
  if p ≤ 1008 then [p] else List.replicate (p / 1008) 1008 ++ (if p % 1008 == 0 then [] else [p % 1008])

/-- Flits of what one `Msg` stands for (R201). -/
def flitCount (m : Msg) : Nat := ((partSizes (payloadBytes m.body)).map flitsOf).foldl (· + ·) 0

/-- A number for each kind of message. -/
def Body.kind : Body → Nat
  | .req _ _ _ => 0
  | .reply _ => 1
  | .wave _ => 2
  | .waveDone _ => 3
  | .reg _ _ _ => 4
  | .mcast _ _ _ _ _ _ _ => 5
  | .mcastAck _ => 6
  | .host _ _ _ _ => 0

/-- The address that a request names in its header (R201). -/
def Req.headAddr (q : Req) : Nat := match q.base with
  | .rd pa _ => pa
  | .wr cells => (cells.head?.map (fun c => c.1)).getD 0
  | .probe cells => (cells.head?.map (fun c => c.1)).getD 0
  | .amo _ _ pa _ _ => pa
  | .cas pa _ _ _ => pa
  | .feLd _ pa _ => pa
  | .feSt _ pa _ _ => pa
  | .peg pa _ => pa
  | .pegWr pa _ => pa
  | .bindGet pa => pa
  | .bindAdd pa _ _ _ => pa
  | .bindRm pa => pa
  | .line _ _ pa _ => pa
  | .popFree pa _ _ => pa
  | _ => 0

/-- The address that a message names in its header: 0 where it names none (R201). -/
def Body.headAddr : Body → Nat
  | .req r _ _ => r.headAddr
  | .mcast _ addr _ _ _ _ _ => addr
  | .host _ addr _ _ => addr
  | _ => 0

/-- The 128-bit header of a message that names local address `la` and is followed by `more` data flits (R201). -/
def Msg.header (m : Msg) (la : Nat) (more : Nat) : BitVec 128 :=
  BitVec.ofNat 7 m.dst ++ BitVec.ofNat 7 m.src ++ BitVec.ofNat 2 m.cls ++ BitVec.ofNat 2 (m.core / 2048 % 4) ++
    BitVec.ofNat 11 (m.core % 2048) ++ BitVec.ofNat 6 m.rtag ++ BitVec.ofNat 4 m.gen ++ m.exp ++ Config.msgOp m.body.kind ++
    BitVec.ofNat 4 more ++ BitVec.ofNat 45 la ++ (if m.resend then 1#1 else 0#1) ++ 0#12

/-- The header of each message that one `Msg` stands for: its local address and the data flits that follow it (R201). -/
def Msg.headers (m : Msg) : List (BitVec 128) :=
  let l := partSizes (payloadBytes m.body)
  (l.zip (List.range l.length)).map (fun e => m.header (m.body.headAddr % 2 ^ 45 + 1008 * e.2) (flitsOf e.1 - 1))

/-- The key of an input queue: input port (28 for local injection) and class. -/
def queueKey (port cls : Nat) : Nat := port * 4 + cls

def Pkg.pushFlits (p : Pkg) (key : Nat) (l : List Flit) : Pkg :=
  { p with queues := mapPut p.queues key ((mapGet p.queues key).getD [] ++ l) }

/-- The flits of a message as they enter a queue. -/
def State.flits (s : State) (m : Msg) (via : Option Nat) : List Flit :=
  (List.range (flitCount m)).map (fun j => { msg := m, idx := j, since := s.cycle, via := via })

/-- Sends a message from the hub or a core of a package: its flits enter the injection queue of its class,
and a message to the package itself is delivered there. -/
def State.send (s : State) (m : Msg) : State :=
  if m.dst == m.src && !m.toHost then s.updPkg m.src (fun p => { p with inbox := p.inbox ++ [m] })
  else s.updPkg m.src (fun p => p.pushFlits (queueKey 28 m.cls) (s.flits m none))

/-- Sends a copy of a multicast on an output port (R208). -/
def State.sendOn (s : State) (pkg port : Nat) (m : Msg) : State :=
  s.updPkg pkg (fun p => p.pushFlits (queueKey 28 m.cls) (s.flits m (some port)))

/-- Is the tag in the package's lapsed-tag filter (R196)? -/
def Pkg.filtered (p : Pkg) (t : Tag) : Bool := t.toNat % 4096 != 0 && p.filter.any (fun e => e.1 == t)

/-- A flit has arrived whole at its destination: the message is delivered once all its flits have come. -/
def Pkg.assemble (p : Pkg) (f : Flit) : Pkg :=
  let got := match p.partial_.find? (fun e => e.1 == f.msg) with
    | some e => e.2
    | none => []
  let got := if got.contains f.idx then got else f.idx :: got
  let rest := p.partial_.filter (fun e => e.1 != f.msg)
  if got.length == flitCount f.msg then { p with partial_ := rest, inbox := p.inbox ++ [f.msg] }
  else { p with partial_ := (f.msg, got) :: rest }

/-- A flit that has reached a package by an input port: dropped if its tag is in the filter (R196), to the hub at its
destination, else in the queue of the port and its class. -/
def State.flitArrives (s : State) (pkg port : Nat) (f : Flit) : State :=
  let g : Flit := { f with since := s.cycle, via := none }
  if (s.pkgAt pkg).filtered f.msg.exp then s
  else if f.msg.dst == pkg && !f.msg.toHost then s.updPkg pkg (fun p => p.assemble g)
  else s.updPkg pkg (fun p => p.pushFlits (queueKey port f.msg.cls) [g])

def State.countDrop (s : State) (pkg port n : Nat) : State :=
  if n == 0 then s
  else s.updPkg pkg (fun p => { p with drops := mapPut p.drops port ((mapGet p.drops port).getD 0 + n) })

/-! ## Frames (R199, R206) -/

def Pkg.link (p : Pkg) (port : Nat) : Link := (mapGet p.links port).getD Link.reset
def State.updLink (s : State) (pkg port : Nat) (f : Link → Link) : State :=
  s.updPkg pkg (fun p => { p with links := mapPut p.links port (f (p.link port)) })

/-- The input an entry of a pattern table names: input port, or 28 for the injection classes; an entry that
is not enabled, or whose SRC lies out of range, names none (R199). -/
def patternOwner (e : BitVec 8) : Option (Nat × Option Nat) :=
  let src := e.toNat % 64
  if !e.getLsbD 7 then none
  else if e.getLsbD 6 then (if src < 4 then some (28, some src) else none)
  else if src < 28 then some (src, none) else none

/-- Takes the first flit of a queue that leaves by `port`. -/
def takeFlit (s : State) (pkg port : Nat) : List Flit → Option (Flit × List Flit)
  | [] => none
  | f :: r =>
    if f.port s pkg == some port then some (f, r)
    else (takeFlit s pkg port r).map (fun e => (e.1, f :: e.2))

/-- The queues of an input whose flits may leave by a port: a torus port carries its own class, an edge port every class
(R200). -/
def slotClasses (port : Nat) : Option Nat → List Nat
  | some c => [c]
  | none => if 24 ≤ port then [0, 1, 2, 3] else [port % 4]

/-- The flit that leaves in one slot (R200), if the slot's owner has one. -/
def slotFlit (s : State) (pkg port : Nat) (e : BitVec 8) : Option (Flit × Nat × List Flit) :=
  match patternOwner e with
  | none => none
  | some (inp, cls) =>
    (slotClasses port cls).findSome? (fun c =>
      let key := queueKey inp c
      (takeFlit s pkg port ((mapGet (s.pkgAt pkg).queues key).getD [])).map (fun r => (r.1, key, r.2)))

/-- The slots of one frame: flits that leave, in order; a flit whose tag is in the filter is dropped as it
passes (R196). `room` is how many flits the receiver and the counter still allow. -/
def frameSlots (port : Nat) : List Nat → Nat → Nat → State → List Flit → State × List Flit
  | [], _, _, s, acc => (s, acc.reverse)
  | e :: es, pkg, room, s, acc =>
    if room == 0 then (s, acc.reverse)
    else
      match slotFlit s pkg port ((mapGet (s.pkgAt pkg).patterns (port * 64 + e)).getD 0) with
      | none => frameSlots port es pkg room s acc
      | some (f, key, r) =>
        let s1 := s.updPkg pkg (fun p => { p with queues := mapPut p.queues key r })
        if (s.pkgAt pkg).filtered f.msg.exp then frameSlots port es pkg room s1 acc
        else frameSlots port es pkg (room - 1) s1 (f :: acc)

/-- The counter value at or beyond which a staged key comes into use (R207). -/
def switchPoint (c : Nat) : Nat := if c % 2 ^ 20 == 0 && c != 0 then c else (c / 2 ^ 20 + 1) * 2 ^ 20

/-- Does a frame of `n` message flits wait for the staged key: it would use a counter value at or beyond the switch
point, or could need one above the last (R207)? -/
def Link.switchDue (l : Link) (n : Nat) : Bool :=
  l.staged.isSome && (l.txKey.isNone || (n != 0 && decide (switchPoint l.counter ≤ l.counter + n - 1)) ||
    decide (2 ^ 48 - 2 < l.counter + 63))

/-- The link direction from a host to an edge port, and from a stack-link port of a base die, among a package's links. -/
def hostLink (port : Nat) : Nat := 32 + port
def stackLink (stack port : Nat) : Nat := 64 + 4 * stack + port

/-- The receiver of the link direction that leaves `pkg` by `port`: the neighbour's port, the edge port of a host's own
direction, or the same stack's port on the plane's next package. -/
def peerPort (s : State) (pkg port : Nat) : Nat × Nat :=
  if port < 32 then (neighbourPkg s pkg (port / 4), port ^^^ 4)
  else if port < 64 then (pkg, port - 32)
  else (planeNeighbour s pkg (port % 4), port ^^^ 1)

/-- The next frame of an output port and the state without its flits: what the pattern's slots, the receiver's credits and
the counter let go (R199, R200, R207). Frames on the wire hold credits as queued flits do; a host's are its own. -/
def State.nextFrame (s : State) (pkg port : Nat) : State × List Flit :=
  let l := (s.pkgAt pkg).link port
  let (q, qp) := peerPort s pkg port
  let held := ((mapGet (s.pkgAt q).queues (queueKey qp (port % 4))).getD []).length
  let wire := l.wire.foldl (fun n f => n + f.flits.length) 0
  let credits := if 24 ≤ port then 64 else 64 - (held + wire)
  frameSlots port (List.range 64) pkg (Nat.min credits (2 ^ 48 - 1 - l.counter)) s []

/-- What a host receives with the last flit of a message: a reply, or the data of a multicast (R208, R210). -/
def Flit.toHost (f : Flit) : Option Reply :=
  if f.idx + 1 != flitCount f.msg then none
  else match f.msg.body with
    | .reply r => some r
    | .mcast _ _ data _ _ _ _ => some (.bytes data)
    | _ => none

/-- FRAME_SEND: the transmitter sends one pattern frame on a torus port, or to the host of an edge port (R199, R200,
R206, R210). -/
def doFrameSend (pkg port : Nat) (s : State) : State :=
  let l := (s.pkgAt pkg).link port
  match l.txKey with
  | none => s
  | some key =>
    let (s1, fl) := s.nextFrame pkg port
    if l.switchDue fl.length || decide (28 ≤ port) then s
    else if fl.isEmpty then s1
    else
      let frame : Frame := { flits := fl, key := key, counter := l.counter, switch := false }
      let s2 := s1.updLink pkg port (fun l =>
        { l with wire := if port < 24 then l.wire ++ [frame] else l.wire, counter := l.counter + fl.length })
      if port < 24 then s2
      else s2.updPkg pkg (fun p => { p with hostReplies := p.hostReplies ++ (fl.filterMap Flit.toHost).map (fun r => (port, r)) })

/-- A frame failed authentication: 16 on one link within 1 ms raise an alert (R206), after which the count starts again
(log 94). -/
def State.badFrame (s : State) (pkg port : Nat) : State :=
  let (q, _) := peerPort s pkg port
  let l := (s.pkgAt pkg).link port
  let recent := (l.badFrames ++ [s.cycle]).filter (fun c => decide (s.cycle < c + Config.nsToCycles 1000000))
  if 16 ≤ recent.length then
    (s.updLink pkg port (fun l => { l with badFrames := [], alerts := l.alerts + 1 })).logError (q * 4)
      (s.logEnt (q * 8192 + 2047) 0 5 0 0 (port % 32))
  else s.updLink pkg port (fun l => { l with badFrames := recent })

/-- KEY_STAGE: firmware stages a key for both ends of a link direction (R207). -/
def doKeyStage (pkg port : Nat) (key : BitVec 256) (s : State) : State :=
  s.updLink pkg port (fun l => { l with staged := some key, exhausted := false })

/-- The link id of a transmitter, and the IV of the frame whose first message flit has a counter value (R206). -/
def linkId (pkg port : Nat) : Nat := pkg * 32 + port % 32
def frameIv (pkg port counter : Nat) : BitVec 96 := BitVec.ofNat 96 (linkId pkg port * 2 ^ 48 + counter % 2 ^ 48)

/-- Message flits that the next frame of a link direction would carry: one for a host's. -/
def State.frameNeed (s : State) (pkg port : Nat) : Nat :=
  if port < 28 then (s.nextFrame pkg port).2.length else if port < 64 then 1 else 0

/-- KEY_SWITCH: the transmitter switches to the staged key, sends a key-switch flit that names it and
restarts the counter (R207). -/
def doKeySwitch (pkg port : Nat) (s : State) : State :=
  let l := (s.pkgAt pkg).link port
  match l.staged with
  | none => s
  | some key =>
    if l.switchDue (s.frameNeed pkg port) && l.txKey != some key then
      s.updLink pkg port (fun l =>
        { l with txKey := some key, counter := 0,
                 wire := l.wire ++ [{ flits := [], key := key, counter := 0, switch := true }] })
    else s

/-- KEY_EXHAUSTION: the last counter value is used and no key is staged (R207). -/
def doKeyExhaustion (pkg port : Nat) (s : State) : State :=
  let l := (s.pkgAt pkg).link port
  if l.counter == 2 ^ 48 - 1 && l.staged.isNone && !l.exhausted then
    (s.updLink pkg port (fun l => { l with exhausted := true })).logError (pkg * 4)
      (s.logEnt (pkg * 8192 + 2047) 0 6 0 0 port)
  else s

/-- FLIT_QUEUE_TIMEOUT: flits that have waited 2 μs in the queues of an input port are dropped and counted
in the port's error counter (R200). -/
def doFlitQueueTimeout (pkg port : Nat) (s : State) : State :=
  let late (f : Flit) : Bool := decide (f.since + Config.nsToCycles 2000 ≤ s.cycle)
  (List.range 4).foldl (fun s c =>
    let q := (mapGet (s.pkgAt pkg).queues (queueKey port c)).getD []
    let n := (q.filter late).length
    if n == 0 then s
    else (s.updPkg pkg (fun p =>
      { p with queues := mapPut p.queues (queueKey port c) (q.filter (fun f => !late f)) })).countDrop pkg port n) s

/-- PATTERN_TABLE_WRITE by the fabric manager, which runs from step 4 of the boot on (R199, R260): an enabled entry with SRC out of range sets a configuration error. -/
def doPatternTableWrite (pkg port entry : Nat) (v : BitVec 8) (s : State) : State :=
  let s1 := s.updPkg pkg (fun p => { p with patterns := mapPut p.patterns (port * 64 + entry % 64) v })
  if (s.pkgAt pkg).bootStep < 5 then s
  else if v.getLsbD 7 && (patternOwner v).isNone then
    (s1.updPkg pkg (fun p => { p with cfgErrors := p.cfgErrors + 1 })).logError (pkg * 4)
      (s.logEnt (pkg * 8192 + 2047) 0 4 0 0 port)
  else s1

/-- FAN_OUT_ENTRY_WRITE by the fabric manager (R208, R260). -/
def doFanOutEntryWrite (pkg n : Nat) (v : Fan) (s : State) : State :=
  if n < 64 ∧ 5 ≤ (s.pkgAt pkg).bootStep then s.updPkg pkg (fun p => { p with fan := mapPut p.fan n v }) else s

/-- HOST_WINDOW_WRITE by the fabric manager: one of the 16 windows of an edge port (R210, R260). -/
def doHostWindowWrite (pkg port n : Nat) (v : Window) (s : State) : State :=
  if 24 ≤ port ∧ port < 28 ∧ n < 16 ∧ 5 ≤ (s.pkgAt pkg).bootStep then
    s.updPkg pkg (fun p => { p with windows := mapPut p.windows (port * 16 + n) v })
  else s

/-! ## Request tags (R202) -/

/-- The lowest free tag of a core's 64, and its generation: one above the last one used (log 22). -/
def Core.freeTag (c : Core) : Option (Nat × Nat) :=
  match (List.range Config.rtagCount).find? (fun n => !c.reqs.any (fun r => r.rtag == n)) with
  | some n => some (n, ((mapGet c.gens n).getD 15 + 1) % 16)
  | none => none

/-- Sends a request under a free tag of the core; none when all 64 are in use. -/
def State.request (s : State) (core dst : Nat) (who : Who) (k epoch : Nat) (req : Req) (exp : Tag) (limit : Nat)
    (pc : Word) (ins : Option Instr) (cls va : Nat) : Option State :=
  match (s.coreAt core).freeTag with
  | none => none
  | some (n, g) =>
    let o : OutReq :=
      { rtag := n, gen := g, dst := dst, who := who, k := k, epoch := epoch, req := req, exp := exp,
        sentAt := some s.cycle, resent := false, busyAt := none, pc := pc, ins := ins, limit := limit,
        va := va, born := s.cycle, fullAt := none }
    let s1 := s.updCore core (fun c => { c with reqs := c.reqs ++ [o], gens := mapPut c.gens n g })
    some (s1.send
      { dst := dst, src := pkgOfCore core, cls := cls, core := core, rtag := n, gen := g, exp := exp,
        resend := false, body := .req req limit none })

/-- The class of a request (R200). -/
def reqClass : Req → Nat
  | .bindGet _ => 2
  | .bindAdd _ _ _ _ => 2
  | .bindRm _ => 2
  | .exSet _ _ _ _ => 2
  | .exChk _ _ => 2
  | .exFree _ _ => 2
  | .exParent _ _ _ => 2
  | _ => 0

end Sys2Proof.Machine
end

