-- ==== Sys2Proof/Machine/Flags.lean ====
section
/-! DEFINITION. The flags of `fcsr` (R75): raising them, and the FP-exception fault. -/
namespace Sys2Proof.Machine

/-- Flags in their `fcsr` positions (R75). -/
def flNV : Nat := 4
def flDZ : Nat := 8
def flOF : Nat := 16
def flUF : Nat := 32
def flNX : Nat := 64

/-- Rounding mode of `fcsr` (R75): 0 RNE, 1 toward zero, 2 up, 3 down. -/
def Thread.rm (t : Thread) : Nat := t.fcsr.toNat % 4

/-- The raised flags whose enable bit is set: NVE, DZE and OFE stand 5 bits above their flags (R75). -/
def enabledFlags (fcsr : BitVec 10) (fl : Nat) : Nat := (fcsr.toNat >>> 5) &&& fl &&& 0x1C

/-- Raises the flags, which are sticky; an enabled one raises the FP-exception fault with the raised flags
in `tinfo`, the flags staying set and the destination unchanged (R75, R289). -/
def raiseFlags (fl : Nat) : M Unit := fun s =>
  let t := s.thr
  let s1 := s.setThr { t with fcsr := t.fcsr ||| BitVec.ofNat 10 fl }
  if enabledFlags t.fcsr fl != 0 then .error (.trap (mkTrap 0x1A 0 fl) true) s1 else .ok () s1

end Sys2Proof.Machine
end

