-- ==== Sys2Proof/Machine/Float.lean ====
section
/-! DEFINITION. Number formats, exact values and the one rounding (R96 to R109). A finite value is a sign, a
natural number and a power of two; nothing is rounded before `roundEx`. -/
namespace Sys2Proof.Machine

/-! ## Formats (R96) -/

/-- Exponent bits, mantissa bits, bias, and whether the format has infinities. -/
structure Fmt where
  ebits : Nat
  mbits : Nat
  bias : Nat
  hasInf : Bool
  deriving DecidableEq, Repr

def fmtOf : ETy → Fmt
  | .f64 => ⟨11, 52, 1023, true⟩
  | .f32 => ⟨8, 23, 127, true⟩
  | .bf16 => ⟨8, 7, 127, true⟩
  | .f16 => ⟨5, 10, 15, true⟩
  | .e5m2 => ⟨5, 2, 15, true⟩
  | .e4m3 => ⟨4, 3, 7, false⟩
  | _ => ⟨2, 1, 1, false⟩

/-- A value of a format: a NaN (signalling or not), an infinity, or (−1)^neg × m × 2^e. -/
inductive FVal where
  | nan (sig : Bool)
  | inf (neg : Bool)
  | fin (neg : Bool) (m : Nat) (e : Int)
  deriving DecidableEq, Repr

def FVal.isNan : FVal → Bool
  | .nan _ => true
  | _ => false
def FVal.isSig : FVal → Bool
  | .nan s => s
  | _ => false
def FVal.isInf : FVal → Bool
  | .inf _ => true
  | _ => false
def FVal.isZero : FVal → Bool
  | .fin _ m _ => m == 0
  | _ => false
def FVal.neg : FVal → Bool
  | .nan _ => false
  | .inf n => n
  | .fin n _ _ => n

/-- The value of one term of TW8 in 64ths (R99). -/
def tw8Term (sgn : Bool) (c : Nat) : Int := if c == 7 then 0 else if sgn then -(2 ^ (6 - c) : Nat) else (2 ^ (6 - c) : Nat)

/-- The two terms of a TW8 byte in 64ths (R99). -/
def tw8Terms (x : Nat) : Int × Int :=
  (tw8Term (x / 128 % 2 == 1) (x / 16 % 8), tw8Term (x / 8 % 2 == 1) (x % 8))

/-- The value of a TW8 byte in 64ths. -/
def tw8Val (x : Nat) : Int := (tw8Terms x).1 + (tw8Terms x).2

/-- An integer as a value. -/
def ofInt (i : Int) : FVal := .fin (decide (i < 0)) i.natAbs 0

/-- The low `w` bits taken as a signed number. -/
def sgnOf (w x : Nat) : Int := let y := x % 2 ^ w; if 2 ^ (w - 1) ≤ y then (y : Int) - (2 ^ w : Nat) else (y : Int)

/-- The value of an encoding (R96, R98, R99); an integer is unsigned under `z`. -/
def valOf (t : ETy) (z : Bool) (x : Nat) : FVal :=
  match t with
  | .i64 => if z then ofInt (x % 2 ^ 64 : Nat) else ofInt (sgnOf 64 x)
  | .i32 => if z then ofInt (x % 2 ^ 32 : Nat) else ofInt (sgnOf 32 x)
  | .i16 => if z then ofInt (x % 2 ^ 16 : Nat) else ofInt (sgnOf 16 x)
  | .i8 => if z then ofInt (x % 2 ^ 8 : Nat) else ofInt (sgnOf 8 x)
  | .i4 => if z then ofInt (x % 2 ^ 4 : Nat) else ofInt (sgnOf 4 x)
  | .tw8 => let v := tw8Val (x % 256); .fin (decide (v < 0)) v.natAbs (-6)
  | t =>
    let f := fmtOf t
    let mant := x % 2 ^ f.mbits
    let ex := x / 2 ^ f.mbits % 2 ^ f.ebits
    let sgn := x / 2 ^ (f.mbits + f.ebits) % 2 == 1
    if f.hasInf && ex == 2 ^ f.ebits - 1 then
      if mant == 0 then .inf sgn else .nan (decide (mant < 2 ^ (f.mbits - 1)))
    else if t == .e4m3 && ex == 15 && mant == 7 then .nan false
    else if ex == 0 then .fin sgn mant (1 - (f.bias : Int) - f.mbits)
    else .fin sgn (2 ^ f.mbits + mant) ((ex : Int) - f.bias - f.mbits)

/-- The canonical NaN (R100, R104). -/
def canonNaN (t : ETy) : Nat :=
  let f := fmtOf t
  match t with
  | .e4m3 => 0x7F
  | _ => (2 ^ f.ebits - 1) * 2 ^ f.mbits + 2 ^ (f.mbits - 1)

def signBit (t : ETy) (neg : Bool) : Nat := if neg then 2 ^ (t.bits - 1) else 0
def infBits (t : ETy) (neg : Bool) : Nat := signBit t neg + (2 ^ (fmtOf t).ebits - 1) * 2 ^ (fmtOf t).mbits

/-- The largest finite magnitude's encoding (R96). -/
def maxBits (t : ETy) (neg : Bool) : Nat :=
  match t with
  | .e4m3 => signBit t neg + 0x7E
  | .e2m1 => signBit t neg + 7
  | _ => infBits t neg - 1

/-! ## Rounding (R101 to R103) -/

/-- An exact result: a special value, a zero with its sign, or a nonzero magnitude between `m` × 2^e (when
`rest` is false: equal to it) and (m + 1) × 2^e. -/
inductive Ex where
  | nan
  | inf (neg : Bool)
  | zero (neg : Bool)
  | num (neg : Bool) (m : Nat) (e : Int) (rest : Bool)
  deriving DecidableEq, Repr

/-- A result encoding and the flags raised. -/
structure FRes where
  bits : Nat
  fl : Nat
  deriving DecidableEq, Repr

def bitLen (m : Nat) : Nat := if m == 0 then 0 else Nat.log2 m + 1

/-- Does the magnitude go up? `rem` out of 2^sh is cut off, `rest` something beyond it. -/
def roundsUp (mode : Nat) (neg odd : Bool) (rem sh : Nat) (rest : Bool) : Bool :=
  let inexact := rem != 0 || rest
  match mode with
  | 0 => let two := 2 * rem
         decide (2 ^ sh < two) || (two == 2 ^ sh && (rest || odd))
  | 1 => false
  | 2 => inexact && !neg
  | _ => inexact && neg

/-- Scales `m` × 2^e to a multiple of 2^q: the quotient, what is cut off, and by how many bits. -/
def scaleTo (m : Nat) (e q : Int) : Nat × Nat × Nat :=
  if q ≤ e then (m * 2 ^ (e - q).toNat, 0, 0)
  else let sh := (q - e).toNat
       (m / 2 ^ sh, m % 2 ^ sh, sh)

/-- Infinity or the largest finite value on overflow (R103). -/
def overflow (t : ETy) (mode : Nat) (sat neg : Bool) : FRes :=
  let toInf := mode == 0 || (mode == 2 && !neg) || (mode == 3 && neg)
  let bits :=
    if sat || !toInf || t == .e2m1 then maxBits t neg
    else if t == .e4m3 then canonNaN t else infBits t neg
  { bits := bits, fl := flOF + flNX }

/-- `Round` of a nonzero magnitude into a binary format (R101, R102). -/
def roundNum (t : ETy) (mode : Nat) (sat neg : Bool) (m : Nat) (e : Int) (rest : Bool) : FRes :=
  let f := fmtOf t
  let emin : Int := 1 - (f.bias : Int)
  let top : Int := e + bitLen m - 1
  let q : Int := (if emin ≤ top then top else emin) - f.mbits
  let (r, rem, sh) := scaleTo m e q
  let inexact := rem != 0 || rest
  let r := if roundsUp mode neg (r % 2 == 1) rem sh rest then r + 1 else r
  let nx := if inexact then flNX else 0
  if r < 2 ^ f.mbits then
    { bits := signBit t neg + r, fl := nx + (if inexact then flUF else 0) }
  else
    let (r, q) := if r == 2 ^ (f.mbits + 1) then (2 ^ f.mbits, q + 1) else (r, q)
    let ex := (q + f.mbits + f.bias).toNat
    let mag := ex * 2 ^ f.mbits + (r - 2 ^ f.mbits)
    if maxBits t false < mag then overflow t mode sat neg
    else { bits := signBit t neg + mag, fl := nx }

/-- Order of TW8 encodings of one value (R99): terms, equal signs, a ≤ b, the zero term's form. -/
def tw8Key (x : Nat) : Nat :=
  let a := x / 16 % 8
  let b := x % 8
  let s1 := x / 128 % 2
  let s2 := x / 8 % 2
  let terms := (if a == 7 then 0 else 1) + (if b == 7 then 0 else 1)
  let plainZero := (a != 7 || s1 == 0) && (b != 7 || s2 == 0)
  terms * 8 + (if terms == 2 && s1 != s2 then 4 else 0) + (if b < a then 2 else 0) + (if plainZero then 0 else 1)

/-- The canonical TW8 encoding of a value in 64ths, if it has one (R99). -/
def tw8Enc (v : Int) : Option Nat :=
  (List.range 256).foldl (fun best x =>
    if tw8Val x == v then
      match best with
      | some b => if tw8Key x < tw8Key b then some x else best
      | none => some x
    else best) none

/-- The representable TW8 magnitudes in 64ths next to `n`/64: the largest at or below, the smallest above. -/
def tw8Below (n : Nat) : Nat :=
  (List.range 129).foldl (fun best k => if k ≤ n && (tw8Enc k).isSome then k else best) 0
def tw8Above (n : Nat) : Nat :=
  (List.range 129).foldr (fun k best => if n < k && (tw8Enc k).isSome then k else best) 128

/-- Nonzero terms of a value's canonical encoding. -/
def tw8Count (v : Nat) : Nat := match tw8Enc v with
  | some x => tw8Key x / 8
  | none => 0

/-- `Round` of a nonzero magnitude to TW8 (R101 to R103). -/
def roundTw8 (mode : Nat) (neg : Bool) (m : Nat) (e : Int) (rest : Bool) : FRes :=
  let enc (k : Nat) : Nat := (tw8Enc (if neg then -(k : Int) else k)).getD 0x77
  let (n, rem, sh) := scaleTo m e (-6)
  let cut := rem != 0 || rest
  if 128 < n || (n == 128 && cut) then { bits := enc 128, fl := flOF + flNX }
  else if !cut && (tw8Enc n).isSome then { bits := enc n, fl := 0 }
  else
    let lo := tw8Below n
    let hi := tw8Above n
    -- twice the distances, in units of 2^(−6 − sh): to `lo` and to `hi`
    let x := n * 2 ^ sh + rem
    let dl := x - lo * 2 ^ sh
    let dh := hi * 2 ^ sh - x
    let nearHi := decide (dh < dl) || (dl == dh && (rest || decide (tw8Count hi < tw8Count lo)))
    let up := match mode with
      | 0 => nearHi
      | 1 => false
      | 2 => !neg
      | _ => neg
    { bits := enc (if up then hi else lo), fl := flNX }

/-- An exact result delivered in a floating-point or TW8 format (R101 to R104). A NaN source's NV is the
caller's, but for the formats without NaN, where it is always set. -/
def roundEx (t : ETy) (mode : Nat) (sat : Bool) (x : Ex) : FRes :=
  match x with
  | .nan =>
    match t with
    | .e2m1 => { bits := 0, fl := flNV }
    | .tw8 => { bits := 0x77, fl := flNV }
    | _ => { bits := canonNaN t, fl := 0 }
  | .inf neg =>
    match t with
    | .e4m3 => if sat then { bits := maxBits t neg, fl := 0 } else { bits := canonNaN t, fl := flNV }
    | .e2m1 => { bits := maxBits t neg, fl := if sat then 0 else flNV }
    | .tw8 => { bits := (tw8Enc (if neg then -128 else 128)).getD 0, fl := if sat then 0 else flNV }
    | _ => if sat then { bits := maxBits t neg, fl := 0 } else { bits := infBits t neg, fl := 0 }
  | .zero neg => { bits := if t == .tw8 then 0x77 else signBit t neg, fl := 0 }
  | .num neg m e rest => if t == .tw8 then roundTw8 mode neg m e rest else roundNum t mode sat neg m e rest

/-- An exact result delivered as an integer of `w` bits (R103). -/
def roundInt (w : Nat) (z : Bool) (mode : Nat) (sat : Bool) (x : Ex) : FRes :=
  let lo : Int := if z then 0 else -((2 ^ (w - 1) : Nat) : Int)
  let hi : Int := if z then ((2 ^ w : Nat) : Int) - 1 else ((2 ^ (w - 1) : Nat) : Int) - 1
  let enc (i : Int) : Nat := (i % ((2 ^ w : Nat) : Int)).toNat
  let limit (neg : Bool) : FRes := { bits := enc (if neg then lo else hi), fl := if sat then 0 else flNV }
  match x with
  | .nan => { bits := 0, fl := flNV }
  | .inf neg => limit neg
  | .zero _ => { bits := 0, fl := 0 }
  | .num neg m e rest =>
    let (r, rem, sh) := scaleTo m e 0
    let r := if roundsUp mode neg (r % 2 == 1) rem sh rest then r + 1 else r
    let i : Int := if neg then -(r : Int) else r
    if i < lo || hi < i then limit neg
    else { bits := enc i, fl := if rem != 0 || rest then flNX else 0 }

/-- A value as an exact result. -/
def FVal.toEx : FVal → Ex
  | .nan _ => .nan
  | .inf n => .inf n
  | .fin n m e => if m == 0 then .zero n else .num n m e false

/-- A value converted to a type: rounded, with R103 (R293). -/
def convert (dt : ETy) (z sat : Bool) (mode : Nat) (v : FVal) : FRes :=
  let r := if dt.isInt then roundInt dt.bits z mode sat v.toEx else roundEx dt mode sat v.toEx
  { r with fl := r.fl ||| (if v.isSig then flNV else 0) }

/-! ## Exact operations and their special cases (R290) -/

def nvIf (b : Bool) : Nat := if b then flNV else 0

/-- A finite value as a multiple of 2^q. -/
def atExp (neg : Bool) (m : Nat) (e q : Int) : Int :=
  let x : Int := ((m * 2 ^ (e - q).toNat : Nat) : Int)
  if neg then -x else x

def minE (a b : Int) : Int := if a ≤ b then a else b

/-- The exact sum of two finite values; a zero sum takes its sign from R290 and R101. -/
def sumFin (mode : Nat) (n1 : Bool) (m1 : Nat) (e1 : Int) (n2 : Bool) (m2 : Nat) (e2 : Int) : Ex :=
  let q := minE e1 e2
  let s := atExp n1 m1 e1 q + atExp n2 m2 e2 q
  if s == 0 then
    if m1 == 0 && m2 == 0 && n1 == n2 then .zero n1 else .zero (mode == 3)
  else .num (decide (s < 0)) s.natAbs q false

/-- The exact sum (R290). -/
def addEx (mode : Nat) (x y : FVal) : Ex × Nat :=
  if x.isNan || y.isNan then (.nan, nvIf (x.isSig || y.isSig))
  else match x, y with
    | .inf a, .inf b => if a == b then (.inf a, 0) else (.nan, flNV)
    | .inf a, _ => (.inf a, 0)
    | _, .inf b => (.inf b, 0)
    | .fin n1 m1 e1, .fin n2 m2 e2 => (sumFin mode n1 m1 e1 n2 m2 e2, 0)
    | _, _ => (.nan, 0)

def FVal.negate : FVal → FVal
  | .inf n => .inf (!n)
  | .fin n m e => .fin (!n) m e
  | x => x

/-- The exact product as a value; 0 × ±Inf is a NaN. -/
def mulVal (x y : FVal) : FVal :=
  match x, y with
  | .nan s, _ => .nan s
  | _, .nan s => .nan s
  | .fin n m _, .inf b => if m == 0 then .nan false else .inf (n != b)
  | .inf b, .fin n m _ => if m == 0 then .nan false else .inf (n != b)
  | .inf a, .inf b => .inf (a != b)
  | .fin n1 m1 e1, .fin n2 m2 e2 => .fin (n1 != n2) (m1 * m2) (e1 + e2)

/-- Is the product 0 × ±Inf? -/
def zeroTimesInf (x y : FVal) : Bool := (x.isZero && y.isInf) || (x.isInf && y.isZero)

/-- The exact product (R290). -/
def mulEx (x y : FVal) : Ex × Nat :=
  if zeroTimesInf x y then (.nan, flNV)
  else if x.isNan || y.isNan then (.nan, nvIf (x.isSig || y.isSig))
  else ((mulVal x y).toEx, 0)

/-- The exact a × b + c (R290). -/
def fmaEx (mode : Nat) (x y c : FVal) : Ex × Nat :=
  if zeroTimesInf x y then (.nan, flNV)
  else if x.isNan || y.isNan || c.isNan then (.nan, nvIf (x.isSig || y.isSig || c.isSig))
  else addEx mode (mulVal x y) c

/-- The exact quotient (R290): 200 bits of it and whether something follows. -/
def divEx (x y : FVal) : Ex × Nat :=
  if x.isNan || y.isNan then (.nan, nvIf (x.isSig || y.isSig))
  else
    let neg := x.neg != y.neg
    match x, y with
    | .inf _, .inf _ => (.nan, flNV)
    | .inf _, _ => (.inf neg, 0)
    | _, .inf _ => (.zero neg, 0)
    | .fin _ m1 e1, .fin _ m2 e2 =>
      if m2 == 0 then (if m1 == 0 then (.nan, flNV) else (.inf neg, flDZ))
      else if m1 == 0 then (.zero neg, 0)
      else
        let k := 200 + bitLen m2
        (.num neg (m1 * 2 ^ k / m2) (e1 - e2 - k) (m1 * 2 ^ k % m2 != 0), 0)
    | _, _ => (.nan, 0)

/-- ⌊√n⌋ for n below 4^bits, one bit at a time. -/
def isqrt (n : Nat) : Nat → Nat → Nat
  | 0, r => r
  | b + 1, r => if (r + 2 ^ b) * (r + 2 ^ b) ≤ n then isqrt n b (r + 2 ^ b) else isqrt n b r

/-- The exact square root (R290). -/
def sqrtEx (x : FVal) : Ex × Nat :=
  match x with
  | .nan s => (.nan, nvIf s)
  | .inf n => if n then (.nan, flNV) else (.inf false, 0)
  | .fin n m e =>
    if m == 0 then (.zero n, 0)
    else if n then (.nan, flNV)
    else
      let k : Nat := 400 + (if (e - 400) % 2 == 0 then 0 else 1)
      let v := m * 2 ^ k
      let r := isqrt v (bitLen v / 2 + 1) 0
      (.num false r ((e - k) / 2) (r * r != v), 0)

/-- An exact result with its flags, rounded. -/
def finishEx (t : ETy) (mode : Nat) (r : Ex × Nat) : FRes :=
  let x := roundEx t mode false r.1
  { x with fl := x.fl ||| r.2 }

def fAdd (t : ETy) (mode a b : Nat) : FRes := finishEx t mode (addEx mode (valOf t false a) (valOf t false b))
def fSub (t : ETy) (mode a b : Nat) : FRes :=
  finishEx t mode (addEx mode (valOf t false a) (valOf t false b).negate)
def fMul (t : ETy) (mode a b : Nat) : FRes := finishEx t mode (mulEx (valOf t false a) (valOf t false b))
def fFma (t : ETy) (mode a b c : Nat) : FRes :=
  finishEx t mode (fmaEx mode (valOf t false a) (valOf t false b) (valOf t false c))
def fDiv (t : ETy) (mode a b : Nat) : FRes := finishEx t mode (divEx (valOf t false a) (valOf t false b))
def fSqrt (t : ETy) (mode a : Nat) : FRes := finishEx t mode (sqrtEx (valOf t false a))

/-- Is `x` below `y` as real values, −0 equal to +0? NaNs are not compared. -/
def ltVal (x y : FVal) : Bool :=
  match x, y with
  | .inf a, .inf b => a && !b
  | .inf a, .fin _ _ _ => a
  | .fin _ _ _, .inf b => !b
  | .fin n1 m1 e1, .fin n2 m2 e2 =>
    let q := minE e1 e2
    decide (atExp n1 m1 e1 q < atExp n2 m2 e2 q)
  | _, _ => false

def eqVal (x y : FVal) : Bool := !x.isNan && !y.isNan && !ltVal x y && !ltVal y x

/-- The order of `FMIN` and `FMAX`: real values with −0 below +0 (R295). -/
def ltOrd (x y : FVal) : Bool := ltVal x y || (eqVal x y && x.isZero && y.isZero && x.neg && !y.neg)

/-- The larger (or smaller) operand as its own encoding (R295). -/
def fMaxMin (t : ETy) (max : Bool) (a b : Nat) : FRes :=
  let x := valOf t false a
  let y := valOf t false b
  let fl := nvIf (x.isSig || y.isSig)
  let a := a % 2 ^ t.bits
  let b := b % 2 ^ t.bits
  if x.isNan && y.isNan then { bits := canonNaN t, fl := fl }
  else if x.isNan then { bits := b, fl := fl }
  else if y.isNan then { bits := a, fl := fl }
  else if ltOrd x y then { bits := if max then b else a, fl := fl }
  else { bits := if max then a else b, fl := fl }

/-- Does the condition hold for signed numbers given as `lt` and `eq`? -/
def condHolds (cc : Cond) (lt eq : Bool) : Bool :=
  match cc with
  | .eq => eq
  | .ne => !eq
  | .lt => lt
  | .le => lt || eq
  | .gt => !(lt || eq)
  | .ge => !lt

/-- A floating-point comparison and NV (R296). -/
def fCompare (t : ETy) (cc : Cond) (a b : Nat) : Bool × Nat :=
  let x := valOf t false a
  let y := valOf t false b
  if x.isNan || y.isNan then
    (cc == .ne, nvIf (x.isSig || y.isSig || (cc != .eq && cc != .ne)))
  else (condHolds cc (ltVal x y) (eqVal x y), 0)

/-- The class bit of `FCLASS` (R292). -/
def fClass (t : ETy) (a : Nat) : Nat :=
  let f := fmtOf t
  match valOf t false a with
  | .nan s => if s then 0x100 else 0x200
  | .inf n => if n then 0x001 else 0x080
  | .fin n m _ =>
    if m == 0 then (if n then 0x008 else 0x010)
    else if m < 2 ^ f.mbits then (if n then 0x004 else 0x020)
    else (if n then 0x002 else 0x040)

/-- The new sign of `FSGN` and `VSGN` (R297): of b, its complement, or the exclusive OR. -/
def fSign (t : ETy) (op : SgnOp) (a b : Nat) : Nat :=
  let top := 2 ^ (t.bits - 1)
  let sa := a / top % 2
  let sb := b / top % 2
  let s := match op with
    | .cpy => sb
    | .ncp => 1 - sb
    | .xor => (sa + sb) % 2
  s * top + a % top

/-! ## Windowed sums (R106, R107) -/

/-- Width of the window for a code of `mxctl.WIN` (R76). -/
def winWidth (code : Nat) : Nat :=
  match code with
  | 0 => 24 | 1 => 32 | 2 => 40 | 3 => 48 | 4 => 56 | 5 => 64 | 6 => 80 | _ => 96

/-- MSB position of a nonzero magnitude. -/
def msb (m : Nat) (e : Int) : Int := e + bitLen m - 1

/-- The windowed sum of exact terms and its LS indication (R106). -/
def winSum (mode w : Nat) (ts : List FVal) : Ex × Bool :=
  let pInf := ts.any (fun t => t.isInf && !t.neg)
  let nInf := ts.any (fun t => t.isInf && t.neg)
  if ts.any FVal.isNan || (pInf && nInf) then (.nan, false)
  else if pInf then (.inf false, false)
  else if nInf then (.inf true, false)
  else if ts.all FVal.isZero then (.zero (ts.all FVal.neg && !ts.isEmpty), false)
  else
    let big : Option Int := ts.foldl (fun acc t =>
      match t with
      | .fin _ m e =>
        if m == 0 then acc
        else match acc with
          | some x => if x < msb m e then some (msb m e) else acc
          | none => some (msb m e)
      | _ => acc) none
    let lsb : Int := big.getD 0 - w + 1
    let (sum, ls) := ts.foldl (fun (acc : Int × Bool) t =>
      match t with
      | .fin n m e =>
        let (r, rem, _) := scaleTo m e lsb
        (acc.1 + (if n then -(r : Int) else r), acc.2 || rem != 0)
      | _ => acc) ((0 : Int), false)
    if sum == 0 then (.zero (mode == 3), ls)
    else (.num (decide (sum < 0)) sum.natAbs lsb false, ls)

/-! ## Special functions (R105): fixed-point approximations far finer than any destination (log 13) -/

/-- Fraction bits of the approximations. -/
def fxBits : Nat := 420

/-- Σ t^(2k+1)/(2k+1) for k below n: the inverse hyperbolic tangent of t, fixed point. -/
def atanhFx (t : Nat) : Nat → Nat → Nat → Nat
  | 0, _, _ => 0
  | n + 1, k, p => p / (2 * k + 1) + atanhFx t n (k + 1) (p * t / 2 ^ fxBits * t / 2 ^ fxBits)

/-- ln 2, fixed point: 2 × atanh(1/3). -/
def ln2Fx : Nat := let t := 2 ^ fxBits / 3; 2 * atanhFx t 140 0 t

/-- Σ x^k/k! from k, fixed point. -/
def expFx (x : Nat) : Nat → Nat → Nat → Nat
  | 0, _, _ => 0
  | n + 1, k, p => p + expFx x n (k + 1) (p * x / 2 ^ fxBits / (k + 1))

/-- 2^f for a fixed-point fraction f below 1, fixed point. -/
def exp2Fx (f : Nat) : Nat := expFx (f * ln2Fx / 2 ^ fxBits) 120 0 (2 ^ fxBits)

/-- ⌊|x| × 2^fxBits⌋. -/
def toFx (m : Nat) (e : Int) : Nat := (scaleTo m e (-(fxBits : Int))).1

/-- 2^x of a nonzero finite x. -/
def exp2Num (neg : Bool) (m : Nat) (e : Int) : Ex :=
  if 12 < msb m e then (if neg then .num false 1 (-6000) true else .num false 1 6000 false)
  else
    let v := toFx m e
    let n := v / 2 ^ fxBits
    let f := v % 2 ^ fxBits
    if f == 0 then .num false 1 (if neg then -(n : Int) else n) false
    else if neg then .num false (exp2Fx (2 ^ fxBits - f)) (-(n : Int) - 1 - fxBits) true
    else .num false (exp2Fx f) ((n : Int) - fxBits) true

/-- log2 of a positive finite x. -/
def log2Num (m : Nat) (e : Int) : Ex :=
  let l := bitLen m - 1
  let k : Int := e + l
  if m == 2 ^ l then (if k == 0 then .zero false else .num (decide (k < 0)) k.natAbs 0 false)
  else
    let y := m * 2 ^ fxBits / 2 ^ l
    let t := (y - 2 ^ fxBits) * 2 ^ fxBits / (y + 2 ^ fxBits)
    let fr := 2 * atanhFx t 140 0 t * 2 ^ fxBits / ln2Fx
    let s : Int := k * ((2 ^ fxBits : Nat) : Int) + fr
    if s < 0 then .num true (s.natAbs - 1) (-(fxBits : Int)) true else .num false s.natAbs (-(fxBits : Int)) true

/-- tanh of a nonzero finite x. -/
def tanhNum (neg : Bool) (m : Nat) (e : Int) : Ex :=
  if msb m e < -60 then .num neg (m * 2 ^ 200 - 1) (e - 200) true
  else if 6 < msb m e then .num neg (2 ^ 200 - 1) (-200) true
  else
    let y := 2 * toFx m e * 2 ^ fxBits / ln2Fx
    let n := y / 2 ^ fxBits
    let ex := exp2Fx (y % 2 ^ fxBits) * 2 ^ n
    .num neg ((ex - 2 ^ fxBits) * 2 ^ fxBits / (ex + 2 ^ fxBits)) (-(fxBits : Int)) true

/-- 1/√x of a positive finite x. -/
def rsqNum (m : Nat) (e : Int) : Ex :=
  let k : Nat := 2 * bitLen m + 400 + (if e % 2 == 0 then 0 else 1)
  let v := 2 ^ k / m
  let r := isqrt v (bitLen v / 2 + 1) 0
  .num false r (-(e + k) / 2) (r * r * m != 2 ^ k)

/-- The special functions. -/
inductive SpFn where
  | exp2 | log2 | rcp | rsq | tanh
  deriving DecidableEq, Repr

/-- R105: the special operands and the exact result elsewhere. -/
def spEx (fn : SpFn) (x : FVal) : Ex × Nat :=
  match x with
  | .nan s => (.nan, nvIf s)
  | .inf n =>
    match fn with
    | .exp2 => if n then (.zero false, 0) else (.inf false, 0)
    | .log2 => if n then (.nan, flNV) else (.inf false, 0)
    | .rcp => (.zero n, 0)
    | .rsq => if n then (.nan, flNV) else (.zero false, 0)
    | .tanh => (.num n 1 0 false, 0)
  | .fin n m e =>
    if m == 0 then
      match fn with
      | .exp2 => (.num false 1 0 false, 0)
      | .log2 => (.inf true, flDZ)
      | .rcp => (.inf n, flDZ)
      | .rsq => (.inf n, flDZ)
      | .tanh => (.zero n, 0)
    else
      match fn with
      | .exp2 => (exp2Num n m e, 0)
      | .log2 => if n then (.nan, flNV) else (log2Num m e, 0)
      | .rcp => divEx (.fin false 1 0) (.fin n m e)
      | .rsq => if n then (.nan, flNV) else (rsqNum m e, 0)
      | .tanh => (tanhNum n m e, 0)

/-- A special function, rounded once RNE (R105). -/
def fSpecial (fn : SpFn) (t : ETy) (a : Nat) : FRes := finishEx t 0 (spEx fn (valOf t false a))

/-! ## Combining elements: copy-channel atomics (R141) and collectives (R109, R217) -/

/-- The larger or smaller with −0 below +0; a NaN operand gives the canonical NaN (R141, R109). -/
def maxMinNaN (t : ETy) (max : Bool) (a b : Nat) : Nat :=
  let x := valOf t false a
  let y := valOf t false b
  if x.isNan || y.isNan then canonNaN t
  else if ltOrd x y then (if max then b else a) else (if max then a else b)

/-- One element of a copy-channel atomic (R141). -/
def cpyElem (op : CpyOp) (t : ETy) (dest src : Nat) : Nat :=
  match op with
  | .copy => src
  | .add => if t.isInt then (dest + src) % 2 ^ t.bits else (fAdd t 0 dest src).bits
  | .max =>
    if t.isInt then (if sgnOf t.bits dest < sgnOf t.bits src then src else dest) else maxMinNaN t true dest src
  | .min =>
    if t.isInt then (if sgnOf t.bits src < sgnOf t.bits dest then src else dest) else maxMinNaN t false dest src

end Sys2Proof.Machine
end

