-- ==== Sys2Proof/Machine/Home.lean ====
section
/-! DEFINITION. What a home does with a request: memory, full/empty words and retry lists (R164 to R166), pegs
(R157 to R160), barriers (R53, R54), expiry entries (R188 to R195), remote fills (R322), and the messages for a
core's queue (R41). -/
namespace Sys2Proof.Machine

/-! ## Answers -/

def State.tidOf (s : State) (uid : Nat) : Option Nat := (s.threads.find? (fun e => e.2.uid == uid)).map (fun e => e.1)

/-- A marker left with the thread when its wait is over. -/
def okMail (k : Nat) : Mail := { k := k, epoch := 0, req := .wr [], rep := .ok }

def hasMail (t : Thread) (k : Nat) : Bool := t.mail.any (fun m => m.k == k)

/-- The mark of registers that a queued `GROW.wait` has been granted; its answer says how many (R70). -/
def growGranted : Nat := 7300

/-- The request number of a clean of a line, and that of the marker that an instruction is done with the line (R162). -/
def cleanK (line : Nat) : Nat := 2 ^ 60 + line
def lineDoneK (line : Nat) : Nat := 2 ^ 61 + line

/-- A wait that an answer may end: the instruction issues again. -/
def Thread.wake (t : Thread) : Thread :=
  match t.park with
  | some .reply => { t with park := none }
  | some .listed => { t with park := none }
  | some .acks => { t with park := none }
  | some .noTag => { t with park := none }
  | some (.barrier _) => { t with park := none }
  | some .spawn => { t with park := none }
  | some .spawnParked => { t with park := none }
  | some .quiesce => { t with park := none }
  | some (.migr _) => { t with park := none }
  | _ => t

/-- A refusal of a spawn or a migration, which SPAWN_REFUSED and MIGRATION_RESEND act on (R48, R50). -/
def Thread.turnedAway (t : Thread) (m : Mail) : Thread :=
  match t.park with
  | some .spawn => { t with park := some .refused, mail := t.mail ++ [m] }
  | some (.migr _) => { t with park := some (.migr true), mail := t.mail ++ [m] }
  | _ => { t with mail := t.mail ++ [m] }.wake

/-- The answers left with a thread or unit. -/
def State.mailOf (s : State) (who : Who) : List Mail :=
  match who with
  | .thread uid =>
    match s.tidOf uid with
    | some tid => ((s.thread? tid).map (fun t => t.mail)).getD []
    | none => []
  | .channel c => (s.coreAt c).cpMail
  | .matrix c => (s.coreAt c).mxMail
  | .hub _ => []

/-- The bytes of a write request. -/
def Req.cells (q : Req) : List Host.Cell := match q.base with
  | .wr l => l
  | _ => []

/-- Bytes whose clean has not reached the home are dirty again (R151). -/
def State.redirty (s : State) (die line : Nat) (cells : List Host.Cell) : State :=
  let key := visitorKey die line
  match mapGet s.visitors key with
  | none => s
  | some l => { s with visitors := mapPut s.visitors key { l with dirty := cells.foldl (fun m c => setBit m (c.1 % 64)) l.dirty } }

/-- A clean made by a thread of a core is given up, or its home has refused it. -/
def State.uncleaned (s : State) (core k : Nat) (q : Req) : State :=
  if 2 ^ 60 ≤ k ∧ k < 2 ^ 61 then s.redirty (dieOfCore core) (k - 2 ^ 60) q.cells else s

def Reply.isFault : Reply → Bool
  | .fault _ => true
  | _ => false

/-- Leaves an answer with the thread or unit that asked. -/
def State.mailTo (s : State) (who : Who) (m : Mail) : State :=
  match who with
  | .thread uid =>
    match s.tidOf uid with
    | some tid => (if m.rep.isFault then s.uncleaned (coreOfTid tid) m.k m.req else s).updThread tid (fun t =>
        if m.rep == .refused then t.turnedAway m else { t with mail := t.mail ++ [m] }.wake)
    | none => s
  | .channel c => s.updCore c (fun x => { x with cpMail := x.cpMail ++ [m] })
  | .matrix c => s.updCore c (fun x => { x with mxMail := x.mxMail ++ [m] })
  | .hub _ => s

/-- Is the request made on an uncached page? -/
def Req.uncached : Req → Bool
  | .unc _ => true
  | _ => false

/-- A request as the page's HOME makes it (R131): marked on an uncached HBM page. -/
def Req.at_ (p : Phys) (r : Req) : Req := if p.leaf.home == 3 && isHbm p.pa then .unc r else r

/-- The requests that the replay table records (R205). -/
def Req.writes (q : Req) : Bool := match q.base with
  | .wr _ => true
  | .amo _ _ _ _ _ => true
  | .cas _ _ _ _ => true
  | .feSt _ _ _ _ => true
  | .pegWr _ _ => true
  | .line _ _ _ _ => true
  | .popFree _ _ _ => true
  | _ => false

/-- The requests whose answers the replay table holds: writes, and barrier operations, which a resend must not repeat
(R205, R274; log 72). -/
def Req.recorded (q : Req) : Bool := q.writes || (match q.base with | .bar _ _ _ => true | _ => false)

/-- Records a completed write in the hub's replay table, in place of any entry with the key (R205). -/
def State.recordReplay (s : State) (pkg core rtag gen : Nat) (rep : Reply) : State :=
  s.updPkg pkg (fun p =>
    { p with replay := p.replay.filter (fun e => !(e.core == core && e.rtag == rtag)) ++
      [{ src := pkgOfCore core, core := core, rtag := rtag, gen := gen, rep := rep, since := s.cycle }] })

/-- Bytes of a little-endian block. -/
def bytesOf : Nat → Nat → List Byte
  | 0, _ => []
  | n + 1, v => BitVec.ofNat 8 v :: bytesOf n (v / 256)

/-- A reply as it is sent: what a read of more than 8 bytes gives travels as its bytes (R201). -/
def Req.sized (q : Req) (rep : Reply) : Reply :=
  match q.base, rep with
  | .rd _ n, .val v => if 8 < n then .bytes (bytesOf n v) else rep
  | _, _ => rep

/-- A reply that leaves its request outstanding: a listed notice, or a refusal after which it is sent again (R164, R203,
R205). -/
def Reply.goesOn : Reply → Bool
  | .listed => true
  | .busy => true
  | .full _ => true
  | _ => false

/-- The answer to a request of this package goes to its mail, to a remote one by message (R202). -/
def State.answer (s : State) (pkg : Nat) (w : Waiter) (rep : Reply) : State :=
  if w.remote then
    let s1 := if w.req.recorded && !rep.goesOn then s.recordReplay pkg w.core w.rtag w.gen rep else s
    s1.send
      { dst := pkgOfCore w.core, src := pkg, cls := 1, core := w.core, rtag := w.rtag, gen := w.gen,
        exp := w.exp, resend := false, body := .reply (w.req.sized rep) }
  else s.mailTo w.who { k := w.k, epoch := w.epoch, req := w.req, rep := rep }

/-- A reply sent to a remote requester. -/
def State.sendReply (s : State) (pkg : Nat) (w : Waiter) (rep : Reply) : State :=
  s.send
    { dst := pkgOfCore w.core, src := pkg, cls := 1, core := w.core, rtag := w.rtag, gen := w.gen, exp := w.exp,
      resend := false, body := .reply (w.req.sized rep) }

/-! ## Memory at its home -/

def poisonReply : Reply := .fault (mkTrap 0x13 0 0)

/-- The new value of an atomic (R269). -/
def amoNew (op : AmoOp) (z : Bool) (n old v : Nat) : Nat :=
  let w := 8 * n
  let less (a b : Nat) : Bool := if z then decide (a < b) else decide (sgnOf w a < sgnOf w b)
  match op with
  | .add => (old + v) % 2 ^ w
  | .max => if less old v then v else old
  | .min => if less v old then v else old
  | .and => old &&& v
  | .or => old ||| v
  | .xor => old ^^^ v
  | .swap => v

/-- A core with a forwarding entry stands for its target (R237). -/
def State.forwardCore (s : State) (core : Nat) : Nat :=
  let l := (s.dieAt (dieOfCore core)).forward
  forwardFrom l l.length core

/-- The condition of a full/empty access (R164) or of `ACQ` (R160). -/
def State.satisfied (s : State) (q : Req) : Bool := match q.base with
  | .feLd m pa _ => m == .ig || s.tagAt pa
  | .feSt m pa _ _ => m != .wef || !s.tagAt pa
  | .peg pa c => s.tagAt pa && decide (c ≤ s.readN pa 8)
  | .rfill core0 slot reg _ wait =>
    let core := s.forwardCore core0
    !wait ||
    (match slot with
     | some sl =>
       match s.thread? (core * 8 + sl) with
       | some t => !t.gFull.getLsbD reg
       | none => true
     | none => if h : reg < 16 then !s.cFull core ⟨reg, h⟩ else true)
  | _ => true

/-- A register written by a remote fill (R322): one action at the target core. -/
def State.fill (s : State) (core : Nat) (slot : Option Nat) (reg : Nat) (v : Word) : State × Reply :=
  if h : reg < 16 then
    match slot with
    | some sl =>
      match s.thread? (core * 8 + sl) with
      | some t =>
        let t1 := t.putG ⟨reg, h⟩ v
        (s.setThread (core * 8 + sl) t1, .ok)
      | none => (s, .fault (mkTrap 0x17 0 2))
    | none => (s.changeC core { n := ⟨reg, h⟩, v := some v, issued := s.cycle, fill := true }, .ok)
  else (s, .fault (mkTrap 0x17 0 1))

/-- A satisfied full/empty access, `ACQ` read or remote fill, performed in one action (R164). -/
def State.perform (s : State) (q : Req) : State × Reply := match q.base with
  | .feLd m pa n =>
    if s.poisoned pa n then (s, poisonReply)
    else (if m == .wfe then s.setTag pa false else s, .val (s.readN pa n))
  | .feSt m pa n v =>
    if s.partPoison pa n then (s, poisonReply)
    else (if m == .ig then s.homeWrite pa n v else (s.homeWrite pa n v).setTag pa true, .ok)
  | .peg pa _ => if s.poisoned pa 8 then (s, poisonReply) else (s, .val (s.readN pa 8))
  | .rfill core slot reg v _ => s.fill (s.forwardCore core) slot reg v
  | _ => (s, .ok)

def keyScope (key : Nat) : Nat := key / 2 ^ 36

/-- The package of a barrier's home: its domain is a core, quad, die or package, or for a pod barrier the home (R53, R54). -/
def keyHome (key : Nat) : Nat :=
  let dom := key / 16 % 2 ^ 32
  match keyScope key with
  | 1 => dom / 8192
  | 2 => dom / 2048
  | 3 => dom / 4
  | _ => dom

/-- The package a request is performed at. -/
def Req.homePkg (q : Req) : Nat := match q.base with
  | .rd pa _ => pkgOfPa pa
  | .wr cells => match cells with
    | c :: _ => pkgOfPa c.1
    | [] => 0
  | .probe cells => match cells with
    | c :: _ => pkgOfPa c.1
    | [] => 0
  | .amo _ _ pa _ _ => pkgOfPa pa
  | .cas pa _ _ _ => pkgOfPa pa
  | .feLd _ pa _ => pkgOfPa pa
  | .feSt _ pa _ _ => pkgOfPa pa
  | .peg pa _ => pkgOfPa pa
  | .pegWr pa _ => pkgOfPa pa
  | .bindGet pa => pkgOfPa pa
  | .bindAdd pa _ _ _ => pkgOfPa pa
  | .bindRm pa => pkgOfPa pa
  | .exSet t _ _ _ => t.toNat / 4096
  | .exChk t _ => t.toNat / 4096
  | .exFree t _ => t.toNat / 4096
  | .exParent t _ _ => t.toNat / 4096
  | .bar key _ _ => keyHome key
  | .spawn core _ _ _ _ => pkgOfCore core
  | .migr core _ _ => pkgOfCore core
  | .rfill core _ _ _ _ => pkgOfCore core
  | .line _ _ pa _ => pkgOfPa pa
  | .popFree pa _ _ => pkgOfPa pa
  | .note t _ => t.toNat / 4096
  | .unc _ => 0
  | .seam _ _ => 0

/-- The bytes that a performed request may have written: address and length. -/
def Req.span (q : Req) : List (Nat × Nat) := match q.base with
  | .wr cells => cells.map (fun c => (c.1, 1))
  | .amo _ _ pa n _ => [(pa, n)]
  | .cas pa n _ _ => [(pa, n)]
  | .feSt _ pa n _ => [(pa, n)]
  | .pegWr pa _ => [(pa, 8)]
  | .line _ _ pa _ => [(pa, 64)]
  | .popFree pa _ _ => [(pa, 4)]
  | _ => []

/-- What a request on an uncached page wrote stands in HBM, at the home's memory controller (R131, R150). -/
def State.settle (s : State) (q : Req) : State :=
  if q.uncached then q.span.foldl (fun s e => s.flushSpan e.1 e.2) s else s

/-- The word a request waits on, behind forwarding entries. -/
def State.wordOf (s : State) : Req → Option Nat
  | .rfill core slot reg v wait => (Req.rfill (s.forwardCore core) slot reg v wait).word
  | r => r.word

/-! ## The message queue of a core (R40, R41) -/

/-- LOGN of `mq`: the number of entries, 0 for no queue; a queue beyond the local store is absent (R40). -/
def Core.mqEntries (c : Core) : Nat :=
  let logn := field c.mq 31 28
  let base := field c.mq 18 6 * 64
  if 4 ≤ logn ∧ logn ≤ 10 ∧ base + 64 * 2 ^ logn ≤ 65536 * c.csplit then 2 ^ logn else 0

/-- Address of entry `i` of the message queue. -/
def Core.mqAddr (c : Core) (core i : Nat) : Nat := lsBase core + field c.mq 18 6 * 64 + 64 * (i % c.mqEntries)

/-- Is a message of the requester on its way or waiting already? A resend of it is the same message (log 24). -/
def Core.hasMsg (c : Core) (w : Waiter) : Bool :=
  let same (m : MqMsg) : Bool := m.who == w.who && m.core == w.core && m.rtag == w.rtag && m.remote == w.remote && m.req == w.req
  c.mqIn.any same || c.mqOut.any (fun e => same e.msg) || c.parked.any same

/-- A resend of a message that is on its way or waiting is answered under its new generation (log 24). -/
def Core.regen (c : Core) (w : Waiter) : Core :=
  let f (m : MqMsg) : MqMsg :=
    if m.who == w.who && m.core == w.core && m.rtag == w.rtag && m.remote == w.remote && m.req == w.req then
      { m with gen := w.gen } else m
  { c with mqIn := c.mqIn.map f, mqOut := c.mqOut.map (fun e => { e with msg := f e.msg }), parked := c.parked.map f }

def mkMq (w : Waiter) (kind line peer : Nat) : MqMsg :=
  { kind := kind, who := w.who, core := w.core, rtag := w.rtag, gen := w.gen, remote := w.remote, k := w.k,
    req := w.req, line := line, peer := peer, exp := w.exp, limit := w.limit, born := w.since, va := w.va }

/-- The words that bytes written change, each once, in order (R164). -/
def cellWords : List Host.Cell → List Nat
  | [] => []
  | [c] => [c.1 / 8]
  | c :: d :: r => if c.1 / 8 == d.1 / 8 then cellWords (d :: r) else c.1 / 8 :: cellWords (d :: r)

/-- The handler slot of a core holds a thread (R38). -/
def State.hasHandler (s : State) (core : Nat) : Bool :=
  (s.thread? (core * 8 + (s.coreAt core).ovh)).isSome

/-- The core whose handler must name the copies of a line before it is written: the line has overflowed, and the
handler can be asked (R41, R152). -/
def State.asksHandler (s : State) (line : Nat) : Option Nat :=
  match mapGet s.dirs line, homeCore (line * 64) with
  | some d, some hc =>
    if d.overflowed && !d.bcast && s.hasHandler hc && (s.coreAt hc).mqEntries != 0 then some hc else none
  | _, _ => none

/-- The lines that a request writes now: a full/empty store that must wait writes none. -/
def State.writeLines (s : State) (q : Req) : List Nat :=
  if q.writes && s.satisfied q then cellWords (q.span.map (fun e => (e.1 / 64 * 8, (0 : Byte)))) else []

/-- The first of some lines whose copies a handler must name before they are written, with the handler's core. -/
def State.firstAsked (s : State) (lines : List Nat) : Option (Nat × Nat) :=
  lines.findSome? (fun l => (s.asksHandler l).map (fun hc => (l, hc)))

/-- The first line that a request writes now whose copies a handler must name, with the handler's core. -/
def State.handlerOf (s : State) (q : Req) : Option (Nat × Nat) :=
  s.firstAsked (s.writeLines q)

/-- The L1 copies of the lines that a request writes are invalidated (R152). -/
def State.dropDirs (s : State) (q : Req) : State :=
  { s with dirs := (s.writeLines q).foldl (fun m l => mapDel m l) s.dirs }

/-- A message of kind 4 for the handler of a line's home core, once for each write (R41). -/
def State.askHandler (s : State) (w : Waiter) (line hc : Nat) : State :=
  if (s.coreAt hc).hasMsg w then s.updCore hc (fun x => x.regen w)
  else s.updCore hc (fun x => { x with mqIn := x.mqIn ++ [mkMq w 4 (line * 64) (w.core % 2048)] })

/-- Before a unit of the hardware writes lines in one action, the handlers of overflowed ones are asked, line by line; none
when nothing is left to ask (R152; log 91). -/
def State.askLines (s : State) (lines : List Nat) : Option State :=
  (s.firstAsked lines).map (fun e =>
    s.askHandler
      { seq := 0, home := 0, who := .hub 0, core := pkgOfCore e.2 * 8192 + 2047, rtag := 0, gen := 0, remote := false, k := 0,
        epoch := 0, req := .probe [(e.1 * 64, 0)], exp := 0, since := s.cycle, limit := 0, va := 0, refusedAt := none } e.1 e.2)

/-- The lines that `n` bytes at an address touch. -/
def linesOf (pa n : Nat) : List Nat :=
  if n == 0 then [] else (List.range ((pa + n - 1) / 64 - pa / 64 + 1)).map (fun j => pa / 64 + j)

/-! ## Retry lists (R164, R165) -/

/-- Requests whose wait `syncl` limits (R165, R323). -/
def Req.limited (q : Req) : Bool := match q.base with
  | .feLd _ _ _ => true
  | .feSt _ _ _ _ => true
  | .peg _ _ => true
  | .rfill _ _ _ _ _ => true
  | _ => false

/-- Has a wait lasted as long as its `syncl` allows (R165)? -/
def State.waitedOut (s : State) (w : Waiter) : Bool :=
  w.limit != 0 && w.req.limited && decide (w.since + Config.nsToCycles (1000 * w.limit) ≤ s.cycle)

/-- Completes the first satisfied waiter on a word, in list order (R164). -/
def State.examineOne (s : State) (word : Nat) : Option State :=
  match s.retry.find? (fun w => w.refusedAt.isNone && s.wordOf w.req == some word && s.satisfied w.req) with
  | none => none
  | some w =>
    let s1 := { s with retry := s.retry.filter (fun x => x.seq != w.seq) }
    match s1.handlerOf w.req with
    | some (l, hc) => some (s1.askHandler w l hc)
    | none =>
      let (s2, rep) := (s1.dropDirs w.req).perform w.req
      some ((s2.settle w.req).answer w.req.homePkg w rep)

/-- Examines the waiters on a word until none is satisfied (R164). -/
def State.examine (s : State) (word : Nat) : State :=
  let rec go : Nat → State → State
    | 0, s => s
    | n + 1, s => match s.examineOne word with
      | some s1 => go n s1
      | none => s
  go s.retry.length s

/-- The retry list of a word, and its capacity (R164; log 23 for the maintenance block's words). -/
def retryHome (r : Req) : Nat × Nat :=
  match r.base with
  | .rfill core _ _ _ _ => (core, 64)
  | _ =>
    let pa := match r.word with
      | some w => w * 8
      | none => 0
    match placeOf pa with
    | .ls d c _ => ((pkgOfPa pa * 4 + d) * 2048 + c, 64)
    | .hbm st _ => (2 ^ 21 + pkgOfPa pa * 16 + st, 256)
    | _ => (2 ^ 22 + pkgOfPa pa * 4, 64)

/-- An unsatisfied wait enters the list, or is refused when the list is full; its count starts now (R165). A requester
of another package is told of the refusal (R164). -/
def State.list (s : State) (w : Waiter) : State × Reply :=
  let (home, cap) := retryHome w.req
  let n := (s.retry.filter (fun x => x.home == home && x.refusedAt.isNone)).length
  if w.remote && cap ≤ n then (s, .full w.since)
  else
  let w1 := { w with seq := s.nextSeq, home := home, refusedAt := if n < cap then none else some s.cycle }
  ({ s with retry := s.retry ++ [w1], nextSeq := s.nextSeq + 1 }, .listed)

/-! ## Expiry entries (R188 to R195) -/

def tagPkg (t : Tag) : Nat := t.toNat / 4096
def tagIndex (t : Tag) : Nat := t.toNat % 4096
def mkTag (pkg idx : Nat) : Tag := BitVec.ofNat 19 (pkg * 4096 + idx)

def Pkg.ex (p : Pkg) (idx : Nat) : ExEnt := (mapGet p.exTab idx).getD ExEnt.reset
def State.exAt (s : State) (t : Tag) : ExEnt := (s.pkgAt (tagPkg t)).ex (tagIndex t)
def State.setEx (s : State) (t : Tag) (e : ExEnt) : State :=
  s.updPkg (tagPkg t) (fun p => { p with exTab := mapPut p.exTab (tagIndex t) e })

/-- Is the tag one whose work goes on: INDEX 0, or an entry in LIVE? -/
def State.tagLive (s : State) (t : Tag) : Bool := tagIndex t == 0 || (s.exAt t).st == .live

/-- Sends the wave of a tag to a package (R194). -/
def State.sendWave (s : State) (t : Tag) (pkg : Nat) : State :=
  s.send
    { dst := pkg, src := tagPkg t, cls := 2, core := tagPkg t * 8192 + 2047, rtag := 0, gen := 0, exp := 0,
      resend := false, body := .wave t }

/-- An entry lapses: LAPSING, and the wave starts to every package in REACH (R189, R194). -/
def State.lapse (s : State) (t : Tag) : State :=
  let e := s.exAt t
  let s1 := s.setEx t { e with st := .lapsing, done := 0, since := s.cycle }
  (List.range 128).foldl (fun s p => if e.reach.getLsbD p then s.sendWave t p else s) s1

/-- A package enters REACH; an entry past LIVE sends it the wave at once (R193). -/
def State.reachAdd (s : State) (t : Tag) (pkg : Nat) : State :=
  let e := s.exAt t
  if e.st == .free then s
  else
    let s1 := s.setEx t { e with reach := setBit e.reach pkg }
    if e.st == .live then s1 else s1.sendWave t pkg

def exFault (reason : Nat) : Reply := .fault (mkTrap 0x17 0 reason)

/-- The expiry requests at the tag's home (R191). -/
def State.exReq (s : State) : Req → State × Reply
  | .exSet t part toPkg check =>
    let e := s.exAt t
    if check && e.st == .free then (s, exFault 4)
    else if check && e.part != part then (s, exFault 3)
    else if check && e.st == .quarantine then (s, exFault 4)
    else (s.reachAdd t toPkg, .ok)
  | .exChk t part =>
    let e := s.exAt t
    if e.st == .free then (s, .val 2)
    else if e.part != part then (s, exFault 3)
    else
      (s, .val (match e.st with
        | .live => 0
        | .lapsing => 1
        | .lapsed => 1
        | _ => 2))
  | .exFree t part =>
    let e := s.exAt t
    if e.st == .free then (s, .ok)
    else if e.part != part then (s, exFault 3)
    else
      match e.st with
      | .live => ((s.setEx t { e with freePend := true }).lapse t, .ok)
      | .lapsing => (s.setEx t { e with freePend := true }, .ok)
      | .lapsed => (s.setEx t { e with freePend := true, st := .quarantine, since := s.cycle }, .ok)
      | _ => (s, .ok)
  | .exParent t part toPkg =>
    let e := s.exAt t
    if e.st == .free then (s, .val 0)
    else if e.part != part then (s, exFault 3)
    else (s.reachAdd t toPkg, .val (if e.st == .live then e.instant + 1 else 0))
  | .note t pkg =>
    let e := s.exAt t
    (s.reachAdd t pkg, .val (if e.st == .live then 1 else 0))
  | _ => (s, .ok)

/-! ## Barriers (R53 to R56) -/

def scopeCode (sc : Scope) : Nat := (encScope (some sc)).toNat

/-- A barrier's number: scope, domain (core, quad, die, package; 0 for the pod) and id. A pod barrier's
domain field holds its home package. -/
def barKey (sc : Scope) (dom id : Nat) : Nat := (scopeCode sc * 2 ^ 32 + dom) * 16 + id

/-- Do the members all stand arrived? A count barrier compares arrivals with its count. -/
def Barrier.complete (b : Barrier) (mask : Bool) : Bool :=
  if mask then !b.members.isEmpty && b.members.all (fun u => b.arrived.contains u)
  else match b.count with
    | some c => decide (0 < c) && b.arrived.length == c
    | none => false

/-- The staged slot table takes effect in the cycle after core barrier 0 completes (R37): at once when the core has had
this cycle's issue. -/
def State.barrierDone (s : State) (key : Nat) : State :=
  if keyScope key == 1 && key % 16 == 0 then
    s.updCore (key / 16 % 2 ^ 32) (fun c =>
      match c.staged with
      | some t =>
        if c.playedAt == some s.cycle then { c with slotTab := t, staged := none } else { c with due := some t, staged := none }
      | none => c)
  else s

/-- Completes the phase if every member has arrived: all members parked in `BAR` are released (R53). -/
def State.barrierCheck (s : State) (key : Nat) : State :=
  let b := s.barrierAt key
  if b.complete (decide (keyScope key ≤ 2)) then
    let ws := s.retry.filter (fun w => match w.req with | .bar k u .arrive => k == key && b.arrived.contains u | _ => false)
    let s1 := { s with
      barriers := mapPut s.barriers key { b with arrived := [], since := [] }
      retry := s.retry.filter (fun w => !ws.any (fun x => x.seq == w.seq)) }
    (ws.foldl (fun s w => s.answer w.req.homePkg w .ok) s1).barrierDone key
  else s

def barFault : Reply := .fault (mkTrap 0x14 0 0)

/-- A departure (R53, R54): the member leaves, a count barrier's expected count falls by 1, and at zero it
becomes unconfigured. -/
def State.depart (s : State) (key uid : Nat) : State :=
  let b := s.barrierAt key
  if b.members.contains uid then
    let b1 : Barrier := { b with
      members := setDel b.members uid
      arrived := setDel b.arrived uid
      since := b.since.filter (fun e => e.1 != uid)
      count := match b.count with
        | some c => if c ≤ 1 then none else some (c - 1)
        | none => none }
    State.barrierCheck { s with
      barriers := mapPut s.barriers key b1
      retry := s.retry.filter (fun w => match w.req with | .bar k u .arrive => !(k == key && u == uid) | _ => true) } key
  else s

/-- A barrier operation at the barrier's home; an arrival is answered when the phase completes (R53 to R55). -/
def State.barReq (s : State) (w : Waiter) (key uid : Nat) (op : BarOp) : State × Option Reply :=
  let b := s.barrierAt key
  match op with
  | .join c =>
    if b.members.contains uid || c == some 0 || (b.count.isSome && c.isSome && b.count != c) then (s, some barFault)
    else
      let b1 : Barrier := { b with
        members := setIns b.members uid
        count := match c with
          | some n => some n
          | none => b.count }
      ({ s with barriers := mapPut s.barriers key b1 }, some .ok)
  | .arrive =>
    if !b.members.contains uid then (s, some barFault)
    else
      let w1 := { w with seq := s.nextSeq, home := 2 ^ 24, refusedAt := none }
      let s1 := { s with
        barriers := mapPut s.barriers key
          { b with arrived := setIns b.arrived uid, since := b.since ++ [(uid, s.cycle)] }
        retry := s.retry ++ [w1], nextSeq := s.nextSeq + 1 }
      (s1.barrierCheck key, none)
  | .leave => if b.members.contains uid then (s.depart key uid, some .ok) else (s, some barFault)

/-! ## Peg binding table (R157, R158) -/

def pegFault (reason : Nat) : Reply := .fault (mkTrap 0x17 0 reason)

def State.pegReq (s : State) : Req → State × Reply
  | .bindGet pa =>
    match (s.pkgAt (pkgOfPa pa)).pegs.find? (fun e => e.pa == pa) with
    | some e => (s, .peg e.sc e.ranges)
    | none => (s, .peg .pod [])
  | .bindAdd pa sc base len =>
    let p := s.pkgAt (pkgOfPa pa)
    match p.pegs.find? (fun e => e.pa == pa) with
    | some e =>
      if e.ranges.contains (base, len) then
        (s.setPkg (pkgOfPa pa) { p with pegs := p.pegs.map (fun x => if x.pa == pa then { x with sc := sc } else x) }, .ok)
      else if 8 ≤ e.ranges.length then (s, pegFault 2)
      else
        (s.setPkg (pkgOfPa pa) { p with pegs := p.pegs.map (fun x =>
          if x.pa == pa then { x with sc := sc, ranges := x.ranges ++ [(base, len)] } else x) }, .ok)
    | none =>
      if 4096 ≤ p.pegs.length then (s, pegFault 3)
      else (s.setPkg (pkgOfPa pa) { p with pegs := p.pegs ++ [{ pa := pa, sc := sc, ranges := [(base, len)] }] }, .ok)
  | .bindRm pa => (s.updPkg (pkgOfPa pa) (fun p => { p with pegs := p.pegs.filter (fun e => e.pa != pa) }), .ok)
  | _ => (s, .ok)

/-! ## Elements of a line -/

/-- Element-wise combination of two little-endian byte blocks of `n` elements of `w` bits. -/
def zipElems (w : Nat) (f : Nat → Nat → Nat) : Nat → Nat → Nat → Nat
  | 0, _, _ => 0
  | n + 1, a, b => f (a % 2 ^ w) (b % 2 ^ w) + 2 ^ w * zipElems w f n (a / 2 ^ w) (b / 2 ^ w)

/-- The little-endian value of bytes. -/
def ofBytes : List Byte → Nat
  | [] => 0
  | b :: r => b.toNat + 256 * ofBytes r

/-! ## A request at its home -/

/-- The address a memory request names. -/
def Req.addr (q : Req) : Option Nat := match q.base with
  | .rd pa _ => some pa
  | .wr cells => cells.head?.map (fun c => c.1)
  | .probe cells => cells.head?.map (fun c => c.1)
  | .amo _ _ pa _ _ => some pa
  | .cas pa _ _ _ => some pa
  | .feLd _ pa _ => some pa
  | .feSt _ pa _ _ => some pa
  | .peg pa _ => some pa
  | .pegWr pa _ => some pa
  | .line _ _ pa _ => some pa
  | .popFree pa _ _ => some pa
  | _ => none

/-- The request with its addresses replaced, as a forwarding entry redirects it (R237). -/
def Req.mapPa (f : Nat → Nat) : Req → Req
  | .rd pa n => .rd (f pa) n
  | .probe cells => .probe (cells.map (fun c => (f c.1, c.2)))
  | .wr cells => .wr (cells.map (fun c => (f c.1, c.2)))
  | .amo op z pa n v => .amo op z (f pa) n v
  | .cas pa n e new => .cas (f pa) n e new
  | .feLd m pa n => .feLd m (f pa) n
  | .feSt m pa n v => .feSt m (f pa) n v
  | .peg pa c => .peg (f pa) c
  | .pegWr pa v => .pegWr (f pa) v
  | .bindGet pa => .bindGet (f pa)
  | .bindAdd pa sc b l => .bindAdd (f pa) sc b l
  | .bindRm pa => .bindRm (f pa)
  | .line op t pa d => .line op t (f pa) d
  | .popFree pa h e => .popFree (f pa) h (f e)
  | .unc r => .unc (r.mapPa f)
  | .seam t r => .seam t (r.mapPa f)
  | r => r

/-- The answer of a request that is performed at once, or none when it comes later. A wait that has reached its limit
ends with the sync-timeout (R165). -/
def State.applyBase (s : State) (w : Waiter) : State × Option Reply :=
  if s.waitedOut w then (s, some (.fault (mkTrap 0x0B 0 0)))
  else match w.req.base with
  | .rd pa n => (s, some (if s.poisoned pa n then poisonReply else .val (s.readN pa n)))
  | .probe cells => (s, some (if s.cellsPoison cells then poisonReply else .ok))
  | .wr cells =>
    if s.cellsPoison cells then (s, some poisonReply)
    else
      let s1 := s.writeCells cells
      ((cellWords cells).foldl (fun s x => s.examine x) s1, some .ok)
  | .amo op z pa n v =>
    if s.poisoned pa n then (s, some poisonReply)
    else
      let old := s.readN pa n
      ((s.homeWrite pa n (amoNew op z n old v)).examine (pa / 8), some (.val old))
  | .cas pa n e new =>
    if s.poisoned pa n then (s, some poisonReply)
    else
      let old := s.readN pa n
      (if old == e then (s.homeWrite pa n new).examine (pa / 8) else s, some (.val old))
  | .line op t pa data =>
    if s.poisoned pa 64 then (s, some poisonReply)
    else
      let n := 512 / t.bits
      let new := zipElems t.bits (cpyElem op t) n (s.readN pa 64) (ofBytes data)
      let s1 := s.homeWrite pa 64 new
      ((List.range 8).foldl (fun s j => s.examine (pa / 8 + j)) s1, some .ok)
  | .popFree pa head epa =>
    if s.poisoned pa 16 then (s, some poisonReply)
    else if s.readN pa 4 != head then (s, some .refused)
    else if s.readN pa 4 == s.readN (pa + 4) 4 then (s, some (.fault (mkTrap 0x17 0 0)))
    else if s.poisoned epa 4 then (s, some poisonReply)
    else ((s.homeWrite pa 4 ((head + 1) % 2 ^ 32)).examine (pa / 8), some (.val (s.readN epa 4)))
  | .pegWr pa v =>
    if s.partPoison pa 8 then (s, some poisonReply)
    else (((s.homeWrite pa 8 v).setTag pa true).examine (pa / 8), some .ok)
  | .feLd m pa n =>
    if s.satisfied (.feLd m pa n) then
      let (s1, rep) := s.perform (.feLd m pa n)
      (s1.examine (pa / 8), some rep)
    else if s.poisoned pa n then (s, some poisonReply)
    else let (s1, rep) := s.list w; (s1, some rep)
  | .feSt m pa n v =>
    if s.satisfied (.feSt m pa n v) then
      let (s1, rep) := s.perform (.feSt m pa n v)
      (s1.examine (pa / 8), some rep)
    else if s.partPoison pa n then (s, some poisonReply)
    else let (s1, rep) := s.list w; (s1, some rep)
  | .peg pa c =>
    if s.satisfied (.peg pa c) then let (s1, rep) := s.perform (.peg pa c); (s1, some rep)
    else let (s1, rep) := s.list w; (s1, some rep)
  | .rfill core slot reg v wait =>
    if s.satisfied (.rfill core slot reg v wait) then
      let (s1, rep) := s.perform (.rfill core slot reg v wait)
      (s1, some rep)
    else let (s1, rep) := s.list w; (s1, some rep)
  | .bindGet pa => let (s1, rep) := s.pegReq (.bindGet pa); (s1, some rep)
  | .bindAdd pa sc base len => let (s1, rep) := s.pegReq (.bindAdd pa sc base len); (s1, some rep)
  | .bindRm pa => let (s1, rep) := s.pegReq (.bindRm pa); (s1, some rep)
  | .bar key uid op => s.barReq w key uid op
  | .spawn core _ _ _ _ =>
    let c := s.forwardCore core
    if (s.coreAt c).hasMsg w then (s.updCore c (fun x => x.regen w), none)
    else (s.updCore c (fun x => { x with mqIn := x.mqIn ++ [mkMq w 1 0 0] }), none)
  | .migr core _ _ =>
    let c := s.forwardCore core
    if (s.coreAt c).hasMsg w then (s.updCore c (fun x => x.regen w), none)
    else (s.updCore c (fun x => { x with mqIn := x.mqIn ++ [mkMq w 2 0 0] }), none)
  | r => let (s1, rep) := s.exReq r; (s1, some rep)

/-- A line of local store that the copy channel has written takes the command's tag (R122, R141). -/
def State.tagLine (s : State) (q : Req) (rep : Option Reply) : State :=
  match q with
  | .seam t r => if rep == some .ok && isLs r.headAddr then s.setSeam r.headAddr t else s
  | _ => s

/-- The answer of a request; on an uncached page what it wrote goes on to HBM. -/
def State.applyAt (s : State) (w : Waiter) : State × Option Reply :=
  let r := s.applyBase w
  ((r.1.settle w.req).tagLine w.req r.2, r.2)

/-- A local store that was powered down powers up on an access (R51). -/
def State.powerUp (s : State) (pa : Nat) : State :=
  match placeOf pa with
  | .ls d c _ =>
    let core := (pkgOfPa pa * 4 + d) * 2048 + c
    if (s.coreAt core).lsOn then s else s.updCore core (fun x => { x with lsOn := true })
  | _ => s

/-- Does the router of a local store refuse an access of the core: one from outside a partition that is not in RUN, as a
host's and a hub's always is (R145, R232)? -/
def State.refuses (s : State) (core pa : Nat) : Bool :=
  match placeOf pa with
  | .ls d _ _ =>
    match s.partOfDie (pkgOfPa pa * 4 + d) with
    | some p => (s.partAt p).st != .run && (decide (Config.coresPerDie ≤ core % 2048) || s.partOfCore core != some p)
    | none => false
  | _ => false

/-- A request whose address can be reached. A write to an overflowed line first asks the home core's handler, and
is performed and answered when the handler has replied (R41, R152). -/
def State.coherent (s : State) (w : Waiter) : State × Option Reply :=
  match s.handlerOf w.req with
  | none => (s.dropDirs w.req).applyAt w
  | some (l, hc) => (s.askHandler w l hc, none)

/-- A request at its home. A busy home refuses it: a remote requester gets a busy reply, a request of this
package is sent again after 1 μs (R232). -/
def State.applyReq (s : State) (w : Waiter) : State × Option Reply :=
  match w.req.addr with
  | none => s.applyAt w
  | some pa =>
    if s.refuses w.core pa then
      if w.remote then (s, some .busy)
      else
        let w1 := { w with seq := s.nextSeq, home := 2 ^ 25, refusedAt := some s.cycle }
        ({ s with retry := s.retry ++ [w1], nextSeq := s.nextSeq + 1 }, some .listed)
    else (s.powerUp pa).coherent w

/-! ## Withdrawal (R195) -/

/-- Examines the waiters on words in a range of addresses, whose value or tag has changed (R164). -/
def State.examineSpan (s : State) (lo n : Nat) : State :=
  (s.retry.filterMap (fun w => s.wordOf w.req)).foldl (fun s x =>
    if lo / 8 ≤ x && x * 8 < lo + n then s.examine x else s) s

/-- Local store cleared, with the waiters on its words examined (R51, R52, R79, R164). -/
def State.emptyStore (s : State) (core lo hi : Nat) : State :=
  (s.clearStore core lo hi).examineSpan (lsBase core + lo) (hi - lo)

/-- A visitor line's dirty bytes are merged at the home, which invalidates the line's L1 copies and looks at the waiters
on its words (R151, R152, R164). -/
def State.cleanHome (s : State) (die line : Nat) : State :=
  let dirty := (mapGet s.visitors (visitorKey die line)).any (fun l => l.dirty != 0)
  let s1 : State := if dirty then { s with dirs := mapDel s.dirs line } else s
  (s1.cleanVisitor die line).examineSpan (line * 64) 64

/-- How long a message of a withdrawn request can still be on its way (R200; log 35). -/
def inFlightNs : Nat := 20000

/-- Requests of a core that are withdrawn: a clean among them counts as on its way for a while, and its bytes are dirty
again (R148, R151). -/
def State.dropCleans (s : State) (core : Nat) (l : List OutReq) : State :=
  (l.filter (fun r => decide (2 ^ 60 ≤ r.k) && decide (r.k < 2 ^ 61))).foldl (fun s r =>
    (s.uncleaned core r.k r.req).updDie (dieOfCore core) (fun d =>
      { d with cleans := d.cleans.filter (fun e => decide (s.cycle < e.2)) ++
          [(r.k - 2 ^ 60, s.cycle + Config.nsToCycles inFlightNs)] })) s

/-- Withdraws the requests of a thread that `gone` selects, its local waits and its waits for a queue; its request tags
become free (R202). Messages that `keep` selects stay. -/
def State.withdrawReqs (s : State) (uid : Nat) (gone : OutReq → Bool) (keep : MqMsg → Bool) : State :=
  let mine (who : Who) : Bool := who == .thread uid
  let out (r : OutReq) : Bool := mine r.who && gone r
  let keepMsg (m : MqMsg) : Bool := !mine m.who || keep m
  let lost (c : Core) : List MqMsg := (c.mqIn ++ c.mqOut.map (fun e => e.msg)).filter (fun m => !keepMsg m)
  let s1 := s.cores.foldl (fun s e => s.dropCleans e.1 (e.2.reqs.filter out)) s
  let s2 := (s.cores.flatMap (fun e => lost e.2)).foldl (fun s m => s.uncleaned m.core m.k m.req) s1
  let s3 := (s.retry.filter (fun w => mine w.who)).foldl (fun s w => s.uncleaned w.core w.k w.req) s2
  { s3 with
    retry := s3.retry.filter (fun w => !mine w.who)
    cores := s3.cores.map (fun e =>
      (e.1, { e.2 with
        reqs := e.2.reqs.filter (fun r => !out r)
        mxWait := e.2.mxWait.filter (fun c => c.2.uid != uid)
        cpWait := e.2.cpWait.filter (fun c => c.2.uid != uid)
        mqIn := e.2.mqIn.filter keepMsg
        mqOut := e.2.mqOut.filter (fun x => keepMsg x.msg)
        parked := e.2.parked.filter keepMsg })) }

/-- Withdraws what a thread waits for in its package: listed waits, arrivals, spawns and migrations pending (R171, R195,
R202). Stores already sent may still be performed. -/
def State.withdraw (s : State) (uid : Nat) : State :=
  s.withdrawReqs uid (fun _ => true) (fun m => !(m.kind == 1 || m.kind == 2))

/-- A contribution of the thread that the engine has not accepted is taken back. -/
def NBuf.unbegin (n : NBuf) (uid : Nat) : NBuf :=
  match n.run with
  | some r => if r.uid == uid && !r.accepted then { n with run := none, started := r.inst } else n
  | none => n

/-- Registers that a `GROW.wait` has been granted and not yet reported go back (R70). -/
def Thread.ungrow (t : Thread) : Thread :=
  match t.mail.find? (fun m => m.k == growGranted) with
  | some m => (match m.rep with
    | .val n => { t with alot := t.alot - n }
    | _ => t)
  | none => t

/-- A thread's parked instruction is given up, as a trap of an earlier one needs it: whatever it has asked for and not yet
got is withdrawn, and it begins afresh when it issues again; posted stores stay (R112, R222; log 28). -/
def State.unbegin (s : State) (uid : Nat) : State :=
  let stores := ((s.tidOf uid).bind s.thread?).map (fun t => t.stores)
  let posted (r : OutReq) : Bool := (stores.getD []).any (fun e => e.2.2.1 == r.rtag)
  let s1 := s.withdrawReqs uid (fun r => !posted r) (fun _ => false)
  { s1 with
    retry := s1.retry.filter (fun w => match w.req with | .bar _ u .arrive => u != uid | _ => true)
    barriers := s1.barriers.map (fun e =>
      (e.1, { e.2 with arrived := setDel e.2.arrived uid, since := e.2.since.filter (fun x => x.1 != uid) }))
    cores := s1.cores.map (fun e => (e.1, { e.2 with growQ := setDel e.2.growQ uid }))
    quads := s1.quads.map (fun e => (e.1, { e.2 with posts := setDel e.2.posts uid }))
    threads := s1.threads.map (fun e => if e.2.uid == uid then (e.1, e.2.ungrow) else e)
    pkgs := s1.pkgs.map (fun e => (e.1, { e.2 with nbufs := e.2.nbufs.map (fun b => (b.1, b.2.unbegin uid)) })) }

end Sys2Proof.Machine
end

