-- ==== Sys2Proof/Machine/Access.lean ====
section
/-! DEFINITION. Accesses of a thread or a unit by page home (R147 to R155): at the home, through a visitor line,
or by request to another package. -/
namespace Sys2Proof.Machine

/-- What asking a home gives now. -/
inductive Ask where
  | got (r : Reply)
  | wait (p : Park)
  deriving DecidableEq, Repr

/-- Who asks: unit, core, its answers, tag and retry limit. -/
structure Asker where
  who : Who
  core : Nat
  mail : List Mail
  exp : Tag
  limit : Nat
  pc : Word
  ins : Option Instr
  va : Nat := 0
  deriving DecidableEq, Repr

def mkWaiter (s : State) (a : Asker) (k epoch : Nat) (req : Req) : Waiter :=
  { seq := s.nextSeq, home := 0, who := a.who, core := a.core, rtag := 0, gen := 0, remote := false, k := k,
    epoch := epoch, req := req, exp := a.exp, since := s.cycle, limit := if req.limited then a.limit else 0,
    va := a.va, refusedAt := none }

/-- How a thread waits for another package's answer: waits that a refusal acts on, and barriers, keep their name. -/
def Park.remote : Park → Park
  | .listed => .reply
  | p => p

/-- The `k`-th request of an operation: the answer already there, or the request performed at once in its own
package, or sent by the fabric to another (R150, R202). `pk` is how a thread waits at the home. -/
def State.ask (s : State) (a : Asker) (k epoch home : Nat) (req : Req) (pk : Park) : State × Ask :=
  match a.mail.find? (fun m => m.k == k && m.epoch == epoch && m.req == req) with
  | some m => (s, .got m.rep)
  | none =>
    if (s.coreAt a.core).reqs.any (fun r => r.who == a.who && r.k == k && r.epoch == epoch && r.req == req) then
      (s, .wait pk.remote)
    else if s.retry.any (fun w => w.who == a.who && !w.remote && w.k == k && w.req == req) then (s, .wait pk)
    else if home == pkgOfCore a.core then
      match s.applyReq (mkWaiter s a k epoch req) with
      | (s1, some .listed) => (s1, .wait pk)
      | (s1, some r) => (s1, .got r)
      | (s1, none) =>
        match (s1.mailOf a.who).find? (fun m => m.k == k && m.epoch == epoch && m.req == req) with
        | some m => (s1, .got m.rep)
        | none => (s1, .wait pk)
    else
      match s.request a.core home a.who k epoch req a.exp (if req.limited then a.limit else 0) a.pc a.ins (reqClass req) a.va with
      | some s1 => (s1, .wait pk.remote)
      | none => (s, .wait .noTag)

/-- The tag of new requests: 0 while TRAPENT is set (R192). -/
def Thread.reqTag (t : Thread) : Tag := if t.trapent then 0 else t.ex

def State.thrAsker (s : State) : Asker :=
  let t := s.thr
  { who := .thread t.uid, core := s.core, mail := t.mail, exp := t.reqTag, limit := t.syncl.toNat, pc := t.pc,
    ins := none }

/-- A fault answered by a home, with the data address of the access (R227): the word's for a sync-timeout, none
for the causes that give none. -/
def Trap.atAddr (t : Trap) (va : Nat) : Trap :=
  if t.cause == 0x0B then { t with addr := BitVec.ofNat 64 (va / 8 * 8) }
  else if t.cause == 0x12 || t.cause == 0x13 then { t with addr := BitVec.ofNat 64 va }
  else t

/-- A request of the thread. Answers that changed the home are kept until the instruction ends, so that an
instruction that issues again makes each request once (log 6). -/
def rpcFor (k epoch home : Nat) (req : Req) (va : Nat) (pk : Park) : M Reply := fun s =>
  match s.ask { s.thrAsker with va := va } k epoch home req pk with
  | (s1, .wait p) => .error (.park p) s1
  | (s1, .got (.fault tr)) => .error (.trap (tr.atAddr va) false) s1
  | (s1, .got r) =>
    match req with
    | .rd _ _ => .ok r s1
    | .probe _ => .ok r s1
    | _ =>
      let m : Mail := { k := k, epoch := epoch, req := req, rep := r }
      let t := s1.thr
      .ok r (s1.setThr { t with mail := m :: t.mail.filter (fun m => !(m.k == k && m.req == req)) })

def rpc (k home : Nat) (req : Req) (va : Nat) : M Reply := rpcFor k 0 home req va .listed

def Reply.nat : Reply → Nat
  | .val v => v
  | .bytes l => ofBytes l
  | _ => 0

def overlap (a n b m : Nat) : Bool := decide (a < b + m) && decide (b < a + n)

/-- A load or store that overlaps an unacknowledged store of the thread waits (R149). -/
def waitOverlap (pa n : Nat) : M Unit := fun s =>
  if s.thr.stores.any (fun e => overlap pa n e.1 e.2.1) then .error (.park .acks) s else .ok () s

/-- Waits until every earlier access of the thread is acknowledged (R154). -/
def waitAcks : M Unit := fun s => if s.thr.stores.isEmpty then .ok () s else .error (.park .acks) s

/-- The thread has made an acquire: what it fetches after an `FBAR` is no older (R239, R291; log 96). -/
def acquired : M Unit := updThr (fun t => { t with stale := [] })

/-- The release part of an access at a scope, and `FENCE` (R154, R155). -/
def fenceAt (sc : Option Scope) : M Unit := match sc with
  | some _ => waitAcks
  | none => .ok ()

/-- The visitor line of an address in the thread's die, fetched from its home when absent (R150). -/
def visitorLine (k : Nat) (p : Phys) : M VLine := fun s =>
  let die := dieOfCore s.core
  let line := p.pa / 64
  match mapGet s.visitors (visitorKey die line) with
  | some l => .ok l s
  | none =>
    match rpcFor k (s.dieAt die).invEpoch (pkgOfPa p.pa) (.rd (line * 64) 64) p.va .listed s with
    | .ok r s1 =>
      let d : BitVec 512 := BitVec.ofNat 512 r.nat
      .ok { data := d, dirty := 0 } (s1.fillVisitor die line d false)
    | .error e s1 => .error e s1

/-- The thread's core becomes an L1 sharer of a line of its own die; a fifth sharer overflows the directory
(R152). -/
def State.share (s : State) (core : Nat) (p : Phys) : State :=
  if p.leaf.home == 0 && isHbm p.pa then
    let line := p.pa / 64
    let d := (mapGet s.dirs line).getD { sharers := [], overflowed := false, more := [], bcast := false }
    if d.sharers.contains core || d.more.contains core then s
    else if d.sharers.length < 4 then { s with dirs := mapPut s.dirs line { d with sharers := d.sharers ++ [core] } }
    else
      let s1 := { s with dirs := mapPut s.dirs line { d with overflowed := true, more := d.more ++ [core] } }
      match homeCore p.pa with
      | none => s1
      | some hc =>
        let m : MqMsg :=
          { kind := 3, who := .hub 0, core := core, rtag := 0, gen := 0, remote := false, k := 0,
            req := .rd (line * 64) 64, line := line * 64, peer := core % 2048, exp := 0, limit := 0, born := s.cycle,
            va := 0 }
        s1.updCore hc (fun x => { x with mqIn := x.mqIn ++ [m] })
  else s

def shareM (p : Phys) : M Unit := fun s => .ok () (s.share s.core p)

/-- Reads `n` bytes that lie in one line (R150): `k` numbers the request within the instruction. -/
def loadN (k : Nat) (p : Phys) (n : Nat) : M Nat := do
  waitOverlap p.pa n
  let s ← get
  if p.visits s.core then
    let l ← visitorLine k p
    let s ← get
    if s.poison.contains (visitorPoison (visitorKey (dieOfCore s.core) (p.pa / 64))) then raiseAt 0x13 p.va 0
    else pure (lineRead l.data (p.pa % 64) n)
  else
    let r ← rpc k (pkgOfPa p.pa) (.rd p.pa n) p.va
    shareM p
    pure r.nat

def cellsOf (pa : Nat) (n v : Nat) : List Host.Cell :=
  (List.range n).map (fun j => (pa + j, BitVec.ofNat 8 (v >>> (8 * j))))

/-- A plain store sent to another package: the thread goes on, and its address is kept until the store is
acknowledged (R149, R332). -/
def postStore (k : Nat) (p : Phys) (n : Nat) (req : Req) (i : Option Instr) : M Unit := fun s =>
  let t := s.thr
  if t.mail.any (fun m => m.k == k && m.req == req) then .ok () s
  else
    match (s.coreAt s.core).freeTag with
    | none => .error (.park .noTag) s
    | some (tag, _) =>
      match s.request s.core (pkgOfPa p.pa) (.thread t.uid) k 0 req t.reqTag 0 t.pc i 0 p.va with
      | none => .error (.park .noTag) s
      | some s1 =>
        let m : Mail := { k := k, epoch := 0, req := req, rep := .ok }
        let t1 := s1.thr
        .ok () (s1.setThr { t1 with stores := t1.stores ++ [(p.pa, n, tag, p.va)], mail := m :: t1.mail })

/-- Writes bytes into a visitor line and marks them dirty (R151). -/
def vlineCells (l : VLine) (cells : List Host.Cell) : VLine :=
  cells.foldl (fun l c => vlineWrite l (c.1 % 64) 1 c.2.toNat) l

/-- Writes bytes that lie in one line (R150); they stand within `n` bytes of `p`. `post`: a store to another package is
not waited for (R332). A whole line is not fetched first (R230). -/
def storeCells (post : Bool) (k : Nat) (p : Phys) (n : Nat) (cells : List Host.Cell) (i : Option Instr) : M Unit := do
  waitOverlap p.pa n
  let s ← get
  let die := dieOfCore s.core
  let line := p.pa / 64
  if p.visits s.core then
    let m : Mail := { k := k, epoch := 2, req := .wr cells, rep := .ok }
    if s.thr.mail.contains m then pure ()
    else do
      let old ← if cells.length == 64 then pure ((mapGet s.visitors (visitorKey die line)).getD { data := 0, dirty := 0 })
        else visitorLine k p
      let s ← get
      if s.poison.contains (visitorPoison (visitorKey die line)) && cells.length != 64 then raiseAt 0x13 p.va 0
      else
        modify (fun s =>
          let s1 : State :=
            { s with
              visitors := mapPut s.visitors (visitorKey die line) (vlineCells old cells)
              poison := setDel s.poison (visitorPoison (visitorKey die line)) }
          let t := s1.thr
          s1.setThr { t with mail := m :: t.mail })
  else
    let req : Req := (Req.wr cells).at_ p
    if post && pkgOfPa p.pa != pkgOfCore s.core then postStore k p n req i
    else do
      let _ ← rpc k (pkgOfPa p.pa) req p.va
      pure ()

/-- Writes `n` bytes that lie in one line. -/
def storeN (k : Nat) (p : Phys) (n v : Nat) (i : Option Instr) : M Unit := storeCells true k p n (cellsOf p.pa n v) i

/-- Poison that a store of bytes in one line would meet (R230): in a visitor line once it is fetched, or at the home,
which another package is asked for. Bytes that fill a line meet none. -/
def storePoison (k : Nat) (p : Phys) (cells : List Host.Cell) : M Unit := do
  let s ← get
  if cells.length == 64 then pure ()
  else if p.visits s.core then do
    let _ ← visitorLine k p
    let s ← get
    if s.poison.contains (visitorPoison (visitorKey (dieOfCore s.core) (p.pa / 64))) then raiseAt 0x13 p.va 0
    else pure ()
  else do
    let _ ← rpc k (pkgOfPa p.pa) (.probe cells) p.va
    pure ()

/-- A part of an instruction whose fault is looked at once every part has been tried. -/
def tryM {α : Type} (act : M α) : M (Except Trap α) := fun s =>
  match act s with
  | .ok a s1 => .ok (.ok a) s1
  | .error (.trap t _) s1 => .ok (.error t) s1
  | .error e s1 => .error e s1

/-- The fault of several parts: poison before every other, then the first (R308). -/
def firstFault {α : Type} (l : List (Except Trap α)) : Option Trap :=
  let ts := l.filterMap (fun r => match r with | .error t => some t | .ok _ => none)
  match ts.find? (fun t => t.cause == 0x13) with
  | some t => some t
  | none => ts.head?

/-- Checks of several parts: all are made, and a fault of any is raised. -/
def checkEach (l : List (M Unit)) : M Unit := do
  let rs ← l.mapM tryM
  match firstFault rs with
  | some t => raiseT t
  | none => pure ()

/-- Loads of several parts of a span: all are made, and a fault of any is raised (R308). -/
def loadEach (l : List (Nat × Phys × Nat)) : M (List Nat) := do
  let rs ← l.mapM (fun e => tryM (loadN e.1 e.2.1 e.2.2))
  match firstFault rs with
  | some t => raiseT t
  | none => pure (rs.filterMap (fun r => match r with | .ok v => some v | .error _ => none))

/-- Poison that a load of `n` bytes in one line would meet (R230). -/
def loadPoison (p : Phys) (n : Nat) : M Unit := fun s =>
  let bad := if p.visits s.core then s.poison.contains (visitorPoison (visitorKey (dieOfCore s.core) (p.pa / 64)))
    else pkgOfPa p.pa == pkgOfCore s.core && s.poisoned p.pa n
  if bad then .error (.trap (mkTrap 0x13 p.va 0) false) s else .ok () s

/-- Bytes of one line as a thread of the core would load them, or none for poison. -/
def State.peek (s : State) (core : Nat) (p : Phys) (n : Nat) : Option Nat :=
  if p.visits core then
    let key := visitorKey (dieOfCore core) (p.pa / 64)
    match mapGet s.visitors key with
    | some l => if s.poison.contains (visitorPoison key) then none else some (lineRead l.data (p.pa % 64) n)
    | none => if s.poisoned p.pa n then none else some (s.readN p.pa n)
  else if s.poisoned p.pa n then none else some (s.readN p.pa n)

/-- Row 9 of R134 for an access whose other rows have passed. -/
def cowCheck (p : Phys) : M Unit := if p.leaf.entry.getLsbD 62 then raiseAt 0x0A p.va 0 else pure ()

/-- A store whose copy-on-write check comes after the other rows for every byte. -/
def storeFirst : Access := { wr := true, laterCow := true }

/-- The bytes an access performed at the home wrote are written into the issuing die's visitor line of the word, not marked
dirty (R150); without the line, a fetch of it on its way counts as made before and fills none. -/
def State.patchVisitor (s : State) (die pa n v : Nat) : State :=
  let line := pa / 64
  match mapGet s.visitors (visitorKey die line) with
  | none =>
    if isHbm pa && homeDie pa != some die then s.updDie die (fun d => { d with invEpoch := d.invEpoch + 1 }) else s
  | some l =>
    let l1 := vlineWrite l (pa % 64) n v
    { s with visitors := mapPut s.visitors (visitorKey die line) { l1 with dirty := l.dirty } }

/-- The visitor line takes the bytes that the home holds now: the access's own, or what was written after it (R150). -/
def State.patchFrom (s : State) (core pa n : Nat) : State := s.patchVisitor (dieOfCore core) pa n (s.readN pa n)

def patch (pa n : Nat) : M Unit := fun s => .ok () (s.patchFrom s.core pa n)

/-- Every page of `n` bytes at `va` passes R134, checked byte by byte from the first; the physical address
of each byte. -/
def transBytes (x : Access) (va : Word) : Nat → M (List Phys)
  | 0 => pure []
  | n + 1 => do
    let p ← trans x va
    let r ← transBytes x (va + 1) n
    pure (p :: r)

/-- A load of 1, 2, 4 or 8 bytes: one action when aligned, else one for each byte (R147, R308). -/
def loadVa (x : Access) (va : Word) (n : Nat) : M Nat := do
  if va.toNat % n == 0 then
    let p ← trans x va
    loadN 0 p n
  else
    let ps ← transBytes x va n
    ps.forM (fun p => loadPoison p 1)
    let bs ← loadEach ((ps.zip (List.range n)).map (fun e => (e.2, e.1, 1)))
    pure ((bs.zip (List.range n)).foldl (fun acc e => acc + e.1 * 2 ^ (8 * e.2)) 0)

/-- A store of 1, 2, 4 or 8 bytes: every byte is checked before any is written (R332). -/
def storeVa (va : Word) (n v : Nat) (i : Option Instr) : M Unit := do
  if va.toNat % n == 0 then
    let p ← trans storeA va
    storeN 0 p n (v % 2 ^ (8 * n)) i
  else
    let ps ← transBytes storeFirst va n
    ps.forM cowCheck
    let cs := (ps.zip (List.range n)).map (fun e => (e.1, cellsOf e.1.pa 1 (v / 2 ^ (8 * e.2) % 256)))
    checkEach ((cs.zip (List.range n)).map (fun e => storePoison (16 + e.2) e.1.1 e.1.2))
    (cs.zip (List.range n)).forM (fun e => storeCells true e.2 e.1.1 1 e.1.2 i)

/-! ## Lines of a range -/

/-- Is a clean of the line by another core or thread of the die on its way: in the fabric, refused or waiting at the home,
or given up a while ago (R148)? -/
def State.cleanRuns (s : State) (die line : Nat) (who : Who) : Bool :=
  let mine (core k : Nat) (w : Who) : Bool := dieOfCore core == die && k == cleanK line && w != who
  let msg (m : MqMsg) : Bool := !m.remote && mine m.core m.k m.who
  s.cores.any (fun e => e.2.reqs.any (fun r => mine e.1 r.k r.who) || e.2.mqIn.any msg || e.2.mqOut.any (fun x => msg x.msg)) ||
    s.retry.any (fun w => !w.remote && mine w.core w.k w.who) ||
    (s.dieAt die).cleans.any (fun e => e.1 == line && decide (s.cycle < e.2))

/-- The clean of a line that a thread has on its way. -/
def State.cleanSent (s : State) (uid line : Nat) : Option Req :=
  let mine (k : Nat) (w : Who) : Bool := k == cleanK line && w == .thread uid
  let msg (m : MqMsg) : Option Req := if mine m.k m.who then some m.req else none
  match s.cores.findSome? (fun e => (e.2.reqs.find? (fun r => mine r.k r.who)).map (fun r => r.req)) with
  | some q => some q
  | none =>
    match s.retry.find? (fun w => !w.remote && mine w.k w.who) with
    | some w => some w.req
    | none => s.cores.findSome? (fun e => (e.2.mqIn ++ e.2.mqOut.map (fun x => x.msg)).findSome? msg)

/-- Has the die's visitor line dirty bytes? -/
def State.lineDirty (s : State) (die line : Nat) : Bool :=
  (mapGet s.visitors (visitorKey die line)).any (fun l => l.dirty != 0)

/-- The bytes of a clean are on their way: what is dirty from now on was written later (R151). -/
def State.cleanSentOff (s : State) (die line : Nat) : State :=
  match mapGet s.visitors (visitorKey die line) with
  | some l => { s with visitors := mapPut s.visitors (visitorKey die line) { l with dirty := 0 } }
  | none => s

/-- One clean as a request: its dirty bits fall as it is sent. -/
def sendClean (die line : Nat) (req : Req) : M Unit := fun s =>
  match rpc (cleanK line) (pkgOfPa (line * 64)) req (line * 64) s with
  | .ok _ s1 => .ok () (s1.cleanSentOff die line)
  | .error (.park .noTag) s1 => .error (.park .noTag) s1
  | .error (.park p) s1 => .error (.park p) (s1.cleanSentOff die line)
  | .error e s1 => .error e s1

/-- Cleans one visitor line of the thread's die to its home (R151), or takes the answer of the clean it has on its way;
`deep`: on to HBM, as a bound release needs it (R169). Cleans of one line by one die reach the home one after the other
(R148). A poisoned line carries its poison, which a request has no field for: it is written back directly. -/
def cleanLine (deep : Bool) (line : Nat) : M Unit := do
  let s ← get
  let die := dieOfCore s.core
  let key := visitorKey die line
  let sent := match s.thr.mail.find? (fun m => m.k == cleanK line) with
    | some m => some m.req
    | none => s.cleanSent s.thr.uid line
  match sent with
  | some q => do
    let _ ← rpc (cleanK line) (pkgOfPa (line * 64)) q (line * 64)
    pure ()
  | none =>
    match mapGet s.visitors key with
    | none => pure ()
    | some l =>
      if l.dirty == 0 then pure ()
      else if s.cleanRuns die line (.thread s.thr.uid) then park .acks
      else if s.poison.contains (visitorPoison key) then
        match s.askLines [line] with
        | some s1 => do
          set s1
          park .acks
        | none => modify (fun s => s.cleanHome die line)
      else
        let cells := dirtyCells line l
        sendClean die line (if deep then .unc (.wr cells) else .wr cells)
  updThr (fun t => { t with mail := t.mail.filter (fun m => m.k != cleanK line) })

/-- What an instruction does with one line is done once, however often it issues again (R162). -/
def onceLine (line : Nat) (act : M Unit) : M Unit := do
  let t ← getThr
  if hasMail t (lineDoneK line) then pure ()
  else do
    act
    updThr (fun t => { t with mail := okMail (lineDoneK line) :: t.mail })

/-- Cleans a line and then drops it: bytes that were stored while the clean was on its way are cleaned first (R162). -/
def cleanAll (line : Nat) : M Unit := do
  cleanLine false line
  let s ← get
  if s.lineDirty (dieOfCore s.core) line then cleanLine false line else pure ()

/-- Drops one visitor line of the thread's die; fetches on their way count as made before it (R162). -/
def dropLine (line : Nat) : M Unit :=
  modify (fun s => s.dropVisitor (dieOfCore s.core) line)

/-- Start and line count of the part of each 4 KiB page that a range of lines covers. -/
def pageRuns : Nat → Nat → Nat → List (Nat × Nat)
  | 0, _, _ => []
  | fuel + 1, first, count =>
    if count == 0 then []
    else
      let m := Nat.min count (64 - first % 64)
      (first, m) :: pageRuns fuel (first + m) (count - m)

/-- The lines that overlap `n` bytes at an address. -/
def rangeRuns (va n : Nat) : List (Nat × Nat) :=
  if n == 0 then []
  else
    let first := va / 64
    let count := (va + n - 1) / 64 - first + 1
    pageRuns (count / 64 + 2) first count

/-! ## Pegs' bound ranges (R157 to R160) -/

/-- The scope and the bound ranges of a peg (R157, R159). -/
def pegBinding (k : Nat) (p : Phys) (sc : Option Scope) : M (Scope × List (Nat × Nat)) := do
  let r ← rpc k (pkgOfPa p.pa) (.bindGet p.pa) p.va
  match r with
  | .peg own ranges => pure (sc.getD own, ranges)
  | _ => pure (sc.getD .pod, [])

/-- Acts on each line of the bound ranges that the thread could load from; every other line is skipped
(R277). -/
def onBound (ranges : List (Nat × Nat)) (f : Nat → M Unit) : M Unit :=
  ranges.forM (fun r => (rangeRuns r.1 r.2).forM (fun e => do
    let s ← get
    match s.translate s.core s.thr.mode loadA (BitVec.ofNat 64 (e.1 * 64)) with
    | .ok p => (List.range e.2).forM (fun j => f (p.pa / 64 + j))
    | .error _ => pure ()))

def wide (sc : Scope) : Bool := sc == .pkg || sc == .pod

/-- A bound release: the dirty bytes of the line go to its home, and what the home's slice holds of it on to HBM (R159,
R169). -/
def releaseLine (line : Nat) : M Unit := onceLine line (do
  cleanLine true line
  modify (fun s => s.cleanSlice line))

/-- A block read at issue as loads of the thread: `n` bytes at `va`, 8-byte words in ascending order (R176,
R284, R306). `va` is 8-byte aligned. -/
def loadBlock (k0 : Nat) (va : Word) (n : Nat) : M Nat :=
  (List.range (n / 8)).foldlM (fun acc j => do
    let p ← trans loadA (va + BitVec.ofNat 64 (8 * j))
    let x ← loadN (k0 + j) p 8
    pure (acc + x * 2 ^ (64 * j))) 0

end Sys2Proof.Machine
end

