-- ==== Sys2Proof/Machine/Operands.lean ====
section
/-! DEFINITION. Operand forms: immediates and the second source of the integer class (R84), lanes of a vector
(R63, R336), and vector operands with stream ports (R181 to R186). -/
namespace Sys2Proof.Machine

/-- An immediate sign-extended to 64 bits (R84). -/
def immVal : Imm → Word
  | .i27 v => v.signExtend 64
  | .i32 v => v.signExtend 64
  | .i64 v => v

/-- The registers a second source reads. -/
def src2Regs : Src2 → List Sc
  | .reg r => [r]
  | .imm _ => []

/-- The value of a second source. -/
def rdSrc2 : Src2 → M Word
  | .reg r => rdS r
  | .imm v => pure (immVal v)

/-- A byte offset sign-extended (R84). -/
def offVal {n : Nat} (off : BitVec n) : Word := off.signExtend 64

/-- The size of an access in bytes (R90). -/
def widthBytes : Width → Nat
  | .b => 1
  | .h => 2
  | .w => 4
  | .d => 8

/-- `x`'s low `w` bits sign-extended to 64 bits, or zero-extended under `z`. -/
def extend (z : Bool) (w x : Nat) : Word :=
  if z then BitVec.ofNat 64 (x % 2 ^ w) else BitVec.ofInt 64 (sgnOf w x)

/-! ## Lanes -/

/-- Lane `j` of a vector of `w`-bit elements (R63). -/
def lane (w : Nat) (x : Vec) (j : Nat) : Nat := (x.toNat >>> (w * j)) % 2 ^ w

/-- The vector whose lanes are `f 0`, `f 1`, … (R63). -/
def packN (w : Nat) (f : Nat → Nat) : Nat → Nat → Nat
  | 0, _ => 0
  | n + 1, j => f j % 2 ^ w + 2 ^ w * packN w f n (j + 1)

def pack (t : ETy) (f : Nat → Nat) : Vec := BitVec.ofNat 2048 (packN t.bits f t.lanes 0)

/-- A mask of `l` bits. -/
def packMask (f : Nat → Bool) (l : Nat) : Mask := BitVec.ofNat 256 (packN 1 (fun j => if f j then 1 else 0) l 0)

/-- New lanes where the mask selects, the old lanes elsewhere (R336). -/
def merge (t : ETy) (m : Mask) (old : Vec) (f : Nat → Nat) : Vec :=
  pack t (fun j => if m.getLsbD j then f j else lane t.bits old j)

/-- The flags of the active lanes together (R336). -/
def laneFlags (m : Mask) (l : Nat) (f : Nat → Nat) : Nat :=
  (List.range l).foldl (fun acc j => if m.getLsbD j then acc ||| f j else acc) 0

/-! ## Spans of memory -/

/-- A span of bytes cut at the line boundaries. -/
def pieces (va : Word) : Nat → Nat → List (Word × Nat)
  | 0, _ => []
  | fuel + 1, n =>
    if n == 0 then []
    else
      let m := Nat.min n (64 - va.toNat % 64)
      (va, m) :: pieces (va + BitVec.ofNat 64 m) fuel (n - m)

/-- Translates `n` bytes of one line. Only in a maintenance block, whose page holds 32 bytes (R129), can a later byte
fault where the first does not. -/
def transSpan (x : Access) (va : Word) (n : Nat) : M Phys := do
  let p ← trans x va
  match placeOf p.pa with
  | .tmb _ o => do
    if 32 < o + n then
      let _ ← trans x (va + BitVec.ofNat 64 (32 - o))
    pure p
  | _ => pure p

/-- The pieces of a span, each translated: R134 in ascending address order. -/
def transPieces (x : Access) : List (Word × Nat) → M (List (Phys × Nat))
  | [] => pure []
  | (va, n) :: r => do
    let p ← transSpan x va n
    let l ← transPieces x r
    pure ((p, n) :: l)

/-- Reads translated pieces as loads of the thread; `k` numbers the requests. -/
def loadPieces (k : Nat) (l : List (Phys × Nat)) : M Nat := do
  l.forM (fun e => loadPoison e.1 e.2)
  let vs ← loadEach ((l.zip (List.range l.length)).map (fun e => (k + e.2, e.1.1, e.1.2)))
  pure ((vs.zip l).foldr (fun e acc => e.1 + 2 ^ (8 * e.2.2) * acc) 0)

/-- Writes translated pieces as stores of the thread. -/
def storePieces (k : Nat) (i : Option Instr) : List (Phys × Nat) → Nat → M Unit
  | [], _ => pure ()
  | (p, n) :: r, v => do
    storeN k p n (v % 2 ^ (8 * n)) i
    storePieces (k + 1) i r (v / 2 ^ (8 * n))

/-- A span loaded whole. -/
def loadSpan (k : Nat) (va : Word) (n : Nat) : M Nat := do
  let l ← transPieces loadA (pieces va (n + 1) n)
  loadPieces k l

/-- The checks of a store of a span: its pieces, translated (R134, R230). -/
def storeChecks (k : Nat) (va : Word) (n : Nat) : M (List (Phys × Nat)) := do
  let l ← transPieces storeFirst (pieces va (n + 1) n)
  l.forM (fun e => cowCheck e.1)
  checkEach ((l.zip (List.range l.length)).map (fun e => storePoison (k + 8 + e.2) e.1.1 (cellsOf e.1.1.pa e.1.2 0)))
  pure l

/-- A span stored whole once every check has passed. -/
def storeSpan (k : Nat) (i : Option Instr) (va : Word) (n v : Nat) : M Unit := do
  let l ← storeChecks k va n
  storePieces k i l v

/-- A piece of a store as the hardware puts it in place: into the die's visitor line, or at its home. -/
def State.putPiece (s : State) (core : Nat) (p : Phys) (cells : List Host.Cell) : State :=
  if p.visits core then
    let die := dieOfCore core
    let line := p.pa / 64
    let s1 := if (mapGet s.visitors (visitorKey die line)).isSome then s
      else s.fillVisitor die line (s.homeLine line) (s.poisoned (line * 64) 64)
    match mapGet s1.visitors (visitorKey die line) with
    | some l =>
      { s1 with
        visitors := mapPut s1.visitors (visitorKey die line) (vlineCells l cells)
        poison := if cells.length == 64 then setDel s1.poison (visitorPoison (visitorKey die line)) else s1.poison }
    | none => s1
  else
    let q := (Req.wr cells).at_ p
    (cellWords cells).foldl (fun s w => s.examine w) (((s.dropDirs q).writeCells cells).settle q)

/-- Is a piece kept at a home of another package? -/
def Phys.isFar (p : Phys) (core : Nat) : Bool := !p.visits core && pkgOfPa p.pa != pkgOfCore core

/-- Writes the bytes of several pieces that their checks have passed: no piece is written before every home has answered
(R6, R332, R343, R345; log 77). What lies in one other package goes there in one request, and the pieces of this package
follow; the pieces of several packages are written once each home has been asked. -/
def storeAll (k : Nat) (i : Option Instr) (l : List (Phys × Nat × List Host.Cell)) : M Unit := do
  let s ← get
  l.forM (fun x => waitOverlap x.1.pa x.2.1)
  let near := l.filter (fun e => !e.1.isFar s.core)
  let each : M Unit := (near.zip (List.range near.length)).forM (fun e =>
    storeCells false (k + 100 + e.2) e.1.1 e.1.2.1 e.1.2.2 i)
  match l.filter (fun e => e.1.isFar s.core) with
  | [] => each
  | e :: r =>
    if r.all (fun x => pkgOfPa x.1.pa == pkgOfPa e.1.pa && x.1.leaf.home == e.1.leaf.home) then do
      let _ ← rpc k (pkgOfPa e.1.pa) ((Req.wr ((e :: r).flatMap (fun x => x.2.2))).at_ e.1) e.1.va
      each
    else do
      checkEach ((l.zip (List.range l.length)).map (fun x =>
        if x.1.1.visits s.core then pure ()
        else do
          let _ ← rpc (k + 200 + x.2) (pkgOfPa x.1.1.pa) (.probe x.1.2.2) x.1.1.va
          pure ()))
      modify (fun s => l.foldl (fun s x => s.putPiece s.core x.1 x.2.2) s)

/-- The answer of the one request that wrote the far pieces is there: their checks are behind them. -/
def farDone (k : Nat) : M Bool := fun s => .ok (hasMail s.thr k) s

/-! ## Stream ports (R181 to R186) -/

/-- Kinds that an instruction reads: linear read, ring read, and the two chain receivers (R181). -/
def Port.receives (p : Port) : Bool := p.kind == 0 || p.kind == 2 || p.kind == 6 || p.kind == 7

/-- Reading a sending port or writing a receiving one (R182). -/
def portMisuse {α : Type} : M α := raiseAt 0x0D 0 2

/-- Request numbers of a register's port. -/
def portK (v : VReg) : Nat := 1000 + 32 * v.val

/-- The valid lanes of the next vector of a linear port; past the end, the stream-end fault (R183). -/
def linearValid (p : Port) : M Nat :=
  let l := p.ty.lanes
  if p.count ≤ p.m * l then raiseAt 0x0D 0 1 else pure (Nat.min l (p.count - p.m * l))

/-- Address of the next vector of a linear port (R183). -/
def linearAddr (p : Port) : Word := BitVec.ofInt 64 ((p.base : Int) + (p.m : Int) * p.stride)

/-- Address of slot `i` of a ring (R186). -/
def ringSlot (base size i : Nat) : Word := BitVec.ofNat 64 (base + 64 + 320 * (i % size))

def setPort (v : VReg) (p : Port) : M Unit := updThr (fun t => { t with ports := mapPut t.ports v.val p })

/-- A request on a word of a full/empty page; what it writes goes into the die's visitor line too (R150). -/
def feRpc (k : Nat) (x : Access) (va : Word) (req : Nat → Req) : M Reply := do
  if va.toNat % 8 != 0 then raiseAt 0x06 va.toNat 0
  let p ← trans { x with fe := true } va
  waitOverlap p.pa 8
  let r ← rpc k (pkgOfPa p.pa) ((req p.pa).at_ p) p.va
  if (req p.pa).writes then patch p.pa 8
  pure r

/-- Brings the next vector of a ring into the port: the consumer protocol up to the payload (R186). The vector
then stays with the port until an instruction completes with it. -/
def ringDraw (v : VReg) (p : Port) : M Unit := do
  let sz ← loadSpan (portK v) (BitVec.ofNat 64 (p.base + 16)) 8
  let slot := ringSlot p.base sz p.h
  let _ ← feRpc (portK v + 1) loadA slot (fun pa => .feLd .wfe pa 8)
  acquired
  let x ← loadSpan (portK v + 2) (slot + 64) 256
  setPort v { p with drawn := some (BitVec.ofNat 2048 x) }
  park (.regs [] [])

/-- The vector an instruction reads from a register or pops from its port; nothing is committed yet (R182). Where two
receiving ports are bound to one chain queue, the operand that the instruction reads first takes the head (log 94). -/
def rdV (v : VReg) : M Vec := do
  let s ← get
  let t := s.thr
  match t.port? v with
  | none => pure (t.v.get v)
  | some p =>
    if !p.receives then portMisuse
    else if p.kind == 0 then do
      let n ← linearValid p
      match p.ahead with
      | x :: _ => pure x
      | [] =>
        let x ← loadSpan (portK v) (linearAddr p) (n * p.ty.bits / 8)
        pure (BitVec.ofNat 2048 x)
    else if p.kind == 2 then
      match p.drawn with
      | some x => pure x
      | none => do
        ringDraw v p
        pure 0
    else
      match chainIn s.core p.kind with
      | none => pure 0
      | some q =>
        match p.drawn, (mapGet s.chains q).getD [] with
        | some x, _ => pure x
        | none, x :: r => do
          let n := (t.ports.filter (fun e => e.2.kind == p.kind && e.2.drawn.isSome)).length
          modify (fun s => { s with chains := mapPut s.chains q r })
          setPort v { p with drawn := some x, h := n }
          pure x
        | none, [] => park (.regs [] [v])

/-- The requests that a pop makes before it is committed: a ring's release of HEAD (R186). -/
def prePop (v : VReg) : M Unit := do
  let t ← getThr
  match t.port? v with
  | some p =>
    if p.kind == 2 then do
      let va : Word := BitVec.ofNat 64 (p.base + 8)
      let ph ← trans { storeA with fe := true } va
      waitAcks
      let (_, ranges) ← pegBinding (portK v + 9) ph (some .pod)
      onBound ranges releaseLine
      let _ ← rpc (portK v + 10) (pkgOfPa ph.pa) ((Req.pegWr ph.pa (p.h + 1)).at_ ph) ph.va
      patch ph.pa 8
    else pure ()
  | none => pure ()

/-- Commits the pop of a receiving port, at the end of the instruction (R182). -/
def commitPop (v : VReg) : M Unit := do
  let s ← get
  let t := s.thr
  match t.port? v with
  | none => pure ()
  | some p =>
    if p.kind == 0 then do
      let n ← linearValid p
      setPort v { p with m := p.m + 1, ahead := p.ahead.tail }
      if h : p.kreg < 8 then
        if p.kreg == 0 then pure ()
        else wrK ⟨p.kreg, h⟩ (packMask (fun _ => true) n)
      else pure ()
    else if p.kind == 2 then setPort v { p with h := p.h + 1, drawn := none }
    else if p.kind == 6 || p.kind == 7 then setPort v { p with h := 0, drawn := none }
    else pure ()

/-- The queue a sending chain port pushes into (R184). -/
def chainOut (core kind : Nat) : Nat := chainKey core (kind == 4)

/-- The checks and waits of a push, before anything is stored (R182 to R186); `before` pushes of the instruction go into the
same queue first. A ring producer's ticket stays with the port until its slot is published: it was drawn by an atomic of its
own, and a ticket given up would block the ring. -/
def prePush (before : Nat) (v : VReg) : M Unit := do
  let s ← get
  match s.thr.port? v with
  | none => pure ()
  | some p =>
    if p.receives then portMisuse
    else if p.kind == 1 then do
      let n ← linearValid p
      let _ ← storeChecks (portK v) (linearAddr p) (n * p.ty.bits / 8)
    else if p.kind == 3 then do
      let sz ← loadSpan (portK v) (BitVec.ofNat 64 (p.base + 16)) 8
      if p.h == 0 then do
        waitAcks
        let r ← feRpc (portK v + 1) amoA (BitVec.ofNat 64 p.base) (fun pa => .amo .add false pa 8 1)
        setPort v { p with h := r.nat + 1 }
        park (.regs [] [])
      else do
        let t := p.h - 1
        let slot := ringSlot p.base sz t
        if sz ≤ t then do
          let _ ← feRpc (portK v + 2) loadA (BitVec.ofNat 64 (p.base + 8)) (fun pa => .peg pa (t - sz + 1))
          let hd ← trans { loadA with fe := true } (BitVec.ofNat 64 (p.base + 8))
          let (_, ranges) ← pegBinding (portK v + 21) hd (some .pod)
          onBound ranges dropLine
        let _ ← trans { storeA with fe := true } slot
        let _ ← storeChecks (portK v + 3) (slot + 64) 256
    else
      let q := chainOut s.core p.kind
      if 4 < ((mapGet s.chains q).getD []).length + before + 1 then park (.drain q (before + 1)) else pure ()

/-- A push stores its vector, and a ring's is published, once every pop of the instruction has made its release (R183,
R186). -/
def publish (i : Instr) (v : VReg) (x : Vec) : M Unit := do
  let s ← get
  match s.thr.port? v with
  | none => pure ()
  | some p =>
    if p.kind == 1 then do
      let n ← linearValid p
      storeSpan (portK v) (some i) (linearAddr p) (n * p.ty.bits / 8) x.toNat
    else if p.kind == 3 && p.h != 0 then do
      let sz ← loadSpan (portK v + 22) (BitVec.ofNat 64 (p.base + 16)) 8
      storeSpan (portK v + 3) (some i) (ringSlot p.base sz (p.h - 1) + 64) 256 x.toNat
      waitAcks
      let _ ← feRpc (portK v + 20) storeA (ringSlot p.base sz (p.h - 1)) (fun pa => .feSt .sf pa 8 (p.h - 1))
      pure ()
    else pure ()

/-- Writes a vector destination (R65), or commits its push (R182). -/
def commitWrite (v : VReg) (x : Vec) : M Unit := do
  let s ← get
  match s.thr.port? v with
  | none => updThr (fun t => t.putV v x)
  | some p =>
    if p.kind == 1 then setPort v { p with m := p.m + 1 }
    else if p.kind == 3 then setPort v { p with h := 0 }
    else modify (fun s =>
      let q := chainOut s.core p.kind
      { s with chains := mapPut s.chains q ((mapGet s.chains q).getD [] ++ [x]) })

/-- The old value that inactive lanes keep: the register's, or zero lanes for a sending port (R182, R336). -/
def oldV (v : VReg) : M Vec := do
  let t ← getThr
  match t.port? v with
  | none => pure (t.v.get v)
  | some p => if p.receives then portMisuse else pure 0

/-- The second source of the vector class: an immediate fills every lane (R337). -/
def rdVSrc (t : ETy) : VSrc → M Vec
  | .reg v => rdV v
  | .imm x => pure (pack t (fun _ => x.toNat))

def vsrcRegs : VSrc → List VReg
  | .reg v => [v]
  | .imm _ => []

/-- A register once, however often it is named. -/
def once : List VReg → List VReg
  | [] => []
  | v :: r => if (once r).contains v then once r else v :: once r

/-- What a vector instruction names: `d` is a source too under a mask other than `k0` (R336). -/
def vuses (d : Option VReg) (src : List VReg) (k : KReg) (rd : List Sc) : Uses :=
  let ds := match d with
    | some v => [v]
    | none => []
  { rd := rd, vs := ds ++ src, vrd := (if k == 0 then [] else ds) ++ src, krd := [k] }

/-- What a vector instruction writes: vector destinations, then the rest, once no wait is left. -/
structure VOut where
  vs : List (VReg × Vec) := []
  post : M Unit := pure ()

/-- A vector instruction: its own operation, the checks and waits of its pushes, the releases of its pops, and once no fault
is left every store and write (R182). Pushes into one queue go in the order of the destinations (log 94). -/
def vBody (i : Instr) (src : List VReg) (body : M VOut) : M Next := do
  let o ← body
  let t ← getThr
  let kindOf (v : VReg) : Option Nat := (t.port? v).map (fun p => p.kind)
  (o.vs.zip (List.range o.vs.length)).forM (fun e =>
    prePush ((o.vs.take e.2).filter (fun x => (kindOf x.1).isSome && kindOf x.1 == kindOf e.1.1)).length e.1.1)
  (once src).forM prePop
  o.vs.forM (fun e => publish i e.1 e.2)
  (once src).forM commitPop
  o.vs.forM (fun e => commitWrite e.1 e.2)
  o.post
  pure .seq

/-- A vector instruction, with the checks and the end of every instruction. -/
def runV (i : Instr) (u : Uses) (src : List VReg) (body : M VOut) (s : State) : Host.Outcome State Fault Refusal :=
  run i u (vBody i src body) s

end Sys2Proof.Machine
end

