-- ==== Sys2Proof/Machine/Stream.lean ====
section
/-! DEFINITION. Stream ports: `SBIND`, `SFREE` and reading ahead (R181 to R186, R324). -/
namespace Sys2Proof.Machine

/-- An engine-command fault with its reason (R227). -/
def commandFault {α : Type} (reason : Nat) : M α := raiseAt 0x17 0 reason

/-- The element types of a linear port (R181). -/
def streamType (t : ETy) : Bool :=
  match t with
  | .f64 => false
  | .e2m1 => false
  | .i64 => false
  | .i4 => false
  | _ => true

/-- The fields of a stream descriptor (R181). -/
structure StreamDesc where
  base : Nat
  stride : Nat
  count : Nat
  kind : Nat
  ty : Nat
  kreg : Nat
  rest : Nat
  deriving DecidableEq, Repr

def streamDesc (x : Nat) : StreamDesc :=
  let f (o n : Nat) : Nat := x / 2 ^ (8 * o) % 2 ^ (8 * n)
  { base := f 0 8, stride := f 8 8, count := f 16 4, kind := f 20 1, ty := f 21 1, kreg := f 22 1, rest := f 23 9 }

/-- Every field lies in its range, and a field that the kind does not use is zero (R181). -/
def StreamDesc.ok (d : StreamDesc) : Bool :=
  decide (d.kind ≤ 7) && d.rest == 0 && decide (d.kreg ≤ 7) && (d.kind == 0 || d.kreg == 0) &&
  (if d.kind ≤ 1 then
     decide (1 ≤ d.count) && decide (d.ty < 16) &&
     (match decTy (BitVec.ofNat 4 d.ty) with
      | .ok t => streamType t
      | .error _ => false)
   else
     d.stride == 0 && d.count == 0 && d.ty == 0 && (if d.kind ≤ 3 then d.base % 64 == 0 else d.base == 0))

/-- The port a descriptor makes; `h` is the consumer's counter of a ring read port, and 0 elsewhere. -/
def StreamDesc.port (d : StreamDesc) (h : Nat) : Port :=
  { kind := d.kind, base := d.base, stride := sgnOf 64 d.stride, count := d.count,
    ty := match decTy (BitVec.ofNat 4 d.ty) with
      | .ok t => t
      | .error _ => .i8
    kreg := d.kreg, m := 0, h := h, ahead := [], drawn := none }

/-- Does the chain a kind names have a neighbour on the die (R184)? Kinds 4 and 7 look down, 5 and 6 up. -/
def chainExists (core kind : Nat) : Bool := (neighbour core (kind == 4 || kind == 7)).isSome

/-- `SBIND` (R181, R324). -/
def execSbind (d : VReg) (a : Sc) (off : BitVec 27) (s : State) : Host.Outcome State Fault Refusal :=
  run (.sbind d a off) { rd := [a], vs := [d] } (do
    let x ← rdS a
    let va := x + offVal off
    if va.toNat % 32 != 0 then raiseAt 0x06 va.toNat 0
    else do
      let p ← trans loadA va
      let w ← loadN 0 p 32
      let desc := streamDesc w
      let s ← get
      let t := s.thr
      if 4 ≤ t.ports.length then commandFault 1
      else if (t.port? d).isSome then commandFault 2
      else if !desc.ok then commandFault 3
      else if 4 ≤ desc.kind && !chainExists s.core desc.kind then commandFault 4
      else do
        let h ← if desc.kind == 2 then loadVa loadA (BitVec.ofNat 64 (desc.base + 8)) 8 else pure 0
        setPort d (desc.port h)
        pure .seq) s

/-- The register of a port that ends reads 0 and is full (R185). -/
def Thread.unbind (t : Thread) (v : VReg) : Thread :=
  let t1 := t.putV v 0
  { t1 with ports := mapDel t1.ports v.val }

/-- `SFREE` (R185, R324): a sending port first waits for the stores of its pushes, a fill's push among them. -/
def execSfree (d : VReg) (s : State) : Host.Outcome State Fault Refusal :=
  run (.sfree d) { vs := [d] } (do
    let t ← getThr
    match t.port? d with
    | none => commandFault 5
    | some p => do
      if p.receives then pure ()
      else do
        waitAcks
        if t.vPend.getLsbD d.val then park .quiesce
      updThr (fun t => t.unbind d)
      pure .seq) s

/-! ## Reading ahead (R183) -/

/-- The bytes of a span as a thread would load them; none where a load would fault or wait. -/
def State.peekSpan (s : State) (core : Nat) (t : Thread) : List (Word × Nat) → Option Nat
  | [] => some 0
  | (va, n) :: r =>
    match s.translate core t.mode loadA va with
    | .error _ => none
    | .ok p =>
      if t.stores.any (fun e => overlap p.pa n e.1 e.2.1) then none
      else
        match s.peek core p n, s.peekSpan core t r with
        | some a, some b => some (a + 2 ^ (8 * n) * b)
        | _, _ => none

/-- STREAM_READ_AHEAD: a linear read port takes its next vector early, up to 4 (R183). A read that would fault
is left to the pop. -/
def doReadAhead (tid : Nat) (v : VReg) (s : State) : State :=
  match s.thread? tid with
  | none => s
  | some t =>
    match t.port? v with
    | none => s
    | some p =>
      let q : Port := { p with m := p.m + p.ahead.length }
      let l := p.ty.lanes
      if p.kind != 0 || 4 ≤ p.ahead.length || p.count ≤ q.m * l then s
      else
        let n := Nat.min l (p.count - q.m * l) * p.ty.bits / 8
        match s.peekSpan (coreOfTid tid) t (pieces (linearAddr q) (n + 1) n) with
        | none => s
        | some x => s.setThread tid
            { t with ports := mapPut t.ports v.val { p with ahead := p.ahead ++ [BitVec.ofNat 2048 x] } }

/-- `STREAM_READ_AHEAD`. -/
def execStreamReadAhead (slot : Nat) (v : VReg) (s : State) : Host.Outcome State Fault Refusal :=
  event (doReadAhead slot v) s

end Sys2Proof.Machine
end

