-- ==== Sys2Proof/Machine/Expiry.lean ====
section
/-! DEFINITION. The expiry instructions (R187 to R192, R287, R288). -/
namespace Sys2Proof.Machine

/-- The lowest free entry of an expiry table, from index `i` on (R191). -/
def lowestFree (tab : List (Nat × ExEnt)) : Nat → Nat → Option Nat
  | 0, _ => none
  | n + 1, i =>
    match mapGet tab i with
    | none => some i
    | some e => if e.st == .free then some i else lowestFree tab n (i + 1)

def State.freeEntry (s : State) (pkg : Nat) : Option Nat := lowestFree (s.pkgAt pkg).exTab 4095 1

/-- The partition of the thread's core, as entries record it (R188). -/
def State.partNum (s : State) : Nat := (s.partOfCore s.core).getD 0

/-- `EXNEW` (R191): an entry in the issuer's package. -/
def execExnew (d a : Sc) (s : State) : Host.Outcome State Fault Refusal :=
  run (.exnew d a) { dst := some d, rd := [a] } (do
    let x ← rdS a
    let s ← get
    let pkg := pkgOfCore s.core
    match s.freeEntry pkg with
    | none => raise 0x15
    | some i => do
      let tag := mkTag pkg i
      let e : ExEnt := { ExEnt.reset with
        st := .live, part := s.partNum, instant := x.toNat, reach := setBit 0 pkg }
      modify (fun s => s.setEx tag e)
      if x.toNat ≤ s.podTime then modify (fun s => s.lapse tag) else pure ()
      wrS d (tag.setWidth 64)
      pure .seq) s

/-- The four tag fields of `EXJOIN` (R190). -/
def joinTags (x y : Word) : List Tag :=
  [x.extractLsb' 0 19, x.extractLsb' 32 19, y.extractLsb' 0 19, y.extractLsb' 32 19]

/-- The present parents, each once (R191). -/
def presentTags : List Tag → List Tag
  | [] => []
  | t :: r => if tagIndex t == 0 then presentTags r else t :: (presentTags r).filter (fun q => q != t)

/-- A nonzero bit outside the two tag fields of an `EXJOIN` operand. -/
def joinBits (x : Word) : Bool := x.extractLsb' 19 13 != 0 || x.extractLsb' 51 13 != 0

/-- The entry that the thread's `EXJOIN` has allocated. -/
def State.forming (s : State) (pkg uid : Nat) : Option Nat :=
  ((s.pkgAt pkg).exTab.find? (fun e => e.2.forming == some uid)).map (fun e => e.1)

/-- A fault of `EXJOIN` frees its entry (R191). -/
def joinFault {α : Type} (tag : Tag) (t : Trap) : M α := do
  modify (fun s => s.setEx tag ExEnt.reset)
  throw (.trap t true)

/-- Reads a parent at its home: its instant and 1, or 0 when it is not LIVE (R191). -/
def joinParent (tag : Tag) (part pkg j : Nat) (q : Tag) : M Nat := do
  let s ← get
  if !(s.pkgAt (tagPkg q)).member then joinFault tag (mkTrap 0x17 0 2)
  else fun s =>
    match rpc j (tagPkg q) (.exParent q part pkg) 0 s with
    | .ok r s1 => .ok r.nat s1
    | .error (.trap t _) s1 => joinFault tag t s1
    | .error e s1 => .error e s1

/-- The entry of an `EXJOIN` once every parent is read: marks by its own reads and by waves together (R191). An entry that
`EXFREE` has taken on meanwhile stays on its way (R189). -/
def State.joinDone (s : State) (tag : Tag) (vals : List (Tag × Nat)) : State :=
  let e := s.exAt tag
  let ps := e.parents.map (fun p => (p.1, p.2 || vals.any (fun v => v.1 == p.1 && v.2 == 0)))
  let live := vals.filter (fun v => ps.any (fun p => p.1 == v.1 && !p.2))
  let s1 := s.setEx tag
    { e with parents := ps, forming := none, instant := live.foldl (fun m v => Nat.max m (v.2 - 1)) 0 }
  if ps.all (fun p => p.2) && e.st == .live then s1.lapse tag else s1

/-- `EXJOIN` (R191). -/
def execExjoin (d a b : Sc) (s : State) : Host.Outcome State Fault Refusal :=
  run (.exjoin d a b) { dst := some d, rd := [a, b] } (do
    let x ← rdS a
    let y ← rdS b
    if joinBits x || joinBits y then commandFault 1
    else
      let ps := presentTags (joinTags x y)
      if ps.isEmpty then do
        wrS d 0
        pure .seq
      else do
        let s ← get
        let uid := s.thr.uid
        let pkg := pkgOfCore s.core
        let i ← match s.forming pkg uid with
          | some i => pure i
          | none =>
            match s.freeEntry pkg with
            | none => raise 0x15
            | some i => do
              let e : ExEnt := { ExEnt.reset with
                st := .live, gusset := true, part := s.partNum, parents := ps.map (fun q => (q, false)),
                reach := setBit 0 pkg, forming := some uid }
              modify (fun s => s.setEx (mkTag pkg i) e)
              pure i
        let tag := mkTag pkg i
        let vals ← (ps.zip (List.range ps.length)).mapM (fun e => do
          let v ← joinParent tag s.partNum pkg e.2 e.1
          pure (e.1, v))
        modify (fun s => s.joinDone tag vals)
        wrS d (tag.setWidth 64)
        pure .seq) s

/-- A tag operand (R191, reasons 1 and 2): INDEX 0 is exempt from the second. -/
def tagOperand (x : Word) : M Tag := do
  let s ← get
  let t : Tag := x.extractLsb' 0 19
  if 2 ^ 19 ≤ x.toNat then commandFault 1
  else if tagIndex t != 0 && !(s.pkgAt (tagPkg t)).member then commandFault 2
  else pure t

/-- The device writes a tag with INDEX 0 as 0 (R187). -/
def Tag.canon (t : Tag) : Tag := if tagIndex t == 0 then 0 else t

/-- `EXSET` (R191). -/
def execExset (a : Sc) (s : State) : Host.Outcome State Fault Refusal :=
  run (.exset a) { rd := [a] } (do
    let x ← rdS a
    let t ← tagOperand x
    let s ← get
    let th := s.thr
    if tagIndex t == 0 then
      if th.mode == .user && tagIndex th.ex != 0 then commandFault 5
      else pure ()
    else do
      let _ ← rpc 0 (tagPkg t) (.exSet t s.partNum (pkgOfCore s.core) true) 0
      pure ()
    updThr (fun th => { th with ex := Tag.canon t })
    pure .seq) s

/-- `EXCHK` (R191, R288). -/
def execExchk (d a : Sc) (s : State) : Host.Outcome State Fault Refusal :=
  run (.exchk d a) { dst := some d, rd := [a] } (do
    let x ← rdS a
    let t ← tagOperand x
    let s ← get
    if tagIndex t == 0 then wrS d 0
    else do
      let r ← rpc 0 (tagPkg t) (.exChk t s.partNum) 0
      wrS d (BitVec.ofNat 64 r.nat)
    pure .seq) s

/-- `EXFREE` (R191). -/
def execExfree (a : Sc) (s : State) : Host.Outcome State Fault Refusal :=
  run (.exfree a) { rd := [a] } (do
    let x ← rdS a
    let t ← tagOperand x
    let s ← get
    if tagIndex t == 0 then pure ()
    else do
      let _ ← rpc 0 (tagPkg t) (.exFree t s.partNum) 0
      pure ()
    pure .seq) s

/-! ## Events of the table (R189, R196) -/

/-- EXPIRY_LAPSE: a plain entry whose instant has come (R189). -/
def doExpiryLapse (pkg index : Nat) (s : State) : State :=
  let t := mkTag pkg index
  let e := s.exAt t
  if e.st == .live && !e.gusset && decide (e.instant ≤ s.podTime) then s.lapse t else s

/-- QUARANTINE_EXPIRY: 200 μs in QUARANTINE (R189). -/
def doQuarantineExpiry (pkg index : Nat) (s : State) : State :=
  let t := mkTag pkg index
  let e := s.exAt t
  if e.st == .quarantine && decide (e.since + Config.nsToCycles 200000 ≤ s.cycle) then s.setEx t ExEnt.reset else s

/-- LAPSED_TAG_FILTER_EXPIRY: tags leave the filter after 100 μs (R196). -/
def doFilterExpiry (pkg : Nat) (s : State) : State :=
  s.updPkg pkg (fun p =>
    { p with filter := p.filter.filter (fun e => decide (s.cycle < e.2 + Config.nsToCycles 100000)) })

/-- `EXPIRY_LAPSE`. -/
def execExpiryLapse (pkg index : Nat) (s : State) : Host.Outcome State Fault Refusal := event (doExpiryLapse pkg index) s
/-- `QUARANTINE_EXPIRY`. -/
def execQuarantineExpiry (pkg index : Nat) (s : State) : Host.Outcome State Fault Refusal :=
  event (doQuarantineExpiry pkg index) s
/-- `LAPSED_TAG_FILTER_EXPIRY`. -/
def execLapsedTagFilterExpiry (pkg : Nat) (s : State) : Host.Outcome State Fault Refusal := event (doFilterExpiry pkg) s

end Sys2Proof.Machine
end

