-- ==== Sys2Proof/Machine/Fetch.lean ====
section
/-! DEFINITION. Which thread of a core issues in a cycle (R34 to R36), and fetching its instruction's bytes
(R82, R94, R238). -/
namespace Sys2Proof.Machine

/-- EN and SLOT of entry `e` of the slot table (R35). -/
def Core.slotEntry (c : Core) (e : Nat) : Option Nat :=
  let v := (c.slotTab.toNat >>> (4 * e)) % 16
  if 8 ≤ v then some (v % 8) else none

/-- An instruction of the grammar unit (R251). -/
def isGrammar : Instr → Bool
  | .gmload _ => true
  | .gmstep _ _ _ => true
  | .gmstepRst _ _ => true
  | .gmmask _ _ _ => true
  | .gmmaskK _ _ _ => true
  | _ => false

/-- Does the thread still hold a grammar instruction in the quad? -/
def State.inUnit (s : State) (qn uid : Nat) : Bool :=
  match s.tidOf uid with
  | none => false
  | some tid => quadOfCore (coreOfTid tid) == qn &&
    (match s.thread? tid with
     | none => false
     | some t => match t.hold with
       | some h => (match h.what with
         | .instr i => isGrammar i
         | .bad _ _ => false)
       | none => false)

/-- The thread whose instruction the unit applies next. -/
def State.unitHead (s : State) (qn : Nat) : Option Nat := (s.quadAt qn).gmQ.find? (fun u => s.inUnit qn u)

/-- Are event bits of the quad owed to the thread: set by another, some of whose stores before the set are not acknowledged
(R155; log 73)? -/
def State.eventsOwed (s : State) (core : Nat) (t : Thread) (m : Mask) : Bool :=
  (s.quadAt (quadOfCore core)).later.any (fun e => e.uid != t.uid && e.mask &&& m != 0 &&
    (match s.tidOf e.uid with
     | some tid => ((s.thread? tid).map (fun x => e.stores.any (fun y => x.stores.contains y))).getD false
     | none => false))

/-- Is the wait over? The waits not listed here end when something wakes the thread. -/
def State.waitOver (s : State) (core : Nat) (t : Thread) : Park → Bool
  | .regs ss vs =>
    ss.all (fun r => match r with
      | .g n => t.gFull.getLsbD n.val
      | .c n => s.cFull core n
      | _ => true) &&
    vs.all (fun v => match t.port? v with
      | some p =>
        if p.kind == 6 || p.kind == 7 then
          p.drawn.isSome ||
            (match chainIn core p.kind with
             | some q => !((mapGet s.chains q).getD []).isEmpty
             | none => false)
        else true
      | none => t.vFull.getLsbD v.val)
  | .grow n =>
    (match (s.coreAt core).growQ with
     | u :: _ => u == t.uid && decide (n ≤ s.poolFree core)
     | [] => false)
  | .task since =>
    (match (s.quadAt (quadOfCore core)).posts with
     | u :: _ => u == t.uid && decide ((s.quadAt (quadOfCore core)).tasks.length < Config.taskQueueSize)
     | [] => false) || s.postTimedOut t since
  | .mxWait n => decide (s.mxOutstanding core t.uid ≤ n)
  | .quiesce => true
  | .noTag => (s.coreAt core).freeTag.isSome
  | .acks => t.stores.isEmpty
  | .drain q n => decide (((mapGet s.chains q).getD []).length + n ≤ 4)
  | .unit => s.unitHead (quadOfCore core) == some t.uid
  | .withdrawn => s.coreRuns core
  | .owed m => !s.eventsOwed core t m
  | _ => false

/-- Ready but for a `YIELD` (R34). -/
def State.readyYet (s : State) (tid : Nat) (t : Thread) : Bool :=
  (match t.park with
   | none => true
   | some p => s.waitOver (coreOfTid tid) t p) &&
  (match t.lastIssue with
   | none => true
   | some c => decide (c + 8 ≤ s.cycle))

/-- Have the 32 cycles after a `YIELD` passed (R351)? -/
def State.yieldOver (s : State) (t : Thread) : Bool :=
  match t.yieldTo with
  | none => true
  | some c => decide (c ≤ s.cycle)

/-- Is the thread ready (R34)? After a `YIELD` it waits 32 cycles, or until no other thread of the core is
ready (R351). -/
def State.ready (s : State) (tid : Nat) (t : Thread) : Bool :=
  s.readyYet tid t &&
  (s.yieldOver t ||
    (List.range 8).all (fun j =>
      let o := tid / 8 * 8 + j
      o == tid ||
      (match s.thread? o with
       | some x => !(s.readyYet o x && s.yieldOver x)
       | none => true)))

/-- The age of a thread's last issue, for lending: a thread that has not issued is oldest. -/
def Thread.issueAge (t : Thread) : Nat := match t.lastIssue with
  | some c => c + 1
  | none => 0

/-- Is an instruction of the thread in flight: begun, and not in a wait that a halt keeps or withdraws (R232)? -/
def Thread.inFlight (t : Thread) : Bool :=
  t.hold.isSome &&
  (match t.park with
   | none => !t.mail.isEmpty
   | some .acks => true
   | some .noTag => true
   | some (.mxWait _) => true
   | some (.mxFlag _) => true
   | some .engine => true
   | some (.owed _) => true
   | _ => false)

/-- Does the core's partition stand in HALTING? -/
def State.coreHalts (s : State) (core : Nat) : Bool :=
  match s.partOfCore core with
  | some p => (s.partAt p).st == .halting
  | none => false

/-- The thread that issues on a core in this cycle: the owner of the cycle's entry, else the ready thread whose
last issue is oldest, ties to the lower slot (R36). While the core moves or its partition halts, only instructions in
flight go on (R232, R236). -/
def State.pick (s : State) (core : Nat) : Option Nat :=
  if !s.coreRuns core && !s.coreHalts core then none
  else
    let c := s.coreAt core
    match c.slotEntry (s.cycle % 32) with
    | none => none
    | some sl =>
      if c.disabled.getLsbD sl then none
      else
        let only := !s.coreRuns core || c.moving.isSome
        let ok (t : Nat) : Bool := match s.thread? t with
          | some x => s.ready t x && (!only || x.inFlight)
          | none => false
        if ok (core * 8 + sl) then some (core * 8 + sl)
        else
          (List.range 8).foldl (fun best j =>
            let t := core * 8 + j
            if ok t && !c.disabled.getLsbD j then
              match best with
              | none => some t
              | some b =>
                let age (k : Nat) : Nat := match s.thread? k with
                  | some x => x.issueAge
                  | none => 0
                if age t < age b then some t else some b
            else best) none

/-- Lines of an instruction cache of 32 KiB (R8). -/
def icacheLines : Nat := 512

/-- The code line that the core's instruction cache holds, or the home's contents, which enter the cache
(R238); a full cache gives up the lowest line. -/
def State.codeLine (s : State) (core line : Nat) : State × BitVec 512 :=
  match mapGet (s.coreAt core).icache line with
  | some d => (s, d)
  | none =>
    let d := s.homeLine line
    (s.updCore core (fun c =>
      let l := mapPut (if c.icache.length < icacheLines then c.icache else c.icache.tail) line d
      { c with icache := l }), d)

/-- A block with the 8-byte words that a fetch on its way has read earlier, but for those that this fetch reads anew (R238,
R239). -/
def overlayAhead (ahead : List (Nat × Word)) (fresh : List Nat) (pa : Nat) (b : BitVec 256) : BitVec 256 :=
  (List.range 4).foldl (fun b j =>
    match (if fresh.contains (pa / 32 * 4 + j) then none else mapGet ahead (pa / 32 * 4 + j)) with
    | none => b
    | some w => (b &&& ~~~((BitVec.allOnes 64).setWidth 256 <<< (64 * j))) ||| (w.setWidth 256 <<< (64 * j))) b

/-- The 32-byte fetch block at a physical address, from the thread's fetch buffer when it holds it (R238). -/
def State.codeBlock (s : State) (tid pa : Nat) : State × BitVec 256 :=
  match s.thread? tid with
  | none => (s, 0)
  | some t =>
    match mapGet t.fbuf (pa / 32) with
    | some b => (s.updThread tid (fun t => { t with fresh := [] }), overlayAhead t.ahead t.fresh pa b)
    | none =>
      let (s1, d) := s.codeLine (coreOfTid tid) (pa / 64)
      let b : BitVec 256 := d.extractLsb' (pa % 64 / 32 * 256) 256
      (s1.updThread tid (fun t => { t with fbuf := [(pa / 32, b)], fresh := [] }), overlayAhead t.ahead t.fresh pa b)

/-- What a fetch gives: an instruction, or the fault of R94 steps 1 to 4 with what the latch holds. -/
inductive Fetched where
  | instr (i : Instr)
  | bad (tr : Trap) (l : Option Latched)
  deriving DecidableEq, Repr

/-- The instruction that starts at byte `o` of a fetch block (R82, R93, R94). -/
def parseBlock (b : BitVec 256) (pc : Word) : Fetched :=
  let o := pc.toNat % 32
  let w : IWord := (b >>> (8 * o)).setWidth 128
  let len := w.extractLsb' 0 2
  if len == 3#2 then .bad (mkTrap 0x02 0 0) (some (.bad 0x02 Config.reservedLength))
  else
    let n := lenBytes len
    if 32 < o + n then .bad (mkTrap 0x03 0 0) (some (.bad 0x03 n))
    else
      match decode w with
      | .ok i => .instr i
      | .error .illegalLength => .bad (mkTrap 0x02 0 0) (some (.bad 0x02 n))
      | .error (.illegal _) => .bad (mkTrap 0x01 0 0) (some (.bad 0x01 n))

/-- Bytes of the instruction at byte `o` of a block that lie in the block. -/
def fetchLen (b : BitVec 256) (o : Nat) : Nat :=
  let len : BitVec 2 := (b >>> (8 * o)).setWidth 2
  Nat.min (32 - o) (if len == 3#2 then 8 else lenBytes len)

/-- Fetches at the thread's pc; poison of any granule that the instruction's bytes touch faults first (R94, R230). -/
def State.fetch (s : State) (tid : Nat) : State × Fetched :=
  match s.thread? tid with
  | none => (s, .bad (mkTrap 0x01 0 0) none)
  | some t =>
    match s.translate (coreOfTid tid) t.mode fetchA t.pc with
    | .error tr => (s, .bad tr none)
    | .ok p =>
      if s.poisoned p.pa 1 then (s, .bad (mkTrap 0x13 t.pc.toNat 0) none)
      else
        let (s1, b) := s.codeBlock tid p.pa
        if s.poisoned p.pa (fetchLen b (t.pc.toNat % 32)) then (s1, .bad (mkTrap 0x13 t.pc.toNat 0) none)
        else (s1, parseBlock b t.pc)

end Sys2Proof.Machine
end

