-- ==== Sys2Proof/Machine/Mem.lean ====
section
/-! DEFINITION. The memory class: loads, stores, full/empty accesses, atomics, fences, pegs, range maintenance
and multicast (R147 to R166, R209, R266, R269 to R270, R277, R279, R282, R291, R294, R308, R309, R312, R321,
R332, R335). -/
namespace Sys2Proof.Machine

def misaligned {α : Type} (va : Word) : M α := raiseAt 0x06 va.toNat 0

/-- A value of `n` bytes in a scalar register (R64, R308). -/
def loadWord (z : Bool) (n v : Nat) : Word := if n == 8 then BitVec.ofNat 64 v else extend z (8 * n) v

/-- A load: `acq` acquires, so it must be aligned (R147, R308). -/
def loadBody (acq z : Bool) (n : Nat) (d a : Sc) (off : Word) : M Next := do
  let b ← rdS a
  let va := b + off
  if acq && va.toNat % n != 0 then misaligned va
  else do
    let v ← loadVa loadA va n
    if acq then acquired else pure ()
    wrS d (loadWord z n v)
    pure .seq

/-- A plain or releasing store (R332): a release waits for every earlier access, then for its own write. -/
def storeBody (i : Instr) (rel : Bool) (n : Nat) (a : Sc) (off : Word) (b : Sc) : M Next := do
  let x ← rdS a
  let v ← rdS b
  let va := x + off
  if rel && va.toNat % n != 0 then misaligned va
  else do
    if rel then do
      let _ ← trans storeA va
      waitAcks
    else pure ()
    storeVa va n v.toNat (some i)
    if rel then waitAcks else pure ()
    pure .seq

/-- `LD` (R308). -/
def execLd (acq z : Bool) (w : Width) (sc : Option Scope) (d a : Sc) (off : BitVec 27) (s : State) :
    Host.Outcome State Fault Refusal :=
  run (.ld acq z w sc d a off) { dst := some d, rd := [a] } (loadBody acq z (widthBytes w) d a (offVal off)) s

/-- `ST` (R332). -/
def execSt (rel : Bool) (w : Width) (sc : Option Scope) (a : Sc) (off : BitVec 27) (b : Sc) (s : State) :
    Host.Outcome State Fault Refusal :=
  run (.st rel w sc a off b) { rd := [a, b] } (storeBody (.st rel w sc a off b) rel (widthBytes w) a (offVal off) b) s

/-- `LDS` (R164, R309): one action at the word's home, or a plain load under `.ig`. -/
def execLds (m : LdMode) (z : Bool) (w : Width) (sc : Option Scope) (d a : Sc) (off : BitVec 27) (s : State) :
    Host.Outcome State Fault Refusal :=
  let n := widthBytes w
  run (.lds m z w sc d a off) { dst := some d, rd := [a] } (
    if m == .ig then loadBody false z n d a (offVal off)
    else do
      let b ← rdS a
      let va := b + offVal off
      if va.toNat % n != 0 then misaligned va
      else do
        let p ← trans { rd := true, fe := true } va
        waitOverlap p.pa n
        let r ← rpc 0 (pkgOfPa p.pa) (.feLd m p.pa n) p.va
        acquired
        wrS d (loadWord z n r.nat)
        pure .seq) s

/-- `STS` (R164, R332): a release and one action at the word's home, or a plain store under `.ig`. -/
def execSts (m : StMode) (w : Width) (sc : Option Scope) (a : Sc) (off : BitVec 27) (b : Sc) (s : State) :
    Host.Outcome State Fault Refusal :=
  let n := widthBytes w
  let i : Instr := .sts m w sc a off b
  run i { rd := [a, b] } (
    if m == .ig then storeBody i false n a (offVal off) b
    else do
      let x ← rdS a
      let v ← rdS b
      let va := x + offVal off
      if va.toNat % n != 0 then misaligned va
      else do
        let p ← trans { wr := true, fe := true } va
        waitAcks
        let x := v.toNat % 2 ^ (8 * n)
        let req : Req := (Req.feSt m p.pa n x).at_ p
        let _ ← rpc 0 (pkgOfPa p.pa) req p.va
        patch p.pa n
        pure .seq) s

/-- `AMO` (R166, R269, R270). -/
def execAmo (op : AmoOp) (z : Bool) (w : Width) (sc : Option Scope) (d a : Sc) (off : BitVec 27) (b : Sc) (s : State) :
    Host.Outcome State Fault Refusal :=
  let n := widthBytes w
  run (.amo op z w sc d a off b) { dst := some d, rd := [a, b] } (do
    let x ← rdS a
    let v ← rdS b
    let va := x + offVal off
    if va.toNat % n != 0 then misaligned va
    else do
      let p ← trans amoA va
      fenceAt sc
      waitOverlap p.pa n
      let v := v.toNat % 2 ^ (8 * n)
      let req : Req := (Req.amo op z p.pa n v).at_ p
      let r ← rpc 0 (pkgOfPa p.pa) req p.va
      patch p.pa n
      if sc.isSome then acquired else pure ()
      wrS d (loadWord z n r.nat)
      pure .seq) s

/-- `CAS` (R166, R279). -/
def execCas (w : Width) (sc : Option Scope) (d a : Sc) (off : BitVec 32) (b c : Sc) (s : State) :
    Host.Outcome State Fault Refusal :=
  let n := widthBytes w
  run (.cas w sc d a off b c) { dst := some d, rd := [a, b, c] } (do
    let x ← rdS a
    let e ← rdS b
    let v ← rdS c
    let va := x + offVal off
    if va.toNat % n != 0 then misaligned va
    else do
      let p ← trans amoA va
      fenceAt sc
      waitOverlap p.pa n
      let e := e.toNat % 2 ^ (8 * n)
      let v := v.toNat % 2 ^ (8 * n)
      let req : Req := (Req.cas p.pa n e v).at_ p
      let r ← rpc 0 (pkgOfPa p.pa) req p.va
      if r.nat == e then patch p.pa n else pure ()
      if sc.isSome then acquired else pure ()
      wrS d (loadWord true n r.nat)
      pure .seq) s

/-- `FENCE` (R154, R294). -/
def execFence (sc : Scope) (s : State) : Host.Outcome State Fault Refusal :=
  run (.fence sc) {} (do
    waitAcks
    pure .seq) s

/-! ## Range maintenance -/

/-- Is the core on the home die of the line? -/
def onHomeDie (core line : Nat) : Bool := homeDie (line * 64) == some (dieOfCore core)

/-- The core leaves the line's L1 sharers (R162). -/
def dropL1 (line : Nat) : M Unit := modify (fun s =>
  match mapGet s.dirs line with
  | some d =>
    let d1 : Dir := { d with sharers := setDel d.sharers s.core, more := setDel d.more s.core }
    { s with dirs := mapPut s.dirs line d1 }
  | none => s)

/-- The line leaves a thread's fetch buffer. A fetch of another thread on its way keeps the words it has read, until an
`FBAR` that follows an acquire (R162, R239). -/
def Thread.dropCode (t : Thread) (line : Nat) (own : Bool) : Thread :=
  { t with
    fbuf := t.fbuf.filter (fun b => b.1 / 2 != line)
    stale := if !own && t.ahead.any (fun e => e.1 / 8 == line) then setIns t.stale line else t.stale }

/-- A line leaves the instruction caches and fetch buffers of every core of the issuer's partition (R162). -/
def State.dropCode (s : State) (line : Nat) : State :=
  let mine (c : Nat) : Bool := s.partOfCore c == s.partOfCore s.core
  { s with
    cores := s.cores.map (fun e => if mine e.1 then (e.1, { e.2 with icache := mapDel e.2.icache line }) else e)
    threads := s.threads.map (fun e =>
      if mine (coreOfTid e.1) then (e.1, e.2.dropCode line (e.2.uid == s.thr.uid)) else e) }

/-- A line's dirty bytes are cleaned, under `.cli` until none is left (R162). -/
def cmoClean (op : CmoOp) (line : Nat) : M Unit := if op == .cli then cleanAll line else cleanLine false line

/-- `CMO` on one line (R162). -/
def cmoLine (op : CmoOp) (lvl : CmoLvl) (line : Nat) : M Unit :=
  match lvl with
  | .l1 => if op == .cl then pure () else dropL1 line
  | .l2 =>
    if op == .inv then dropLine line
    else onceLine line (do
      cmoClean op line
      if op == .cli then dropLine line else pure ())
  | .hbm => do
    let s ← get
    let drop : M Unit := do
      dropLine line
      if onHomeDie s.core line then modify (fun s => s.dropSlice line) else pure ()
    if op == .inv then drop
    else onceLine line (do
      cmoClean op line
      modify (fun s => s.cleanSlice line)
      if op == .cli then drop else pure ())
  | .ipath => modify (fun s => s.dropCode line)

/-- `CMO` (R162, R282): every page is checked as a load before any line is acted on. -/
def execCmo (op : CmoOp) (lvl : CmoLvl) (a : Sc) (off : BitVec 27) (b : Sc) (s : State) :
    Host.Outcome State Fault Refusal :=
  run (.cmo op lvl a off b) { rd := [a, b] } (do
    let x ← rdS a
    let n ← rdS b
    let va := x + offVal off
    if 2 ^ 36 < n.toNat then raise 0x17
    else do
      let runs := rangeRuns va.toNat n.toNat
      let ps ← runs.mapM (fun r => do
        let p ← trans loadA (BitVec.ofNat 64 (r.1 * 64))
        pure (p, r.2))
      ps.forM (fun e => waitOverlap e.1.pa (64 * e.2))
      ps.forM (fun e => (List.range e.2).forM (fun j => cmoLine op lvl (e.1.pa / 64 + j)))
      pure .seq) s

/-- `FBAR` (R163, R291): the next instruction is fetched afresh; words of a line that another thread has invalidated may
stay old until the thread has made an acquire (R239). -/
def execFbar (s : State) : Host.Outcome State Fault Refusal :=
  run .fbar {} (do
    updThr (fun t => { t with fbuf := [], fresh := [], ahead := t.ahead.filter (fun e => t.stale.contains (e.1 / 8)) })
    pure .seq) s

/-! ## Pegs -/

/-- A peg's address, 8-byte aligned and on a full/empty page (R147, R134 row 8). -/
def pegAt (x : Access) (va : Word) : M Phys :=
  if va.toNat % 8 != 0 then misaligned va else trans { x with fe := true } va

/-- `ACQ` (R160, R266). -/
def execAcq (sc : Option Scope) (d a : Sc) (off : BitVec 27) (b : Sc) (s : State) :
    Host.Outcome State Fault Refusal :=
  run (.acq sc d a off b) { dst := some d, rd := [a, b] } (do
    let x ← rdS a
    let c ← rdS b
    let p ← pegAt loadA (x + offVal off)
    waitOverlap p.pa 8
    let (S, ranges) ← pegBinding 0 p sc
    let r ← rpc 1 (pkgOfPa p.pa) (.peg p.pa c.toNat) p.va
    if wide S then onBound ranges dropLine else pure ()
    acquired
    wrS d (BitVec.ofNat 64 r.nat)
    pure .seq) s

/-- `REL` (R159, R321): the peg's poison is looked at before the bound lines are cleaned. -/
def execRel (sc : Option Scope) (a : Sc) (off : BitVec 27) (b : Sc) (s : State) :
    Host.Outcome State Fault Refusal :=
  run (.rel sc a off b) { rd := [a, b] } (do
    let x ← rdS a
    let v ← rdS b
    let p ← pegAt storeA (x + offVal off)
    waitAcks
    let (S, ranges) ← pegBinding 0 p sc
    let _ ← rpc 3 (pkgOfPa p.pa) (.probe (cellsOf p.pa 8 0)) p.va
    if wide S then onBound ranges releaseLine else pure ()
    let req : Req := (Req.pegWr p.pa v.toNat).at_ p
    let _ ← rpc 2 (pkgOfPa p.pa) req p.va
    patch p.pa 8
    pure .seq) s

/-- `BIND` (R158, R277). -/
def execBind (sc : Option Scope) (a : Sc) (off : BitVec 32) (b c : Sc) (s : State) :
    Host.Outcome State Fault Refusal :=
  run (.bind sc a off b c) { rd := [a, b, c] } (do
    let x ← rdS a
    let base ← rdS b
    let len ← rdS c
    let va := x + offVal off
    if va.toNat % 8 != 0 then misaligned va
    else if base.toNat % 64 != 0 then misaligned base
    else if len.toNat % 64 != 0 then misaligned len
    else do
      let p ← trans { rd := true, fe := true } va
      if len.toNat == 0 || 2 ^ 36 < len.toNat then raiseAt 0x17 0 1
      else do
        let _ ← rpc 0 (pkgOfPa p.pa) (.bindAdd p.pa (sc.getD .pod) base.toNat len.toNat) p.va
        pure .seq) s

/-- `UNBIND` (R158, R335). -/
def execUnbind (a : Sc) (off : BitVec 27) (s : State) : Host.Outcome State Fault Refusal :=
  run (.unbind a off) { rd := [a] } (do
    let x ← rdS a
    let p ← pegAt loadA (x + offVal off)
    let _ ← rpc 0 (pkgOfPa p.pa) (.bindRm p.pa) p.va
    pure .seq) s

/-! ## Multicast (R208, R209, R312) -/

/-- The request number of a multicast, which says whether the destination page is full/empty-tagged or uncached. -/
def mcastK (fe unc : Bool) : Nat := 9000 + (if fe then 1 else 0) + (if unc then 2 else 0)

/-- The flits of a multicast as it leaves its issuing package, which also delivers it (R208). -/
def mcastMsg (pkg core rtag gen : Nat) (exp : Tag) (resend : Bool) (n : Nat) (cells : List Host.Cell)
    (sc : Option Scope) (fe unc : Bool) (uid : Nat) : Msg :=
  { dst := pkg, src := pkg, cls := 3, core := core, rtag := rtag, gen := gen, exp := exp, resend := resend,
    body := .mcast n ((cells.head?.map (fun c => c.1)).getD 0) (cells.map (fun c => c.2)) sc fe unc uid }

/-- Sends the multicast and waits for TOTAL acknowledgements: the thread's answer comes with the last. -/
def mcastSend (i : Instr) (n total : Nat) (sc : Option Scope) (p : Phys) (len data : Nat) : M Unit := fun s =>
  let t := s.thr
  let unc := p.leaf.home == 3 && isHbm p.pa
  let k := mcastK p.leaf.fe unc
  let pkg := pkgOfCore s.core
  match t.mail.find? (fun m => m.k == k) with
  | some m =>
    match m.rep with
    | .fault tr => .error (.trap (tr.atAddr p.va) false) s
    | _ => .ok () s
  | none =>
    if (s.coreAt s.core).reqs.any (fun r => r.who == .thread t.uid && r.k == k) then .error (.park .reply) s
    else
      match (s.coreAt s.core).freeTag with
      | none => .error (.park .noTag) s
      | some (tag, g) =>
        let cells := cellsOf p.pa len data
        let o : OutReq :=
          { rtag := tag, gen := g, dst := pkg, who := .thread t.uid, k := k, epoch := 0, req := .wr cells,
            exp := t.reqTag, sentAt := some s.cycle, resent := false, busyAt := none, pc := t.pc, ins := some i,
            limit := 0, va := p.va, born := s.cycle, fullAt := none }
        let s1 := s.updCore s.core (fun c => { c with reqs := c.reqs ++ [o], gens := mapPut c.gens tag g })
        let m := mcastMsg pkg s.core tag g t.reqTag false n cells sc p.leaf.fe unc t.uid
        if total == 0 then .ok () (s.send m) else .error (.park .reply) (s1.send m)

/-- A source read at one instant (R209, R312): once every piece has been asked for and none waits or faults, the bytes are
those that stand now. -/
def loadShot (l : List (Phys × Nat)) : M Nat := do
  let _ ← loadPieces 0 l
  let s ← get
  l.foldrM (fun e acc =>
    match s.peek s.core e.1 e.2 with
    | some v => pure (v + 2 ^ (8 * e.2) * acc)
    | none => raiseAt 0x13 e.1.va 0) 0

/-- `MCAST` (R209, R312). -/
def mcastWith (i : Instr) (sc : Option Scope) (n : BitVec 6) (a : Sc) (off : Word) (b c : Sc) (s : State) :
    Host.Outcome State Fault Refusal :=
  run i { rd := [a, b, c] } (do
    let x ← rdS a
    let src ← rdS b
    let len ← rdS c
    let dst := x + off
    let s ← get
    let fan := (mapGet (s.pkgAt (pkgOfCore s.core)).fan n.toNat).getD { out := 0, shift := 0, total := 0, valid := false }
    if len == 0 || 4096 < len.toNat || len.toNat % 8 != 0 then raiseAt 0x17 0 2
    else if !fan.valid then raiseAt 0x17 0 1
    else if dst.toNat % 8 != 0 then misaligned dst
    else if src.toNat % 8 != 0 then misaligned src
    else do
      let p ← trans storeA dst
      if !isHbm p.pa then raiseT (walkTrap 0x08 dst.toNat 6 p.leaf.level)
      else do
        let l ← transPieces loadA (pieces src 100 len.toNat)
        fenceAt sc
        let data ← loadShot l
        mcastSend i n.toNat fan.total.toNat sc p len.toNat data
        pure .seq) s

/-- `MCAST`, the 96-bit form (R209, R312). -/
def execMcast (sc : Option Scope) (n : BitVec 6) (a : Sc) (off : BitVec 32) (b c : Sc) (s : State) :
    Host.Outcome State Fault Refusal :=
  mcastWith (.mcast sc n a off b c) sc n a (offVal off) b c s

/-- `MCAST`, the 128-bit form (R209, R312). -/
def execMcast128 (sc : Option Scope) (n : BitVec 6) (a : Sc) (off : BitVec 64) (b c : Sc) (s : State) :
    Host.Outcome State Fault Refusal :=
  mcastWith (.mcast128 sc n a off b c) sc n a off b c s

end Sys2Proof.Machine
end

