-- ==== Sys2Proof/Machine/Matrix.lean ====
section
/-! DEFINITION. The matrix class and the matrix unit (R111 to R126, R316 to R318). -/
namespace Sys2Proof.Machine

/-! ## Operands (R114, R115, R133) -/

/-- The element type of a page's format attribute, or the operand's own type on a raw page (R115). -/
def fmtType (fmt : Nat) (t : ETy) : ETy :=
  match fmt with
  | 1 => .e4m3
  | 2 => .e5m2
  | 3 => .e2m1
  | 4 => .i4
  | 5 => .i8
  | 6 => .tw8
  | 7 => .bf16
  | 8 => .f16
  | _ => t

/-- The formats an operand type accepts (R115). -/
def fmtAccepted (t : ETy) (fmt : Nat) : Bool :=
  match t with
  | .e4m3 => decide (fmt ≤ 5)
  | .e5m2 => decide (fmt ≤ 5)
  | .tw8 => fmt == 0 || fmt == 6
  | _ => fmt == 0 || fmt == 7 || fmt == 8

def mxLine (s : State) (p : Phys) : MxLine :=
  { va := p.va, pa := p.pa, visits := p.visits s.core, unc := p.leaf.home == 3 && isHbm p.pa, base := p.pa - (p.va - p.leaf.vbase), size := p.leaf.size,
    fmt := p.leaf.fmt, blk := p.leaf.blk, soff := p.leaf.soff }

/-- Translates the lines of an operand, in ascending order (R126). -/
def mxLines (x : Access) (va : Word) (lines : Nat) : M (List Phys) :=
  (List.range lines).mapM (fun j => transSpan x (va + BitVec.ofNat 64 (64 * j)) 64)

/-- The lines of an `MMA` operand of 16 × `n` elements; the width comes from the format of its first page. -/
def mmaOperand (va : Word) (t : ETy) (n : Nat) : M (List Phys) := do
  let p ← trans loadA va
  let w := (fmtType p.leaf.fmt t).bits
  mxLines loadA va ((16 * n * w / 8 + 63) / 64)

/-- One accepted format attribute and one block geometry over the operand, or the format fault (R115). -/
def mmaFormat (va : Word) (t : ETy) (l : List Phys) : M Unit :=
  match l with
  | [] => pure ()
  | p :: _ =>
    if fmtAccepted t p.leaf.fmt && l.all (fun q => q.leaf.fmt == p.leaf.fmt && q.leaf.blk == p.leaf.blk) then pure ()
    else raiseAt 0x09 va.toNat 0

/-- The seam check on the first line of an operand (R122). -/
def seamCheck (va : Word) (tag : BitVec 16) (l : List Phys) : M Unit := fun s =>
  match l with
  | [] => .ok () s
  | p :: _ =>
    let f := s.seamAt p.pa
    if f == tag then .ok () s
    else .error (.trap (mkTrap 0x0C va.toNat (f.toNat + 65536 * tag.toNat)) false) s

/-! ## The queue (R111) -/

def mxAccepted : Nat := 7000
def mxFlagged : Nat := 7001

/-- A command takes its place in the queue: last, but among commands accepted in one cycle a lower slot's stands first
(R111). -/
def mxInsert : List MxCmd → MxCmd → List MxCmd
  | [], m => [m]
  | x :: r, m => if x.at_ == m.at_ && decide (m.slot < x.slot) then m :: x :: r else x :: mxInsert r m

/-- Has the queue a free entry (R111)? -/
def Core.mxRoom (c : Core) : Bool :=
  decide (c.mxQ.length + (if c.mxRun.isSome then 1 else 0) < Config.mxQueueSize)

/-- Takes a queue entry, or waits for one (R111). The operands, `km` and the modes are those at issue (log 69). -/
def mxEnqueue (op : MxOp) : M Next := fun s =>
  let t := s.thr
  let c := s.coreAt s.core
  let cmd : MxCmd :=
    { uid := t.uid, slot := slotOfTid s.cur, at_ := s.cycle, exp := t.reqTag, mode := t.mode, inChain := t.chain,
      op := op, early := [] }
  if c.mxRoom && c.mxWait.isEmpty then .ok .seq (s.setCore s.core { c with mxQ := mxInsert c.mxQ cmd })
  else
    .error (.park .mxQueue) (s.setCore s.core { c with mxWait := c.mxWait ++ [(slotOfTid s.cur, cmd)] })

/-- A command instruction: complete once its command is accepted. -/
def mxIssue (i : Instr) (u : Uses) (body : M MxOp) (s : State) : Host.Outcome State Fault Refusal :=
  run i u (do
    let t ← getThr
    if hasMail t mxAccepted then pure .seq
    else do
      let op ← body
      mxEnqueue op) s

/-- `MMA` (R117, R126). -/
def execMma (fa fb : ETy) (seam : Bool) (n : AReg) (a b : Sc) (depth : BitVec 9) (tag : BitVec 16) (k : KReg)
    (s : State) : Host.Outcome State Fault Refusal :=
  mxIssue (.mma fa fb seam n a b depth tag k) { rd := [a, b], krd := [k] } (do
    let x ← rdS a
    let y ← rdS b
    if x.toNat % 64 != 0 then misaligned x
    else if y.toNat % 64 != 0 then misaligned y
    else do
      let la ← mmaOperand x fa depth.toNat
      let lb ← mmaOperand y fb depth.toNat
      mmaFormat x fa la
      mmaFormat y fb lb
      if seam then do
        seamCheck x tag la
        seamCheck y tag lb
      else pure ()
      let t ← getThr
      let m ← rdK k
      let s ← get
      pure (.mma n fa fb (la.map (mxLine s)) (lb.map (mxLine s)) depth.toNat m (winWidth (t.mxctl.toNat % 8))
        (t.mxctl.getLsbD 3))) s

/-- `MXBEG` (R121, R316). -/
def execMxbeg (s : State) : Host.Outcome State Fault Refusal :=
  run .mxbeg {} (do
    let t ← getThr
    if t.chain then raise 0x1E
    else do
      updThr (fun t => { t with chain := true })
      pure .seq) s

/-- `MXEND` (R121, R316). -/
def execMxend (s : State) : Host.Outcome State Fault Refusal :=
  run .mxend {} (do
    let t ← getThr
    if !t.chain then raise 0x1E
    else do
      updThr (fun t => { t with chain := false })
      pure .seq) s

/-- `MXZERO` (R119). -/
def execMxzero (n : AReg) (k : KReg) (s : State) : Host.Outcome State Fault Refusal :=
  mxIssue (.mxzero n k) { krd := [k] } (do
    let m ← rdK k
    pure (.zero n m)) s

/-- Every page of a `MXLD` or `MXST` operand is raw, or the format fault (R119). -/
def rawPages (va : Word) (l : List Phys) : M Unit :=
  if l.all (fun p => p.leaf.fmt == 0) then pure () else raiseAt 0x09 va.toNat 0

/-- `MXLD` (R119, R318). -/
def execMxld (n : AReg) (a : Sc) (k : KReg) (s : State) : Host.Outcome State Fault Refusal :=
  mxIssue (.mxld n a k) { rd := [a], krd := [k] } (do
    let x ← rdS a
    if x.toNat % 64 != 0 then misaligned x
    else do
      let l ← mxLines loadA x 16
      rawPages x l
      let m ← rdK k
      let s ← get
      pure (.load n (l.map (mxLine s)) m)) s

/-- `MXST` (R119, R123, R318). -/
def execMxst (t : ETy) (sat : Bool) (a : Sc) (n : AReg) (k : KReg) (s : State) : Host.Outcome State Fault Refusal :=
  mxIssue (.mxst t sat a n k) { rd := [a], krd := [k] } (do
    let x ← rdS a
    if x.toNat % 64 != 0 then misaligned x
    else do
      let l ← mxLines storeFirst x (256 * t.bits / 512)
      l.forM cowCheck
      rawPages x l
      let s ← get
      if ((s.coreAt s.core).acc.get n).poison then raiseAt 0x13 0 n.val
      else do
        let m ← rdK k
        let th ← getThr
        pure (.store n t sat (l.map (mxLine s)) m (th.mxctl.getLsbD 3))) s

/-- `MXFLG` (R120, R123, R317). -/
def execMxflg (d : KReg) (n : AReg) (s : State) : Host.Outcome State Fault Refusal :=
  run (.mxflg d n) {} (do
    let t ← getThr
    let s ← get
    let c := s.coreAt s.core
    let ahead := c.mxQ.length + (if c.mxRun.isSome then 1 else 0)
    if ahead != 0 && !hasMail t mxFlagged then park (.mxFlag ahead)
    else
      let tile := c.acc.get n
      if tile.poison then raiseAt 0x13 0 n.val
      else do
        wrK d tile.ls
        pure .seq) s

/-- `MXWAIT` (R120, R317). -/
def execMxwait (n : BitVec 4) (s : State) : Host.Outcome State Fault Refusal :=
  run (.mxwait n) {} (do
    let t ← getThr
    let s ← get
    if n.toNat < s.mxOutstanding s.core t.uid then park (.mxWait n.toNat) else pure .seq) s

/-! ## Execution (R106, R115, R117, R119) -/

/-- The bytes of a line as a unit of the core reads it (R150), with its poison; none while it is asked for elsewhere, or
while its router refuses it (R145). -/
def State.unitLine (s : State) (a : Asker) (pa : Nat) (visits : Bool) : State × Option (Nat × Bool) :=
  let line := pa / 64
  let key := visitorKey (dieOfCore a.core) line
  match (if visits then mapGet s.visitors key else none) with
  | some l => (s, some (l.data.toNat, s.poison.contains (visitorPoison key)))
  | none =>
    let keep (s : State) (d : Nat) (bad : Bool) : State :=
      if visits then s.fillVisitor (dieOfCore a.core) line (BitVec.ofNat 512 d) bad else s
    if pkgOfPa pa == pkgOfCore a.core then
      if s.refuses a.core pa then (s, none)
      else
        let d := (s.homeLine line).toNat
        let bad := s.poisoned (line * 64) 64
        ((keep s d bad).powerUp pa, some (d, bad))
    else
      let epoch := if visits then (s.dieAt (dieOfCore a.core)).invEpoch else 0
      match s.ask a line epoch (pkgOfPa pa) (.rd (line * 64) 64) .reply with
      | (s1, .got (.fault _)) => (s1, some (0, true))
      | (s1, .got r) => (keep s1 r.nat false, some (r.nat, false))
      | (s1, .wait _) => (s1, none)

/-- A line read for an operand, with its data and poison. -/
structure MxData where
  ln : MxLine
  data : Nat
  poison : Bool
  deriving DecidableEq, Repr

/-- Replaces the `j`-th 8-byte word of a line. -/
def lineSetWord (d j : Nat) (v : Word) : Nat :=
  d % 2 ^ (64 * j) + v.toNat * 2 ^ (64 * j) + d / 2 ^ (64 * (j + 1)) * 2 ^ (64 * (j + 1))

/-- A line with the words of it that were read early (R148). -/
def overlayWords (early : List (Nat × Word)) (line d : Nat) : Nat :=
  early.foldl (fun d e => if e.1 / 8 == line then lineSetWord d (e.1 % 8) e.2 else d) d

/-- All lines of an operand, when every one has come. -/
def State.unitLines (s : State) (a : Asker) (early : List (Nat × Word)) : List MxLine → State × Option (List MxData)
  | [] => (s, some [])
  | l :: r =>
    match s.unitLine a l.pa l.visits with
    | (s1, none) => ((s1.unitLines a early r).1, none)
    | (s1, some (d, p)) =>
      match s1.unitLines a early r with
      | (s2, some ds) => (s2, some ({ ln := l, data := overlayWords early (l.pa / 64) d, poison := p } :: ds))
      | (s2, none) => (s2, none)

/-- Where the scale byte of an element stands: its physical address, for a page with a scale region (R133). An index beyond
the page's end names the physical byte that follows the page, unchecked: the spec states no fault for it (log 94). -/
def scaleAt (l : MxLine) (w o : Nat) : Option Nat :=
  if l.fmt == 0 || l.fmt == 7 || l.fmt == 8 || l.soff == 0 then none
  else
    let e := ((l.pa - l.base) * 8 + o) / w
    some (l.base + l.size - l.size / 2 ^ l.soff + e / (16 * 2 ^ l.blk))

/-- The lines that hold the scales of an operand. -/
def scaleLines (w : Nat) (l : List MxLine) : List MxLine :=
  l.flatMap (fun m => ((List.range (512 / w)).filterMap (fun j => scaleAt m w (j * w))).map
    (fun pa => { m with pa := pa / 64 * 64 }))

/-- Each line once. -/
def uniqueLines : List MxLine → List MxLine
  | [] => []
  | a :: r => if r.any (fun b => b.pa == a.pa) then uniqueLines r else a :: uniqueLines r

/-- A value times 2^k; a NaN scale makes it NaN (R100). -/
def scaled (v : FVal) (sc : Option Nat) : FVal :=
  match sc with
  | none => v
  | some b =>
    if b == 255 then .nan false
    else match v with
      | .fin n m e => .fin n m (e + b - 127)
      | x => x

/-- Element `e` of an operand: its bits and its scale byte (R114, R115, R133). -/
def operandElem (t : ETy) (ds sd : List MxData) (e : Nat) : Nat × Option Nat :=
  let w := t.bits
  match ds[e * w / 512]? with
  | none => (0, none)
  | some d =>
    let o := e * w % 512
    let sc := match scaleAt d.ln w o with
      | none => none
      | some pa => (sd.find? (fun x => x.ln.pa == pa / 64 * 64)).map (fun x => x.data / 2 ^ (8 * (pa % 64)) % 256)
    (d.data / 2 ^ o % 2 ^ w, sc)

/-- A product, an infinity times zero being NaN (R106). -/
def mxProduct (x y : FVal) : FVal := if zeroTimesInf x y then .nan false else mulVal x y

/-- The terms of one step: one product, or one for each half of a TW8 weight that is not code 7 (R106). -/
def products (tb : ETy) (a : FVal) (b : Nat × Option Nat) : List FVal :=
  if tb == .tw8 then
    let half (s c : Nat) : List FVal :=
      if c == 7 then [] else [mxProduct a (scaled (.fin (s == 1) 1 (-(c : Int))) b.2)]
    let l := half (b.1 / 128 % 2) (b.1 / 16 % 8) ++ half (b.1 / 8 % 2) (b.1 % 8)
    if l.isEmpty then [mxProduct a (scaled (.fin false 0 0) b.2)] else l
  else [mxProduct a (scaled (valOf tb false b.1) b.2)]

/-- The tile after an `MMA` (R117). -/
def mmaTile (tile : Tile) (ta tb : ETy) (depth : Nat) (k : Mask) (win : Nat) (rz : Bool) (pa pb sa sb : List MxData) :
    Tile :=
  let aVal (i e : Nat) : FVal :=
    let x := operandElem ta pa sa (i * depth + e)
    scaled (valOf ta false x.1) x.2
  let el (m : Nat) : Nat × Bool :=
    let i := m / 16
    let j := m % 16
    let acc := valOf .f32 false ((tile.el[m]?).getD 0).toNat
    let ts := (List.range depth).flatMap (fun e => products tb (aVal i e) (operandElem tb pb sb (j * depth + e)))
    let r := winSum (if rz then 1 else 0) win (acc :: ts)
    ((roundEx .f32 (if rz then 1 else 0) false r.1).bits, r.2)
  let res := (List.range 256).map (fun m =>
    if k.getLsbD m then
      let r := el m
      (BitVec.ofNat 32 r.1, tile.ls.getLsbD m || r.2)
    else ((tile.el[m]?).getD 0, tile.ls.getLsbD m))
  { el := Vector.ofFn (fun (m : Fin 256) => ((res[m.val]?).map (fun e => e.1)).getD 0)
    ls := packMask (fun m => ((res[m]?).map (fun e => e.2)).getD false) 256
    poison := tile.poison || (pa ++ pb ++ sa ++ sb).any (fun d => d.poison) }

/-- The tile after `MXZERO` (R119). -/
def zeroTile (tile : Tile) (k : Mask) : Tile :=
  { el := Vector.ofFn (fun (m : Fin 256) => if k.getLsbD m.val then 0 else tile.el.get m)
    ls := tile.ls &&& ~~~k, poison := false }

/-- The tile after `MXLD` (R119, R123). -/
def loadTile (tile : Tile) (k : Mask) (ds : List MxData) : Tile :=
  { el := Vector.ofFn (fun (m : Fin 256) =>
      if k.getLsbD m.val then BitVec.ofNat 32 (operandElem .f32 ds [] m.val).1 else tile.el.get m)
    ls := tile.ls &&& ~~~k
    poison := (ds.zip (List.range ds.length)).any (fun e =>
      e.1.poison && (List.range 16).any (fun j => k.getLsbD (16 * e.2 + j))) }

/-- The bytes `MXST` writes, by line (R119). -/
def storeTile (tile : Tile) (t : ETy) (sat : Bool) (k : Mask) (rz : Bool) (l : List MxLine) :
    List (Nat × List Host.Cell) :=
  let per := 512 / t.bits
  (l.zip (List.range l.length)).map (fun e =>
    (e.2, (List.range per).flatMap (fun j =>
      let m := e.2 * per + j
      if k.getLsbD m then
        let v := (roundEx t (if rz then 1 else 0) sat (valOf .f32 false ((tile.el[m]?).getD 0).toNat).toEx).bits
        cellsOf (e.1.pa + j * t.bits / 8) (t.bits / 8) v
      else [])))

def mxAsker (s : State) (core : Nat) (cmd : MxCmd) : Asker :=
  { who := .matrix core, core := core, mail := (s.coreAt core).mxMail, exp := cmd.exp, limit := 0, pc := 0, ins := none }

/-- The type an `MMA` operand is read as (R115). -/
def opType (l : List MxLine) (t : ETy) : ETy := match l with
  | m :: _ => fmtType m.fmt t
  | [] => t

/-- The running command's work once its operands are there. -/
def State.mxWork (s : State) (core : Nat) (cmd : MxCmd) : State × Option MxRun :=
  let a := mxAsker s core cmd
  let early := cmd.early
  let acc (n : AReg) : Tile := (s.coreAt core).acc.get n
  let ready (tile : Option (AReg × Tile)) (cells : List (Nat × List Host.Cell)) : Option MxRun :=
    some { cmd := cmd, tile := tile, cells := cells, done := true }
  match cmd.op with
  | .zero n k => (s, ready (some (n, zeroTile (acc n) k)) [])
  | .load n l k =>
    match s.unitLines a early l with
    | (s1, some ds) => (s1, ready (some (n, loadTile (acc n) k ds)) [])
    | (s1, none) => (s1, none)
  | .store n t sat l k rz => (s, ready none (if (acc n).poison then [] else storeTile (acc n) t sat k rz l))
  | .mma n fa fb la lb depth k win rz =>
    let ta := opType la fa
    let tb := opType lb fb
    match s.unitLines a early la with
    | (s1, none) => (s1, none)
    | (s1, some pa) =>
      match s1.unitLines a early lb with
      | (s2, none) => (s2, none)
      | (s2, some pb) =>
        match s2.unitLines a early (uniqueLines (scaleLines ta.bits la)) with
        | (s3, none) => (s3, none)
        | (s3, some sa) =>
          match s3.unitLines a early (uniqueLines (scaleLines tb.bits lb)) with
          | (s4, none) => (s4, none)
          | (s4, some sb) => (s4, ready (some (n, mmaTile (acc n) ta tb depth k win rz pa pb sa sb)) [])

/-- MATRIX_COMMAND_ACCEPT: waiting commands take the free queue entries, in their order (R111). -/
def doMatrixAccept (core : Nat) (s : State) : State :=
  let rec go : Nat → State → State
    | 0, s => s
    | n + 1, s =>
      let c := s.coreAt core
      match c.mxWait with
      | [] => s
      | (_, cmd) :: rest =>
        if c.mxRoom then
          let s1 := s.setCore core { c with mxWait := rest, mxQ := mxInsert c.mxQ { cmd with at_ := s.cycle } }
          go n (match s1.tidOf cmd.uid with
            | some tid => s1.updThread tid (fun t =>
                if t.park == some .mxQueue then { t with mail := t.mail ++ [okMail mxAccepted], park := none } else t)
            | none => s1)
        else s
  go (s.coreAt core).mxWait.length s

/-- The unit starts its next command when none runs. -/
def State.mxStart (s : State) (core : Nat) : State :=
  let c := s.coreAt core
  match c.mxRun, c.mxQ with
  | none, cmd :: rest =>
    s.setCore core
      { c with mxQ := rest, mxRun := some { cmd := cmd, tile := none, cells := [], done := false } }
  | _, _ => s

/-- MATRIX_COMMAND_EXECUTE: the unit starts the next command when none runs, and reads its operands (R117). -/
def doMatrixExecute (core : Nat) (s : State) : State :=
  let s1 := s.mxStart core
  match (s1.coreAt core).mxRun with
  | none => s1
  | some r =>
    if r.done then s1
    else
      match s1.mxWork core r.cmd with
      | (s2, some r) => s2.updCore core (fun c => { c with mxRun := some r })
      | (s2, none) => s2

/-- The lines that a command reads. -/
def MxOp.reads : MxOp → List MxLine
  | .mma _ fa fb la lb _ _ _ _ => la ++ lb ++ scaleLines (opType la fa).bits la ++ scaleLines (opType lb fb).bits lb
  | .load _ l _ => l
  | _ => []

/-- An 8-byte word of a line as a unit of the core can read it now: in the die's visitor line, at a home of its package
that takes the read, or at another home to which the line's read is on its way. -/
def State.unitWord (s : State) (a : Asker) (m : MxLine) (w : Nat) : Option Word :=
  let line := w / 8
  let req : Req := .rd (line * 64) 64
  match (if m.visits then mapGet s.visitors (visitorKey (dieOfCore a.core) line) else none) with
  | some l => some (BitVec.ofNat 64 (lineRead l.data (w % 8 * 8) 8))
  | none =>
    if (pkgOfPa m.pa == pkgOfCore a.core && !s.refuses a.core m.pa) ||
        (s.coreAt a.core).reqs.any (fun r => r.who == a.who && r.req == req) then
      some (BitVec.ofNat 64 (s.readN (w * 8) 8))
    else none

/-- A matrix command with a word of its operands read now, if the word is one of them and has not been read. -/
def State.readEarly (s : State) (core pa : Nat) (cmd : MxCmd) : MxCmd :=
  if cmd.early.any (fun e => e.1 == pa / 8) then cmd
  else
    match cmd.op.reads.find? (fun m => m.pa / 64 == pa / 64) with
    | none => cmd
    | some m =>
      match s.unitWord (mxAsker s core cmd) m (pa / 8) with
      | some v => { cmd with early := cmd.early ++ [(pa / 8, v)] }
      | none => cmd

/-- A command's function applied to the one in place `n` of a queue. -/
def mapAt {α : Type} (f : α → α) : Nat → List α → List α
  | _, [] => []
  | 0, x :: r => f x :: r
  | n + 1, x :: r => x :: mapAt f n r

/-- An accepted matrix command, the running one being number 0, reads one 8-byte word of its operands now: each word at an
instant of its own from acceptance to completion (R116, R148, R259). -/
def doMatrixRead (core n pa : Nat) (s : State) : State :=
  let s1 := s.mxStart core
  s1.updCore core (fun c =>
    match c.mxRun, n with
    | some r, 0 => if r.done then c else { c with mxRun := some { r with cmd := s1.readEarly core pa r.cmd } }
    | some _, m + 1 => { c with mxQ := mapAt (s1.readEarly core pa) m c.mxQ }
    | none, m => { c with mxQ := mapAt (s1.readEarly core pa) m c.mxQ })

/-- A unit's write as its home takes it: with the mark of an uncached page, or the seam tag that a line of local store
takes (R122, R131). -/
def unitReq (unc : Bool) (seam : BitVec 16) (pa : Nat) (r : Req) : Req :=
  if unc then .unc r else if isLs pa && seam != 0 then .seam seam r else r

/-- Bytes a unit of a core writes into one line: its die's visitor line or the home (R150). The answer is none while
the line or the acknowledgement is awaited. A whole line is not fetched first. -/
def State.unitWrite (s : State) (a : Asker) (k : Nat) (pa : Nat) (visits unc : Bool) (seam : BitVec 16)
    (cells : List Host.Cell) : State × Option (Option Trap) :=
  let line := pa / 64
  let key := visitorKey (dieOfCore a.core) line
  if cells.isEmpty then (s, some none)
  else if visits then
    match (if cells.length == 64 then (s, some (0, false)) else s.unitLine a pa true) with
    | (s1, none) => (s1, none)
    | (s1, some (d, bad)) =>
      if bad && cells.length != 64 then (s1, some (some (mkTrap 0x13 0 0)))
      else
        let l := (mapGet s1.visitors key).getD { data := BitVec.ofNat 512 d, dirty := 0 }
        ({ s1 with
           visitors := mapPut s1.visitors key (vlineCells l cells)
           poison := setDel s1.poison (visitorPoison key) }, some none)
  else
    match s.ask a k 0 (pkgOfPa pa) (unitReq unc seam pa (.wr cells)) .reply with
    | (s1, .got (.fault t)) => (s1, some (some t))
    | (s1, .got _) => (s1, some none)
    | (s1, .wait _) => (s1, none)

/-- Counts a completed or dropped command for the threads in `MXFLG` (R120). -/
def State.mxPassed (s : State) (core : Nat) : State :=
  (s.coreThreads core).foldl (fun s e =>
    match e.2.park with
    | some (.mxFlag n) =>
      if n ≤ 1 then s.setThread e.1 { e.2 with mail := e.2.mail ++ [okMail mxFlagged], park := none }
      else s.setThread e.1 { e.2 with park := some (.mxFlag (n - 1)) }
    | _ => s) s

/-- The writes of an `MXST`, line after line: the lines that a wait leaves over. A write that its home refuses for good
ends them (log 70). -/
def State.mxWrites (s : State) (core : Nat) (cmd : MxCmd) (l : List MxLine) :
    List (Nat × List Host.Cell) → State × List (Nat × List Host.Cell)
  | [] => (s, [])
  | (j, cells) :: r =>
    match l[j]? with
    | none => s.mxWrites core cmd l r
    | some m =>
      match s.unitWrite (mxAsker s core cmd) (2 ^ 50 + j) m.pa m.visits m.unc 0 cells with
      | (s1, some none) => s1.mxWrites core cmd l r
      | (s1, some (some _)) => (s1, [])
      | (s1, none) => (s1, (j, cells) :: r)

/-- MATRIX_COMMAND_COMPLETE: the command writes its tile or its bytes, and its entry frees (R111, R119). -/
def doMatrixComplete (core : Nat) (s : State) : State :=
  match (s.coreAt core).mxRun with
  | none => s
  | some r =>
    if !r.done then s
    else
      let finish (s : State) : State :=
        ((s.updCore core (fun c =>
          { c with mxRun := none, mxMail := [], acc := match r.tile with
            | some (n, t) => c.acc.set n t
            | none => c.acc })).mxPassed core).progress core
      match r.cmd.op with
      | .store n _ _ l _ _ =>
        if ((s.coreAt core).acc.get n).poison then finish s
        else
          match s.mxWrites core r.cmd l r.cells with
          | (s1, []) => finish s1
          | (s1, rest) => s1.updCore core (fun c => { c with mxRun := some { r with cells := rest } })
      | _ => finish s

/-- `MATRIX_COMMAND_ACCEPT`. -/
def execMatrixCommandAccept (core : Nat) (s : State) : Host.Outcome State Fault Refusal := event (doMatrixAccept core) s
/-- `MATRIX_COMMAND_EXECUTE`. -/
def execMatrixCommandExecute (core : Nat) (s : State) : Host.Outcome State Fault Refusal := event (doMatrixExecute core) s
/-- `MATRIX_COMMAND_COMPLETE`. -/
def execMatrixCommandComplete (core : Nat) (s : State) : Host.Outcome State Fault Refusal := event (doMatrixComplete core) s

/-- The wave at a core's matrix unit: queued commands of the tag are dropped, a running `MMA` stops (R125). -/
def State.mxDrop (s : State) (core : Nat) (tag : Tag) : State :=
  let c := s.coreAt core
  let gone (m : MxCmd) : Bool := m.exp == tag
  let s1 := match c.mxRun with
    | some r =>
      (match r.cmd.op with
       | .mma _ _ _ _ _ _ _ _ _ => if gone r.cmd then (s.setCore core { c with mxRun := none, mxMail := [] }).mxPassed core else s
       | _ => s)
    | none => s
  let runs := if (s1.coreAt core).mxRun.isSome then 1 else 0
  let drops := ((c.mxQ.zip (List.range c.mxQ.length)).filter (fun e => gone e.1)).map (fun e => e.2 + runs)
  let s2 := s1.updCore core (fun c => { c with mxQ := c.mxQ.filter (fun m => !gone m),
                                               mxWait := c.mxWait.filter (fun m => !gone m.2) })
  (s2.coreThreads core).foldl (fun s e =>
    match e.2.park with
    | some (.mxFlag n) =>
      let k := (drops.filter (fun d => decide (d < n))).length
      if k == 0 then s
      else if n ≤ k then s.setThread e.1 { e.2 with mail := e.2.mail ++ [okMail mxFlagged], park := none }
      else s.setThread e.1 { e.2 with park := some (.mxFlag (n - k)) }
    | _ => s) s2

end Sys2Proof.Machine
end

