-- ==== Sys2Proof/Machine/ThreadEnd.lean ====
section
/-! DEFINITION. How a thread ends: by `HALT` or by annulment (R51, R179, R195, R301). -/
namespace Sys2Proof.Machine

/-- The departures of a thread from the barriers it belongs to (R53, R54): at once in its own package, by message to a
barrier's home elsewhere, under the tag given (R192). -/
def State.departAll (s : State) (core uid : Nat) (tag : Tag) : State :=
  (s.barriers.filter (fun e => e.2.members.contains uid)).foldl (fun s e =>
    let home := keyHome e.1
    if home == pkgOfCore core then s.depart e.1 uid
    else
      let hub := pkgOfCore core * 8192 + 2047
      match s.request hub home (.hub (pkgOfCore core)) 0 0 (.bar e.1 uid .leave) tag 0 0 none 2 0 with
      | some s1 => s1
      | none => s.depart e.1 uid) s

/-- Bits set in a quad's events; they outlast a clear of the same cycle (R174). -/
def State.setEvents (s : State) (q : Nat) (m : Mask) : State :=
  s.updQuad q (fun x =>
    { x with events := x.events ||| m, evSet := (if x.evAt == s.cycle then x.evSet else 0) ||| m, evAt := s.cycle })

/-- Bits cleared in a quad's events, but for those set in this cycle (R174). -/
def State.clearEvents (s : State) (q : Nat) (m : Mask) : State :=
  s.updQuad q (fun x => { x with events := x.events &&& ~~~(m &&& ~~~(if x.evAt == s.cycle then x.evSet else 0)) })

/-- A task's thread has ended: its queue entry frees, and its set mask applies unless it was annulled (R179). -/
def State.endTask (s : State) (t : Thread) (applySet : Bool) : State :=
  match t.task with
  | none => s
  | some (q, serial) =>
    let x := s.quadAt q
    match x.tasks.find? (fun k => k.serial == serial) with
    | none => s
    | some k =>
      let s1 := s.setQuad q { x with tasks := x.tasks.filter (fun k => k.serial != serial) }
      if applySet then s1.setEvents q k.ks else s1

/-- The spawns that a target has parked are served again, in their order (R48). -/
def Core.serveParked (c : Core) : Core := { c with mqIn := c.mqIn ++ c.parked, parked := [] }

/-- A slot has become free: parked spawns are served again, and the time of an empty handler slot is taken (R39, R48). -/
def State.slotFreed (s : State) (core slot : Nat) : State :=
  s.updCore core (fun c => { c.serveParked with emptied := c.emptied.setIfInBounds slot s.cycle })

/-- The last thread of a core has left, and no reservation stands: the local store powers down; it then reads
as zero with every word empty (R51). -/
def State.storeDown (s : State) (core : Nat) : State :=
  if (s.coreThreads core).isEmpty && (s.coreAt core).keep.isNone then
    (s.emptyStore core 0 (65536 * (s.coreAt core).csplit)).updCore core (fun c => { c with lsOn := false })
  else s

/-! ## Registers that come back to a core's pool (R70) -/

/-- Registers added to an allotment read as zero and are full (R67, R70). -/
def Thread.grow (t : Thread) (n : Nat) : Thread :=
  let fresh (j : Nat) : Bool := decide (t.alot ≤ j) && decide (j < t.alot + n)
  let m : BitVec 64 := BitVec.ofNat 64 ((2 ^ n - 1) * 2 ^ t.alot)
  { t with
    v := Vector.ofFn (fun (j : Fin 64) => if fresh j.val then 0 else t.v.get j)
    vFull := t.vFull ||| m, vPend := t.vPend &&& ~~~m, vPoison := t.vPoison &&& ~~~m, alot := t.alot + n }

/-- The queued `GROW.wait` of a thread has its registers: the instruction completes when it issues again. -/
def Thread.granted (t : Thread) (n : Nat) : Thread :=
  { t.grow n with mail := t.mail ++ [{ k := growGranted, epoch := 0, req := .wr [], rep := .val n }], park := none }

/-- Registers of a core have come back, or the head of its queue has left: heads that the pool can serve now get theirs, in
their order (R70). -/
def State.grantGrow (s : State) (core : Nat) : State :=
  let rec go : Nat → State → State
    | 0, s => s
    | k + 1, s =>
      match (s.coreAt core).growQ with
      | [] => s
      | u :: rest =>
        match (s.tidOf u).bind (fun tid => (s.thread? tid).map (fun t => (tid, t))) with
        | some (tid, t) =>
          (match t.park with
           | some (.grow n) =>
             if n ≤ s.poolFree core then
               go k ((s.updCore core (fun c => { c with growQ := rest })).setThread tid (t.granted n))
             else s
           | _ => s)
        | none => s
  go (s.coreAt core).growQ.length s

/-- Fills that wait for a register of a slot whose thread ends are refused (R323). -/
def State.refuseFills (s : State) (core slot : Nat) : State :=
  let here (w : Waiter) : Bool := w.refusedAt.isNone && (match w.req with
    | .rfill c (some x) _ _ _ => s.forwardCore c == core && x == slot
    | _ => false)
  (s.retry.filter here).foldl (fun s w => s.answer w.req.homePkg w (.fault (mkTrap 0x17 0 2)))
    { s with retry := s.retry.filter (fun w => !here w) }

/-- `EndThread` (R301). `annul`: the end of the unpick wave and of the management core, which applies no set
mask and withdraws what the thread waits for (R195, R226); its departures carry tag 0, since the routers drop its own. -/
def State.endThread (s : State) (tid : Nat) (annul : Bool) : State :=
  match s.thread? tid with
  | none => s
  | some t =>
    let core := coreOfTid tid
    let q := quadOfCore core
    let s1 := if annul then s.withdraw t.uid else s
    let s2 := (s1.departAll core t.uid (if annul || t.trapent then 0 else t.ex)).refuseFills core (slotOfTid tid)
    let s3 := (s2.updCore core (fun c => { c with growQ := setDel c.growQ t.uid })).updQuad q
      (fun x => { x with posts := setDel x.posts t.uid })
    let s4 := s3.endTask t (!annul)
    let s5 : State := { s4 with threads := mapDel s4.threads tid }
    (((s5.slotFreed core (slotOfTid tid)).storeDown core)).grantGrow core

/-- Ends a thread that runs, or marks it to end at its `TRACK` while TRAPENT is set; a thread in the
double-fault state keeps its state (R195). -/
def State.annul (s : State) (tid : Nat) : State :=
  match s.thread? tid with
  | none => s
  | some t =>
    if t.df then s
    else if t.trapent then s.setThread tid { t with doomed := true }
    else s.endThread tid true

end Sys2Proof.Machine
end

