-- ==== Sys2Proof/Machine/ThreadOps.lean ====
section
/-! DEFINITION. The thread class: spawns, tasks, events, migration, allotment, barriers, the slot table and remote
fills (R37, R47 to R55, R70, R71, R174 to R177, R272, R313, R322, R328, R330, R333). -/
namespace Sys2Proof.Machine

/-- A core id of R47: a core of the pod. -/
def coreIdOk (s : State) (v : Word) : Bool :=
  decide (v.toNat < 2 ^ 20) && decide (v.toNat % 2048 < Config.coresPerDie) && (s.pkgAt (v.toNat / 8192)).member

/-- Is the core in the partition of the thread's core? -/
def samePartition (s : State) (core : Nat) : Bool :=
  (s.partOfCore core).isSome && s.partOfCore core == s.partOfCore s.core

/-- The answer of the one request that an instruction makes, when it has come: a fault is taken. The request may name the
core from which it was made, which a displacement changes (R60). -/
def answered (f : Req → Bool) : M Bool := fun s =>
  match s.thr.mail.find? (fun m => f m.req && m.rep != .refused) with
  | some m =>
    (match m.rep with
     | .fault t => .error (.trap t false) s
     | _ => .ok true s)
  | none => .ok false s

/-- `SPAWN` (R47, R48, R330): a release at `.pod`, then the request; a refusal is SPAWN_REFUSED's. -/
def execSpawn (a b : Sc) (s : State) : Host.Outcome State Fault Refusal :=
  run (.spawn a b) { rd := [a, b, .g 0, .g 1, .g 2, .g 3] } (do
    let x ← rdS a
    let pc ← rdS b
    let s ← get
    if ← answered (fun r => match r with | .spawn _ _ _ _ _ => true | _ => false) then pure .seq
    else if !coreIdOk s x || pc.toNat % 4 != 0 || !samePartition s x.toNat then raise 0x1F
    else do
      waitAcks
      let g ← [0, 1, 2, 3].mapM (fun n => rdS (.g n))
      let _ ← rpcFor 0 0 (pkgOfCore x.toNat) (.spawn x.toNat s.core pc s.thr.reqTag g) 0 .spawn
      pure .seq) s

/-! ## Tasks (R176, R177, R333) -/

def taskRead : Nat := 7100

/-- The record of a task as it was read at issue: entry point, priority and arguments. -/
def taskRecord (va : Word) : M (Word × Nat × List Word) := do
  let t ← getThr
  match t.mail.find? (fun m => m.k == taskRead) with
  | some m =>
    match m.req with
    | .spawn _ _ pc _ g => pure (pc, m.rep.nat, g)
    | _ => pure (0, 0, [])
  | none => do
    let p ← transSpan loadA va 64
    let x ← loadN 0 p 64
    let f (o n : Nat) : Nat := x / 2 ^ (8 * o) % 2 ^ (8 * n)
    if f 0 8 % 4 != 0 || 3 < f 40 1 || f 41 23 != 0 then raise 0x1F
    else
      pure (BitVec.ofNat 64 (f 0 8), f 40 1, (List.range 4).map (fun j => BitVec.ofNat 64 (f (8 + 8 * j) 8)))

/-- The record once read stays with its post (R333). -/
def keepRecord (r : Word × Nat × List Word) : M Unit := updThr (fun t =>
  if hasMail t taskRead then t
  else
    let m : Mail := { k := taskRead, epoch := 0, req := .spawn 0 0 r.1 0 r.2.2, rep := .val r.2.1 }
    { t with mail := m :: t.mail })

/-- Does a post of the thread find a free entry? Parked posts come first, in their order (R177). -/
def Quad.takesPost (q : Quad) (uid : Nat) : Bool :=
  let free := Config.taskQueueSize - q.tasks.length
  if q.posts.contains uid then q.posts.head? == some uid && decide (0 < free) else decide (q.posts.length < free)

/-- `TASK` (R176, R177, R333). -/
def execTask (wait : Bool) (d a : Sc) (off : BitVec 32) (kw ks : KReg) (s : State) :
    Host.Outcome State Fault Refusal :=
  run (.task wait d a off kw ks) { dst := some d, rd := [a], krd := [kw, ks] } (do
    let x ← rdS a
    let va := x + offVal off
    if va.toNat % 64 != 0 then misaligned va
    else do
      let r ← taskRecord va
      keepRecord r
      waitAcks
      let w ← rdK kw
      let set ← rdK ks
      let s ← get
      let t := s.thr
      let qn := quadOfCore s.core
      let q := s.quadAt qn
      if q.takesPost t.uid then do
        let k : Task := { serial := q.nextTask, pc := r.1, args := r.2.2, pri := r.2.1, kw := w, ks := set,
                          exp := t.reqTag, run := none, since := s.cycle }
        modify (fun s => s.setQuad qn { q with tasks := q.tasks ++ [k], nextTask := q.nextTask + 1,
                                               posts := setDel q.posts t.uid })
        wrS d 1
        pure .seq
      else if wait then
        match t.park with
        | some (.task since) =>
          if s.postTimedOut t since then do
            modify (fun s => s.updQuad qn (fun q => { q with posts := setDel q.posts t.uid }))
            throw (.trap (mkTrap 0x0B va.toNat 0) true)
          else park (.task since)
        | _ => do
          modify (fun s => s.updQuad qn (fun q =>
            if q.posts.contains t.uid then q else { q with posts := q.posts ++ [t.uid] }))
          park (.task s.cycle)
      else do
        wrS d 0
        pure .seq) s

/-! ## Events (R174, R175, R286) -/

/-- Bits set by a thread whose earlier stores are not all acknowledged are noted until they are: a set is a release (R155,
R286; log 73). -/
def State.oweEvents (s : State) (m : Mask) : State :=
  let t := s.thr
  if t.stores.isEmpty then s
  else s.updQuad (quadOfCore s.core) (fun q => { q with later := q.later ++ [{ uid := t.uid, mask := m, stores := t.stores }] })

/-- Notes whose stores are acknowledged, or whose thread has ended, fall away (R155). -/
def State.settleEvents (s : State) (qn : Nat) : State :=
  if (s.quadAt qn).later.isEmpty then s
  else
    s.updQuad qn (fun q => { q with later := q.later.filter (fun e =>
      match s.tidOf e.uid with
      | some tid => ((s.thread? tid).map (fun x => e.stores.any (fun y => x.stores.contains y))).getD false
      | none => false) })

/-- `EVSET` (R175, R286): the bits are set at once. -/
def execEvset (a : KReg) (s : State) : Host.Outcome State Fault Refusal :=
  run (.evset a) { krd := [a] } (do
    let m ← rdK a
    modify (fun s => (s.setEvents (quadOfCore s.core) m).oweEvents m)
    pure .seq) s

/-- `EVCLR` (R175, R286): the bits are cleared at once. -/
def execEvclr (a : KReg) (s : State) : Host.Outcome State Fault Refusal :=
  run (.evclr a) { krd := [a] } (do
    let m ← rdK a
    modify (fun s => s.clearEvents (quadOfCore s.core) m)
    pure .seq) s

/-- A marker left with a thread whose `EVWAIT` condition held at the end of a cycle. -/
def evMet : Nat := 7200

/-- `EVWAIT` (R174, R175): the condition is that of the events at the end of a cycle, the last one or one in which the
thread has waited. An acquire, it goes on once the earlier stores of those who set its bits are acknowledged (R155). -/
def execEvwait (a : KReg) (s : State) : Host.Outcome State Fault Refusal :=
  run (.evwait a) { krd := [a] } (do
    let m ← rdK a
    let s ← get
    if m == 0 || hasMail s.thr evMet || (s.quadAt (quadOfCore s.core)).shown &&& m == m then do
      if s.eventsOwed s.core s.thr m then do
        updThr (fun t => if hasMail t evMet then t else { t with mail := okMail evMet :: t.mail })
        park (.owed m)
      else do
        acquired
        pure .seq
    else park (.event m)) s

/-! ## Migration (R49, R50, R313) -/

/-- What a migration carries (R49, R80, R313). -/
def Thread.migrCtx (t : Thread) : MigrCtx :=
  { uid := t.uid, g := t.g, gFull := t.gFull, pc := t.pc + 8, mode := t.mode, trapent := t.trapent, pmode := t.pmode,
    idepth := t.idepth, ex := t.ex, fcsr := t.fcsr, task := t.task }

/-- `MIGR` (R49, R50, R313). -/
def execMigr (a : Sc) (s : State) : Host.Outcome State Fault Refusal :=
  run (.migr a) { rd := [a] } (do
    let x ← rdS a
    let p ← trans loadA x
    let s ← get
    let t := s.thr
    let bad : Trap := walkTrap 0x08 x.toNat 6 p.leaf.level
    if t.alot != 0 then raise 0x0E
    else
      match homeCore p.pa with
      | none => raiseT bad
      | some h =>
        if !samePartition s h then raiseT bad
        else if t.trapent || h == s.core then pure .seq
        else do
          waitAcks
          if s.mxOutstanding s.core t.uid != 0 then park .quiesce
          else if t.gPend != 0 || t.vPend != 0 then park .quiesce
          else do
            updThr (fun t => { t with chain := false })
            if ← answered (fun r => match r with | .migr _ _ _ => true | _ => false) then pure .seq
            else do
              let _ ← rpcFor 0 0 (pkgOfCore h) (.migr h s.core t.migrCtx) 0 (.migr false)
              pure .seq) s

/-! ## Allotment (R70, R71, R299, R327) -/

/-- `GROW` of `n` registers (R70); a queued one whose registers have come completes. -/
def growBy (i : Instr) (wait : Bool) (d : Sc) (rd : List Sc) (n : M Word) (s : State) :
    Host.Outcome State Fault Refusal :=
  run i { dst := some d, rd := rd } (do
    let n ← n
    let n := n.toNat
    let s ← get
    let t := s.thr
    let c := s.coreAt s.core
    if hasMail t growGranted then do
      wrS d (BitVec.ofNat 64 t.alot)
      pure .seq
    else if n == 0 || n % 8 != 0 || 64 < t.alot + n then raise 0x04
    else
      let turn := match c.growQ with
        | u :: _ => u == t.uid
        | [] => true
      if n ≤ s.poolFree s.core && turn then do
        modify (fun s => s.updCore s.core (fun c => { c with growQ := setDel c.growQ t.uid }))
        updThr (fun t => t.grow n)
        wrS d (BitVec.ofNat 64 (t.alot + n))
        modify (fun s => s.grantGrow s.core)
        pure .seq
      else if wait then do
        modify (fun s => s.updCore s.core (fun c =>
          if c.growQ.contains t.uid then c else { c with growQ := c.growQ ++ [t.uid] }))
        park (.grow n)
      else do
        wrS d 0
        pure .seq) s

/-- `GROW` with an immediate (R70). -/
def execGrow (wait : Bool) (d : Sc) (n : BitVec 27) (s : State) : Host.Outcome State Fault Refusal :=
  growBy (.grow wait d n) wait d [] (pure (offVal n)) s

/-- `GROW` with a register (R70). -/
def execGrowReg (wait : Bool) (d b : Sc) (s : State) : Host.Outcome State Fault Refusal :=
  growBy (.growReg wait d b) wait d [b] (rdS b) s

/-- A copy command whose register has been released: its fill is discarded (R327). -/
def CpCmd.released (uid alot : Nat) (m : CpCmd) : CpCmd :=
  match m.op with
  | .rfv v _ => if m.uid == uid && decide (alot ≤ v.val) then { m with drop := true } else m
  | _ => m

/-- The core's copy channel forgets fills toward registers that a thread has released (R327). -/
def Core.releaseFills (c : Core) (uid alot : Nat) : Core :=
  { c with
    cpQ := c.cpQ.map (fun m => m.released uid alot)
    cpRun := c.cpRun.map (fun r => { r with cmd := r.cmd.released uid alot })
    cpWait := c.cpWait.map (fun e => (e.1, e.2.released uid alot)) }

/-- `SHRINK` by `n` registers (R71, R327). -/
def shrinkBy (i : Instr) (d : Sc) (rd : List Sc) (n : M Word) (s : State) : Host.Outcome State Fault Refusal :=
  run i { dst := some d, rd := rd } (do
    let n ← n
    let n := n.toNat
    let t ← getThr
    if n == 0 || n % 8 != 0 || t.alot < n then raise 0x04
    else
      let left := t.alot - n
      if t.ports.any (fun e => decide (left ≤ e.1) && decide (e.1 < t.alot)) then raise 0x04
      else do
        let m : BitVec 64 := BitVec.ofNat 64 (2 ^ left - 1)
        updThr (fun t => { t with alot := left, vPend := t.vPend &&& m })
        modify (fun s => (s.updCore s.core (fun c => c.releaseFills t.uid left)).grantGrow s.core)
        wrS d (BitVec.ofNat 64 left)
        pure .seq) s

/-- `SHRINK` with an immediate (R71). -/
def execShrink (d : Sc) (n : BitVec 27) (s : State) : Host.Outcome State Fault Refusal :=
  shrinkBy (.shrink d n) d [] (pure (offVal n)) s

/-- `SHRINK` with a register (R71). -/
def execShrinkReg (d b : Sc) (s : State) : Host.Outcome State Fault Refusal :=
  shrinkBy (.shrinkReg d b) d [b] (rdS b) s

/-! ## Barriers (R53 to R55, R272 to R274) -/

/-- The barrier that a scope and id name where the thread runs, with its home package; a package or pod id that is not
assigned to the thread's partition is misuse (R54, R274). -/
def State.barrierOf (s : State) (sc : Scope) (id : Nat) : Except Trap (Nat × Nat) :=
  let core := s.core
  let pkg := pkgOfCore core
  let bad : Except Trap (Nat × Nat) := .error (mkTrap 0x14 0 0)
  match sc with
  | .core => .ok (barKey .core core id, pkg)
  | .quad => .ok (barKey .quad (quadOfCore core) id, pkg)
  | .die => .ok (barKey .die (dieOfCore core) id, pkg)
  | .pkg =>
    match mapGet (s.pkgAt pkg).pkgBars id with
    | some p => if s.partOfCore core == some p then .ok (barKey .pkg pkg id, pkg) else bad
    | none => bad
  | .pod =>
    match mapGet (s.pkgAt pkg).podBars id with
    | some (p, home) => if s.partOfCore core == some p then .ok (barKey .pod home id, home) else bad
    | none => bad

/-- The barrier of a scope and id that a member means: the one where it runs, or the one it joined before a displacement or
a migration took it elsewhere, where its membership stays (R60, R272). -/
def State.memberBarrier (s : State) (sc : Scope) (id : Nat) : Except Trap (Nat × Nat) :=
  let uid := s.thr.uid
  let here := s.barrierOf sc id
  let joined := match here with
    | .ok (key, _) => (s.barrierAt key).members.contains uid
    | .error _ => false
  match (if joined then none
    else s.barriers.find? (fun e => keyScope e.1 == scopeCode sc && e.1 % 16 == id && e.2.members.contains uid)) with
  | some e => .ok (e.1, keyHome e.1)
  | none => here

/-- `BAR` (R53, R54, R273): the arrival is a release, and its answer comes when the phase completes. -/
def execBar (sc : Scope) (id : BitVec 4) (s : State) : Host.Outcome State Fault Refusal :=
  run (.bar sc id) {} (do
    let s ← get
    if ← answered (fun r => match r with | .bar _ _ .arrive => true | _ => false) then do
      acquired
      pure .seq
    else do
      let (key, home) ← ofExcept (s.memberBarrier sc id.toNat)
      waitAcks
      let _ ← rpcFor 0 0 home (.bar key s.thr.uid .arrive) 0 (.barrier key)
      acquired
      pure .seq) s

/-- `BJOIN` (R53, R54, R272). -/
def execBjoin (sc : Scope) (id : BitVec 4) (b : Sc) (s : State) : Host.Outcome State Fault Refusal :=
  let counts := sc == .die || sc == .pkg || sc == .pod
  run (.bjoin sc id b) { rd := if counts then [b] else [] } (do
    let x ← rdS b
    let s ← get
    let (key, home) ← ofExcept (s.barrierOf sc id.toNat)
    let _ ← rpc 0 home (.bar key s.thr.uid (.join (if counts then some (x.toNat % 2 ^ 32) else none))) 0
    pure .seq) s

/-- `BLEAVE` (R53, R54, R272): the departure takes effect when it issues, at a home of another package too. -/
def execBleave (sc : Scope) (id : BitVec 4) (s : State) : Host.Outcome State Fault Refusal :=
  run (.bleave sc id) {} (do
    let s ← get
    let (key, _) ← ofExcept (s.memberBarrier sc id.toNat)
    if !(s.barrierAt key).members.contains s.thr.uid then raise 0x14
    else do
      modify (fun s => s.depart key s.thr.uid)
      pure .seq) s

/-! ## The slot table (R35, R37, R328) -/

/-- Slot of an enabled entry of a slot-table image. -/
def imageEntry (im : BitVec 128) (e : Nat) : Option Nat :=
  let v := (im.toNat >>> (4 * e)) % 16
  if 8 ≤ v then some (v % 8) else none

/-- The two conditions on a staged image (R37). -/
def imageOk (im : BitVec 128) (ovh : Nat) : Bool :=
  (List.range 32).all (fun e => (List.range 32).all (fun f =>
    !(decide (e < f) && (imageEntry im e).isSome && imageEntry im e == imageEntry im f) ||
      (decide (8 ≤ f - e) && decide (8 ≤ 32 - (f - e))))) &&
  (List.range 32).any (fun e => imageEntry im e == some ovh)

/-- `SLOTW` (R37, R328). -/
def execSlotw (a b : Sc) (s : State) : Host.Outcome State Fault Refusal :=
  run (.slotw a b) { rd := [a, b], priv := true } (do
    let x ← rdS a
    let y ← rdS b
    let s ← get
    let im : BitVec 128 := y ++ x
    let c := s.coreAt s.core
    if !imageOk im c.ovh then raise 0x1C
    else do
      let now := (s.barrierAt (barKey .core s.core 0)).members.isEmpty
      modify (fun s => s.setCore s.core
        (if now then { c with slotTab := im, staged := none, due := none } else { c with staged := some im }))
      pure .seq) s

/-! ## Remote fills (R322, R323) -/

/-- Writes of a core that have landed are put into its registers (R42). -/
def State.landC (s : State) (core : Nat) : State :=
  s.updCore core (fun c =>
    let l := c.cWrites.filter (landed s.cycle)
    l.foldl (fun c w => match w.v with
        | some v => { c with c := c.c.set w.n v, cFull := setBit c.cFull w.n.val, cPoison := clrBit c.cPoison w.n.val }
        | none => { c with cFull := clrBit c.cFull w.n.val })
      { c with cWrites := c.cWrites.filter (fun w => !landed s.cycle w) })

/-- Fills that wait for a shared register of the core to become empty are served where it has (R42, R323). -/
def State.examineC (s : State) (core : Nat) : State :=
  ((s.coreAt core).cWrites.filter (fun w => w.v.isNone && landed s.cycle w)).foldl (fun s w =>
    s.examine (2 ^ 60 + (core * 16 + 8) * 16 + w.n.val)) s

/-- A register of a slot's thread becomes empty, and a fill that waits for this is served; a shared register empties as a
write of it lands (R42, R66). -/
def State.emptyReg (s : State) (core slot : Nat) (r : Sc) : State :=
  match r with
  | .g n =>
    (s.updThread (core * 8 + slot) (fun t => { t with gFull := clrBit t.gFull n.val })).examine
      (2 ^ 60 + (core * 16 + slot) * 16 + n.val)
  | .c n =>
    s.changeC core { n := n, v := none, issued := s.cycle, fill := false }
  | _ => s

/-- `RFILL`, the arm form (R322). -/
def execRfillArm (d : Sc) (s : State) : Host.Outcome State Fault Refusal :=
  run (.rfillArm d) { dst := some d } (do
    modify (fun s => s.emptyReg s.core (slotOfTid s.cur) d)
    pure .seq) s

/-- `RFILL`, the send form (R322, R323). -/
def execRfillSend (wait : Bool) (a b c : Sc) (s : State) : Host.Outcome State Fault Refusal :=
  run (.rfillSend wait a b c) { rd := [a, b, c] } (do
    let x ← rdS a
    let r ← rdS b
    let v ← rdS c
    let s ← get
    let reg := r.toNat / 8 % 64
    let slot := r.toNat % 8
    if !coreIdOk s x || !samePartition s x.toNat then raise 0x1F
    else if 512 ≤ r.toNat || 31 < reg || (16 ≤ reg && slot != 0) then raiseAt 0x17 0 1
    else do
      waitAcks
      let _ ← rpc 0 (pkgOfCore x.toNat)
        (.rfill x.toNat (if reg < 16 then some slot else none) (reg % 16) v wait) 0
      pure .seq) s

end Sys2Proof.Machine
end

