-- ==== Sys2Proof/Machine/Copy.lean ====
section
/-! DEFINITION. The copy channel: `CPY`, `CPGB`, `KVAPP`, `CPWAIT`, and the channel's own steps (R137 to R146,
R284, R304, R305). -/
namespace Sys2Proof.Machine

/-! ## Issue (R137 to R140) -/

/-- The scope of a command: `.core` when ACQ or REL is set without one (R155). -/
def cmdScope (acq rel : Bool) (sc : Option Scope) : Option Scope :=
  if acq || rel then some (sc.getD .core) else none

/-- Record word +0, checked as a full/empty store (R140). -/
def recordAt (va : Word) : M Phys := trans { wr := true, fe := true } va

/-- A marker left with the thread when the channel has accepted its command. -/
def cpAccepted : Nat := 7002

/-- The register a fill goes to (R141), unless it has been released (R327). -/
def CpCmd.fillOf (m : CpCmd) : Option (Sum Sc VReg) :=
  if m.drop then none
  else match m.op with
  | .rfg r _ => some (.inl r)
  | .rfv v _ => some (.inr v)
  | _ => none

/-- The commands of a channel that are accepted and not completed. -/
def Core.cpAll (c : Core) : List CpCmd :=
  (match c.cpRun with
   | some r => [r.cmd]
   | none => []) ++ c.cpQ

/-- Is a delivery to a register of the thread outstanding? `c` registers belong to every thread of the core. -/
def Core.fillPends (c : Core) (uid : Nat) (r : Sum Sc VReg) : Bool :=
  c.cpAll.any (fun m => m.fillOf == some r &&
    (match r with
     | .inl (.c _) => true
     | _ => m.uid == uid))

/-- A thread, wherever it stands. -/
def State.updUid (s : State) (uid : Nat) (f : Thread → Thread) : State :=
  match s.tidOf uid with
  | some tid => s.updThread tid f
  | none => s

/-- The pending marks of a register follow the deliveries that are outstanding. -/
def State.markPend (s : State) (core uid : Nat) (r : Sum Sc VReg) : State :=
  let b := (s.coreAt core).fillPends uid r
  let put {w : Nat} (x : BitVec w) (n : Nat) : BitVec w := if b then setBit x n else clrBit x n
  match r with
  | .inl (.g n) => s.updUid uid (fun t => { t with gPend := put t.gPend n.val })
  | .inl (.c n) => s.updCore core (fun c => { c with cPend := put c.cPend n.val })
  | .inl _ => s
  | .inr v => s.updUid uid (fun t => { t with vPend := put t.vPend v.val })

/-- Record words written at their home, `unc` on an uncached page, and in the die's visitor line of the record (R150);
waiters on them are examined (R164). -/
def State.recordWrite (s : State) (core pa n v : Nat) (unc : Bool) : State :=
  let s1 := (s.dropDirs (.wr (cellsOf pa n v))).homeWrite pa n v
  ((if unc then s1.flushSpan pa n else s1).patchVisitor (dieOfCore core) pa n v).examineSpan pa n

/-- A command takes its place in the queue: last, but among commands accepted in one cycle a lower slot's stands first
(R137). -/
def cpInsert : List CpCmd → CpCmd → List CpCmd
  | [], m => [m]
  | x :: r, m => if x.at_ == m.at_ && decide (m.slot < x.slot) then m :: x :: r else x :: cpInsert r m

/-- A command is accepted: it takes a queue entry, word +0 of its record empties, and a register that it
fills empties (R138, R141). -/
def State.cpAccept (s : State) (core : Nat) (cmd : CpCmd) : State :=
  let s1 := ((s.updCore core (fun c => { c with cpQ := cpInsert c.cpQ { cmd with at_ := s.cycle } })).setTag cmd.record false).examine
    (cmd.record / 8)
  match cmd.fillOf with
  | some (.inl r) => (s1.emptyReg core cmd.slot r).markPend core cmd.uid (.inl r)
  | some (.inr v) =>
    (s1.updUid cmd.uid (fun t => { t with vFull := clrBit t.vFull v.val })).markPend core cmd.uid (.inr v)
  | none => s1

/-- Has the queue a free entry? The running command holds its own (log 74). -/
def Core.cpRoom (c : Core) : Bool := decide (c.cpAll.length < Config.cpQueueSize)

/-- Takes a queue entry, or waits for one (R137). -/
def cpEnqueue (acq rel : Bool) (sc : Option Scope) (rec : Phys) (op : CpOp) : M Next := fun s =>
  let t := s.thr
  let c := s.coreAt s.core
  let cmd : CpCmd := { uid := t.uid, slot := slotOfTid s.cur, at_ := s.cycle, exp := t.reqTag, mode := t.mode, record := rec.pa,
                       recUnc := rec.leaf.home == 3 && isHbm rec.pa, acq := acq, rel := rel, sc := cmdScope acq rel sc,
                       limit := t.syncl.toNat, drop := false, op := op }
  if c.cpRoom && c.cpWait.isEmpty then .ok .seq (s.cpAccept s.core cmd)
  else .error (.park .cpQueue) (s.setCore s.core { c with cpWait := c.cpWait ++ [(slotOfTid s.cur, cmd)] })

/-- A command instruction: complete once its command is accepted. A release first waits for the thread's own
stores (R155). -/
def cpIssue (i : Instr) (u : Uses) (acq rel : Bool) (sc : Option Scope) (body : M (Phys × CpOp)) (s : State) :
    Host.Outcome State Fault Refusal :=
  run i u (do
    let t ← getThr
    if hasMail t cpAccepted then pure .seq
    else do
      let (rec, op) ← body
      if rel then waitAcks else pure ()
      cpEnqueue acq rel sc rec op) s

/-- `CPY` (R139 to R141, R284). -/
def execCpy (op : CpyOp) (t : Option ETy) (acq rel : Bool) (sc : Option Scope) (d a b c : Sc) (tag : BitVec 16)
    (s : State) : Host.Outcome State Fault Refusal :=
  cpIssue (.cpy op t acq rel sc d a b c tag) { rd := [d, a, b, c] } acq rel sc (do
    let dst ← rdS d
    let src ← rdS a
    let n ← rdS b
    let r ← rdS c
    let atomic := t.isSome
    if r.toNat % 32 != 0 then misaligned r
    else if atomic && dst.toNat % 64 != 0 then misaligned dst
    else if atomic && src.toNat % 64 != 0 then misaligned src
    else do
      let p ← recordAt r
      if n == 0 || 2 ^ 32 < n.toNat || (atomic && n.toNat % 64 != 0) then commandFault 0
      else
        match t with
        | some t => pure (p, .atomic op t dst.toNat src.toNat n.toNat tag)
        | none => pure (p, .cpy dst.toNat src.toNat n.toNat tag)) s

/-- `CPY.rfg` (R141). -/
def execCpyRfg (acq : Bool) (sc : Option Scope) (d a c : Sc) (s : State) : Host.Outcome State Fault Refusal :=
  cpIssue (.cpyRfg acq sc d a c) { dst := some d, rd := [a, c] } acq false sc (do
    let src ← rdS a
    let r ← rdS c
    if r.toNat % 32 != 0 then misaligned r
    else do
      let p ← recordAt r
      pure (p, .rfg d src.toNat)) s

/-- `CPY.rfv` (R141, R284). -/
def execCpyRfv (acq : Bool) (sc : Option Scope) (d : VReg) (a c : Sc) (s : State) : Host.Outcome State Fault Refusal :=
  cpIssue (.cpyRfv acq sc d a c) { rd := [a, c], vs := [d] } acq false sc (do
    let src ← rdS a
    let r ← rdS c
    let t ← getThr
    if r.toNat % 32 != 0 then misaligned r
    else if src.toNat % 64 != 0 then misaligned src
    else do
      let p ← recordAt r
      match t.port? d with
      | some q =>
        if q.receives then portMisuse
        else do
          if q.kind == 1 then let _ ← linearValid q
          pure (p, .rfv d src.toNat)
      | none => pure (p, .rfv d src.toNat)) s

/-- Field of `n` bytes at offset `o` of a descriptor. -/
def descField (x o n : Nat) : Nat := x / 2 ^ (8 * o) % 2 ^ (8 * n)

/-- `CPGB` (R140, R142, R284). -/
def execCpgb (acq rel : Bool) (sc : Option Scope) (d a c : Sc) (tag : BitVec 16) (s : State) :
    Host.Outcome State Fault Refusal :=
  cpIssue (.cpgb acq rel sc d a c tag) { rd := [d, a, c] } acq rel sc (do
    let dst ← rdS d
    let desc ← rdS a
    let r ← rdS c
    if r.toNat % 32 != 0 then misaligned r
    else if desc.toNat % 32 != 0 then misaligned desc
    else do
      let q ← transSpan loadA desc 32
      let p ← recordAt r
      let x ← loadN 0 q 32
      let count := descField x 16 4
      let bsh := descField x 20 1
      if count == 0 || 2 ^ 20 < count || bsh < 6 || 26 < bsh || descField x 21 11 != 0 then commandFault 0
      else pure (p, .cpgb dst.toNat (descField x 0 8) (descField x 8 8) count bsh tag)) s

/-- `KVAPP` (R143, R304). -/
def execKvapp (acq rel : Bool) (sc : Option Scope) (a b c : Sc) (s : State) : Host.Outcome State Fault Refusal :=
  cpIssue (.kvapp acq rel sc a b c) { rd := [a, b, c] } acq rel sc (do
    let desc ← rdS a
    let src ← rdS b
    let r ← rdS c
    if desc.toNat % 64 != 0 then misaligned desc
    else if r.toNat % 32 != 0 then misaligned r
    else do
      let q ← transSpan loadA desc 64
      let p ← recordAt r
      let x ← loadN 0 q 64
      let f := descField x
      let new := f 36 4
      let bsh := f 40 1
      let esh := f 41 1
      if new == 0 || 65535 < new || bsh < 6 || 26 < bsh || esh < 6 || bsh < esh || f 42 22 != 0 then commandFault 0
      else pure (p, .kvapp desc.toNat (f 0 8) (f 8 8) (f 16 8) (f 24 8) (f 32 4) new bsh esh src.toNat)) s

/-- `CPWAIT` (R144): waits for the record word at its home and leaves it full. -/
def execCpwait (d a : Sc) (s : State) : Host.Outcome State Fault Refusal :=
  run (.cpwait d a) { dst := some d, rd := [a] } (do
    let x ← rdS a
    if x.toNat % 32 != 0 then misaligned x
    else do
      let p ← trans { rd := true, fe := true } x
      waitOverlap p.pa 8
      let r ← rpc 0 (pkgOfPa p.pa) ((Req.feLd .wf p.pa 8).at_ p) p.va
      acquired
      wrS d (BitVec.ofNat 64 r.nat)
      pure .seq) s

/-! ## The channel's accesses -/

/-- A part of a command: its value, or a wait (`none`), or the fault that ends the command. -/
abbrev CpM := EStateM (Option Trap) State

def cpAsker (s : State) (core : Nat) (cmd : CpCmd) : Asker :=
  { who := .channel core, core := core, mail := (s.coreAt core).cpMail, exp := cmd.exp, limit := cmd.limit, pc := 0, ins := none }

/-- A request of the channel. Answers that changed the home are kept until the step ends. -/
def cpAskFor (core : Nat) (cmd : CpCmd) (k epoch : Nat) (req : Req) (va : Nat) : CpM Reply := fun s =>
  match s.ask { cpAsker s core cmd with va := va } k epoch req.homePkg req .reply with
  | (s1, .wait _) => .error none s1
  | (s1, .got (.fault t)) => .error (some { t with addr := if t.cause == 0x17 then 0 else BitVec.ofNat 64 va }) s1
  | (s1, .got r) =>
    match req with
    | .rd _ _ => .ok r s1
    | _ =>
      let m : Mail := { k := k, epoch := epoch, req := req, rep := r }
      .ok r (s1.updCore core (fun c => { c with cpMail := m :: c.cpMail.filter (fun m => !(m.k == k && m.req == req)) }))

def cpAsk (core : Nat) (cmd : CpCmd) (k : Nat) (req : Req) (va : Nat) : CpM Reply := cpAskFor core cmd k 0 req va

def cpTrans (core : Nat) (cmd : CpCmd) (x : Access) (va : Word) : CpM Phys := fun s =>
  match s.translate core cmd.mode x va with
  | .ok p => .ok p s
  | .error t => .error (some t) s

/-- Translates `n` bytes of one line, which may pass the end of a maintenance block (R129). -/
def cpTransSpan (core : Nat) (cmd : CpCmd) (x : Access) (va : Word) (n : Nat) : CpM Phys := do
  let p ← cpTrans core cmd x va
  match placeOf p.pa with
  | .tmb _ o => do
    if 32 < o + n then
      let _ ← cpTrans core cmd x (va + BitVec.ofNat 64 (32 - o))
    pure p
  | _ => pure p

def cpFault {α : Type} (t : Trap) : CpM α := throw (some t)

/-- Bytes of one line as the channel reads them, by page home (R150). -/
def cpPiece (core : Nat) (cmd : CpCmd) (p : Phys) (n : Nat) : CpM Nat := do
  let s ← get
  let line := p.pa / 64
  let die := dieOfCore core
  if p.visits core then
    let l ← match mapGet s.visitors (visitorKey die line) with
      | some l => pure l
      | none => do
        let far := pkgOfPa p.pa != pkgOfCore core
        let d ← if far then do
            let r ← cpAskFor core cmd line (s.dieAt die).invEpoch (.rd (line * 64) 64) p.va
            pure (BitVec.ofNat 512 r.nat)
          else pure (s.homeLine line)
        modify (fun s => s.fillVisitor die line d (!far && s.poisoned (line * 64) 64))
        pure { data := d, dirty := 0 }
    let s ← get
    if s.poison.contains (visitorPoison (visitorKey die line)) then cpFault (mkTrap 0x13 p.va 0)
    else pure (lineRead l.data (p.pa % 64) n)
  else do
    let r ← cpAsk core cmd line (.rd p.pa n) p.va
    pure r.nat

/-- Pieces of a span read in ascending order. -/
def cpPieces (core : Nat) (cmd : CpCmd) : List (Word × Nat) → CpM Nat
  | [] => pure 0
  | (va, n) :: r => do
    let p ← cpTransSpan core cmd loadA va n
    let a ← cpPiece core cmd p n
    let b ← cpPieces core cmd r
    pure (a + 2 ^ (8 * n) * b)

def cpRead (core : Nat) (cmd : CpCmd) (va n : Nat) : CpM Nat :=
  cpPieces core cmd (pieces (BitVec.ofNat 64 va) (n + 1) n)

/-- Bytes in one line written by the channel; a line of local store takes the tag with the write (R122, R141). -/
def cpPut (core : Nat) (cmd : CpCmd) (p : Phys) (n v : Nat) (seam : BitVec 16) : CpM Unit := fun s =>
  if s.refuses core p.pa then .error none s
  else
    match s.unitWrite { cpAsker s core cmd with va := p.va } (2 ^ 50 + p.pa) p.pa (p.visits core) (p.leaf.home == 3 && isHbm p.pa)
        seam (cellsOf p.pa n v) with
    | (s1, none) => .error none s1
    | (s1, some (some t)) => .error (some { t with addr := BitVec.ofNat 64 p.va }) s1
    | (s1, some none) => .ok () s1

/-- A span written by the channel, every piece checked first. -/
def cpWrite (core : Nat) (cmd : CpCmd) (va n v : Nat) (seam : BitVec 16) : CpM Unit := do
  let ps ← (pieces (BitVec.ofNat 64 va) (n + 1) n).mapM (fun e => do
    let p ← cpTransSpan core cmd storeA e.1 e.2
    pure (p, e.2))
  let _ ← ps.foldlM (fun (o : Nat) (e : Phys × Nat) => do
    cpPut core cmd e.1 e.2 (v / 2 ^ (8 * o) % 2 ^ (8 * e.2)) seam
    pure (o + e.2)) 0
  pure ()

/-! ## One line or one part of a unit (R141 to R143) -/

def CpRun.ended (r : CpRun) (status cause detail : Nat) : CpRun := { r with status := some (status, cause, detail) }

/-- Bytes of the destination line that holds byte `pos` of a destination at `dst`, up to `total`. -/
def lineLen (dst pos total : Nat) : Nat := Nat.min (64 - (dst + pos) % 64) (total - pos)

/-- `n` more bytes of the destination line are written; PROGRESS counts the lines that are complete. -/
def CpRun.advance (r : CpRun) (dst n total : Nat) : CpRun :=
  { r with pos := r.pos + n
           progress := if (dst + r.pos + n) % 64 == 0 || r.pos + n == total then r.progress + 1 else r.progress }

/-- One line copied: `src` gives the bytes. -/
def cpCopyLine (core : Nat) (r : CpRun) (dst total : Nat) (src : Nat → CpM Nat) (seam : BitVec 16) : CpM CpRun := do
  let n := lineLen dst r.pos total
  let v ← src n
  cpWrite core r.cmd (dst + r.pos) n v seam
  pure (r.advance dst n total)

/-- Done when every destination byte is written. -/
def CpRun.doneAt (r : CpRun) (total : Nat) : CpRun := if r.pos == total then r.ended 1 0 0 else r

/-- A line of a channel atomic: one action at the line's home; a line of local store takes the tag (R122, R141). -/
def cpAtomicLine (core : Nat) (r : CpRun) (op : CpyOp) (t : ETy) (dst src size : Nat) (seam : BitVec 16) : CpM CpRun := do
  let v ← cpRead core r.cmd (src + r.pos) 64
  let p ← cpTransSpan core r.cmd amoA (BitVec.ofNat 64 (dst + r.pos)) 64
  let s ← get
  if s.refuses core p.pa then throw none
  else do
    let _ ← cpAsk core r.cmd (2 ^ 50 + p.pa)
      (unitReq (p.leaf.home == 3 && isHbm p.pa) seam p.pa (.line op t p.pa (bytesOf 64 v))) p.va
    modify (fun s => s.patchFrom core p.pa 64)
    pure ((r.advance dst 64 size).doneAt size)

/-- Hole code of a block-table entry (R142). -/
def holeBlock : Nat := 0x7FFFFFFF

/-- Bytes of block `j` of a gather from offset `o`; the entry is read when the walk reaches it (R142). -/
def cpBlockBytes (core : Nat) (r : CpRun) (table pool bsh j o n : Nat) : CpM (Nat × CpRun) := do
  let t ← match (if r.entry == j + 1 then r.tmp else none) with
    | some t => pure t
    | none => cpRead core r.cmd (table + 4 * j) 4
  let b := t % 2 ^ 31
  let v ← if b == holeBlock then pure 0 else cpRead core r.cmd (pool + b * 2 ^ bsh + o) n
  pure (v, { r with entry := j + 1, tmp := some t })

/-- A line of `CPGB`, which may take bytes of two blocks (R142). -/
def cpGatherLine (core : Nat) (r : CpRun) (dst table pool count bsh : Nat) (seam : BitVec 16) : CpM CpRun := do
  let total := count * 2 ^ bsh
  let n := lineLen dst r.pos total
  let j := r.pos / 2 ^ bsh
  let o := r.pos % 2 ^ bsh
  let n1 := Nat.min n (2 ^ bsh - o)
  let (v1, r1) ← cpBlockBytes core r table pool bsh j o n1
  let (v, r2) ← if n1 == n then pure (v1, r1) else do
    let (v2, r2) ← cpBlockBytes core r1 table pool bsh (j + 1) 0 (n - n1)
    pure (v1 + 2 ^ (8 * n1) * v2, r2)
  cpWrite core r.cmd (dst + r.pos) n v seam
  pure ((r2.advance dst n total).doneAt total)

/-- `PopFree` at the ring's home (R143): a header read with HEAD = TAIL ends the command; else it names the entry, and
the action is taken only if HEAD is still the same. A ring may stand at any address: its header is the 16 bytes at the
physical address of its first byte, no alignment being stated, and a SIZE of 0 takes entry 0 (log 94). -/
def cpPopFree (core : Nat) (r : CpRun) (ring : Nat) : CpM (Option Nat) := do
  let p ← cpTransSpan core r.cmd amoA (BitVec.ofNat 64 ring) 16
  let h ← cpAsk core r.cmd (2 ^ 51) (.rd p.pa 16) p.va
  let head := descField h.nat 0 4
  let size := descField h.nat 8 4
  if head == descField h.nat 4 4 then cpFault (mkTrap 0x17 0 0)
  else do
    let ea := ring + 16 + 4 * (if size == 0 then 0 else head % size)
    let e ← cpTrans core r.cmd loadA (BitVec.ofNat 64 ea)
    let b ← cpAsk core r.cmd (2 ^ 51 + 1) ((Req.popFree p.pa head e.pa).at_ p) p.va
    match b with
    | .val v => do
      modify (fun s => s.patchFrom core p.pa 4)
      pure (some v)
    | _ => pure none

/-- One part of an append (R143): 0 reads the table entry, 1 pops, 2 sets the count, 3 copies the shared block,
4 rewrites the entry, 5 lowers the old count, 9 reads the block, 10 copies the new entry line by line. -/
def cpAppend (core : Nat) (r : CpRun) (desc table pool ring refc len new bsh esh src : Nat) : CpM CpRun := do
  let bs := 2 ^ bsh
  let es := 2 ^ esh
  let at_ := len + r.entry
  let bi := at_ / 2 ^ (bsh - esh)
  let slot := at_ % 2 ^ (bsh - esh)
  let te := table + 4 * bi
  let t := r.tmp.getD 0
  let b := r.popped.getD 0
  match r.phase with
  | 0 =>
    if r.entry == new then do
      cpWrite core r.cmd (desc + 32) 4 ((len + new) % 2 ^ 32) 0
      pure (r.ended 1 0 0)
    else do
      let t ← cpRead core r.cmd te 4
      pure { r with tmp := some t, phase := if t % 2 ^ 31 == holeBlock || t / 2 ^ 31 == 1 then 1 else 9, pos := 0 }
  | 1 => do
    match ← cpPopFree core r ring with
    | some v => pure { r with popped := some v, phase := 2 }
    | none => pure r
  | 2 => do
    cpWrite core r.cmd (refc + 4 * b) 4 1 0
    pure { r with phase := if t % 2 ^ 31 == holeBlock then 4 else 3, pos := 0 }
  | 3 =>
    if r.pos == slot * es then pure { r with phase := 4 }
    else do
      let from_ := pool + t % 2 ^ 31 * bs
      let r1 ← cpCopyLine core r (pool + b * bs) (slot * es) (fun n => cpRead core r.cmd (from_ + r.pos) n) 0
      pure { r1 with progress := r.progress }
  | 4 => do
    cpWrite core r.cmd te 4 b 0
    let hole := t % 2 ^ 31 == holeBlock
    pure { r with phase := if hole then 9 else 5, popped := if hole then none else r.popped }
  | 5 => do
    let va := refc + 4 * (t % 2 ^ 31)
    if va % 4 != 0 then cpFault (mkTrap 0x06 va 0)
    else do
      let p ← cpTrans core r.cmd amoA (BitVec.ofNat 64 va)
      let _ ← cpAsk core r.cmd (2 ^ 51 + 2) ((Req.amo .add false p.pa 4 (2 ^ 32 - 1)).at_ p) p.va
      modify (fun s => s.patchFrom core p.pa 4)
      pure { r with phase := 9, popped := none }
  | 9 => do
    let t ← cpRead core r.cmd te 4
    pure { r with tmp := some (t % 2 ^ 31), phase := 10, pos := 0 }
  | _ => do
    let dst := pool + t * bs + slot * es
    let r1 ← cpCopyLine core r dst es (fun n => cpRead core r.cmd (src + r.entry * es + r.pos) n) 0
    if r1.pos == es then pure { r1 with entry := r.entry + 1, phase := 0, pos := 0 } else pure r1

/-- Is an append inside a unit (R143)? It is from the pop on. -/
def CpRun.inUnit (r : CpRun) (popSent : Bool) : Bool :=
  match r.cmd.op with
  | .kvapp _ _ _ _ _ _ _ _ _ _ => r.popped.isSome || (r.phase == 1 && popSent)
  | _ => false

/-- The port that a fill's vector register is bound to: its delivery is a push (R182). -/
def State.fillPort (s : State) (cmd : CpCmd) (v : VReg) : Option Port :=
  if cmd.drop then none else ((s.tidOf cmd.uid).bind s.thread?).bind (fun t => t.port? v)

def State.setFillPort (s : State) (cmd : CpCmd) (v : VReg) (p : Port) : State :=
  s.updUid cmd.uid (fun t => { t with ports := mapPut t.ports v.val p })

/-- A request of the channel on a word of a full/empty page; what it writes goes into the die's visitor line too (R150). -/
def cpFe (core : Nat) (cmd : CpCmd) (k : Nat) (x : Access) (va : Nat) (req : Nat → Req) : CpM Reply := do
  let p ← cpTrans core cmd { x with fe := true } (BitVec.ofNat 64 va)
  let r ← cpAsk core cmd k ((req p.pa).at_ p) p.va
  if (req p.pa).writes then modify (fun s => s.patchFrom core p.pa 8)
  pure r

/-- The acquire of a ring push drops the peg's bound lines from the die (R160, R186). -/
def cpBound (core : Nat) (cmd : CpCmd) (k va : Nat) : CpM Unit := do
  let p ← cpTrans core cmd { loadA with fe := true } (BitVec.ofNat 64 va)
  match ← cpAsk core cmd k (.bindGet p.pa) p.va with
  | .peg _ ranges =>
    modify (fun s => (ranges.flatMap (fun r => rangeRuns r.1 r.2)).foldl (fun s e =>
      match s.translate core cmd.mode loadA (BitVec.ofNat 64 (e.1 * 64)) with
      | .ok q => (List.range e.2).foldl (fun s j => s.dropVisitor (dieOfCore core) (q.pa / 64 + j)) s
      | .error _ => s) s)
  | _ => pure ()

/-- The delivery of a `.rfv` fill to a sending port (R182 to R186): into its chain queue, to memory, or, in three steps,
by a ring producer's protocol, whose wait for room `syncl` limits. -/
def cpPush (core : Nat) (r : CpRun) (v : VReg) (p : Port) : CpM CpRun := do
  let s ← get
  let done := r.ended 1 0 0
  match p.kind with
  | 1 =>
    let l := p.ty.lanes
    if p.count ≤ p.m * l then cpFault (mkTrap 0x0D 0 1)
    else do
      let n := Nat.min l (p.count - p.m * l) * p.ty.bits / 8
      cpWrite core r.cmd (linearAddr p).toNat n (r.fill % 2 ^ (8 * n)) 0
      modify (fun s => s.setFillPort r.cmd v { p with m := p.m + 1 })
      pure done
  | 3 => do
    let sz ← cpRead core r.cmd (p.base + 16) 8
    match r.phase with
    | 1 => do
      let t ← cpFe core r.cmd (2 ^ 52) amoA p.base (fun pa => .amo .add false pa 8 1)
      pure { r with tmp := some t.nat, phase := 2 }
    | _ => do
      let t := r.tmp.getD 0
      if sz ≤ t then
        let _ ← cpFe core r.cmd (2 ^ 52 + 1) loadA (p.base + 8) (fun pa => .peg pa (t - sz + 1))
        cpBound core r.cmd (2 ^ 52 + 3) (p.base + 8)
      let slot := (ringSlot p.base sz t).toNat
      if r.phase == 2 then do
        cpWrite core r.cmd (slot + 64) 256 r.fill 0
        pure { r with phase := 3 }
      else do
        let _ ← cpFe core r.cmd (2 ^ 52 + 2) storeA slot (fun pa => .feSt .sf pa 8 t)
        pure done
  | _ =>
    let q := chainKey core (p.kind == 4)
    let l := (mapGet s.chains q).getD []
    if 4 ≤ l.length then throw none
    else do
      modify (fun s => { s with chains := mapPut s.chains q (l ++ [BitVec.ofNat 2048 r.fill]) })
      pure done

/-- The next step of the running command. -/
def cpStep (core : Nat) (r : CpRun) : CpM CpRun :=
  match r.cmd.op with
  | .cpy dst src size seam => do
    let r1 ← cpCopyLine core r dst size (fun n => cpRead core r.cmd (src + r.pos) n) seam
    pure (r1.doneAt size)
  | .atomic op t dst src size seam => cpAtomicLine core r op t dst src size seam
  | .rfg _ src => do
    let v ← cpRead core r.cmd src 8
    pure { r.ended 1 0 0 with fill := v }
  | .rfv d src => do
    let s ← get
    match s.fillPort r.cmd d with
    | none => do
      let v ← cpRead core r.cmd src 256
      pure { r.ended 1 0 0 with fill := v }
    | some p =>
      if r.phase == 0 then do
        let v ← cpRead core r.cmd src 256
        pure { r with fill := v, phase := 1 }
      else cpPush core r d p
  | .cpgb dst table pool count bsh seam => cpGatherLine core r dst table pool count bsh seam
  | .kvapp desc table pool ring refc len new bsh esh src => cpAppend core r desc table pool ring refc len new bsh esh src

/-- A fault ends the command; inside a unit DETAIL holds the popped block (R140, R143). -/
def CpRun.faulted (r : CpRun) (t : Trap) : CpRun :=
  r.ended 3 t.cause (match r.popped with
    | some b => b
    | none => t.addr.toNat)

def newRun (cmd : CpCmd) : CpRun :=
  { cmd := cmd, progress := 0, pos := 0, entry := 0, tmp := none, popped := none, phase := 0, fill := 0, status := none,
    deferred := false, annul := false }

/-! ## Events of the channel -/

/-- COPY_COMMAND_ACCEPT: waiting commands take the free entries, in their order (R137). -/
def doCopyAccept (core : Nat) (s : State) : State :=
  let rec go : Nat → State → State
    | 0, s => s
    | n + 1, s =>
      let c := s.coreAt core
      match c.cpWait with
      | [] => s
      | (_, cmd) :: rest =>
        if c.cpRoom then
          let s1 := (s.setCore core { c with cpWait := rest }).cpAccept core cmd
          go n (match s1.tidOf cmd.uid with
            | some tid => s1.updThread tid (fun t =>
                if t.park == some .cpQueue then { t with mail := t.mail ++ [okMail cpAccepted], park := none } else t)
            | none => s1)
        else s
  go (s.coreAt core).cpWait.length s

/-- Is a request of the channel on its way: in the fabric, in a home's list, or with a handler? -/
def State.cpSent (s : State) (core : Nat) : Bool :=
  let mine (m : MqMsg) : Bool := m.who == .channel core
  (s.coreAt core).reqs.any (fun o => o.who == .channel core) || s.retry.any (fun w => w.who == .channel core) ||
    s.cores.any (fun e => e.2.mqIn.any mine || e.2.mqOut.any (fun x => mine x.msg) || e.2.parked.any mine)

/-- Has the running command left the line or unit boundary that it stands at (R143, R232)? -/
def State.cpMidway (s : State) (core : Nat) (r : CpRun) : Bool :=
  r.status.isNone && !r.deferred && (r.inUnit (s.cpSent core) || s.cpSent core || !(s.coreAt core).cpMail.isEmpty)

/-- May the channel take its command further: in RUN, and in HALTING up to the next boundary (R232)? -/
def State.cpGoes (s : State) (core : Nat) (r : CpRun) : Bool :=
  s.coreRuns core ||
  (match s.partOfCore core with
   | some p => (s.partAt p).st == .halting && s.cpMidway core r
   | none => false)

/-- COPY_COMMAND_EXECUTE: the channel of a core in RUN starts its next command, or takes the running one one line
or one part of a unit further (R137, R141 to R143). An annulled command whose next line cannot go on ends (R146). -/
def doCopyExecute (core : Nat) (s : State) : State :=
  let c := s.coreAt core
  match c.cpRun with
  | none =>
    match c.cpQ with
    | [] => s
    | cmd :: rest =>
      if s.coreRuns core then
        (s.setCore core { c with cpQ := rest, cpRun := some (newRun cmd), cpMail := [] }).progress core
      else s
  | some r =>
    if r.status.isSome || r.deferred || !s.cpGoes core r then s
    else
      match cpStep core r s with
      | .ok r1 s1 =>
        let r2 := if r1.annul && !r1.inUnit false && r1.status.isNone then r1.ended 2 0 0 else r1
        (s1.updCore core (fun c => { c with cpRun := some r2, cpMail := [] })).progress core
      | .error none s1 =>
        if r.annul && !s1.cpSent core && !r.inUnit false then
          s1.updCore core (fun c => { c with cpRun := some (r.ended 2 0 0), cpMail := [] })
        else s1
      | .error (some t) s1 => s1.updCore core (fun c => { c with cpRun := some (r.faulted t), cpMail := [] })

/-- The register of a fill is written and set full, if its thread still holds it (R66, R141); a sending port has had its
push, and gets none from a command that did not end DONE. -/
def State.deliver (s : State) (core : Nat) (cmd : CpCmd) (v : Nat) : State :=
  match cmd.fillOf with
  | some (.inl (.g n)) => (s.updUid cmd.uid (fun t => t.putG n (BitVec.ofNat 64 v))).markPend core cmd.uid (.inl (.g n))
  | some (.inl (.c n)) => (s.putC core n (BitVec.ofNat 64 v)).markPend core cmd.uid (.inl (.c n))
  | some (.inr r) =>
    let s1 := if (s.fillPort cmd r).isSome then s else s.updUid cmd.uid (fun t =>
      if r.val < t.alot then t.putV r (BitVec.ofNat 2048 v) else t)
    s1.markPend core cmd.uid (.inr r)
  | _ => s

/-- The completion record: +8 to +24, then word +0, which becomes full (R137, R138). -/
def State.writeRecord (s : State) (core pa : Nat) (unc : Bool) (status cause progress detail mask : Nat) : State :=
  let s1 := ((s.recordWrite core (pa + 8) 8 (detail % 2 ^ 64) unc).recordWrite core (pa + 16) 16 mask unc).recordWrite core pa 8
    (status + 2 ^ 8 * cause + 2 ^ 16 * (progress % 2 ^ 32)) unc
  (s1.setTag pa true).examine (pa / 8)

/-- A marker left with the thread when its `COLL` is accepted. -/
def collAccepted : Nat := 7003

/-- A collective's record, and its thread goes on if it still waits for acceptance (R138, R215). -/
def State.collRecord (s : State) (r : CollRun) (status cause progress mask : Nat) : State :=
  let s1 := s.writeRecord r.core r.record r.recUnc status cause progress 0 mask
  if r.accepted then s1
  else
    match s1.tidOf r.uid with
    | some tid => s1.updThread tid (fun t => if t.park == some .engine then { t with mail := t.mail ++ [okMail collAccepted], park := none } else t)
    | none => s1

/-- COPY_COMMAND_COMPLETE: the fill is delivered and the record written, once the handlers of overflowed lines have been
asked (R152); under ANNULLED or FAULT the register gets 0 (R138, R141). It is no progress that the watchdog counts: the line
or part before it was (R234; log 94). -/
def doCopyComplete (core : Nat) (s : State) : State :=
  if !s.coreRuns core then s
  else
    match (s.coreAt core).cpRun with
    | none => s
    | some r =>
      match r.status with
      | none => s
      | some (st, cause, detail) =>
        match s.askLines (linesOf r.cmd.record 32) with
        | some s1 => s1
        | none =>
        let s1 := s.updCore core (fun c => { c with cpRun := none, cpMail := [] })
        (s1.deliver core r.cmd (if st == 1 then r.fill else 0)).writeRecord core r.cmd.record r.cmd.recUnc st cause r.progress detail 0

/-- A queued command ends as ANNULLED (R146). -/
def State.cpCancel (s : State) (core : Nat) (cmd : CpCmd) : State :=
  (s.deliver core cmd 0).writeRecord core cmd.record cmd.recUnc 2 0 0 0 0

/-- The address the running command writes next. -/
def CpRun.nextDest (r : CpRun) : Option Nat :=
  match r.cmd.op with
  | .cpy dst _ _ _ => some (dst + r.pos)
  | .atomic _ _ dst _ _ _ => some (dst + r.pos)
  | .cpgb dst _ _ _ _ _ => some (dst + r.pos)
  | .kvapp _ _ pool _ _ len _ bsh esh _ =>
    let slot := (len + r.entry) % 2 ^ (bsh - esh)
    if r.phase == 10 then some (pool + r.tmp.getD 0 * 2 ^ bsh + slot * 2 ^ esh + r.pos)
    else if r.phase == 3 then some (pool + r.popped.getD 0 * 2 ^ bsh + r.pos)
    else none
  | _ => none

/-- Would the destination refuse the next line (R145)? -/
def State.cpRefused (s : State) (core : Nat) (r : CpRun) : Bool :=
  match r.nextDest with
  | none => false
  | some va =>
    match s.translate core r.cmd.mode storeA (BitVec.ofNat 64 va) with
    | .ok p => s.refuses core p.pa
    | .error _ => false

/-- COPY_DEFERRED: the destination's partition is not in RUN; the record reads DEFERRED with PROGRESS, and word +0
stays empty (R145). -/
def doCopyDeferred (core : Nat) (s : State) : State :=
  match (s.coreAt core).cpRun with
  | none => s
  | some r =>
    if s.coreRuns core && r.status.isNone && !r.deferred && !r.annul && s.cpRefused core r then
      match s.askLines (linesOf r.cmd.record 8) with
      | some s1 => s1
      | none => (s.updCore core (fun c => { c with cpRun := some { r with deferred := true } })).recordWrite core r.cmd.record 8
        (4 + 2 ^ 16 * (r.progress % 2 ^ 32)) r.cmd.recUnc
    else s

/-- COPY_RESUME: the target is back in RUN (R145). -/
def doCopyResume (core : Nat) (s : State) : State :=
  match (s.coreAt core).cpRun with
  | none => s
  | some r =>
    if r.deferred && r.status.isNone && !s.cpRefused core r then
      s.updCore core (fun c => { c with cpRun := some { r with deferred := false } })
    else s

/-- Does the request wait for a count, and change nothing? -/
def Req.isPeg (q : Req) : Bool := match q.base with
  | .peg _ _ => true
  | _ => false

/-- The wait of a ring push under the tag is withdrawn (R171, R195). -/
def State.cpUnlist (s : State) (core : Nat) (tag : Tag) : State :=
  State.updCore { s with retry := s.retry.filter (fun w => !(w.who == .channel core && w.exp == tag && w.req.isPeg)) } core
    (fun c => { c with reqs := c.reqs.filter (fun o => !(o.who == .channel core && o.exp == tag && o.req.isPeg)) })

/-- The wave at a channel (R146): queued commands of the tag end with PROGRESS 0, a held one at once (R198), and a running
one at its boundary: when the line that is on its way has been answered or given up, or its unit has ended. -/
def State.cpAnnul (s0 : State) (core : Nat) (tag : Tag) : State :=
  let s := s0.cpUnlist core tag
  let c := s.coreAt core
  let s1 := s.setCore core { c with cpQ := c.cpQ.filter (fun m => m.exp != tag), cpWait := c.cpWait.filter (fun e => e.2.exp != tag) }
  let s2 := (c.cpQ.filter (fun m => m.exp == tag)).foldl (fun s m => s.cpCancel core m) s1
  match c.cpRun with
  | none => s2
  | some r =>
    if r.cmd.exp != tag || r.status.isSome then s2
    else if s.cpMidway core r then s2.updCore core (fun c => { c with cpRun := some { r with annul := true } })
    else s2.updCore core (fun c => { c with cpRun := some (r.ended 2 0 (r.popped.getD 0)), cpMail := [] })

/-- `COPY_COMMAND_ACCEPT`. -/
def execCopyCommandAccept (core : Nat) (s : State) : Host.Outcome State Fault Refusal := event (doCopyAccept core) s
/-- `COPY_COMMAND_EXECUTE`. -/
def execCopyCommandExecute (core : Nat) (s : State) : Host.Outcome State Fault Refusal := event (doCopyExecute core) s
/-- `COPY_COMMAND_COMPLETE`. -/
def execCopyCommandComplete (core : Nat) (s : State) : Host.Outcome State Fault Refusal := event (doCopyComplete core) s
/-- `COPY_DEFERRED`. -/
def execCopyDeferred (core : Nat) (s : State) : Host.Outcome State Fault Refusal := event (doCopyDeferred core) s
/-- `COPY_RESUME`. -/
def execCopyResume (core : Nat) (s : State) : Host.Outcome State Fault Refusal := event (doCopyResume core) s

end Sys2Proof.Machine
end

