-- ==== Sys2Proof/Machine/Launch.lean ====
section
/-! DEFINITION. Starting threads (R32), and `LAUNCH` (R43 to R46, R52, R306, R307). -/
namespace Sys2Proof.Machine

/-- A new thread in a slot, with its entry point, tag and first registers (R32); the core's local store is powered
(R51). -/
def State.startThread (s : State) (tid : Nat) (pc : Word) (tag : Tag) (g : List Word) (f : Thread → Thread) : State :=
  let t := Thread.new s.nextUid pc tag
  let t1 : Thread := { t with g := Vector.ofFn (fun (n : Fin 16) => (g[n.val]?).getD 0) }
  let s1 : State := { s with nextUid := s.nextUid + 1 }
  (s1.setThread tid (f t1)).updCore (coreOfTid tid) (fun c => { c with lsOn := true })

/-- The launch descriptor (R44). -/
structure LaunchDesc where
  kpc : Nat
  argp : Nat
  x0 : Nat
  y0 : Nat
  w : Nat
  h : Nat
  tr : Nat
  tc : Nat
  ttr : Nat
  ttc : Nat
  lid : Nat
  rest : Nat
  deriving DecidableEq, Repr

def launchDesc (x : Nat) : LaunchDesc :=
  let f := descField x
  { kpc := f 0 8, argp := f 8 8, x0 := f 16 2, y0 := f 18 2, w := f 20 2, h := f 22 2, tr := f 24 4, tc := f 28 4,
    ttr := f 32 4, ttc := f 36 4, lid := f 40 4, rest := f 44 20 }

/-- ⌈a/b⌉. -/
def ceilDiv (a b : Nat) : Nat := (a + b - 1) / b

/-- The core at a launch position of a package (R43). -/
def coreAtPos (pkg col row : Nat) : Nat :=
  let die := col / 48 + 2 * (row / 24)
  let q := row % 24 / 2 * 24 + col % 48 / 2
  (pkg * 4 + die) * 2048 + 4 * q + (row % 2) * 2 + col % 2

/-- The rectangle's cores in their order (R45). -/
def LaunchDesc.cores (d : LaunchDesc) (pkg : Nat) : List Nat :=
  (List.range (d.w * d.h)).map (fun n => coreAtPos pkg (d.x0 + n % d.w) (d.y0 + n / d.w))

def LaunchDesc.nr (d : LaunchDesc) : Nat := ceilDiv d.tr d.ttr
def LaunchDesc.nc (d : LaunchDesc) : Nat := ceilDiv d.tc d.ttc

/-- Slot 0 of a core can be started (R46, R237). -/
def State.canLaunch (s : State) (core : Nat) : Bool :=
  (s.thread? (core * 8)).isNone && !(s.coreAt core).disabled.getLsbD 0 && (s.coreAt core).ovh != 0 &&
  (mapGet (s.dieAt (dieOfCore core)).forward core).isNone

/-- The conditions of R46. -/
def State.launchOk (s : State) (d : LaunchDesc) : Bool :=
  d.rest == 0 && d.kpc % 4 == 0 && d.w != 0 && d.h != 0 && d.tr != 0 && d.tc != 0 && d.ttr != 0 && d.ttc != 0 &&
  decide (d.x0 + d.w ≤ 96) && decide (d.y0 + d.h ≤ 48) && decide (d.nr * d.nc ≤ d.w * d.h) &&
  (d.cores (pkgOfCore s.core)).all (fun c => samePartition s c) &&
  ((d.cores (pkgOfCore s.core)).take (d.nr * d.nc)).all (fun c => s.canLaunch c)

/-- The keep reservation ends; on another launch id the local store is cleared (R52). -/
def State.endKeep (s : State) (core lid : Nat) : State :=
  match (s.coreAt core).keep with
  | none => s
  | some k =>
    let s1 := if k.toNat == lid then s else s.emptyStore core 0 (65536 * (s.coreAt core).csplit)
    s1.updCore core (fun c => { c with keep := none })

/-- Core number `n` of a launch starts (R45). -/
def State.launchCore (s : State) (d : LaunchDesc) (tag : Tag) (n core : Nat) : State :=
  let row0 := n / d.nc * d.ttr
  let col0 := n % d.nc * d.ttc
  let s1 := (s.endKeep core d.lid).updCore core (fun c =>
    { c with
      i4 := BitVec.ofNat 64 row0, i5 := BitVec.ofNat 64 col0
      i6 := BitVec.ofNat 64 (Nat.min d.ttr (d.tr - row0)), i7 := BitVec.ofNat 64 (Nat.min d.ttc (d.tc - col0))
      i8 := BitVec.ofNat 64 d.argp, i10 := BitVec.ofNat 64 d.lid
      i11 := BitVec.ofNat 64 (d.nr * 2 ^ 32 + d.nc) })
  s1.startThread (core * 8) (BitVec.ofNat 64 d.kpc) tag [] id

/-- `LAUNCH` (R46, R306, R307). -/
def execLaunch (a : Sc) (s : State) : Host.Outcome State Fault Refusal :=
  run (.launch a) { rd := [a] } (do
    let x ← rdS a
    if x.toNat % 64 != 0 then misaligned x
    else do
      let p ← transSpan loadA x 64
      let w ← loadN 0 p 64
      let d := launchDesc w
      let s ← get
      if !s.launchOk d then raise 0x1F
      else do
        waitAcks
        let tag := s.thr.reqTag
        let cs := (d.cores (pkgOfCore s.core)).take (d.nr * d.nc)
        modify (fun s => (cs.zip (List.range cs.length)).foldl (fun s e => s.launchCore d tag e.2 e.1) s)
        pure .seq) s

end Sys2Proof.Machine
end

