-- ==== Sys2Proof/Machine/Coll.lean ====
section
/-! DEFINITION. Named buffers and base-die collectives: `CBUF`, `COLL` and their events (R109, R169, R197, R212 to
R218, R280, R283). -/
namespace Sys2Proof.Machine

/-! ## Registration (R213, R214, R280) -/

/-- A named-buffer descriptor (R213). -/
structure BufDesc where
  base : Nat
  size : Nat
  group : BitVec 128
  peg : Nat
  l : Nat
  rest : Nat
  deriving DecidableEq, Repr

def bufDesc (x : Nat) : BufDesc :=
  let f := descField x
  { base := f 0 8, size := f 8 8, group := BitVec.ofNat 128 (f 16 16), peg := f 32 8, l := f 40 4, rest := f 44 20 }

/-- The members of a group in ascending package number. -/
def membersOf (g : BitVec 128) : List Nat := (List.range 128).filter (fun p => g.getLsbD p)

/-- Checks 1, 3 and 5 of R213. -/
def BufDesc.reason (d : BufDesc) (op : CbufOp) (t : ETy) (pkg : Nat) : Option Nat :=
  let sm := op == .smerge
  if d.rest != 0 || d.size % 256 != 0 || 2 ^ 30 < d.size || d.base % 4096 != 0 ||
     (if sm then d.l == 0 || decide (1024 < d.l) else d.l != 0) then some 1
  else if (membersOf d.group).length < 2 || 64 < (membersOf d.group).length || !d.group.getLsbD pkg then some 3
  else if sm && (t != .f32 || d.size % (4 * (d.l + 2)) != 0) then some 5
  else none

/-- The pages of a buffer, each checked as a load from its first byte (R213). -/
def bufPages (base : Nat) : Nat → Nat → Nat → M (List (Nat × Nat × Nat))
  | 0, _, _ => pure []
  | fuel + 1, off, size =>
    if size ≤ off then pure []
    else do
      let p ← trans loadA (BitVec.ofNat 64 (base + off))
      let n := Nat.min (size - off) (p.leaf.vbase + p.leaf.size - p.va)
      let r ← bufPages base fuel (off + n) size
      pure ((off, p.pa, n) :: r)

/-- The stack that holds every page, on the package itself (R213). -/
def oneStack (pkg : Nat) (l : List (Nat × Nat × Nat)) : Option Nat :=
  let stackOf (pa : Nat) : Option Nat := match placeOf pa with
    | .hbm st _ => if pkgOfPa pa == pkg then some st else none
    | _ => none
  match l with
  | [] => none
  | e :: _ =>
    match stackOf e.2.1 with
    | none => none
    | some st => if l.all (fun x => stackOf x.2.1 == some st && stackOf (x.2.1 + x.2.2 - 1) == some st) then some st else none

/-- May the id not be taken: another partition holds it, or an instance runs (R213, reason 4)? -/
def State.bufHeld (s : State) (pkg id part : Nat) : Bool :=
  match mapGet (s.pkgAt pkg).nbufs id with
  | some n => (n.part != part && !n.ended) || n.run.isSome
  | none => false

/-- Sends a registration to the hub of every other member (R213). -/
def State.announce (s : State) (pkg id serial : Nat) (info : RegInfo) (tag : Tag) : State :=
  (membersOf info.group).foldl (fun s q =>
    if q == pkg || !(s.pkgAt q).member then s
    else s.send
      { dst := q, src := pkg, cls := 2, core := pkg * 8192 + 2047, rtag := 0, gen := 0, exp := tag, resend := false,
        body := .reg id serial info }) s

/-- A registration enters the table; what other members have registered since its predecessor belongs to it (R280;
log 75). -/
def Pkg.register (p : Pkg) (id : Nat) (n : NBuf) : Pkg :=
  { p with
    nbufs := mapPut p.nbufs id n
    peers := p.peers.map (fun e => if e.1.2 == id then (e.1, { cur := e.2.next, next := none }) else e) }

/-- Another member's registration arrives: it belongs to the package's own if that has none of the member yet (R213). -/
def Pkg.peerRegisters (p : Pkg) (src id serial : Nat) (i : RegInfo) : Pkg :=
  let old := (p.peers.find? (fun e => e.1 == (src, id))).map (fun e => e.2)
  let x : Peer := old.getD { cur := none, next := none }
  let y : Peer := if (mapGet p.nbufs id).isSome && x.cur.isNone then { cur := some (serial, i), next := none }
    else { x with next := some (serial, i) }
  { p with peers := p.peers.filter (fun e => e.1 != (src, id)) ++ [((src, id), y)] }

/-- `CBUF` (R213, R280): every check, then the entry or, for a SIZE of 0, the release. -/
def execCbuf (op : CbufOp) (t : ETy) (id : BitVec 10) (a : Sc) (s : State) : Host.Outcome State Fault Refusal :=
  run (.cbuf op t id a) { rd := [a] } (do
    let x ← rdS a
    let w ← loadSpan 0 x 64
    let d := bufDesc w
    let s ← get
    let pkg := pkgOfCore s.core
    let part := s.partNum
    match d.reason op t pkg with
    | some r => commandFault r
    | none => do
      let segs ← bufPages d.base (d.size / 4096 + 1) 0 (Nat.max d.size 1)
      let q ← trans loadA (BitVec.ofNat 64 d.peg)
      let stack := oneStack pkg segs
      if (d.size != 0 && stack.isNone) || d.peg % 8 != 0 || !q.leaf.fe || pkgOfPa q.pa != pkg then commandFault 2
      else if s.bufHeld pkg id.toNat part then commandFault 4
      else if d.size == 0 then do
        modify (fun s => s.updPkg pkg (fun p => { p with nbufs := mapDel p.nbufs id.toNat }))
        pure .seq
      else do
        let info : RegInfo := { size := d.size, ty := t, op := op, group := d.group, l := d.l, stack := stack.getD 0 }
        let n : NBuf := { part := part, segs := segs, peg := q.pa, pegUnc := q.leaf.home == 3 && isHbm q.pa,
                          serial := s.nextSeq, info := info, tag := s.thr.reqTag, started := 0, run := none, ended := false }
        modify (fun s => (State.updPkg { s with nextSeq := s.nextSeq + 1 } pkg (fun p => p.register id.toNat n)).announce
          pkg id.toNat n.serial info n.tag)
        pure .seq) s

/-! ## Collectives (R215 to R218) -/

/-- The faults of `COLL` (R215). -/
def collReason (n : NBuf) (kind : CollKind) (root : Nat) : Option Nat :=
  let g := (membersOf n.info.group).length
  let sm := n.info.op == .smerge
  if n.run.isSome then some 2
  else if (sm && (kind == .ag || kind == .bc)) || (n.info.op == .none && (kind == .ar || kind == .rs)) then some 3
  else if (kind == .ag || kind == .rs) && n.info.size % (g * (if sm then 4 * (n.info.l + 2) else 256)) != 0 then some 4
  else if kind == .bc && !n.info.group.getLsbD root then some 5
  else none

/-- `COLL` (R215, R283): it starts the instance and waits for the engine's acceptance. An id that another partition has
registered on the package counts as not registered (DESIGN CHOICE, log 94). -/
def execColl (kind : CollKind) (acq rel : Bool) (sc : Option Scope) (id : BitVec 10) (root : BitVec 7) (c : Sc)
    (s : State) : Host.Outcome State Fault Refusal :=
  run (.coll kind acq rel sc id root c) { rd := [c] } (do
    let r ← rdS c
    let s ← get
    if hasMail s.thr collAccepted then pure .seq
    else if r.toNat % 32 != 0 then misaligned r
    else do
      let p ← recordAt r
      let s ← get
      let pkg := pkgOfCore s.core
      match mapGet (s.pkgAt pkg).nbufs id.toNat with
      | none => raiseAt 0x16 0 1
      | some n =>
        if n.ended || n.part != s.partNum then raiseAt 0x16 0 1
        else
          match collReason n kind root.toNat with
          | some r => raiseAt 0x16 0 r
          | none => do
            if rel then waitAcks else pure ()
            let t := s.thr
            let run : CollRun :=
              { inst := n.started, kind := kind, root := root.toNat, exp := t.reqTag, uid := t.uid, core := s.core,
                record := p.pa, recUnc := p.leaf.home == 3 && isHbm p.pa, acq := acq, rel := rel, sc := cmdScope acq rel sc,
                accepted := false, staged := [] }
            modify (fun s => s.updPkg pkg (fun q =>
              { q with nbufs := mapPut q.nbufs id.toNat { n with started := n.started + 1, run := some run } }))
            park .engine) s

/-- COLL_CONTRIBUTION_ACCEPT: the base-die engine begins reading the member's buffer, word +0 of the record empties, and
the thread goes on (R138, R215, R216); an instruction in flight completes in HALTING, and none in a later state (R232). -/
def doCollAccept (pkg id : Nat) (s : State) : State :=
  match mapGet (s.pkgAt pkg).nbufs id with
  | none => s
  | some n =>
    match n.run with
    | none => s
    | some r =>
      let st := (s.partAt n.part).st
      if r.accepted || !(st == .run || st == .halting) then s
      else
        let s1 := ((s.updPkg pkg (fun p =>
          { p with nbufs := mapPut p.nbufs id { n with run := some { r with accepted := true } } })).setTag r.record false).examine
            (r.record / 8)
        match s1.tidOf r.uid with
        | some tid => s1.updThread tid (fun t =>
            if t.park == some .engine then { t with mail := t.mail ++ [okMail collAccepted], park := none } else t)
        | none => s1

/-- `n` bytes of HBM below every cache (R169). -/
def memRead (m : List Host.Cell) (pa : Nat) : Nat → Nat
  | 0 => 0
  | n + 1 => (Memory.read m pa).toNat + 256 * memRead m (pa + 1) n

/-- The base-die engine reads one 8-byte word of an accepted contribution out of HBM, below every cache, into its staging
SRAM: each word at an instant of its own from acceptance to completion (R9, R169, R216). The SRAM has room for 8 MiB. -/
def doCollRead (pkg id pa : Nat) (s : State) : State :=
  match mapGet (s.pkgAt pkg).nbufs id with
  | none => s
  | some n =>
    match n.run with
    | none => s
    | some r =>
      let inside := n.segs.any (fun e => decide (e.2.1 ≤ pa) && decide (pa < e.2.1 + e.2.2))
      if !r.accepted || !inside || decide (2 ^ 20 ≤ r.staged.length) || r.staged.any (fun e => e.1 == pa / 8) then s
      else
        let w : Word := BitVec.ofNat 64 (memRead s.mem (pa / 8 * 8) 8)
        s.updPkg pkg (fun p =>
          { p with nbufs := mapPut p.nbufs id { n with run := some { r with staged := r.staged ++ [(pa / 8, w)] } } })

/-! ### The arithmetic (R109, R217) -/

/-- An FP32 value of a contribution. -/
def toF32 (t : ETy) (x : Nat) : Nat := (roundEx .f32 0 false (valOf t false x).toEx).bits

/-- One element reduced over the contributors in their order (R109). -/
def reduceElem (op : CbufOp) (t : ETy) : List Nat → Nat
  | [] => 0
  | x :: r =>
    match op with
    | .sum =>
      if t.isInt then (r.foldl (fun a b => a + b) x) % 2 ^ t.bits
      else
        let acc := r.foldl (fun a b => (fAdd .f32 0 a (toF32 t b)).bits) (toF32 t x)
        (roundEx t 0 false (valOf .f32 false acc).toEx).bits
    | .max => if t.isInt then r.foldl (fun a b => cpyElem .max t a b) x else r.foldl (fun a b => maxMinNaN t true a b) (maxMinNaN t true x x)
    | .min => if t.isInt then r.foldl (fun a b => cpyElem .min t a b) x else r.foldl (fun a b => maxMinNaN t false a b) (maxMinNaN t false x x)
    | _ => x

def f32Nan (x : Nat) : Bool := (valOf .f32 false x).isNan

/-- The factor of a record whose maximum is `mi`, under the common maximum `m` (R217). -/
def mergeFactor (mi m : Nat) : Nat :=
  if mi == infBits .f32 true then 0
  else if eqVal (valOf .f32 false mi) (valOf .f32 false m) then 0x3F800000
  else (fSpecial .exp2 .f32 (fSub .f32 0 mi m).bits).bits

/-- One output of a merge: x1·f1 + x2·f2, NaN when an input it depends on is NaN (R217). -/
def mergeOut (m1 m2 f1 f2 x1 x2 : Nat) : Nat :=
  if f32Nan m1 || f32Nan m2 || f32Nan x1 || f32Nan x2 then canonNaN .f32
  else if m1 == infBits .f32 true && m2 == infBits .f32 true then 0
  else (fAdd .f32 0 (fMul .f32 0 x1 f1).bits (fMul .f32 0 x2 f2).bits).bits

/-- `Merge` of two records of `n` words, word 0 being *m* (R217). -/
def mergeRecord (n a b : Nat) : Nat :=
  let w (x j : Nat) : Nat := x / 2 ^ (32 * j) % 2 ^ 32
  let m1 := w a 0
  let m2 := w b 0
  let m := maxMinNaN .f32 true m1 m2
  let f1 := mergeFactor m1 m
  let f2 := mergeFactor m2 m
  (List.range n).foldl (fun acc j =>
    acc + 2 ^ (32 * j) * (if j == 0 then m else mergeOut m1 m2 f1 f2 (w a j) (w b j))) 0

/-- Units of `w` bits of several blocks combined place by place. -/
def combine (w : Nat) (f : List Nat → Nat) : Nat → List Nat → Nat
  | 0, _ => 0
  | n + 1, bs => f (bs.map (fun b => b % 2 ^ w)) % 2 ^ w + 2 ^ w * combine w f n (bs.map (fun b => b / 2 ^ w))

/-- Blocks of `size` bytes reduced (R109, R217). -/
def reduceBlocks (i : RegInfo) (size : Nat) (bs : List Nat) : Nat :=
  match i.op with
  | .smerge =>
    let n := i.l + 2
    combine (32 * n) (fun l => match l with
      | [] => 0
      | x :: r => r.foldl (fun a b => mergeRecord n a b) x) (size / (4 * n)) bs
  | _ => combine i.ty.bits (reduceElem i.op i.ty) (8 * size / i.ty.bits) bs

/-! ### Reading and writing HBM below every cache (R169) -/

def memWriteN (m : List Host.Cell) (pa : Nat) : Nat → Nat → List Host.Cell
  | 0, _ => m
  | n + 1, v => memWriteN (Memory.write m pa (BitVec.ofNat 8 v)) (pa + 1) n (v / 256)

/-- A page of a buffer of `n` bytes at `pa`, with the words that the engine has in its staging SRAM in their place: pages
begin and end at multiples of 8 bytes. -/
def stagedOver (staged : List (Nat × Word)) (pa n x : Nat) : Nat :=
  staged.foldl (fun x e =>
    if pa ≤ e.1 * 8 ∧ e.1 * 8 < pa + n then
      let o := 2 ^ (8 * (e.1 * 8 - pa))
      x - x / o % 2 ^ 64 * o + e.2.toNat * o
    else x) x

/-- The whole contribution as the engine has read it: what it holds already, and the rest from HBM now. -/
def State.bufRead (s : State) (n : NBuf) (r : CollRun) : Nat :=
  n.segs.foldl (fun acc e => acc + 2 ^ (8 * e.1) * stagedOver r.staged e.2.1 e.2.2 (memRead s.mem e.2.1 e.2.2)) 0

def State.bufPoison (s : State) (n : NBuf) : Bool := n.segs.any (fun e => s.poisoned e.2.1 e.2.2)

/-- Bytes of HBM written by an engine: the home slice first writes the lines' dirty bytes, then the copies go
(R169); waiters on the words are examined (R164). -/
def State.engineWrite (s : State) (pa n v : Nat) : State :=
  if n == 0 then s
  else
    let lines := (List.range ((pa + n - 1) / 64 - pa / 64 + 1)).map (fun j => pa / 64 + j)
    let s1 := lines.foldl (fun s l => (s.cleanSlice l).dropSlice l) s
    (State.wrote { s1 with mem := memWriteN s1.mem pa n v } pa n).examineSpan pa n

/-- Where `len` bytes of the buffer from offset `off` stand: offset, address and length of each part. -/
def NBuf.parts (n : NBuf) (off len : Nat) : List (Nat × Nat × Nat) :=
  n.segs.filterMap (fun e =>
    let lo := Nat.max off e.1
    let hi := Nat.min (off + len) (e.1 + e.2.2)
    if lo < hi then some (lo, e.2.1 + (lo - e.1), hi - lo) else none)

/-- `len` bytes of the buffer from offset `off`. -/
def State.bufWrite (s : State) (n : NBuf) (off len v : Nat) : State :=
  (n.parts off len).foldl (fun s e => s.engineWrite e.2.1 e.2.2 (v / 2 ^ (8 * (e.1 - off)) % 2 ^ (8 * e.2.2))) s

/-! ### An instance -/

/-- Has the package left instance `inst` of the registration (R214, R216)? -/
def Pkg.hasLeft (p : Pkg) (serial inst : Nat) : Bool :=
  p.left.contains (serial, inst) || p.gone.any (fun e => e.1 == serial && decide (e.2 ≤ inst))

/-- The registration of member `q` that belongs to the package's own: its serial number and what it says. -/
def Pkg.peer (p : Pkg) (q id : Nat) : Option (Nat × RegInfo) :=
  match p.peers.find? (fun e => e.1 == (q, id)) with
  | some e => e.2.cur
  | none => none

/-- The accepted contribution of member `q` to an instance of package `pkg`'s registration. -/
def State.contributed (s : State) (pkg q id inst : Nat) : Option (NBuf × CollRun) :=
  match mapGet (s.pkgAt q).nbufs id with
  | none => none
  | some n =>
    match n.run with
    | some r =>
      if r.accepted && r.inst == inst && (q == pkg || ((s.pkgAt pkg).peer q id).map (fun e => e.1) == some n.serial) then
        some (n, r)
      else none
    | none => none

/-- Has member `q` left the instance? -/
def State.memberLeft (s : State) (pkg q id inst : Nat) : Bool :=
  match (s.pkgAt pkg).peer q id with
  | some e => (s.pkgAt q).hasLeft e.1 inst
  | none => false

/-- Another member registered the buffer otherwise: by what it has sent, or by what it holds beside the package's own
registration (R216). -/
def State.mismatch (s : State) (pkg id : Nat) (n : NBuf) : Bool :=
  (membersOf n.info.group).any (fun q => q != pkg &&
    ((match (s.pkgAt pkg).peer q id with
      | some e => e.2 != n.info
      | none => false) ||
     (match mapGet (s.pkgAt q).nbufs id with
      | some m => ((s.pkgAt q).peer pkg id).map (fun e => e.1) == some n.serial && m.info != n.info
      | none => false)))

/-- Every other member's registration has come and agrees (R216). -/
def Pkg.agreed (p : Pkg) (pkg id : Nat) (i : RegInfo) : Bool :=
  (membersOf i.group).all (fun q => q == pkg || (p.peer q id).map (fun e => e.2) == some i)

/-- The run of a member's buffer ends; a registration that has ended goes with it (R214). -/
def State.endRun (s : State) (pkg id : Nat) : State :=
  s.updPkg pkg (fun p =>
    match mapGet p.nbufs id with
    | some n => { p with nbufs := if n.ended then mapDel p.nbufs id else mapPut p.nbufs id { n with run := none } }
    | none => p)

/-- The ranges of the buffer that R216 defines at a contributor, and their bytes. -/
def collResult (i : RegInfo) (kind : CollKind) (root pkg : Nat) (cs : List (Nat × Nat)) : List (Nat × Nat × Nat) :=
  let ms := membersOf i.group
  let part := i.size / ms.length
  let rank (q : Nat) : Nat := ms.findIdx (fun m => m == q)
  let cut (x off n : Nat) : Nat := x / 2 ^ (8 * off) % 2 ^ (8 * n)
  match kind with
  | .ar => [(0, i.size, reduceBlocks i i.size (cs.map (fun c => c.2)))]
  | .rs =>
    let o := rank pkg * part
    [(o, part, reduceBlocks i part (cs.map (fun c => cut c.2 o part)))]
  | .ag => cs.map (fun c => (rank c.1 * part, part, cut c.2 (rank c.1 * part) part))
  | .bc =>
    match cs.find? (fun c => c.1 == root) with
    | some c => [(0, i.size, c.2)]
    | none => []

/-- The 64-byte lines that ranges touch, once each (R218). -/
def collLines (size : Nat) (l : List (Nat × Nat × Nat)) : Nat :=
  ((List.range ((size + 63) / 64)).filter (fun j => l.any (fun e => overlap (64 * j) 64 e.1 e.2.1))).length

/-- A record that ends without a result. -/
def State.collFault (s : State) (pkg id : Nat) (n : NBuf) (r : CollRun) (status cause : Nat) : State :=
  ((s.updPkg pkg (fun p => { p with left := p.left ++ [(n.serial, r.inst)] })).endRun pkg id).collRecord r status cause 0 0

/-- The lines that the completion of a contributor writes: its record, and where it has a result that, and its peg. -/
def NBuf.touches (n : NBuf) (r : CollRun) (res : List (Nat × Nat × Nat)) : List Nat :=
  (res.flatMap (fun e => (n.parts e.1 e.2.1).flatMap (fun q => linesOf q.2.1 q.2.2))) ++ linesOf n.peg 8 ++ linesOf r.record 32

/-- The result, the peg and the record of one contributor (R218). Each contributor has the result of the kind and root that
its own `COLL` names (DESIGN CHOICE, log 94: the engines compare registrations). -/
def State.collFinish (s : State) (id pkg : Nat) (n : NBuf) (r : CollRun) (cs : List (Nat × Nat)) : State :=
  let res := collResult n.info r.kind r.root pkg cs
  let ms := membersOf n.info.group
  let s1 := res.foldl (fun s e => s.bufWrite n e.1 e.2.1 e.2.2) s
  let ranks := cs.foldl (fun acc c => acc + 2 ^ (ms.findIdx (fun m => m == c.1))) 0
  let mask := cs.foldl (fun acc c => acc + 2 ^ c.1) 0
  let s2 := (s1.dropDirs (.pegWr n.peg ranks)).homeWrite n.peg 8 ranks
  let s3 := ((if n.pegUnc then s2.flushSpan n.peg 8 else s2).setTag n.peg true).examine (n.peg / 8)
  ((s3.endRun pkg id).collRecord r 1 0 (collLines n.info.size res) mask).progress r.core

/-- COLL_COMPLETE at a member: a mismatch ends its record FAULT; else, once every member has contributed or left,
every contributor completes (R216, R218). The handlers of overflowed lines that this writes are asked before it (R152). -/
def doCollComplete (pkg id : Nat) (s : State) : State :=
  match mapGet (s.pkgAt pkg).nbufs id with
  | none => s
  | some n =>
    match n.run with
    | none => s
    | some r =>
      if !r.accepted then s
      else if s.mismatch pkg id n then
        match s.askLines (linesOf r.record 32) with
        | some s1 => s1
        | none => s.collFault pkg id n r 3 0x16
      else
        let ms := membersOf n.info.group
        let cs := ms.filterMap (fun q => (s.contributed pkg q id r.inst).map (fun c => (q, c)))
        if ms.all (fun q => (s.contributed pkg q id r.inst).isSome || s.memberLeft pkg q id r.inst) &&
           cs.all (fun c => (s.pkgAt c.1).agreed c.1 id c.2.1.info) then
          let ranks := cs.map (fun c => (c.1, 0))
          match s.askLines (cs.flatMap (fun c =>
              c.2.1.touches c.2.2 (collResult c.2.1.info c.2.2.kind c.2.2.root c.1 ranks))) with
          | some s1 => s1
          | none =>
          if cs.any (fun c => s.bufPoison c.2.1) then
            cs.foldl (fun s c => (s.endRun c.1 id).collRecord c.2.2 3 0x13 0 0) s
          else
            let data := cs.map (fun c => (c.1, s.bufRead c.2.1 c.2.2))
            cs.foldl (fun s c => s.collFinish id c.1 c.2.1 c.2.2 data) s
        else s

/-- The wave at a package's collectives: a contribution not accepted leaves, with its record ANNULLED; a
registration of the tag ends, and a `COLL` not accepted under it ends FAULT (R197, R214, R218). -/
def State.collAnnul (s : State) (pkg : Nat) (tag : Tag) : State :=
  (s.pkgAt pkg).nbufs.foldl (fun s e =>
    let id := e.1
    let s1 := match e.2.run with
      | some r => if !r.accepted && r.exp == tag then s.collFault pkg id e.2 r 2 0 else s
      | none => s
    match mapGet (s1.pkgAt pkg).nbufs id with
    | none => s1
    | some n =>
      if n.tag != tag || tagIndex tag == 0 || n.ended then s1
      else
        match n.run with
        | some r =>
          let s2 := s1.updPkg pkg (fun p =>
            { p with nbufs := mapPut p.nbufs id { n with ended := true },
                     gone := p.gone ++ [(n.serial, if r.accepted then r.inst + 1 else r.inst)] })
          if r.accepted then s2 else s2.collFault pkg id n r 3 0x16
        | none => s1.updPkg pkg (fun p => { p with nbufs := mapDel p.nbufs id, gone := p.gone ++ [(n.serial, n.started)] })) s

/-- `COLL_CONTRIBUTION_ACCEPT`. -/
def execCollContributionAccept (pkg id : Nat) (s : State) : Host.Outcome State Fault Refusal := event (doCollAccept pkg id) s
/-- `COLL_COMPLETE`. -/
def execCollComplete (pkg id : Nat) (s : State) : Host.Outcome State Fault Refusal := event (doCollComplete pkg id) s

end Sys2Proof.Machine
end

