-- ==== Sys2Proof/Machine/Control.lean ====
section
/-! DEFINITION. The control class (R271, R300, R302, R319, R351). -/
namespace Sys2Proof.Machine

/-- `B` (R271). -/
def execBr (cc : Cond) (z : Bool) (a b : Sc) (off : BitVec 27) (s : State) : Host.Outcome State Fault Refusal :=
  run (.br cc z a b off) { rd := [a, b] } (do
    let x ← rdS a
    let y ← rdS b
    let t ← getThr
    let lt := if z then x.ult y else x.slt y
    if condHolds cc lt (x == y) then pure (.jump (t.pc + offVal off)) else pure .seq) s

/-- A jump by an offset, with the link register `JL` writes (R302). -/
def jumpBy (i : Instr) (link : Option Sc) (off : Word) (s : State) : Host.Outcome State Fault Refusal :=
  run i { dst := link } (do
    let t ← getThr
    match link with
    | some d => wrS d (t.pc + BitVec.ofNat 64 (instrLen i))
    | none => pure ()
    pure (.jump (t.pc + off))) s

/-- `J` (R302). -/
def execJ (off : BitVec 27) (s : State) : Host.Outcome State Fault Refusal := jumpBy (.j off) none (offVal off) s

/-- `J`, the 96-bit form (R302). -/
def execJ96 (off : BitVec 32) (s : State) : Host.Outcome State Fault Refusal := jumpBy (.j96 off) none (offVal off) s

/-- `JL` (R302). -/
def execJl (d : Sc) (off : BitVec 27) (s : State) : Host.Outcome State Fault Refusal :=
  jumpBy (.jl d off) (some d) (offVal off) s

/-- `JL`, the 96-bit form (R302). -/
def execJl96 (d : Sc) (off : BitVec 32) (s : State) : Host.Outcome State Fault Refusal :=
  jumpBy (.jl96 d off) (some d) (offVal off) s

/-- `JR` (R82, R302): the target is read before the link is written. -/
def execJr (d a : Sc) (s : State) : Host.Outcome State Fault Refusal :=
  run (.jr d a) { dst := some d, rd := [a] } (do
    let x ← rdS a
    let t ← getThr
    if x.toNat % 4 != 0 then raiseAt 0x06 x.toNat 0
    else do
      wrS d (t.pc + 8)
      pure (.jump x)) s

/-- `NOP` (R319). -/
def execNop (s : State) : Host.Outcome State Fault Refusal := run .nop {} (pure .seq) s

/-- `NOP`, the 96-bit form (R319). -/
def execNop96 (s : State) : Host.Outcome State Fault Refusal := run .nop96 {} (pure .seq) s

/-- `NOP`, the 128-bit form (R319). -/
def execNop128 (s : State) : Host.Outcome State Fault Refusal := run .nop128 {} (pure .seq) s

/-- Does `HALT` return from an inline child (R48, R300)? -/
def Thread.returnsInline (t : Thread) : Bool := !t.trapent && t.idepth != 0

/-- `HALT` and `HALT.keep` (R51, R52, R300, R301): a sending port first has the pushes that are on their way (R185). -/
def haltWith (i : Instr) (keep : Option Sc) (s : State) : Host.Outcome State Fault Refusal :=
  let own := match keep with
    | some a => [a]
    | none => []
  run i { rd := own ++ (if s.thr.returnsInline then [.g 15] else []) } (do
    let t ← getThr
    if t.returnsInline then
      let r := t.g.get 15
      if r.toNat % 4 != 0 then raiseAt 0x06 r.toNat 0
      else do
        updThr (fun t => { t with idepth := t.idepth - 1 })
        pure (.jump r)
    else do
      waitAcks
      if t.ports.any (fun e => !e.2.receives && t.vPend.getLsbD e.1) then park .quiesce
      match keep with
      | some a => do
        let v ← rdS a
        modify (fun s => s.updCore s.core (fun c => { c with keep := some (v.setWidth 32) }))
      | none => pure ()
      modify (fun s => s.endThread s.cur t.doomed)
      pure .gone) s

/-- `HALT` (R300). -/
def execHalt (s : State) : Host.Outcome State Fault Refusal := haltWith .halt none s

/-- `HALT.keep` (R52, R300). -/
def execHaltKeep (a : Sc) (s : State) : Host.Outcome State Fault Refusal := haltWith (.haltKeep a) (some a) s

/-- `YIELD` (R351). -/
def execYield (s : State) : Host.Outcome State Fault Refusal :=
  run .yield {} (do
    let s ← get
    pure (.yielded (s.cycle + 32))) s

end Sys2Proof.Machine
end

