-- ==== Sys2Proof/Machine/System.lean ====
section
/-! DEFINITION. The system class: traps and their return, the system registers, the time (R73 to R80, R222 to R226,
R278, R320, R331, R352). -/
namespace Sys2Proof.Machine

/-- `TRAP` (R225, R278). -/
def execTrap (n : BitVec 8) (s : State) : Host.Outcome State Fault Refusal := run (.trap n) {} (raiseAt 0x19 0 n.toNat) s

/-- `BRK` (R225, R278). -/
def execBrk (n : BitVec 8) (s : State) : Host.Outcome State Fault Refusal := run (.brk n) {} (raiseAt 0x18 0 n.toNat) s

/-- `TRACK` (R224): TRAPENT is cleared, and an end by the wave that waited for this takes effect. -/
def execTrack (s : State) : Host.Outcome State Fault Refusal :=
  run .track { priv := true } (do
    updThr (fun t => { t with trapent := false })
    let t ← getThr
    if t.doomed then do
      modify (fun s => s.endThread s.cur true)
      pure .gone
    else pure .seq) s

/-- `TRET` (R224): as `TRACK` while TRAPENT is set; then the mode comes back, and the thread goes on. -/
def tretWith (i : Instr) (skip : Bool) (s : State) : Host.Outcome State Fault Refusal :=
  run i { priv := true } (do
    let t ← getThr
    if t.trapent && t.doomed then do
      modify (fun s => s.endThread s.cur true)
      pure .gone
    else do
      modify (fun s => s.setThr
        (Thread.trapReturn { t with trapent := false, hold := none, park := none, mail := [], kept := [],
                                    yieldTo := none, lastIssue := some s.cycle } skip))
      pure .gone) s

/-- `TRET` (R224). -/
def execTret (s : State) : Host.Outcome State Fault Refusal := tretWith .tret false s

/-- `TRET.skip` (R224). -/
def execTretSkip (s : State) : Host.Outcome State Fault Refusal := tretWith .tretSkip true s

/-! ## System registers (R73 to R80, R331) -/

/-- Bits [1:0] read as zero. -/
def align4 (v : Word) : Word := v &&& ~~~3#64

/-- `tstat` (R78). -/
def Thread.tstat (t : Thread) : Word :=
  BitVec.ofNat 64 ((if t.df then 32 else 0) + 4 * t.idepth + (if t.pmode == .super then 2 else 0) + (if t.trapent then 1 else 0))

/-- `wdog` of a partition (R80). -/
def Partition.wdog (p : Partition) : Word :=
  BitVec.ofNat 64 (p.hcause * 2 ^ 17 + (if p.wdEn then 2 ^ 16 else 0) + p.wdPeriod)

/-- The value of a system register, or none for a reserved number (R73). -/
def State.sysReg (s : State) (sys : BitVec 12) : Option Word :=
  let t := s.thr
  let c := s.coreAt s.core
  match sys.toNat with
  | 0x000 => some (t.ex.setWidth 64)
  | 0x001 => some (t.fcsr.setWidth 64)
  | 0x002 => some (t.mxctl.setWidth 64)
  | 0x003 => some (BitVec.ofNat 64 t.alot)
  | 0x004 => some t.syncl
  | 0x005 => some (if t.mode == .super then 1 else 0)
  | 0x010 => some c.tvec
  | 0x011 => some (t.tcause.setWidth 64)
  | 0x012 => some (t.tcause2.setWidth 64)
  | 0x013 => some t.taddr
  | 0x014 => some t.tpc
  | 0x015 => some t.tinfo
  | 0x016 => some t.tstat
  | 0x020 => some (BitVec.ofNat 64 c.csplit)
  | 0x021 => some (BitVec.ofNat 64 c.ovh)
  | 0x022 => some ((s.partAt s.partNum).wdog)
  | 0x023 => some c.hvec
  | 0x024 => some c.mq
  | _ => none

/-- May user mode read the register (R73)? -/
def userReads (sys : BitVec 12) : Bool := decide (sys.toNat ≤ 5) || (decide (0x020 ≤ sys.toNat) && decide (sys.toNat ≤ 0x022))

/-- May user mode write the register (R73)? -/
def userWrites (sys : BitVec 12) : Bool := sys == 0x001#12 || sys == 0x002#12 || sys == 0x004#12

/-- `SRD` (R73, R74, R331). -/
def execSrd (d : Sc) (sys : BitVec 12) (s : State) : Host.Outcome State Fault Refusal :=
  match s.sysReg sys with
  | none => run (.srd d sys) {} (raise 0x01) s
  | some v => run (.srd d sys) { dst := some d, priv := !userReads sys } (do
      wrS d v
      pure .seq) s

/-- The write of a thread's or core's plain system register; none for a value outside a field's range (R74, R331). -/
def State.setSysReg (s : State) (sys : BitVec 12) (v : Word) : Option State :=
  let t := s.thr
  match sys.toNat with
  | 0x001 => some (s.setThr { t with fcsr := v.setWidth 10 })
  | 0x002 => some (s.setThr { t with mxctl := v.setWidth 4 })
  | 0x004 => some (s.setThr { t with syncl := v })
  | 0x010 => some (s.updCore s.core (fun c => { c with tvec := align4 v }))
  | 0x011 => some (s.setThr { t with tcause := v.setWidth 8 })
  | 0x012 => some (s.setThr { t with tcause2 := v.setWidth 8 })
  | 0x013 => some (s.setThr { t with taddr := v })
  | 0x014 => some (s.setThr { t with tpc := align4 v, latch := none })
  | 0x015 => some (s.setThr { t with tinfo := v })
  | 0x016 =>
    let n := v.toNat / 4 % 8
    if 4 < n then none else some (s.setThr { t with idepth := n, pmode := if v.getLsbD 1 then .super else .user })
  | _ => none

/-- `SWR` to `fcsr`, `mxctl`, `syncl`, `tvec` and the trap registers; `alot` and `mode` are read-only, and other
numbers are reserved (R74, R331). -/
def execSwr (sys : BitVec 12) (a : Sc) (s : State) : Host.Outcome State Fault Refusal :=
  let i : Instr := .swr sys a
  if sys == 0x003#12 || sys == 0x005#12 then run i { priv := true } (raise 0x05) s
  else if (s.sysReg sys).isNone then run i {} (raise 0x01) s
  else run i { rd := [a], priv := !userWrites sys } (do
    let v ← rdS a
    let s ← get
    match s.setSysReg sys v with
    | none => raise 0x01
    | some s1 => do
      set s1
      pure .seq) s

/-- `SWR` to `ex` (R74): the package enters the tag's REACH, without the checks of `EXSET`. A home outside the pod
never answers. -/
def execSwrEx (a : Sc) (s : State) : Host.Outcome State Fault Refusal :=
  run (.swrEx a) { rd := [a], priv := true } (do
    let v ← rdS a
    let t : Tag := v.setWidth 19
    let s ← get
    if tagIndex t == 0 then pure ()
    else if !(s.pkgAt (tagPkg t)).member then raise 0x12
    else do
      let _ ← rpc 0 (tagPkg t) (.exSet t s.partNum (pkgOfCore s.core) false) 0
      pure ()
    updThr (fun th => { th with ex := Tag.canon t })
    pure .seq) s

/-- The slice of a die that keeps a line (R129, R150). -/
def sliceOf (line : Nat) : Nat := line / 64 % Config.coresPerDie

/-- The visitor lines that a core's slice keeps. -/
def State.sliceVisitors (s : State) (core : Nat) : List Nat :=
  (s.visitors.filter (fun e => e.1 / 2 ^ 46 == dieOfCore core && sliceOf (e.1 % 2 ^ 46) == core % 2048)).map
    (fun e => e.1 % 2 ^ 46)

/-- What a slice must wait for before it can give up visitor lines: cleans of them that are on their way, and the handlers of
overflowed lines that their dirty bytes change (R148, R152). None: nothing. -/
def State.linesWait (s : State) (die : Nat) (ls : List Nat) : Option State :=
  if ls.any (fun l => s.cleanRuns die l (.hub 0)) then some s
  else s.askLines (ls.filter (fun l => s.lineDirty die l))

def State.sliceWait (s : State) (core : Nat) : Option State := s.linesWait (dieOfCore core) (s.sliceVisitors core)

/-- A core's L2 banks give up their lines as capacity replacement does: visitor lines, and home-slice lines with the L1 copies
of them (R151, R352). -/
def State.emptySlice (s : State) (core : Nat) : State :=
  let die := dieOfCore core
  let s1 := (s.sliceVisitors core).foldl (fun s l => (s.cleanHome die l).dropVisitor die l) s
  let ls := firsts ((s1.slice.filter (fun c => homeCore c.1 == some core)).map (fun c => c.1 / 64))
  let s2 := ls.foldl (fun s l => (s.cleanSlice l).dropSlice l) s1
  { s2 with dirs := s2.dirs.filter (fun e => homeCore (e.1 * 64) != some core) }

/-- `SWR` to `csplit` (R79, R352): moving banks give up what they hold, and local store that appears reads as zero. -/
def execSwrCsplit (a : Sc) (s : State) : Host.Outcome State Fault Refusal :=
  run (.swrCsplit a) { rd := [a], priv := true } (do
    let v ← rdS a
    let n := v.toNat % 8
    if 6 < n then raise 0x01
    else do
      let s ← get
      let o := (s.coreAt s.core).csplit
      match (if o < n then s.sliceWait s.core else none) with
      | some s1 => do
        set s1
        park .quiesce
      | none => do
        modify (fun s =>
          let s1 := if o < n then s.emptySlice s.core else s
          (s1.emptyStore s.core (65536 * Nat.min o n) (65536 * Nat.max o n)).updCore s.core (fun c => { c with csplit := n }))
        pure .seq) s

/-- `SWR` to `ovh` (R80): the slot must own an enabled entry. The old handler slot may be free now, so parked spawns are
served again (R48). -/
def execSwrOvh (a : Sc) (s : State) : Host.Outcome State Fault Refusal :=
  run (.swrOvh a) { rd := [a], priv := true } (do
    let v ← rdS a
    let n := v.toNat % 8
    let s ← get
    if !(List.range 32).any (fun e => (s.coreAt s.core).slotEntry e == some n) then raise 0x1C
    else do
      modify (fun s => s.updCore s.core (fun c => { c.serveParked with ovh := n }))
      pure .seq) s

/-- `SWR` to `hvec` (R39). -/
def execSwrHvec (a : Sc) (s : State) : Host.Outcome State Fault Refusal :=
  run (.swrHvec a) { rd := [a], priv := true } (do
    let v ← rdS a
    modify (fun s => s.updCore s.core (fun c =>
      { c with hvec := align4 v, hvecAt := if align4 v == 0 then c.hvecAt else s.cycle }))
    pure .seq) s

/-- `SWR` to `mq` (R40): the write index restarts at 0. -/
def execSwrMq (a : Sc) (s : State) : Host.Outcome State Fault Refusal :=
  run (.swrMq a) { rd := [a], priv := true } (do
    let v ← rdS a
    let n := v.toNat / 2 ^ 28 % 16
    if n != 0 && (n < 4 || 10 < n) then raise 0x01
    else do
      modify (fun s => s.updCore s.core (fun c => { c with mq := v &&& 0xF007FFC0#64, mqIndex := 0 }))
      pure .seq) s

/-- `SWR` to `wdog` (R80, R331): the count restarts at 0. -/
def execSwrWdog (a : Sc) (s : State) : Host.Outcome State Fault Refusal :=
  run (.swrWdog a) { rd := [a], priv := true } (do
    let v ← rdS a
    let n := v.toNat % 2 ^ 16
    if n == 0 || 60000 < n then raise 0x01
    else do
      modify (fun s => s.updPart s.partNum (fun p =>
        { p with wdEn := v.getLsbD 16, wdPeriod := n, wdAt := s.cycle, stallAt := s.cycle }))
      pure .seq) s

/-- `RDTIME` (R320). -/
def execRdtime (d : Sc) (s : State) : Host.Outcome State Fault Refusal :=
  run (.rdtime d) { dst := some d } (do
    let s ← get
    wrS d (BitVec.ofNat 64 s.podTime)
    pure .seq) s

end Sys2Proof.Machine
end

