-- ==== Sys2Proof/Machine/CoreEvents.lean ====
section
/-! DEFINITION. What a core's units do on their own: shared-register writes landing, the handler's start, the message
queue, refused spawns and migrations, task dispatch, deferred trap entry (R39 to R42, R48, R50, R178, R222, R226). -/
namespace Sys2Proof.Machine

/-! ## Shared registers and the handler (R39, R42) -/

/-- Does the partition of a core still move: RUN or HALTING (R232)? -/
def State.coreActs (s : State) (core : Nat) : Bool :=
  match s.partOfCore core with
  | some p => (s.partAt p).st == .run || (s.partAt p).st == .halting
  | none => false

/-- `SHARED_REGISTER_WRITE_LANDS` (R42). -/
def execSharedRegisterWriteLands (core : Nat) (s : State) : Host.Outcome State Fault Refusal :=
  event (fun s => s.landC core) s

/-- When the core starts its handler: 1 μs after the slot emptied and after `hvec` was last written (R39). -/
def State.handlerDue (s : State) (core : Nat) : Bool :=
  let c := s.coreAt core
  c.hvec != 0 && !s.hasHandler core && s.coreRuns core &&
    decide (Nat.max ((c.emptied[c.ovh]?).getD 0) c.hvecAt + Config.nsToCycles 1000 ≤ s.cycle)

/-- HANDLER_THREAD_START: a supervisor thread with tag 0 at `hvec` (R39). -/
def doHandlerStart (core : Nat) (s : State) : State :=
  if s.handlerDue core then
    s.startThread (core * 8 + (s.coreAt core).ovh) (s.coreAt core).hvec 0 [] (fun t => { t with mode := .super })
  else s

/-- `HANDLER_THREAD_START`. -/
def execHandlerThreadStart (core : Nat) (s : State) : Host.Outcome State Fault Refusal := event (doHandlerStart core) s

/-! ## Messages enter the queue (R40, R41, R47, R50, R152) -/

/-- The requester of a message, as a home answers it. -/
def MqMsg.waiter (m : MqMsg) : Waiter :=
  { seq := 0, home := 0, who := m.who, core := m.core, rtag := m.rtag, gen := m.gen, remote := m.remote, k := m.k,
    epoch := 0, req := m.req, exp := m.exp, since := m.born, limit := m.limit, va := m.va, refusedAt := none }

/-- Words +16 to +56 of the entry (R40). -/
def MqMsg.words (m : MqMsg) : List Nat :=
  let first : List Nat := match m.req with
    | .spawn _ src pc tag _ => [src, pc.toNat, tag.toNat]
    | .migr _ src ctx => [src, ctx.pc.toNat, ctx.ex.toNat]
    | _ => [m.line, m.peer, 0]
  first ++ [0, 0, 0]

/-- The physical address of the next entry, when the core has a queue and the entry is free (R40). -/
def State.mqFree (s : State) (core : Nat) : Option Nat :=
  let c := s.coreAt core
  if c.mqEntries == 0 then none
  else
    let a := c.mqAddr core c.mqIndex
    if s.tagAt a || c.mqOut.any (fun e => e.idx == a) then none else some a

/-- Writes an entry: words +16 to +63, REPLY emptied, then HDR written and full (R41). -/
def State.writeEntry (s : State) (a : Nat) (m : MqMsg) : State :=
  let s1 := (m.words.zip (List.range 6)).foldl (fun s e => s.homeWrite (a + 16 + 8 * e.2) 8 e.1) s
  let s2 := ((s1.examineSpan (a + 16) 48).setTag (a + 8) false).examine ((a + 8) / 8)
  ((s2.homeWrite a 8 m.kind).setTag a true).examine (a / 8)

/-- Does the requester wait as a parked spawn (R48)? -/
def State.waitsParked (s : State) (m : MqMsg) : Bool :=
  match m.who with
  | .thread uid =>
    match s.tidOf uid with
    | some tid => ((s.thread? tid).map (fun t => t.park == some .spawnParked)).getD false
    | none => false
  | _ => false

/-- A refusal; a parked spawn waits for the next slot that frees (R48). -/
def State.refuseMsg (s : State) (core : Nat) (m : MqMsg) : State :=
  if s.waitsParked m then s.updCore core (fun c => { c with parked := c.parked ++ [m] })
  else s.answer (pkgOfCore core) m.waiter .refused

/-- The sharers that an entry at `a` names under a reply `v` of kind 4: *n* core numbers from +40; none for a broadcast
(R40, R41). -/
def State.namedSharers (s : State) (a v : Nat) : Option (List Nat) :=
  let n := v % 16
  if n ≤ 12 then some ((List.range n).map (fun j => s.readN (a + 40 + 2 * j) 2)) else none

/-- A write to an overflowed line goes on: the copies of the pointed sharers, and of those named or of every core, are
invalidated, and the write is made and answered. A core that the handler does not name keeps its copy (R41, R152). -/
def State.invalidated (s : State) (core : Nat) (m : MqMsg) (named : Option (List Nat)) : State :=
  let line := m.line / 64
  let rest := match mapGet s.dirs line, named with
    | some d, some l => d.more.filter (fun c => !l.contains (c % 2048))
    | _, _ => []
  let s1 : State := { s with dirs := mapDel s.dirs line }
  let (s2, rep) := s1.coherent m.waiter
  let s3 : State := if rest.isEmpty then s2
    else { s2 with dirs := mapPut s2.dirs line { sharers := [], overflowed := false, more := rest, bcast := false } }
  match rep with
  | none => s3
  | some .listed => if m.remote then s3.sendReply (pkgOfCore core) m.waiter .listed else s3
  | some r => s3.answer (pkgOfCore core) m.waiter r

/-- A message that finds no entry (R41). -/
def State.noEntry (s : State) (core : Nat) (m : MqMsg) : State :=
  if m.kind == 3 then
    match mapGet s.dirs (m.line / 64) with
    | some d => { s with dirs := mapPut s.dirs (m.line / 64) { d with bcast := true } }
    | none => s
  else if m.kind == 4 then s.invalidated core m none
  else s.refuseMsg core m

/-- The first message for a core's queue, of the kind given, enters it. -/
def doMessage (kind core : Nat) (s : State) : State :=
  match (s.coreAt core).mqIn with
  | [] => s
  | m :: rest =>
    if m.kind != kind || !s.coreActs core then s
    else
      let s1 := s.updCore core (fun c => { c with mqIn := rest })
      match (if s1.hasHandler core then s1.mqFree core else none) with
      | none => s1.noEntry core m
      | some a =>
        (s1.writeEntry a m).updCore core (fun c =>
          { c with
            mqIndex := c.mqIndex + 1
            mqOut := if kind == 3 then c.mqOut else c.mqOut ++ [{ idx := a, msg := m, since := s.cycle }] })

/-- `SPAWN_REQUEST_MESSAGE` (R47). -/
def execSpawnRequestMessage (core : Nat) (s : State) : Host.Outcome State Fault Refusal := event (doMessage 1 core) s
/-- `MIGRATION_ARRIVAL` (R50). -/
def execMigrationArrival (core : Nat) (s : State) : Host.Outcome State Fault Refusal := event (doMessage 2 core) s
/-- `SHARER_OVERFLOW` (R152). -/
def execSharerOverflow (core : Nat) (s : State) : Host.Outcome State Fault Refusal := event (doMessage 3 core) s
/-- `OVERFLOW_WRITE` (R152). -/
def execOverflowWrite (core : Nat) (s : State) : Host.Outcome State Fault Refusal := event (doMessage 4 core) s

/-! ## Replies of the handler (R41, R47, R50) -/

/-- The context as it arrives (R49, R80, R313): masks 0, `mxctl` and `syncl` reset, trap registers clear. The arrival
counts as the thread's last issue (log 78). -/
def MigrCtx.arrive (c : MigrCtx) (old : Thread) (cycle : Nat) : Thread :=
  { Thread.new c.uid c.pc c.ex with
    g := c.g, gFull := c.gFull, gPoison := old.gPoison, mode := c.mode, trapent := c.trapent, pmode := c.pmode,
    idepth := c.idepth, fcsr := c.fcsr, task := c.task, lastIssue := some cycle }

/-- The arrival is accepted: the thread stands in the slot with the registers that were sent, and its source slot frees
(R50). A fill that reached the source slot since `MIGR` issued does not come along (log 79). A thread that waits for no
arrival any more stays where it is. -/
def State.acceptMigr (s : State) (core slot : Nat) (ctx : MigrCtx) : State :=
  match s.tidOf ctx.uid with
  | none => s
  | some tid =>
    match s.thread? tid with
    | none => s
    | some old =>
      let waits := match old.park with
        | some (.migr _) => true
        | _ => false
      if !waits then s
      else
      let src := coreOfTid tid
      let s1 : State := { s with threads := mapDel s.threads tid }
      let s2 := (s1.updCore src (fun c => { c with reqs := c.reqs.filter (fun r => r.who != .thread ctx.uid) })).slotFreed src
        (slotOfTid tid)
      let s3 := (s2.setThread (core * 8 + slot) (ctx.arrive old s.cycle)).updCore core (fun c => { c with lsOn := true })
      s3.progress src

/-- The core acts on the entry at `a` by its REPLY (R41). -/
def State.actOn (s : State) (core a : Nat) (m : MqMsg) (v : Nat) : State :=
  if m.kind == 4 then s.invalidated core m (s.namedSharers a v)
  else if v != 1 then s.refuseMsg core m
  else
    match s.freeSlot core with
    | none => s.refuseMsg core m
    | some j =>
      match m.req with
      | .spawn _ _ pc tag g => (s.startThread (core * 8 + j) pc tag g id).answer (pkgOfCore core) m.waiter .ok
      | .migr _ _ ctx => s.acceptMigr core j ctx
      | _ => s

/-- An entry's reply is full. -/
def State.replied (s : State) (e : MqEnt) : Bool := s.tagAt (e.idx + 8)

/-- Has no reply been given within 100 μs (R41)? MESSAGE_REPLY_TIMEOUT takes such an entry when the interval ends. -/
def State.replyLate (s : State) (e : MqEnt) : Bool :=
  !s.replied e && decide (e.since + Config.nsToCycles 100000 ≤ s.cycle)

/-- MESSAGE_REPLY_TAKEN: the first entry whose REPLY is full (R41). -/
def doReplyTaken (core : Nat) (s : State) : State :=
  match (s.coreAt core).mqOut.find? (fun e => s.replied e) with
  | none => s
  | some e =>
    if !s.coreActs core then s
    else (s.updCore core (fun c => { c with mqOut := c.mqOut.erase e })).actOn core e.idx e.msg (s.readN (e.idx + 8) 8)

/-- MESSAGE_REPLY_TIMEOUT: a late reply is taken as 2, or as 15 for kind 4 (R41). -/
def doReplyTimeout (core : Nat) (s : State) : State :=
  match (s.coreAt core).mqOut.find? (fun e => s.replyLate e) with
  | none => s
  | some e =>
    if !s.coreActs core then s
    else (s.updCore core (fun c => { c with mqOut := c.mqOut.erase e })).actOn core e.idx e.msg (if e.msg.kind == 4 then 15 else 2)

/-- `MESSAGE_REPLY_TAKEN`. -/
def execMessageReplyTaken (core : Nat) (s : State) : Host.Outcome State Fault Refusal := event (doReplyTaken core) s
/-- `MESSAGE_REPLY_TIMEOUT`. -/
def execMessageReplyTimeout (core : Nat) (s : State) : Host.Outcome State Fault Refusal := event (doReplyTimeout core) s

/-! ## Refusals at the requester (R48, R50, R330) -/

/-- The request that was turned away. -/
def Thread.refusedReq (t : Thread) : Option Req := (t.mail.find? (fun m => m.rep == .refused)).map (fun m => m.req)

/-- The caller runs the child inline (R48); the refusal counts as its last issue (log 78). -/
def Thread.inlineChild (t : Thread) (pc : Word) (cycle : Nat) : Thread :=
  { t.putG 15 (t.pc + 8) with
    idepth := t.idepth + 1, pc := pc, hold := none, mail := [], kept := [], park := none, lastIssue := some cycle }

/-- SPAWN_REFUSED: inline below depth 4, else the spawn waits at its target; with TRAPENT set it always waits (R48,
R330). -/
def doSpawnRefused (tid : Nat) (s : State) : State :=
  match s.thread? tid with
  | none => s
  | some t =>
    match t.park, t.refusedReq with
    | some .refused, some (.spawn core src pc tag g) =>
      if t.idepth < 4 && !t.trapent then (s.setThread tid (t.inlineChild pc s.cycle)).progress (coreOfTid tid)
      else
        let m : MqMsg :=
          { kind := 1, who := .thread t.uid, core := coreOfTid tid, rtag := 0, gen := 0, remote := false, k := 0,
            req := .spawn core src pc tag g, line := 0, peer := 0, exp := t.reqTag, limit := 0, born := s.cycle, va := 0 }
        (s.setThread tid { t with park := some .spawnParked, mail := [] }).updCore (s.forwardCore core)
          (fun c => { c with parked := c.parked ++ [m] })
    | _, _ => s

/-- `SPAWN_REFUSED`. -/
def execSpawnRefused (slot : Nat) (s : State) : Host.Outcome State Fault Refusal := event (doSpawnRefused slot) s

/-- MIGRATION_RESEND: the target has a freed slot again, and a handler to accept the arrival (R50, R313). -/
def doMigrResend (tid : Nat) (s : State) : State :=
  match s.thread? tid with
  | none => s
  | some t =>
    match t.park, t.refusedReq with
    | some (.migr true), some (.migr core _ _) =>
      let c := s.forwardCore core
      if (s.freeSlot c).isSome && s.hasHandler c && (s.coreAt c).mqEntries != 0 then
        s.setThread tid { t with park := none, mail := [] }
      else s
    | _, _ => s

/-- `MIGRATION_RESEND`. -/
def execMigrationResend (slot : Nat) (s : State) : Host.Outcome State Fault Refusal := event (doMigrResend slot) s

/-! ## Task dispatch (R178, R179) -/

/-- Tasks that wait and are ready in a cycle, oldest first: accepted in an earlier one, with a condition that the events
met at the end of the last (R174, R178, R180). -/
def Quad.readyTasks (q : Quad) (cycle : Nat) : List Task :=
  q.tasks.filter (fun k => k.run.isNone && decide (k.since < cycle) && (q.shown &&& k.kw == k.kw))

/-- The highest ready priority; 0 is the highest. -/
def topPri : List Task → Nat
  | [] => 4
  | k :: r => Nat.min k.pri (topPri r)

/-- The task dispatched next, and the streak after it (R178). -/
def Quad.nextTask? (q : Quad) (cycle : Nat) : Option (Task × Nat) :=
  let ready := q.readyTasks cycle
  let top := topPri ready
  let low := ready.filter (fun k => decide (top < k.pri))
  match low with
  | [] => (ready.find? (fun k => k.pri == top)).map (fun k => (k, 0))
  | l :: _ =>
    if 15 ≤ q.streak then some (l, 0) else (ready.find? (fun k => k.pri == top)).map (fun k => (k, q.streak + 1))

/-- The first core of the quad with a free slot, and that slot. -/
def State.quadSlot (s : State) (quad : Nat) : Option (Nat × Nat) :=
  (List.range 4).findSome? (fun j =>
    let core := quad / 512 * 2048 + quad % 512 * 4 + j
    if s.coreRuns core then (s.freeSlot core).map (fun sl => (core, sl)) else none)

/-- TASK_DISPATCH: one ready task of the quad a cycle (R178). Where its condition was met by bits that are owed to it, its
thread waits before its first instruction (R155; log 73). -/
def doTaskDispatch (quad : Nat) (s : State) : State :=
  let q := s.quadAt quad
  if q.dispatchedAt == some s.cycle then s
  else
    match q.nextTask? s.cycle, s.quadSlot quad with
    | some (k, streak), some (core, sl) =>
      let uid := s.nextUid
      let s1 := s.setQuad quad { q with
        streak := streak, dispatchedAt := some s.cycle
        tasks := q.tasks.map (fun x => if x.serial == k.serial then { x with run := some uid } else x) }
      s1.startThread (core * 8 + sl) k.pc k.exp k.args (fun t =>
        { t with task := some (quad, k.serial), park := if s1.eventsOwed core t k.kw then some (.owed k.kw) else none })
    | _, _ => s

/-- `TASK_DISPATCH`. -/
def execTaskDispatch (quad : Nat) (s : State) : Host.Outcome State Fault Refusal := event (doTaskDispatch quad) s

/-- The streak is 0 whenever no task of a lower priority is ready (R178). -/
def Quad.settle (q : Quad) (cycle : Nat) : Quad :=
  let ready := q.readyTasks cycle
  if ready.any (fun k => decide (topPri ready < k.pri)) then q else { q with streak := 0 }

/-! ## Traps (R222, R226) -/

/-- TRAP_ENTRY of a fault that waited for a delivery to `g15` (R222). -/
def doTrapEntry (tid : Nat) (s : State) : State :=
  match s.thread? tid with
  | none => s
  | some t =>
    match t.park with
    | some (.trap tr l) => if t.gPend.getLsbD 15 then s else s.enterTrap tid l tr
    | _ => s

/-- `TRAP_ENTRY`. -/
def execTrapEntry (slot : Nat) (s : State) : Host.Outcome State Fault Refusal := event (doTrapEntry slot) s

/-- MANAGEMENT_THREAD_END: the management core ends a thread in the double-fault state, as an annulment (R226). -/
def doManagementEnd (tid : Nat) (s : State) : State :=
  match s.thread? tid with
  | none => s
  | some t => if t.df then s.endThread tid true else s

/-- `MANAGEMENT_THREAD_END`. -/
def execManagementThreadEnd (slot : Nat) (s : State) : Host.Outcome State Fault Refusal := event (doManagementEnd slot) s

end Sys2Proof.Machine
end

