-- ==== Sys2Proof/Machine/Net.lean ====
section
/-! DEFINITION. What the hubs do with messages: requests, replies, resends and timeouts, retry lists, multicast,
hosts, and the unpick wave (R164, R165, R193 to R196, R202 to R205, R208 to R210). -/
namespace Sys2Proof.Machine

/-! ## Accepting a message (R193) -/

/-- The hub of a package, as a core number. -/
def hubOf (pkg : Nat) : Nat := pkg * 8192 + 2047

/-- Must the hub report the tag to its home: foreign, and not in the reach cache (R193)? -/
def State.mustNote (s : State) (pkg : Nat) (t : Tag) : Bool :=
  tagIndex t != 0 && tagPkg t != pkg && (s.pkgAt (tagPkg t)).member && !(s.pkgAt pkg).reachCache.contains t

/-- Accepts a message: the first that `f` holds of leaves the inbox, and its tag is reported (R193). A hub without a
free request tag for the note leaves the message where it is. -/
def State.takeMsg (s : State) (pkg : Nat) (f : Msg → Bool) : Option (Msg × State) :=
  let p := s.pkgAt pkg
  match p.inbox.find? f with
  | none => none
  | some m =>
    let s1 := s.setPkg pkg { p with inbox := p.inbox.erase m }
    if s.mustNote pkg m.exp then
      match s1.request (hubOf pkg) (tagPkg m.exp) (.hub pkg) 0 0 (.note m.exp pkg) 0 0 0 none 0 0 with
      | some s2 => some (m, s2)
      | none => none
    else some (m, s1)

def Req.isNote : Req → Bool
  | .note _ _ => true
  | _ => false

/-- A request message, other than a reach note. -/
def Msg.isReq (m : Msg) : Bool := match m.body with
  | .req r _ _ => !r.isNote
  | _ => false

def Msg.isNoteReq (m : Msg) : Bool := match m.body with
  | .req r _ _ => r.isNote
  | _ => false

/-! ## A request at its home (R205) -/

/-- The requester as a home sees it; a wait that a full list has refused counts from the first refusal (R165). -/
def msgWaiter (s : State) (m : Msg) (r : Req) (limit : Nat) (first : Option Nat) : Waiter :=
  { seq := s.nextSeq, home := 0, who := .hub (pkgOfCore m.core), core := m.core, rtag := m.rtag, gen := m.gen,
    remote := true, k := 0, epoch := 0, req := r.mapPa s.forwardPa, exp := m.exp,
    since := first.getD s.cycle, limit := limit, va := 0, refusedAt := none }

/-- Has the replay table room for one more recorded request, beside those whose answers are still to come (R205)? -/
def State.replayRoom (s : State) (pkg : Nat) : Bool :=
  let owed (remote : Bool) (q : Req) : Bool := remote && q.recorded && q.homePkg == pkg
  let waits := (s.retry.filter (fun w => owed w.remote w.req)).length
  let asks := ((s.cores.filter (fun e => pkgOfCore e.1 == pkg)).map (fun e =>
    ((e.2.mqIn ++ e.2.mqOut.map (fun x => x.msg)).filter (fun m => owed m.remote m.req)).length)).foldl (· + ·) 0
  decide ((s.pkgAt pkg).replay.length + waits + asks < 4096)

/-- A request performed: its reply, or a listed notice (R203). -/
def State.serve (s : State) (pkg : Nat) (w : Waiter) : State :=
  if s.retry.any (fun x => x.remote && x.core == w.core && x.rtag == w.rtag && x.req == w.req) then
    State.sendReply { s with retry := s.retry.map (fun x =>
      if x.remote && x.core == w.core && x.rtag == w.rtag && x.req == w.req then { x with gen := w.gen } else x) }
      pkg w .listed
  else
    match s.applyReq w with
    | (s1, some .listed) => s1.sendReply pkg w .listed
    | (s1, some .busy) => s1.sendReply pkg w .busy
    | (s1, some rep) => s1.answer pkg w rep
    | (s1, none) =>
      if s1.retry.any (fun x => x.remote && x.core == w.core && x.rtag == w.rtag && x.req == w.req) then
        s1.sendReply pkg w .listed
      else s1

/-- REMOTE_REQUEST_ARRIVAL: the table of R205, then the request. -/
def doRequestArrival (pkg : Nat) (s : State) : State :=
  match s.takeMsg pkg Msg.isReq with
  | none => s
  | some (m, s1) =>
    match m.body with
    | .req r limit first =>
      let w := msgWaiter s1 m r limit first
      if !r.recorded then s1.serve pkg w
      else
        let tab := (s1.pkgAt pkg).replay
        let old := tab.find? (fun e => e.core == m.core && e.rtag == m.rtag)
        match old with
        | some e =>
          if m.resend && (e.gen + 1) % 16 == m.gen then s1.sendReply pkg w e.rep
          else if !m.resend && e.gen == (m.gen + 1) % 16 then s1
          else s1.serve pkg w
        | none =>
          let again := s1.retry.any (fun x => x.remote && x.core == w.core && x.rtag == w.rtag && x.req == w.req)
          if again || s1.replayRoom pkg then s1.serve pkg w else s1.sendReply pkg w .busy
    | _ => s1

/-- REACH_NOTE: the home sets the package's REACH bit, or sends the wave (R193). -/
def doReachNote (pkg : Nat) (s : State) : State :=
  match s.takeMsg pkg Msg.isNoteReq with
  | none => s
  | some (m, s1) =>
    match m.body with
    | .req r limit first => s1.serve pkg (msgWaiter s1 m r limit first)
    | _ => s1

/-! ## Replies (R202 to R205) -/

/-- The outstanding request a reply answers: its tag is in use and the generation is the current one (R204). -/
def State.answers (s : State) (m : Msg) : Option OutReq :=
  (s.coreAt m.core).reqs.find? (fun r => r.rtag == m.rtag && r.gen == m.gen)

def State.dropReq (s : State) (core : Nat) (o : OutReq) : State :=
  s.updCore core (fun c => { c with reqs := c.reqs.filter (fun r => r.rtag != o.rtag) })

/-- A late reply is discarded and counted (R204). -/
def State.lateReply (s : State) (core : Nat) : State := s.updCore core (fun c => { c with late := c.late + 1 })

/-- The issued store that a reply acknowledges (R149). -/
def State.storeOf (s : State) (core : Nat) (o : OutReq) : Option (Nat × Nat) :=
  match o.who with
  | .thread uid =>
    match s.tidOf uid with
    | some tid =>
      if coreOfTid tid == core then
        ((s.thread? tid).bind (fun t => t.stores.find? (fun e => e.2.2.1 == o.rtag))).map (fun e => (tid, e.2.2.2))
      else none
    | none => none
  | _ => none

/-- A posted store is acknowledged, or faults at its own address, and the instruction that the thread has begun since is given
up (log 28); a thread in the double-fault state keeps its state (R226). -/
def State.storeDone (s : State) (tid va : Nat) (o : OutReq) (rep : Reply) : State :=
  let s1 := s.updThread tid (fun t => { t with stores := t.stores.filter (fun e => e.2.2.1 != o.rtag) })
  match rep with
  | .fault tr =>
    if ((s1.thread? tid).map (fun t => t.df)).getD true then s1
    else
      let uid := ((s1.thread? tid).map (fun t => t.uid)).getD 0
      let s2 := (s1.unbegin uid).grantGrow (coreOfTid tid)
      (s2.updThread tid (fun t => { t with pc := o.pc })).takeTrap tid (o.ins.map Latched.instr)
        { tr with addr := BitVec.ofNat 64 va }
  | _ => s1

/-- The end of a request: what waits for it gets the reply. -/
def State.finishReq (s : State) (core : Nat) (o : OutReq) (rep : Reply) : State :=
  let s1 := s.dropReq core o
  match s.storeOf core o with
  | some (tid, va) => s1.storeDone tid va o rep
  | none => s1.mailTo o.who { k := o.k, epoch := o.epoch, req := o.req, rep := rep }

def Msg.replyIs (m : Msg) (f : Reply → Bool) : Bool := match m.body with
  | .reply r => f r
  | _ => false

/-- Does the message answer one of the hub's reach notes? -/
def State.isNoteReply (s : State) (m : Msg) : Bool := match s.answers m with
  | some o => o.req.isNote
  | none => false

/-- A request that a resend completed is logged as a transient (R203). -/
def State.logResent (s : State) (core : Nat) (o : OutReq) : State :=
  if o.resent then s.logError (dieOfCore core) (s.logEnt core 0 1 0 ((o.req.addr).getD 0) 0) else s

/-- REPLY_ARRIVAL: the reply completes its request, or is late (R203, R204). -/
def doReplyArrival (pkg : Nat) (s : State) : State :=
  match s.takeMsg pkg (fun m => m.replyIs (fun r => !r.goesOn) && !s.isNoteReply m) with
  | none => s
  | some (m, s1) =>
    match m.body, s1.answers m with
    | .reply rep, some o => (s1.logResent m.core o).finishReq m.core o rep
    | _, _ => s1.lateReply m.core

/-- REACH_NOTE_ACK: only a LIVE answer enters the tag in the reach cache of 1,024 (R193). -/
def doReachNoteAck (pkg : Nat) (s : State) : State :=
  match s.takeMsg pkg (fun m => m.replyIs (fun _ => true) && s.isNoteReply m) with
  | none => s
  | some (m, s1) =>
    match m.body, s1.answers m with
    | .reply rep, some o =>
      let s2 := (s1.logResent m.core o).dropReq m.core o
      match o.req with
      | .note t _ =>
        if rep == .val 1 then
          s2.updPkg pkg (fun p =>
            let l := p.reachCache.filter (fun x => x != t) ++ [t]
            { p with reachCache := if 1024 < l.length then l.tail else l })
        else s2
      | _ => s2
    | _, _ => s1

def State.updReq (s : State) (core : Nat) (o : OutReq) (f : OutReq → OutReq) : State :=
  s.updCore core (fun c => { c with reqs := c.reqs.map (fun r => if r.rtag == o.rtag then f r else r) })

/-- LISTED_NOTICE: the 50 μs timer stops (R203). -/
def doListedNotice (pkg : Nat) (s : State) : State :=
  match s.takeMsg pkg (fun m => m.replyIs (fun r => r == .listed)) with
  | none => s
  | some (m, s1) =>
    match s1.answers m with
    | some o => s1.updReq m.core o (fun r => { r with sentAt := none })
    | none => s1.lateReply m.core

/-- A home or a full retry list refuses a request, which will be sent again. -/
def Reply.refusal : Reply → Bool
  | .busy => true
  | .full _ => true
  | _ => false

/-- BUSY_REPLY: the timer starts again, and the request will be sent again; a multicast's acknowledgements count anew
(R164, R205). -/
def doBusyReply (pkg : Nat) (s : State) : State :=
  match s.takeMsg pkg (fun m => m.replyIs Reply.refusal) with
  | none => s
  | some (m, s1) =>
    match s1.answers m, m.body with
    | some o, .reply rep =>
      let first : Option Nat := match rep with
        | .full c => some c
        | _ => o.fullAt
      (s1.updReq m.core o (fun r => { r with sentAt := some s1.cycle, busyAt := some s1.cycle, fullAt := first })).updPkg pkg
        (fun p => { p with mcasts := mapDel p.mcasts (m.core * 64 + m.rtag) })
    | _, _ => s1.lateReply m.core

/-- The fan-out group and scope of a multicast's request. -/
def mcastOf (o : OutReq) : Option (Nat × Option Scope) :=
  match o.ins with
  | some (.mcast sc n _ _ _ _) => some (n.toNat, sc)
  | some (.mcast128 sc n _ _ _ _) => some (n.toNat, sc)
  | _ => none

/-- What the number of a multicast's request says: its page's FE attribute, and whether the page is uncached. -/
def mcastMarks (k : Nat) : Option (Bool × Bool) :=
  [(false, false), (true, false), (false, true), (true, true)].find? (fun e => k == mcastK e.1 e.2)

/-- Is the outstanding request a multicast's (R209)? -/
def OutReq.isMcast (o : OutReq) : Bool := (mcastMarks o.k).isSome && (mcastOf o).isSome

/-- A request as it is sent again. -/
def State.sendAgain (s : State) (core : Nat) (o : OutReq) : State :=
  match (if o.isMcast then mcastOf o else none), o.req, o.who with
  | some (n, sc), .wr cells, .thread uid =>
    let marks := (mcastMarks o.k).getD (false, false)
    s.send (mcastMsg (pkgOfCore core) core o.rtag o.gen o.exp o.resent n cells sc marks.1 marks.2 uid)
  | _, _, _ =>
    s.send
      { dst := o.dst, src := pkgOfCore core, cls := reqClass o.req, core := core, rtag := o.rtag, gen := o.gen, exp := o.exp,
        resend := o.resent, body := .req o.req o.limit o.fullAt }

def State.outReq (s : State) (core rtag : Nat) : Option OutReq := (s.coreAt core).reqs.find? (fun r => r.rtag == rtag)

/-- Have `ns` nanoseconds passed since a cycle? -/
def State.passed (s : State) (since ns : Nat) : Bool := decide (since + Config.nsToCycles ns ≤ s.cycle)

/-- Has a wait that a full retry list refused lasted as long as its `syncl` allows, since the first refusal (R165)? -/
def State.fullOver (s : State) (o : OutReq) : Bool := match o.fullAt with
  | some f => o.limit != 0 && o.req.limited && s.passed f (1000 * o.limit)
  | none => false

/-- BUSY_RESEND: 1 μs after the busy reply the request is sent again unchanged (R205); a wait that reaches its limit before
ends with the sync-timeout (R165). -/
def doBusyResend (core rtag : Nat) (s : State) : State :=
  match s.outReq core rtag with
  | none => s
  | some o =>
    match o.busyAt with
    | none => s
    | some c =>
      if s.fullOver o then s.finishReq core o (.fault (mkTrap 0x0B 0 0))
      else if s.passed c 1000 then (s.updReq core o (fun r => { r with busyAt := none })).sendAgain core o
      else s

/-- The request under the next generation (R203). -/
def State.resend (s : State) (core : Nat) (o : OutReq) : State :=
  let o1 : OutReq := { o with gen := (o.gen + 1) % 16, resent := true, sentAt := some s.cycle }
  let s1 := s.updReq core o (fun _ => o1)
  (s1.updCore core (fun c => { c with gens := mapPut c.gens o.rtag o1.gen })).sendAgain core o1

/-- Has the request's copy-channel command been annulled, at a line's request: the tag is freed without a resend, and the
command ends there (R195)? -/
def State.cpGivesUp (s : State) (core : Nat) (o : OutReq) : Bool :=
  o.who == .channel core && (match (s.coreAt core).cpRun with
    | some r => r.annul && r.status.isNone && !r.inUnit true
    | none => false)

/-- An annulled command ends at the line it waits for. -/
def State.cpGiveUp (s : State) (core : Nat) (o : OutReq) : State :=
  (s.dropReq core o).updCore core (fun c => { c with cpRun := c.cpRun.map (fun r => r.ended 2 0 0), cpMail := [] })

/-- REQUEST_RESEND: 50 μs without a reply, once, under the next generation (R203). -/
def doRequestResend (core rtag : Nat) (s : State) : State :=
  match s.outReq core rtag with
  | none => s
  | some o =>
    match o.sentAt with
    | none => s
    | some c =>
      if o.resent || o.busyAt.isSome || !s.passed c 50000 then s
      else if s.cpGivesUp core o then s.cpGiveUp core o
      else s.resend core o

/-- Barrier arrivals and departures raise no remote-timeout (R274; log 72). -/
def Req.neverTimesOut (q : Req) : Bool := match q.base with
  | .bar _ _ .arrive => true
  | .bar _ _ .leave => true
  | _ => false

/-- REMOTE_TIMEOUT_EXPIRY: the resend too has no reply for 50 μs (R203). -/
def doRemoteTimeout (core rtag : Nat) (s : State) : State :=
  match s.outReq core rtag with
  | none => s
  | some o =>
    match o.sentAt with
    | none => s
    | some c =>
      if !o.resent || o.busyAt.isSome || !s.passed c 50000 then s
      else if o.req.neverTimesOut then s.resend core o
      else if s.cpGivesUp core o then s.cpGiveUp core o
      else s.finishReq core o (.fault (mkTrap 0x12 0 0))

/-- REPLAY_ENTRY_EXPIRY: entries are kept for 110 μs (R205). -/
def doReplayExpiry (pkg : Nat) (s : State) : State :=
  s.updPkg pkg (fun p => { p with replay := p.replay.filter (fun e => !s.passed e.since 110000) })

/-! ## Retry lists (R164, R165) -/

/-- RETRY_LIST_EXAMINE: every listed waiter of a home. -/
def doRetryExamine (home : Nat) (s : State) : State :=
  (s.retry.filter (fun w => w.home == home)).foldl (fun s w => match s.wordOf w.req with
    | some x => s.examine x
    | none => s) s

/-- RETRY_LIST_RESEND: 1 μs after a refusal the request is sent again. -/
def doRetryResend (seq : Nat) (s : State) : State :=
  match s.retry.find? (fun w => w.seq == seq) with
  | none => s
  | some w =>
    match w.refusedAt with
    | none => s
    | some c =>
      if s.passed c 1000 then
        let s1 : State := { s with retry := s.retry.filter (fun x => x.seq != seq) }
        let w1 : Waiter := { w with refusedAt := none, since := if w.home == 2 ^ 25 then s.cycle else w.since }
        match s1.applyReq w1 with
        | (s2, some .listed) => s2
        | (s2, some rep) => s2.answer w.req.homePkg w1 rep
        | (s2, none) => s2
      else s

/-- SYNC_TIMEOUT: the retry count has reached the limit (R165). -/
def doSyncTimeout (seq : Nat) (s : State) : State :=
  match s.retry.find? (fun w => w.seq == seq) with
  | none => s
  | some w =>
    if w.limit != 0 && w.req.limited && s.passed w.since (1000 * w.limit) then
      State.answer { s with retry := s.retry.filter (fun x => x.seq != seq) } w.req.homePkg w (.fault (mkTrap 0x0B 0 0))
    else s

/-! ## Registrations (R213) -/

/-- REGISTRATION_MESSAGE: another member's registration arrives. -/
def doRegistration (pkg : Nat) (s : State) : State :=
  match s.takeMsg pkg (fun m => match m.body with | .reg _ _ _ => true | _ => false) with
  | none => s
  | some (m, s1) =>
    match m.body with
    | .reg id serial i => s1.updPkg pkg (fun p => p.peerRegisters m.src id serial i)
    | _ => s1

/-- `REGISTRATION_MESSAGE`. -/
def execRegistrationMessage (pkg : Nat) (s : State) : Host.Outcome State Fault Refusal := event (doRegistration pkg) s

/-! ## Multicast (R208, R209) -/

/-- The destination address at another stack of the delivering package: the same offset (R209). -/
def deliveryAddr (pkg addr k : Nat) : Nat := pkg * 2 ^ 45 + ((addr % 2 ^ 40 / 2 ^ 36 + k) % 16) * 2 ^ 36 + addr % 2 ^ 36

/-- One delivery: the data but its last 8 bytes, then these as a release (R209); on an uncached page they go on to HBM
(R131). -/
def State.deliverAt (s : State) (pa : Nat) (data : List Byte) (fe unc : Bool) : State :=
  let n := data.length - 8
  let cells (l : List Byte) (o : Nat) : List Host.Cell := (l.zip (List.range l.length)).map (fun e => (pa + o + e.2, e.1))
  let words := (List.range (data.length / 8)).map (fun j => pa / 8 + j)
  let s0 := s.dropDirs (.wr (cells data 0))
  let s1 := (s0.writeCells (cells (data.take n) 0)).writeCells (cells (data.drop n) n)
  let s2 := if unc then s1.flushSpan pa data.length else s1
  let s3 := if fe then s2.setTag (pa + n) true else s2
  words.foldl (fun s w => s.examine w) s3

/-- MULTICAST_DELIVERY: the message is forwarded by the package's fan-out entry and delivered at its stacks; a
resend is not written twice (R205, R208, R209). The handlers of overflowed lines that it writes are asked before it
(R152). -/
def doMcastDelivery (pkg : Nat) (s : State) : State :=
  match s.takeMsg pkg (fun m => match m.body with | .mcast _ _ _ _ _ _ _ => true | _ => false) with
  | none => s
  | some (m, s1) =>
    match m.body with
    | .mcast n addr data _ fe unc uid =>
      let f := (mapGet (s1.pkgAt pkg).fan n).getD { out := 0, shift := 0, total := 0, valid := false }
      if !f.valid then s1
      else
        let s2 := (List.range 28).foldl (fun s p =>
          if f.out.getLsbD p then
            s.sendOn pkg p { m with dst := if p < 24 then neighbourPkg s pkg (p / 4) else pkg, src := pkg } else s) s1
        let back (b : Body) : Msg :=
          { dst := pkgOfCore m.core, src := pkg, cls := 1, core := m.core, rtag := m.rtag, gen := m.gen, exp := m.exp,
            resend := false, body := b }
        let marked := (List.range 16).filter (fun k => f.shift.getLsbD k)
        let ack (s : State) : State := marked.foldl (fun s _ => s.send (back (.mcastAck uid))) s
        let write (s2 : State) : State :=
          match s.askLines (marked.flatMap (fun k => linesOf (deliveryAddr pkg addr k) data.length)) with
          | some s3 => s3
          | none =>
            ack ((marked.foldl (fun s k => s.deliverAt (deliveryAddr pkg addr k) data fe unc) s2).recordReplay pkg m.core m.rtag
              m.gen .ok)
        let tab := (s2.pkgAt pkg).replay
        if marked.isEmpty then s2
        else
          match tab.find? (fun e => e.core == m.core && e.rtag == m.rtag) with
          | some e =>
            if m.resend && (e.gen + 1) % 16 == m.gen then ack s2
            else if !m.resend && e.gen == (m.gen + 1) % 16 then s2
            else write s2
          | none => if s1.replayRoom pkg then write s2 else s2.send (back (.reply .busy))
    | _ => s1

/-- MULTICAST_ACK: the issuer goes on when TOTAL deliveries are acknowledged (R209). -/
def doMcastAck (pkg : Nat) (s : State) : State :=
  match s.takeMsg pkg (fun m => match m.body with | .mcastAck _ => true | _ => false) with
  | none => s
  | some (m, s1) =>
    match s1.answers m with
    | none => s1.lateReply m.core
    | some o =>
      match mcastOf o with
      | none => s1
      | some (n, _) =>
        let key := m.core * 64 + m.rtag
        let total := ((mapGet (s1.pkgAt pkg).fan n).map (fun f => f.total.toNat)).getD 0
        let was : Nat := match mapGet (s1.pkgAt pkg).mcasts key with
          | some v => if v / 4096 == m.gen then v % 4096 else 0
          | none => 0
        if total ≤ was + 1 then
          ((s1.logResent m.core o).updPkg pkg (fun p => { p with mcasts := mapDel p.mcasts key })).finishReq m.core o .ok
        else s1.updPkg pkg (fun p => { p with mcasts := mapPut p.mcasts key (m.gen * 4096 + was + 1) })

/-! ## Hosts (R210) -/

/-- What a host request asks of the home; none for a size the home does not serve, or for a full/empty or atomic access
that is not aligned (R147, R166). -/
def hostReq (op : HostOp) (pa size v : Nat) : Option Req :=
  if !(size == 1 || size == 2 || size == 4 || size == 8) then none
  else match op with
    | .ld => some (.rd pa size)
    | .st => some (.wr (cellsOf pa size v))
    | o => if pa % size != 0 then none else match o with
    | .ld => none
    | .st => none
    | .ldwf => some (.feLd .wf pa size)
    | .ldwfe => some (.feLd .wfe pa size)
    | .stsf => some (.feSt .sf pa size (v % 2 ^ (8 * size)))
    | .stwef => some (.feSt .wef pa size (v % 2 ^ (8 * size)))
    | .amo a => if size == 8 then some (.amo a false pa size v) else none

def hostReads : HostOp → Bool
  | .ld => true
  | .ldwf => true
  | .ldwfe => true
  | .amo _ => true
  | _ => false

def hostWrites : HostOp → Bool
  | .ld => false
  | .ldwf => false
  | .ldwfe => false
  | _ => true

def hostWindow (port n : Nat) : Nat := port * 16 + n

/-- Does a window of the port allow the access (R210)? -/
def Pkg.allows (p : Pkg) (port addr size : Nat) (op : HostOp) : Bool :=
  (List.range 16).any (fun n => match mapGet p.windows (hostWindow port n) with
    | some w => decide (w.base ≤ addr) && decide (addr + size ≤ w.base + w.size) && (!hostReads op || w.rd) && (!hostWrites op || w.wr)
    | none => false)

/-! ### The management mailbox (R260, R263, R264) -/

/-- A local address in the firmware area of a stack (R129). -/
def inFirmware (la : Nat) : Bool := decide (la < 2 ^ 40) && decide (Config.firmwareBase ≤ la % 2 ^ 36)

/-- An entry of the error log as its 256 bits (R264). -/
def LogEnt.bits (e : LogEnt) : BitVec 256 :=
  BitVec.ofNat 64 e.detail ++ BitVec.ofNat 64 e.addr ++ BitVec.ofNat 8 e.cause ++ BitVec.ofNat 8 e.kind ++ BitVec.ofNat 7 e.pkg ++
    BitVec.ofNat 2 e.die ++ BitVec.ofNat 11 e.core ++ BitVec.ofNat 3 e.slot ++ 0#25 ++ BitVec.ofNat 64 e.time

/-- Byte `o` of a little-endian number. -/
def byteOf (v o : Nat) : Byte := BitVec.ofNat 8 (v >>> (8 * o))

/-- Byte `o` of a die's error-log ring of 4,096 entries, each in the place of the oldest it overwrote (R264). -/
def Die.ringByte (d : Die) (o : Nat) : Byte :=
  match d.log[(o / 32 + 4096 - d.logLost % 4096) % 4096]? with
  | some e => byteOf e.bits.toNat (o % 32)
  | none => 0

/-- A byte as a host reads it through the mailbox: the error log of a die in its first stack, with the late-reply counters
and the overflow count, else what has been written there (R264; their places are log 83, and log 94 has the counters as
4-byte words in ascending core number and the overflow count as 8 bytes). -/
def State.mailboxByte (s : State) (pkg la : Nat) : Byte :=
  let die := pkg * 4 + la / 2 ^ 36 / 4
  let o := la % 2 ^ 36
  let first := la / 2 ^ 36 % 4 == 0
  if first && decide (Config.logOffset ≤ o) && decide (o < Config.logOffset + 131072) then (s.dieAt die).ringByte (o - Config.logOffset)
  else if first && decide (Config.lateOffset ≤ o) && decide (o < Config.lateOffset + 4 * Config.coresPerDie) then
    byteOf (s.coreAt (die * 2048 + (o - Config.lateOffset) / 4)).late.toNat ((o - Config.lateOffset) % 4)
  else if first && decide (Config.overflowOffset ≤ o) && decide (o < Config.overflowOffset + 8) then
    byteOf (s.dieAt die).logLost (o - Config.overflowOffset)
  else Memory.read (s.pkgAt pkg).mailbox la

/-- A host's plain load or store of the mailbox: what it does and its answer. -/
def State.mailboxReq (s : State) (pkg la size : Nat) (v : Nat) : HostOp → State × Reply
  | .ld => (s, .val ((List.range size).foldl (fun acc o => acc + (s.mailboxByte pkg (la + o)).toNat * 2 ^ (8 * o)) 0))
  | .st => (s.updPkg pkg (fun p => { p with mailbox := (cellsOf la size v).foldl (fun m c => Memory.write m c.1 c.2) p.mailbox }), .ok)
  | _ => (s, .refused)

/-- An access of the package's management mailbox (R260). -/
def mailboxAccess (pkg pa size : Nat) : Bool := pkgOfPa pa == pkg && inFirmware (pa % 2 ^ 45) && decide (size ≤ 8)

/-- A host's message has come in by its edge port: an error reply and no change, or a request that enters the router for the
package that the address names, with the host's core number in its header (R201, R210). The package's mailbox is reached
whatever the windows hold (R260). -/
def State.hostArrives (s : State) (pkg port : Nat) (m : Msg) (op : HostOp) (addr size v : Nat) : State :=
  let pa := addr % 2 ^ 52
  let reply (s : State) (rep : Reply) : State := s.sendReply pkg (msgWaiter s m (.rd pa size) 0 none) rep
  if (s.pkgAt pkg).filtered m.exp then s
  else if mailboxAccess pkg pa size then
    let (s1, rep) := s.mailboxReq pkg (pa % 2 ^ 45) size v op
    reply s1 rep
  else
    match hostReq op pa size v with
    | none => reply s .refused
    | some r =>
      if !(s.pkgAt pkg).allows port (addr % 2 ^ 45) size op || !s.mappable (s.forwardPa pa) || !s.mappable (s.forwardPa (pa + size - 1)) then
        reply s .refused
      else (s.flits { m with body := .req r 0 none } none).foldl (fun s f => s.flitArrives pkg port f) s

/-- Flits that an edge port's receiver can still take of its host: what stands in its queue and on the wire holds credits
(R200). -/
def State.hostCredits (s : State) (pkg port : Nat) : Nat :=
  64 - (((mapGet (s.pkgAt pkg).queues (queueKey port 0)).getD []).length +
    ((s.pkgAt pkg).link (hostLink port)).wire.foldl (fun n f => n + f.flits.length) 0)

/-- HOST_REQUEST: a host sends a request to its edge port, in a frame of its own link direction (R206, R210). Before that
direction has a key, firmware answers accesses of the mailbox alone, and directly (R260; log 95). -/
def doHostRequest (pkg port : Nat) (op : HostOp) (addr size : Nat) (v : Word) (tag : Tag) (s : State) : State :=
  if !(s.pkgAt pkg).powered || port < 24 || 28 ≤ port then s
  else
    let pa := addr % 2 ^ 52
    let l := (s.pkgAt pkg).link (hostLink port)
    match l.txKey with
    | none =>
      if mailboxAccess pkg pa size then
        let (s1, rep) := s.mailboxReq pkg (pa % 2 ^ 45) size v.toNat op
        s1.updPkg pkg (fun p => { p with hostReplies := p.hostReplies ++ [(port, rep)] })
      else s
    | some key =>
      let m : Msg :=
        { dst := pkgOfPa pa, src := pkg, cls := 0, core := hostCore pkg port, rtag := s.nextSeq % 64, gen := 0, exp := tag,
          resend := false, body := .host op addr size v }
      if l.switchDue 1 || s.hostCredits pkg port == 0 || decide (2 ^ 48 - 1 ≤ l.counter) then s
      else
        let frame : Frame := { flits := s.flits m none, key := key, counter := l.counter, switch := false }
        State.updLink { s with nextSeq := s.nextSeq + 1 } pkg (hostLink port)
          (fun l => { l with wire := l.wire ++ [frame], counter := l.counter + 1 })

/-! ## The unpick wave (R194 to R197) -/

/-- A package marks the tag in every gusset it homes that names it; a gusset lapses with its last parent, but not
while its `EXJOIN` runs (R189, R191, R194). -/
def State.markParents (s : State) (pkg : Nat) (t : Tag) : State :=
  (s.pkgAt pkg).exTab.foldl (fun s e =>
    if e.2.gusset && e.2.parents.any (fun p => p.1 == t) then
      let g := mkTag pkg e.1
      let x := s.exAt g
      let ps := x.parents.map (fun p => if p.1 == t then (p.1, true) else p)
      let s1 := s.setEx g { x with parents := ps }
      let runs := match x.forming with
        | some u => (s.tidOf u).isSome
        | none => false
      if x.st == .live && ps.all (fun p => p.2) && !runs then s1.lapse g else s1
    else s) s

/-- Spawns, arrivals and other messages of the tag that wait at a core of the package are withdrawn. -/
def MqMsg.tagged (m : MqMsg) (t : Tag) : Bool := match m.req with
  | .spawn _ _ _ x _ => x == t
  | .migr _ _ ctx => ctx.ex == t
  | _ => false

def Core.dropTag (c : Core) (t : Tag) : Core :=
  { c with
    mqIn := c.mqIn.filter (fun m => !m.tagged t)
    mqOut := c.mqOut.filter (fun e => !e.msg.tagged t)
    parked := c.parked.filter (fun m => !m.tagged t) }

/-- Is the core's partition in SAVING, SAVED or RESTORING, where no wave reaches (R198)? -/
def State.unreached (s : State) (core : Nat) : Bool :=
  match s.partOfCore core with
  | some p => (s.partAt p).st != .run && (s.partAt p).st != .halting
  | none => false

/-- The wave in one package: every holder of R195. -/
def State.waveAt (s : State) (pkg : Nat) (t : Tag) : State :=
  let here (core : Nat) : Bool := pkgOfCore core == pkg && !s.unreached core
  let s1 := s.updPkg pkg (fun p =>
    let f := p.filter.filter (fun e => e.1 != t) ++ [(t, s.cycle)]
    { p with reachCache := p.reachCache.filter (fun x => x != t), filter := if 256 < f.length then f.tail else f })
  let s2 := s1.markParents pkg t
  let s3 := s2.threads.foldl (fun s e =>
    if here (coreOfTid e.1) && e.2.ex == t then s.annul e.1 else s) s2
  let s4 : State := { s3 with
    quads := s3.quads.map (fun e =>
      if e.1 / 2048 == pkg && !s.unreached (e.1 / 512 * 2048) then (e.1, { e.2 with tasks := e.2.tasks.filter (fun k => k.exp != t || k.run.isSome) }) else e)
    retry := s3.retry.filter (fun w => !(w.remote && w.exp == t && w.req.homePkg == pkg)) }
  let s5 := s4.cores.foldl (fun s e =>
    if here e.1 then
      let s6 := ((s.updCore e.1 (fun c => c.dropTag t)).mxDrop e.1 t).cpAnnul e.1 t
      s6.updCore e.1 (fun c =>
        { c with reqs := if c.mxRun.isNone then c.reqs.filter (fun r => r.who != .matrix e.1) else c.reqs })
    else s) s4
  s5.collAnnul pkg t

/-- UNPICK_WAVE_ARRIVAL: the wave is applied, and its home is told (R194). -/
def doWaveArrival (pkg : Nat) (s : State) : State :=
  match s.takeMsg pkg (fun m => match m.body with | .wave _ => true | _ => false) with
  | none => s
  | some (m, s1) =>
    match m.body with
    | .wave t => (s1.waveAt pkg t).send
        { dst := tagPkg t, src := pkg, cls := 2, core := hubOf pkg, rtag := 0, gen := 0, exp := 0, resend := false,
          body := .waveDone t }
    | _ => s1

/-- The home counts the packages that have finished. -/
def State.countDone (s : State) (t : Tag) : State :=
  let home := tagPkg t
  let ms := (s.pkgAt home).inbox.filter (fun m => m.body == .waveDone t)
  let s1 := s.updPkg home (fun p => { p with inbox := p.inbox.filter (fun m => m.body != .waveDone t) })
  s1.setEx t { s1.exAt t with done := ms.foldl (fun d m => setBit d m.src) (s1.exAt t).done }

/-- WAVE_COMPLETE: the wave is complete at every package of REACH (R189). -/
def doWaveComplete (pkg index : Nat) (s : State) : State :=
  let t := mkTag pkg index
  let s1 := if (s.pkgAt pkg).inbox.any (fun m => m.body == .waveDone t) then s.countDone t else s
  let e := s1.exAt t
  if e.st == .lapsing && e.reach &&& ~~~e.done == 0 then
    s1.setEx t { e with st := if e.freePend then .quarantine else .lapsed, since := s1.cycle }
  else s1

/-! ## The events -/

/-- `REMOTE_REQUEST_ARRIVAL`. -/
def execRemoteRequestArrival (pkg : Nat) (s : State) : Host.Outcome State Fault Refusal := event (doRequestArrival pkg) s
/-- `REPLY_ARRIVAL`. -/
def execReplyArrival (pkg : Nat) (s : State) : Host.Outcome State Fault Refusal := event (doReplyArrival pkg) s
/-- `LISTED_NOTICE`. -/
def execListedNotice (pkg : Nat) (s : State) : Host.Outcome State Fault Refusal := event (doListedNotice pkg) s
/-- `BUSY_REPLY`. -/
def execBusyReply (pkg : Nat) (s : State) : Host.Outcome State Fault Refusal := event (doBusyReply pkg) s
/-- `BUSY_RESEND`. -/
def execBusyResend (core rtag : Nat) (s : State) : Host.Outcome State Fault Refusal := event (doBusyResend core rtag) s
/-- `REQUEST_RESEND`. -/
def execRequestResend (core rtag : Nat) (s : State) : Host.Outcome State Fault Refusal := event (doRequestResend core rtag) s
/-- `REMOTE_TIMEOUT_EXPIRY`. -/
def execRemoteTimeoutExpiry (core rtag : Nat) (s : State) : Host.Outcome State Fault Refusal :=
  event (doRemoteTimeout core rtag) s
/-- `REPLAY_ENTRY_EXPIRY`. -/
def execReplayEntryExpiry (pkg : Nat) (s : State) : Host.Outcome State Fault Refusal := event (doReplayExpiry pkg) s
/-- `RETRY_LIST_EXAMINE`. -/
def execRetryListExamine (home : Nat) (s : State) : Host.Outcome State Fault Refusal := event (doRetryExamine home) s
/-- `RETRY_LIST_RESEND`. -/
def execRetryListResend (seq : Nat) (s : State) : Host.Outcome State Fault Refusal := event (doRetryResend seq) s
/-- `SYNC_TIMEOUT`. -/
def execSyncTimeout (seq : Nat) (s : State) : Host.Outcome State Fault Refusal := event (doSyncTimeout seq) s
/-- `UNPICK_WAVE_ARRIVAL`. -/
def execUnpickWaveArrival (pkg : Nat) (s : State) : Host.Outcome State Fault Refusal := event (doWaveArrival pkg) s
/-- `WAVE_COMPLETE`. -/
def execWaveComplete (pkg index : Nat) (s : State) : Host.Outcome State Fault Refusal := event (doWaveComplete pkg index) s
/-- `REACH_NOTE`. -/
def execReachNote (pkg : Nat) (s : State) : Host.Outcome State Fault Refusal := event (doReachNote pkg) s
/-- `REACH_NOTE_ACK`. -/
def execReachNoteAck (pkg : Nat) (s : State) : Host.Outcome State Fault Refusal := event (doReachNoteAck pkg) s
/-- `MULTICAST_DELIVERY`. -/
def execMulticastDelivery (pkg : Nat) (s : State) : Host.Outcome State Fault Refusal := event (doMcastDelivery pkg) s
/-- `MULTICAST_ACK`. -/
def execMulticastAck (pkg : Nat) (s : State) : Host.Outcome State Fault Refusal := event (doMcastAck pkg) s
/-- `HOST_REQUEST`. -/
def execHostRequest (pkg port : Nat) (op : HostOp) (addr size : Nat) (value : Word) (tag : Tag) (s : State) :
    Host.Outcome State Fault Refusal := event (doHostRequest pkg port op addr size value tag) s

end Sys2Proof.Machine
end

