-- ==== Sys2Proof/Machine/FabricEvents.lean ====
section
/-! DEFINITION. The events of routers, links and the management complex's tables (R199, R200, R206 to R208, R210). -/
namespace Sys2Proof.Machine

/-- A flit that a frame has brought to a port: a host's message is taken by its edge port, every other flit by the router
(R206, R210). -/
def State.linkArrives (s : State) (pkg port : Nat) (f : Flit) : State :=
  match f.msg.body with
  | .host op addr size v => s.hostArrives pkg port f.msg op addr size v.toNat
  | _ => s.flitArrives pkg port f

/-- FRAME_RECEIVE at the receiver of the link that leaves `pkg` by `port`: the first frame on the wire. `ok`
says whether its tag verifies, `lost` the flits that FEC could not correct (R206); port 32 + n is the direction from the host
of edge port n. -/
def doFrameReceive (pkg port : Nat) (ok : Bool) (lost : List Nat) (s : State) : State :=
  let l := (s.pkgAt pkg).link port
  match l.wire with
  | [] => s
  | f :: rest =>
    let s1 := s.updLink pkg port (fun l => { l with wire := rest })
    let (q, qp) := peerPort s pkg port
    if f.switch then
      if l.staged == some f.key then
        s1.updLink pkg port (fun l => { l with rxKey := some f.key, staged := none })
      else s1
    else if ok && l.rxKey == some f.key then
      let keep := (f.flits.zip (List.range f.flits.length)).filter (fun e => !lost.contains e.2)
      let s2 := s1.countDrop q qp (f.flits.length - keep.length)
      keep.foldl (fun s e => s.linkArrives q qp e.1) s2
    else (s1.countDrop q qp f.flits.length).badFrame pkg port

/-- `FLIT_QUEUE_TIMEOUT` (R200). -/
def execFlitQueueTimeout (pkg port : Nat) (s : State) : Host.Outcome State Fault Refusal := event (doFlitQueueTimeout pkg port) s
/-- `FRAME_SEND` (R199, R200, R206). -/
def execFrameSend (pkg port : Nat) (s : State) : Host.Outcome State Fault Refusal := event (doFrameSend pkg port) s
/-- `FRAME_RECEIVE` (R206). -/
def execFrameReceive (pkg port : Nat) (ok : Bool) (lost : List Nat) (s : State) : Host.Outcome State Fault Refusal :=
  event (doFrameReceive pkg port ok lost) s
/-- `KEY_STAGE` (R207). -/
def execKeyStage (pkg port : Nat) (key : BitVec 256) (s : State) : Host.Outcome State Fault Refusal := event (doKeyStage pkg port key) s
/-- `KEY_SWITCH` (R207). -/
def execKeySwitch (pkg port : Nat) (s : State) : Host.Outcome State Fault Refusal := event (doKeySwitch pkg port) s
/-- `KEY_EXHAUSTION` (R207). -/
def execKeyExhaustion (pkg port : Nat) (s : State) : Host.Outcome State Fault Refusal := event (doKeyExhaustion pkg port) s
/-- `PATTERN_TABLE_WRITE` (R199). -/
def execPatternTableWrite (pkg port entry : Nat) (v : BitVec 8) (s : State) : Host.Outcome State Fault Refusal :=
  event (doPatternTableWrite pkg port entry v) s
/-- `FAN_OUT_ENTRY_WRITE` (R208). -/
def execFanOutEntryWrite (pkg n : Nat) (v : Fan) (s : State) : Host.Outcome State Fault Refusal := event (doFanOutEntryWrite pkg n v) s
/-- `HOST_WINDOW_WRITE` (R210). -/
def execHostWindowWrite (pkg port n : Nat) (v : Window) (s : State) : Host.Outcome State Fault Refusal :=
  event (doHostWindowWrite pkg port n v) s

end Sys2Proof.Machine
end

