-- ==== Sys2Proof/Machine/Grammar.lean ====
section
/-! DEFINITION. The grammar mask unit of a quad: `GMLOAD`, `GMSTEP`, `GMMASK` (R247 to R251, R254, R298). -/
namespace Sys2Proof.Machine

/-- A grammar-table fault (R248). -/
def tableFault {α : Type} (reason : Nat) (addr : Nat) : M α := raiseAt 0x11 addr reason

def grammarOf (x : Nat) : Grammar :=
  let f := descField x
  { cls := f 0 8, trans := f 8 8, masks := f 16 8, vocab := f 24 4, nstate := f 28 2, nclass := f 30 2, nsym := f 32 2,
    depth := f 34 1, start := f 36 2 }

/-- The ranges of R247; `x` is the whole descriptor. -/
def grammarOk (g : Grammar) (x : Nat) : Bool :=
  decide (1 ≤ g.vocab) && decide (g.vocab ≤ 2 ^ 20) && decide (1 ≤ g.nstate) && decide (g.nstate ≤ 4096) &&
  decide (1 ≤ g.nclass) && decide (g.nclass ≤ 4096) && decide (1 ≤ g.nsym) && decide (g.nsym ≤ 256) &&
  decide (1 ≤ g.depth) && decide (g.depth ≤ 64) && decide (g.start < g.nstate) && descField x 35 1 == 0 &&
  descField x 38 26 == 0

/-! ## The unit's order (R251) -/

def State.unitLeave (s : State) (qn uid : Nat) : State :=
  s.updQuad qn (fun q => { q with gmQ := q.gmQ.filter (fun u => u != uid && s.inUnit qn u) })

/-- A grammar instruction takes its place when it issues and is applied in its turn; a wait for a table keeps the place
(R251). -/
def gmUnit {α : Type} (body : M α) : M α := fun s =>
  let qn := quadOfCore s.core
  let uid := s.thr.uid
  let ahead := (s.quadAt qn).gmQ.filter (fun u => u != uid && s.inUnit qn u)
  let first := if (s.quadAt qn).gmQ.contains uid then s.unitHead qn == some uid else ahead.isEmpty
  let s1 := if (s.quadAt qn).gmQ.contains uid then s else s.updQuad qn (fun q => { q with gmQ := q.gmQ ++ [uid] })
  if !first then .error (.park .unit) s1
  else
    match body s1 with
    | .ok a s2 => .ok a (s2.unitLeave qn uid)
    | .error (.trap t keep) s2 => .error (.trap t true) ((if keep then s2 else s).unitLeave qn uid)
    | .error e s2 => .error e s2

/-- `GMLOAD` (R247, R298). -/
def execGmload (a : Sc) (s : State) : Host.Outcome State Fault Refusal :=
  run (.gmload a) { rd := [a] } (gmUnit do
    let x ← rdS a
    if x.toNat % 64 != 0 then misaligned x
    else do
      let p ← transSpan loadA x 64
      let w ← loadN 0 p 64
      let g := grammarOf w
      if !grammarOk g w then tableFault 1 x.toNat
      else do
        modify (fun s => s.updQuad (quadOfCore s.core) (fun q =>
          { q with grammar := some g, gmCache := [], ctxs := Vector.replicate 16 { state := g.start, stack := [] } }))
        pure .seq) s

/-- The context an instruction names and the grammar loaded: reasons 5 and 7 (R298). -/
def grammarCtx (a : Word) : M (Grammar × Fin 16) := do
  let s ← get
  if h : a.toNat < 16 then
    match (s.quadAt (quadOfCore s.core)).grammar with
    | none => tableFault 7 0
    | some g => pure (g, ⟨a.toNat, h⟩)
  else tableFault 5 0

/-- The stack top as masks index it: 0 for an empty stack, else symbol + 1 (R249). -/
def GCtx.top (c : GCtx) : Nat :=
  match c.stack with
  | [] => 0
  | t :: _ => t + 1

/-- What `GMSTEP` reports of a context (R248). -/
def GCtx.report (c : GCtx) : Word := BitVec.ofNat 64 (c.state + c.stack.length * 2 ^ 16 + c.top * 2 ^ 32)

def setCtx (n : Fin 16) (c : GCtx) : M Unit :=
  modify (fun s => s.updQuad (quadOfCore s.core) (fun q => { q with ctxs := q.ctxs.set n c }))

/-- `GMSTEP` (R248, R298). -/
def execGmstep (d a b : Sc) (s : State) : Host.Outcome State Fault Refusal :=
  run (.gmstep d a b) { dst := some d, rd := [a, b] } (gmUnit do
    let x ← rdS a
    let tok ← rdS b
    let (g, n) ← grammarCtx x
    if g.vocab ≤ tok.toNat then tableFault 4 0
    else do
      let s ← get
      let c := (s.quadAt (quadOfCore s.core)).ctxs.get n
      let ca : Word := BitVec.ofNat 64 (g.cls + 2 * tok.toNat)
      let cl ← loadVa loadA ca 2
      if g.nclass ≤ cl then tableFault 2 ca.toNat
      else do
        let ta : Word := BitVec.ofNat 64 (g.trans + 4 * (c.state * g.nclass + cl))
        let e ← loadVa loadA ta 4
        let next := e % 2 ^ 12
        let act := e / 2 ^ 12 % 4
        let sym := e / 2 ^ 14 % 256
        if g.nstate ≤ next || g.nsym ≤ sym || e / 2 ^ 22 != 0 then tableFault 2 ta.toNat
        else if act == 3 then tableFault 3 ta.toNat
        else if act == 1 && c.stack.length == g.depth then raiseAt 0x0F 0 n.val
        else if act == 2 && c.stack.isEmpty then raiseAt 0x10 0 n.val
        else if act == 2 && c.stack.head? != some sym then tableFault 8 ta.toNat
        else do
          let c1 : GCtx :=
            { state := next
              stack := if act == 1 then sym :: c.stack else if act == 2 then c.stack.tail else c.stack }
          setCtx n c1
          wrS d c1.report
          pure .seq) s

/-- `GMSTEP.rst` (R248). -/
def execGmstepRst (d a : Sc) (s : State) : Host.Outcome State Fault Refusal :=
  run (.gmstepRst d a) { dst := some d, rd := [a] } (gmUnit do
    let x ← rdS a
    let (g, n) ← grammarCtx x
    let c : GCtx := { state := g.start, stack := [] }
    setCtx n c
    wrS d c.report
    pure .seq) s

/-- Rows of a mask (R249). -/
def Grammar.chunks (g : Grammar) : Nat := (g.vocab + 2047) / 2048

/-- Where a mask row stands (R249). -/
def Grammar.rowAddr (g : Grammar) (st t c : Nat) : Word :=
  BitVec.ofNat 64 (g.masks + ((st * (g.nsym + 1) + t) * g.chunks + c) * 256)

/-- Bits of tokens below VOCAB in a chunk. -/
def Grammar.inVocab (g : Grammar) (c : Nat) : Vec := BitVec.ofNat 2048 (2 ^ (g.vocab - 2048 * c) - 1)

/-- The row of a context's current mask: from the cache, or read as a load and entered, the least recently used of
64 rows leaving (R249, R254). -/
def maskRow (g : Grammar) (n : Fin 16) (c : Nat) : M Vec := do
  let s ← get
  let q := s.quadAt (quadOfCore s.core)
  let x := q.ctxs.get n
  let key := (x.state, x.top, c)
  let row ← match q.gmCache.find? (fun e => e.1 == key) with
    | some e => pure e.2
    | none => do
      let v ← loadSpan 0 (g.rowAddr x.state x.top c) 256
      pure (BitVec.ofNat 2048 v)
  modify (fun s => s.updQuad (quadOfCore s.core) (fun q =>
    { q with gmCache := ((key, row) :: q.gmCache.filter (fun e => e.1 != key)).take 64 }))
  pure (row &&& g.inVocab c)

/-- `GMMASK` (R249, R298). -/
def execGmmask (d : VReg) (a b : Sc) (s : State) : Host.Outcome State Fault Refusal :=
  run (.gmmask d a b) { rd := [a, b], vs := [d] } (gmUnit (vBody (.gmmask d a b) [] (do
    let x ← rdS a
    let c ← rdS b
    let (g, n) ← grammarCtx x
    let _ ← oldV d
    if g.chunks ≤ c.toNat then tableFault 6 0
    else do
      let r ← maskRow g n c.toNat
      pure { vs := [(d, r)] }))) s

/-- `GMMASK.k` (R249, R254, R298). -/
def execGmmaskK (d : KReg) (a b : Sc) (s : State) : Host.Outcome State Fault Refusal :=
  run (.gmmaskK d a b) { rd := [a, b] } (gmUnit do
    let x ← rdS a
    let c ← rdS b
    let (g, n) ← grammarCtx x
    if g.chunks ≤ c.toNat / 8 then tableFault 6 0
    else do
      let r ← maskRow g n (c.toNat / 8)
      wrK d (r.extractLsb' (256 * (c.toNat % 8)) 256)
      pure .seq) s

end Sys2Proof.Machine
end

