-- ==== Sys2Proof/Machine/Scalar.lean ====
section
/-! DEFINITION. The scalar integer class (R267 to R268, R275, R276, R281, R285, R310, R311, R315, R325, R326). -/
namespace Sys2Proof.Machine

/-- `gD ← f(a, b)` of the two-source form (R267). -/
def alu (i : Instr) (d a : Sc) (b : Src2) (f : Word → Word → Word) (s : State) : Host.Outcome State Fault Refusal :=
  run i { dst := some d, rd := a :: src2Regs b } (do
    let x ← rdS a
    let y ← rdSrc2 b
    wrS d (f x y)
    pure .seq) s

/-- `gD ← f(a)` of the one-source form (R281, R315). -/
def alu1 (i : Instr) (d a : Sc) (f : Word → Word) (s : State) : Host.Outcome State Fault Refusal :=
  run i { dst := some d, rd := [a] } (do
    let x ← rdS a
    wrS d (f x)
    pure .seq) s

/-- A division: the integer-divide-by-zero fault, or the result (R285). -/
def divide (i : Instr) (d a : Sc) (b : Src2) (f : Word → Word → Word) (s : State) : Host.Outcome State Fault Refusal :=
  run i { dst := some d, rd := a :: src2Regs b } (do
    let x ← rdS a
    let y ← rdSrc2 b
    if y == 0 then raise 0x1B
    else do
      wrS d (f x y)
      pure .seq) s

/-- `gD` from a constant of the instruction (R311). -/
def loadConst (i : Instr) (d : Sc) (v : Word) (s : State) : Host.Outcome State Fault Refusal :=
  run i { dst := some d } (do
    wrS d v
    pure .seq) s

/-- The shift count: the low 6 bits (R267). -/
def shiftCount (b : Word) : Nat := b.toNat % 64

/-- The high half of the product (R267). -/
def mulHigh (z : Bool) (a b : Word) : Word :=
  if z then BitVec.ofNat 64 (a.toNat * b.toNat / 2 ^ 64) else BitVec.ofInt 64 (a.toInt * b.toInt / 2 ^ 64)

/-- The quotient (R285): truncated toward zero; unsigned under `z`. -/
def quotient (z : Bool) (a b : Word) : Word :=
  if z then BitVec.ofNat 64 (a.toNat / b.toNat) else BitVec.ofInt 64 (Int.tdiv a.toInt b.toInt)

/-- The remainder (R285): the sign of the dividend. -/
def remainder (z : Bool) (a b : Word) : Word :=
  if z then BitVec.ofNat 64 (a.toNat % b.toNat) else BitVec.ofInt 64 (a.toInt - Int.tdiv a.toInt b.toInt * b.toInt)

/-- `a` below `b`: signed, or unsigned under `z`. -/
def below (z : Bool) (a b : Word) : Bool := if z then a.ult b else a.slt b

def minWord (z : Bool) (a b : Word) : Word := if below z b a then b else a
def maxWord (z : Bool) (a b : Word) : Word := if below z a b then b else a

/-- 1 or 0 (R326). -/
def boolWord (b : Bool) : Word := if b then 1 else 0

def compare (cc : Cond) (z : Bool) (a b : Word) : Bool := condHolds cc (below z a b) (a == b)

/-- Zero bits above the most significant 1 (R281). -/
def leadZeros (a : Word) : Word := BitVec.ofNat 64 (64 - bitLen a.toNat)

/-- Zero bits below the least significant 1 (R281). -/
def trailZeros (a : Word) : Word :=
  BitVec.ofNat 64 (match (List.range 64).find? (fun j => a.getLsbD j) with
    | some j => j
    | none => 64)

def popCount {w : Nat} (a : BitVec w) : Nat := ((List.range w).filter (fun j => a.getLsbD j)).length

/-- The field of `w` bits at `p`, extended to 64 bits (R275). -/
def fieldOf (z : Bool) (a : Word) (p w : Nat) : Word :=
  if w == 0 then 0 else extend z w (a.toNat >>> p)

/-- Position and clamped width of a control value (R275). -/
def control (c : Word) : Nat × Nat :=
  let p := c.toNat % 64
  (p, Nat.min (c.toNat / 64 % 128) (64 - p))

/-- `a` with `w` bits at `p` replaced by the low bits of `b` (R275). -/
def insertField (a b : Word) (p w : Nat) : Word :=
  let m : Word := BitVec.ofNat 64 ((2 ^ w - 1) * 2 ^ p)
  (a &&& ~~~m) ||| ((b <<< p) &&& m)

/-- `ADD` (R267). -/
def execAdd (d a : Sc) (b : Src2) (s : State) : Host.Outcome State Fault Refusal :=
  alu (.add d a b) d a b (fun x y => x + y) s

/-- `SUB` (R267). -/
def execSub (d a : Sc) (b : Src2) (s : State) : Host.Outcome State Fault Refusal :=
  alu (.sub d a b) d a b (fun x y => x - y) s

/-- `MUL` (R267). -/
def execMul (d a : Sc) (b : Src2) (s : State) : Host.Outcome State Fault Refusal :=
  alu (.mul d a b) d a b (fun x y => x * y) s

/-- `MULH` (R267). -/
def execMulh (z : Bool) (d a : Sc) (b : Src2) (s : State) : Host.Outcome State Fault Refusal :=
  alu (.mulh z d a b) d a b (mulHigh z) s

/-- `DIV` (R285). -/
def execDiv (z : Bool) (d a : Sc) (b : Src2) (s : State) : Host.Outcome State Fault Refusal :=
  divide (.div z d a b) d a b (quotient z) s

/-- `REM` (R285). -/
def execRem (z : Bool) (d a : Sc) (b : Src2) (s : State) : Host.Outcome State Fault Refusal :=
  divide (.rem z d a b) d a b (remainder z) s

/-- `AND` (R267). -/
def execAnd (d a : Sc) (b : Src2) (s : State) : Host.Outcome State Fault Refusal :=
  alu (.and d a b) d a b (fun x y => x &&& y) s

/-- `OR` (R267). -/
def execOr (d a : Sc) (b : Src2) (s : State) : Host.Outcome State Fault Refusal :=
  alu (.or d a b) d a b (fun x y => x ||| y) s

/-- `XOR` (R267). -/
def execXor (d a : Sc) (b : Src2) (s : State) : Host.Outcome State Fault Refusal :=
  alu (.xor d a b) d a b (fun x y => x ^^^ y) s

/-- `ANDN` (R267). -/
def execAndn (d a : Sc) (b : Src2) (s : State) : Host.Outcome State Fault Refusal :=
  alu (.andn d a b) d a b (fun x y => x &&& ~~~y) s

/-- `SHL` (R267). -/
def execShl (d a : Sc) (b : Src2) (s : State) : Host.Outcome State Fault Refusal :=
  alu (.shl d a b) d a b (fun x y => x <<< shiftCount y) s

/-- `SHR` (R267). -/
def execShr (d a : Sc) (b : Src2) (s : State) : Host.Outcome State Fault Refusal :=
  alu (.shr d a b) d a b (fun x y => x >>> shiftCount y) s

/-- `SAR` (R267). -/
def execSar (d a : Sc) (b : Src2) (s : State) : Host.Outcome State Fault Refusal :=
  alu (.sar d a b) d a b (fun x y => x.sshiftRight (shiftCount y)) s

/-- `MIN` (R267). -/
def execMin (z : Bool) (d a : Sc) (b : Src2) (s : State) : Host.Outcome State Fault Refusal :=
  alu (.min z d a b) d a b (minWord z) s

/-- `MAX` (R267). -/
def execMax (z : Bool) (d a : Sc) (b : Src2) (s : State) : Host.Outcome State Fault Refusal :=
  alu (.max z d a b) d a b (maxWord z) s

/-- `SETC` (R326). -/
def execSetc (cc : Cond) (z : Bool) (d a : Sc) (b : Src2) (s : State) : Host.Outcome State Fault Refusal :=
  alu (.setc cc z d a b) d a b (fun x y => boolWord (compare cc z x y)) s

/-- `CLZ` (R281). -/
def execClz (d a : Sc) (s : State) : Host.Outcome State Fault Refusal := alu1 (.clz d a) d a leadZeros s

/-- `CTZ` (R281). -/
def execCtz (d a : Sc) (s : State) : Host.Outcome State Fault Refusal := alu1 (.ctz d a) d a trailZeros s

/-- `POPC` (R281). -/
def execPopc (d a : Sc) (s : State) : Host.Outcome State Fault Refusal :=
  alu1 (.popc d a) d a (fun x => BitVec.ofNat 64 (popCount x)) s

/-- `BFX` with a control register (R275, R276). -/
def execBfx (z : Bool) (d a b : Sc) (s : State) : Host.Outcome State Fault Refusal :=
  alu (.bfx z d a b) d a (.reg b) (fun x c => fieldOf z x (control c).1 (control c).2) s

/-- `BFX` with a position and a width (R276). -/
def execBfxImm (z : Bool) (d a : Sc) (pos : BitVec 6) (width : BitVec 7) (s : State) :
    Host.Outcome State Fault Refusal :=
  alu1 (.bfxImm z d a pos width) d a (fun x => fieldOf z x pos.toNat width.toNat) s

/-- `BFI` (R275, R276). -/
def execBfi (d a b c : Sc) (s : State) : Host.Outcome State Fault Refusal :=
  run (.bfi d a b c) { dst := some d, rd := [a, b, c] } (do
    let x ← rdS a
    let y ← rdS b
    let z ← rdS c
    wrS d (insertField x y (control z).1 (control z).2)
    pure .seq) s

/-- `SEL` (R325). -/
def execSel (d a : Sc) (b : Src2) (c : Sc) (s : State) : Host.Outcome State Fault Refusal :=
  run (.sel d a b c) { dst := some d, rd := a :: c :: src2Regs b } (do
    let x ← rdS a
    let y ← rdSrc2 b
    let z ← rdS c
    wrS d (if z != 0 then x else y)
    pure .seq) s

/-- `LI`, the 64-bit form (R311). -/
def execLi (d : Sc) (v : BitVec 27) (s : State) : Host.Outcome State Fault Refusal :=
  loadConst (.li d v) d (v.signExtend 64) s

/-- `LI`, the 96-bit form (R311). -/
def execLi96 (d : Sc) (v : BitVec 32) (s : State) : Host.Outcome State Fault Refusal :=
  loadConst (.li96 d v) d (v.signExtend 64) s

/-- `LI`, the 128-bit form (R311). -/
def execLi128 (d : Sc) (v : BitVec 64) (s : State) : Host.Outcome State Fault Refusal :=
  loadConst (.li128 d v) d v s

/-- `LEA` (R310): relative to its own address. -/
def execLea (d : Sc) (b : Src2) (s : State) : Host.Outcome State Fault Refusal :=
  run (.lea d b) { dst := some d, rd := src2Regs b } (do
    let t ← getThr
    let y ← rdSrc2 b
    wrS d (t.pc + y)
    pure .seq) s

/-- `MOV` (R315). -/
def execMov (d a : Sc) (s : State) : Host.Outcome State Fault Refusal := alu1 (.mov d a) d a (fun x => x) s

end Sys2Proof.Machine
end

