-- ==== Sys2Proof/Machine/MaskOps.lean ====
section
/-! DEFINITION. The mask class (R303). -/
namespace Sys2Proof.Machine

/-- `kD ← f(kA, kB)` on all 256 bits. -/
def mask2 (i : Instr) (d a b : KReg) (f : Mask → Mask → Mask) (s : State) : Host.Outcome State Fault Refusal :=
  run i { krd := [a, b] } (do
    let x ← rdK a
    let y ← rdK b
    wrK d (f x y)
    pure .seq) s

/-- `KAND` (R303). -/
def execKand (d a b : KReg) (s : State) : Host.Outcome State Fault Refusal :=
  mask2 (.kand d a b) d a b (fun x y => x &&& y) s

/-- `KOR` (R303). -/
def execKor (d a b : KReg) (s : State) : Host.Outcome State Fault Refusal :=
  mask2 (.kor d a b) d a b (fun x y => x ||| y) s

/-- `KXOR` (R303). -/
def execKxor (d a b : KReg) (s : State) : Host.Outcome State Fault Refusal :=
  mask2 (.kxor d a b) d a b (fun x y => x ^^^ y) s

/-- `KNOT` (R303). -/
def execKnot (d a : KReg) (s : State) : Host.Outcome State Fault Refusal :=
  mask2 (.knot d a) d a a (fun x _ => ~~~x) s

/-- `KPOPC` (R303). -/
def execKpopc (d : Sc) (a : KReg) (s : State) : Host.Outcome State Fault Refusal :=
  run (.kpopc d a) { dst := some d, krd := [a] } (do
    let x ← rdK a
    wrS d (BitVec.ofNat 64 (popCount x))
    pure .seq) s

/-- `KFIRST` (R303): 256 for an all-zero mask. -/
def execKfirst (d : Sc) (a : KReg) (s : State) : Host.Outcome State Fault Refusal :=
  run (.kfirst d a) { dst := some d, krd := [a] } (do
    let x ← rdK a
    wrS d (BitVec.ofNat 64 (match (List.range 256).find? (fun j => x.getLsbD j) with
      | some j => j
      | none => 256))
    pure .seq) s

/-- `KMOV` (R303). -/
def execKmov (d a : KReg) (s : State) : Host.Outcome State Fault Refusal :=
  mask2 (.kmov d a) d a a (fun x _ => x) s

end Sys2Proof.Machine
end

