-- ==== Sys2Proof/Machine/MemEvents.lean ====
section
/-! DEFINITION. The walkers and the translation maintenance block (R135). -/
namespace Sys2Proof.Machine

/-- Entries of a core's and a quad's TLB. -/
def coreTlbSize : Nat := 64
def quadTlbSize : Nat := 2048

/-- Is the entry of a resident page (R131)? -/
def TlbEnt.res (e : TlbEnt) : Bool := e.leaf.getLsbD 61

/-- Resident pages that a quad keeps pinned (R134). -/
def tlbPins : Nat := 64

/-- Enters a translation; a full TLB gives up its oldest entry, but for the first `pins` of resident pages (R134). -/
def tlbPut (l : List TlbEnt) (size pins : Nat) (e : TlbEnt) : List TlbEnt :=
  let m := l.filter (fun x => !(x.root == e.root && x.base == e.base && x.size == e.size)) ++ [e]
  if size < m.length then
    let pinned := (m.filter TlbEnt.res).take pins
    match m.find? (fun x => !pinned.contains x) with
    | some x => m.erase x
    | none => m.tail
  else m

/-- The table pointers of a walk, as the walk cache keeps them. -/
def State.walkPath (s : State) (root v : Nat) : Nat → Nat → Nat → List WalkEnt
  | 0, _, _ => []
  | n + 1, level, table =>
    let e := s.tableEntry table ((v >>> (39 - 9 * level)) % 512)
    if !e.getLsbD 0 || malformed e level || field e 3 1 != 0 then []
    else
      let size := 2 ^ (39 - 9 * level)
      let next := field e 51 12 * 4096
      { root := root, base := v / size * size, size := size, level := level + 1, table := next } ::
        s.walkPath root v n (level + 1) next

/-- Entries of a die's walk cache (R8). -/
def walksSize : Nat := 4096

/-- Enters table pointers in a walk cache, in place of those for the same range; a full one gives up its oldest. -/
def walksPut (l : List WalkEnt) (es : List WalkEnt) : List WalkEnt :=
  es.foldl (fun l e =>
    let m := l.filter (fun x => !(x.root == e.root && x.base == e.base && x.size == e.size)) ++ [e]
    if walksSize < m.length then m.tail else m) l

/-- PAGE_WALK for an address of a core that misses in its TLBs: the leaf enters both, and the pointers of a walk from the
root the walk cache; a walk that faults enters nothing, and the fault is the access's (R130 to R135). -/
def doPageWalk (core : Nat) (va : Word) (s : State) : State :=
  let root := s.rootOf core
  let v := va.toNat
  if 2 ^ 48 ≤ v || !s.mappable root || (s.partOfCore core).isNone then s
  else
    let found := match tlbFind (s.quadAt (quadOfCore core)).tlb root v with
      | some l => some l
      | none => match s.walk core v root with
        | .ok l => some l
        | .error _ => none
    match found with
    | none => s
    | some l =>
      let e : TlbEnt := { root := root, base := l.vbase, size := l.size, leaf := l.entry, level := l.level }
      let s1 := s.updDie (dieOfCore core) (fun d =>
        { d with walks := if (walkFind d.walks root v).isSome then d.walks else walksPut d.walks (s.walkPath root v 4 0 root) })
      (s1.updCore core (fun c => { c with tlb := tlbPut c.tlb coreTlbSize 0 e })).updQuad (quadOfCore core)
        (fun q => { q with tlb := tlbPut q.tlb quadTlbSize tlbPins e })

/-- `PAGE_WALK`. -/
def execPageWalk (core : Nat) (va : Word) (s : State) : Host.Outcome State Fault Refusal := event (doPageWalk core va) s

/-! ## Shootdowns -/

/-- The die's translation maintenance block (R129). -/
def tmbBase (die : Nat) : Nat := (die / 4) * 2 ^ 45 + 0x140000000000 + (die % 4) * 0x1000

/-- Removes a partition's entries that overlap a range (R135). -/
def tlbDrop (root lo hi : Nat) (l : List TlbEnt) : List TlbEnt :=
  l.filter (fun e => !(e.root == root && decide (e.base < hi) && decide (lo < e.base + e.size)))

/-- Removes a partition's table pointers that serve a range (R135). -/
def walksDrop (root lo hi : Nat) (l : List WalkEnt) : List WalkEnt :=
  l.filter (fun e => !(e.root == root && decide (e.base < hi) && decide (lo < e.base + e.size)))

/-- Address ranges of entries of a partition that overlap a range: they are removed, and what was translated with them is
waited for (R135). -/
def TlbEnt.ranges (root lo hi : Nat) (l : List TlbEnt) : List (Nat × Nat) :=
  (l.filter (fun e => e.root == root && decide (e.base < hi) && decide (lo < e.base + e.size))).map (fun e => (e.base, e.base + e.size))

def WalkEnt.ranges (root lo hi : Nat) (l : List WalkEnt) : List (Nat × Nat) :=
  (l.filter (fun e => e.root == root && decide (e.base < hi) && decide (lo < e.base + e.size))).map (fun e => (e.base, e.base + e.size))

/-- SHOOTDOWN_REQUEST: the hardware takes the request, empties GO and removes the entries of the range on every die of
the partition (R135). -/
def doShootRequest (die : Nat) (s : State) : State :=
  let b := tmbBase die
  match s.partOfDie die with
  | none => s
  | some p =>
    if !s.tagAt (b + 16) || (s.dieAt die).shoot.isSome then s
    else
      let lo := s.readN b 8 / 4096 * 4096
      let n := s.readN (b + 8) 8
      let (lo, hi) := if n == 0 then (0, 2 ^ 48) else (lo, lo + 4096 * n)
      let root := (s.partAt p).root
      let s1 := (s.setTag (b + 16) false).examine ((b + 16) / 8)
      let mine (d : Nat) : Bool := s1.partOfDie d == some p
      let gone : List (Nat × Nat) :=
        (s1.dies.filter (fun e => mine e.1)).flatMap (fun e => WalkEnt.ranges root lo hi e.2.walks) ++
        (s1.cores.filter (fun e => mine (dieOfCore e.1))).flatMap (fun e => TlbEnt.ranges root lo hi e.2.tlb) ++
        (s1.quads.filter (fun e => mine (e.1 / 512))).flatMap (fun e => TlbEnt.ranges root lo hi e.2.tlb)
      let s2 := s1.updDie die (fun d => { d with shoot := some ((lo, hi) :: gone, s.cycle) })
      { s2 with
        dies := s2.dies.map (fun e => if mine e.1 then (e.1, { e.2 with walks := walksDrop root lo hi e.2.walks }) else e)
        cores := s2.cores.map (fun e =>
          if mine (dieOfCore e.1) then (e.1, { e.2 with tlb := tlbDrop root lo hi e.2.tlb }) else e)
        quads := s2.quads.map (fun e =>
          if mine (e.1 / 512) then (e.1, { e.2 with tlb := tlbDrop root lo hi e.2.tlb }) else e) }

/-- How far from its address a request may reach: a word, a vector's bytes, or a multicast's (log 54). -/
def Req.extent (q : Req) : Nat :=
  let cells (l : List Host.Cell) : Nat := if l.length ≤ 8 then 8 else if l.length ≤ 256 then 256 else 4096
  match q.base with
  | .rd _ n => Nat.max n 8
  | .wr l => cells l
  | .probe l => cells l
  | .line _ _ _ _ => 64
  | _ => 8

/-- Does an access of the ranges, translated by the cycle given, still run: stores not acknowledged, requests in the fabric,
waiting at a home or for a handler's reply, and the lines of matrix commands (R135; log 54)? -/
def State.accessRuns (s : State) (part : Nat) (ranges : List (Nat × Nat)) (since : Nat) : Bool :=
  let mine (core : Nat) : Bool := s.partOfCore core == some part
  let hit (va len : Nat) : Bool := ranges.any (fun r => decide (r.1 < va + len) && decide (va < r.2))
  let request (q : Req) (va born : Nat) : Bool := q.addr.isSome && decide (born ≤ since) && hit va q.extent
  let lines (l : List MxLine) : Bool := l.any (fun l => hit l.va 64)
  let cmd (c : MxCmd) : Bool := match c.op with
    | .mma _ _ _ a b _ _ _ _ => lines a || lines b
    | .load _ a _ => lines a
    | .store _ _ _ a _ _ => lines a
    | .zero _ _ => false
  let msg (m : MqMsg) : Bool := m.kind == 4 && !m.remote && mine m.core && request m.req m.va m.born
  s.threads.any (fun e => mine (coreOfTid e.1) && e.2.stores.any (fun x => hit x.2.2.2 x.2.1)) ||
  s.cores.any (fun e =>
    (mine e.1 &&
      (e.2.reqs.any (fun r => request r.req r.va r.born) || e.2.mxQ.any cmd || e.2.mxWait.any (fun x => cmd x.2) ||
       (match e.2.mxRun with | some r => cmd r.cmd | none => false))) ||
    e.2.mqIn.any msg || e.2.mqOut.any (fun x => msg x.msg)) ||
  s.retry.any (fun w => !w.remote && mine w.core && request w.req w.va w.since)

/-- SHOOTDOWN_DONE: DONE is written 1 and full (R135). -/
def doShootDone (die : Nat) (s : State) : State :=
  let b := tmbBase die
  match (s.dieAt die).shoot, s.partOfDie die with
  | some (ranges, c), some p =>
    if s.accessRuns p ranges c then s
    else
      (((s.updDie die (fun d => { d with shoot := none })).homeWrite (b + 24) 8 1).setTag (b + 24) true).examine ((b + 24) / 8)
  | _, _ => s

/-- `SHOOTDOWN_REQUEST`. -/
def execShootdownRequest (die : Nat) (s : State) : Host.Outcome State Fault Refusal := event (doShootRequest die) s
/-- `SHOOTDOWN_DONE`. -/
def execShootdownDone (die : Nat) (s : State) : Host.Outcome State Fault Refusal := event (doShootDone die) s

end Sys2Proof.Machine
end

