-- ==== Sys2Proof/Machine/PowerEvents.lean ====
section
/-! DEFINITION. Power and heat (R58 to R61), and the live migration of a core (R236, R237). What the die measures
(currents, temperatures) comes with the event (log 14). -/
namespace Sys2Proof.Machine

/-! ## Slots (R58, R59, R61) -/

/-- The package's rating in watts (R15). -/
def powerRating : Nat := 4200

/-- Cores of a die, by core number. -/
def dieCores (die : Nat) : List Nat := (List.range Config.coresPerDie).map (fun c => die * 2048 + c)

def enabledSlots (c : Core) : Nat := ((List.range 8).filter (fun j => !c.disabled.getLsbD j)).length

/-- The highest-numbered enabled slot other than slot 0 and the handler's (R59). -/
def Core.shedSlot (c : Core) : Option Nat :=
  (List.range 8).reverse.find? (fun j => j != 0 && j != c.ovh && !c.disabled.getLsbD j)

def State.disableSlot (s : State) (core slot : Nat) : State :=
  s.updCore core (fun c => { c with disabled := setBit c.disabled slot })

/-- The core with the most enabled slots that has a slot to give up, ties to the higher number (R59). -/
def State.shedCore (s : State) (die : Nat) : Option Nat :=
  (dieCores die).foldl (fun best c =>
    if (s.coreAt c).shedSlot.isNone then best
    else
      match best with
      | none => some c
      | some b => if enabledSlots (s.coreAt b) ≤ enabledSlots (s.coreAt c) then some c else some b) none

/-- Has 1 μs passed since a slot was disabled? -/
def microPassed (now : Nat) (last : Option Nat) : Bool :=
  match last with
  | none => true
  | some c => decide (c + Config.nsToCycles 1000 ≤ now)

/-- CURRENT_SLOT_DISABLE: the average current over 1 μs exceeds the die's grant (R59). -/
def doCurrentDisable (die avg : Nat) (s : State) : State :=
  if avg ≤ (s.dieAt die).grant || !microPassed s.cycle (s.dieAt die).disableAt then s
  else
    match s.shedCore die with
    | none => s
    | some c =>
      match (s.coreAt c).shedSlot with
      | none => s
      | some j => (s.disableSlot c j).updDie die (fun d => { d with disableAt := some s.cycle })

/-- THERMAL_SLOT_DISABLE: the core's temperature exceeds its threshold (R59). -/
def doThermalDisable (core : Nat) (s : State) : State :=
  if !microPassed s.cycle (s.coreAt core).heatAt then s
  else
    match (s.coreAt core).shedSlot with
    | none => s
    | some j => (s.disableSlot core j).updCore core (fun c => { c with heatAt := some s.cycle })

/-- The slot of a die that is enabled next: the lowest-numbered disabled slot of a core that is cool (R61). -/
def State.enableNext (s : State) (die : Nat) (cool : List Nat) : Option (Nat × Nat) :=
  (List.range 8).findSome? (fun j =>
    ((dieCores die).find? (fun c => cool.contains c && (s.coreAt c).disabled.getLsbD j)).map (fun c => (c, j)))

/-- One die's part of a grant: at most one slot comes back when the die's current allows it, and where it holds no thread
it is free (R47, R48, R58, R61). -/
def State.grantDie (s : State) (die grant avg : Nat) (cool : List Nat) : State :=
  let low := decide (100 * avg ≤ 95 * (s.dieAt die).grant)
  let s1 := s.updDie die (fun d => { d with grant := grant })
  match (if low then s1.enableNext die cool else none) with
  | some (c, j) => s1.updCore c (fun x =>
      { (if (s1.thread? (c * 8 + j)).isNone then x.serveParked else x) with disabled := clrBit x.disabled j })
  | none => s1

/-- POWER_GRANT: budgets of at least 350 W whose sum with the reservation stays within the rating, every 10 μs
(R58). -/
def doPowerGrant (pkg : Nat) (grants avg : List Nat) (reserve : Nat) (cool : List Nat) (s : State) : State :=
  let due := match (s.pkgAt pkg).grantAt with
    | none => true
    | some c => decide (c + Config.nsToCycles 10000 ≤ s.cycle)
  if grants.length == 4 && avg.length == 4 && grants.all (fun g => decide (350 ≤ g)) &&
      decide (grants.foldl (· + ·) reserve ≤ powerRating) && due then
    let s1 := s.updPkg pkg (fun p => { p with grantAt := some s.cycle })
    ((grants.zip avg).zip (List.range 4)).foldl (fun s e => s.grantDie (pkg * 4 + e.2) e.1.1 e.1.2 cool) s1
  else s

/-- `POWER_GRANT`. -/
def execPowerGrant (pkg : Nat) (grants avg : List Nat) (reserve : Nat) (cool : List Nat) (s : State) :
    Host.Outcome State Fault Refusal := event (doPowerGrant pkg grants avg reserve cool) s
/-- `CURRENT_SLOT_DISABLE`. -/
def execCurrentSlotDisable (die avg : Nat) (s : State) : Host.Outcome State Fault Refusal := event (doCurrentDisable die avg) s
/-- `THERMAL_SLOT_DISABLE`. -/
def execThermalSlotDisable (core : Nat) (s : State) : Host.Outcome State Fault Refusal := event (doThermalDisable core) s

/-- THERMAL_RANKING_TABLE_WRITE: the 64 entries, coolest first (R60). -/
def doRankingWrite (die : Nat) (cores : List Nat) (s : State) : State :=
  s.updDie die (fun d => { d with ranking := cores.take 64 })

/-- `THERMAL_RANKING_TABLE_WRITE`. -/
def execThermalRankingTableWrite (die : Nat) (cores : List Nat) (s : State) : Host.Outcome State Fault Refusal :=
  event (doRankingWrite die cores) s

/-! ## Displacement (R60, R112) -/

/-- May the thread leave its core: no access unacknowledged, no delivery pending, no matrix command outstanding, no
command waiting for a queue (R112)? -/
def State.mayLeave (s : State) (core : Nat) (t : Thread) : Bool :=
  let c := s.coreAt core
  t.stores.isEmpty && t.gPend == 0 && t.vPend == 0 && s.mxOutstanding core t.uid == 0 &&
    !c.mxWait.any (fun e => e.2.uid == t.uid) && !c.cpWait.any (fun e => e.2.uid == t.uid)

/-- The first ranked core with a free slot and room for the allotment (R60). -/
def State.coolCore (s : State) (die alot : Nat) : Option (Nat × Nat) :=
  (s.dieAt die).ranking.findSome? (fun n =>
    let c := die * 2048 + n
    if n < Config.coresPerDie && alot ≤ s.poolFree c then (s.freeSlot c).map (fun j => (c, j)) else none)

/-- The thread at its new core: waits for resources of its core or quad, the matrix unit's among them, start over there
(log 80), as do waits for a chain queue, since its ports there lead elsewhere; the answers of its requests, and its place in
barriers, stay its own. -/
def Thread.displaced (t : Thread) (sameQuad : Bool) : Thread :=
  let t1 := { t with fbuf := [], ahead := [], mail := t.mail.filter (fun m => m.k != mxFlagged) }
  match t.park with
  | some (.grow _) => { t1 with park := none }
  | some (.task _) => if sameQuad then t1 else { t1 with park := none }
  | some .noTag => { t1 with park := none }
  | some (.drain _ _) => { t1 with park := none }
  | some (.mxWait _) => { t1 with park := none }
  | some (.mxFlag _) => { t1 with park := none }
  | some .unit => if sameQuad then t1 else { t1 with park := none }
  | _ => t1

/-- HARDWARE_DISPLACEMENT of the thread in a disabled slot (R60). -/
def doDisplacement (tid : Nat) (s : State) : State :=
  let core := coreOfTid tid
  match s.thread? tid with
  | none => s
  | some t =>
    if !(s.coreAt core).disabled.getLsbD (slotOfTid tid) || !s.coreRuns core || !s.mayLeave core t then s
    else
      match s.coolCore (dieOfCore core) t.alot with
      | none => s
      | some (c, j) =>
        let same := quadOfCore c == quadOfCore core
        let s1 : State := { s with threads := mapDel s.threads tid }
        let s2 := s1.updCore core (fun x => { x with growQ := setDel x.growQ t.uid })
        let s3 := if same then s2 else s2.updQuad (quadOfCore core) (fun q => { q with posts := setDel q.posts t.uid })
        let s4 := (s3.setThread (c * 8 + j) (t.displaced same)).updCore c (fun x => { x with lsOn := true })
        (s4.slotFreed core (slotOfTid tid)).grantGrow core

/-- `HARDWARE_DISPLACEMENT`. -/
def execHardwareDisplacement (slot : Nat) (s : State) : Host.Outcome State Fault Refusal := event (doDisplacement slot) s

/-! ## Live migration of a core (R236, R237) -/

/-- Physical addresses in one core's local store, as another core's. -/
def moveAddr (src dst pa : Nat) : Nat :=
  if lsBase src ≤ pa && pa < lsBase src + 2 ^ 19 then lsBase dst + (pa - lsBase src) else pa

def MxLine.move (f : Nat → Nat) (l : MxLine) : MxLine := { l with pa := f l.pa }

def MxCmd.move (f : Nat → Nat) (c : MxCmd) : MxCmd :=
  { c with early := c.early.map (fun e => (f (e.1 * 8) / 8, e.2)), op := match c.op with
    | .mma n fa fb a b d k w z => .mma n fa fb (a.map (MxLine.move f)) (b.map (MxLine.move f)) d k w z
    | .load n a k => .load n (a.map (MxLine.move f)) k
    | .store n t sat a k z => .store n t sat (a.map (MxLine.move f)) k z
    | o => o }

def Mail.move (f : Nat → Nat) (m : Mail) : Mail := { m with req := m.req.mapPa f }

def Thread.moveAddrs (f : Nat → Nat) (t : Thread) : Thread :=
  { t with mail := t.mail.map (Mail.move f), stores := t.stores.map (fun e => (f e.1, e.2)) }

def CpRun.move (f : Nat → Nat) (r : CpRun) : CpRun := { r with cmd := { r.cmd with record := f r.cmd.record } }

/-- Every address a core still holds, moved. -/
def Core.moveAddrs (f : Nat → Nat) (c : Core) : Core :=
  { c with
    mqOut := c.mqOut.map (fun e => { e with idx := f e.idx })
    mxQ := c.mxQ.map (MxCmd.move f)
    mxRun := c.mxRun.map (fun r =>
      { r with cmd := r.cmd.move f, cells := r.cells.map (fun e => (e.1, e.2.map (fun x => (f x.1, x.2)))) })
    mxWait := c.mxWait.map (fun e => (e.1, e.2.move f))
    mxMail := c.mxMail.map (Mail.move f)
    cpQ := c.cpQ.map (fun m => { m with record := f m.record })
    cpRun := c.cpRun.map (CpRun.move f)
    cpWait := c.cpWait.map (fun e => (e.1, { e.2 with record := f e.2.record }))
    cpMail := c.cpMail.map (Mail.move f)
    reqs := c.reqs.map (fun r => { r with req := r.req.mapPa f }) }

def NBuf.moveAddrs (f : Nat → Nat) (n : NBuf) : NBuf :=
  { n with segs := n.segs.map (fun e => (e.1, f e.2.1, e.2.2)), peg := f n.peg,
           run := n.run.map (fun r => { r with record := f r.record }) }

/-- Addresses into a vacated local store stand for its target wherever they were already translated (R237). -/
def State.moveAddrs (s : State) (f : Nat → Nat) : State :=
  { s with
    threads := s.threads.map (fun e => (e.1, e.2.moveAddrs f))
    cores := s.cores.map (fun e => (e.1, e.2.moveAddrs f))
    pkgs := s.pkgs.map (fun e => (e.1,
      { e.2 with
        nbufs := e.2.nbufs.map (fun b => (b.1, b.2.moveAddrs f))
        pegs := e.2.pegs.map (fun x => { x with pa := f x.pa }) }))
    retry := s.retry.map (fun w => { w with req := w.req.mapPa f }) }

/-- May the management core move the core (R236)? -/
def State.mayMove (s : State) (src dst : Nat) : Bool :=
  let die := dieOfCore src
  let ts := s.coreThreads src
  let queue (q : Nat) : Bool := ((mapGet s.chains q).getD []).isEmpty
  src != dst && dieOfCore dst == die && src % 2048 < Config.coresPerDie && dst % 2048 < Config.coresPerDie &&
    s.coreRuns src && (s.coreThreads dst).isEmpty && (s.coreAt dst).keep.isNone &&
    ts.all (fun e => e.2.ports.all (fun p => decide (p.2.kind < 4) || decide (7 < p.2.kind))) &&
    queue (chainKey src true) && queue (chainKey src false) &&
    [6, 7].all (fun k => match chainIn src k with | some q => queue q | none => true) &&
    decide ((s.dieAt die).forward.length < 16) && (mapGet (s.dieAt die).forward src).isNone &&
    (mapGet (s.dieAt die).forward dst).isNone && (s.coreAt dst).moving.isNone

/-- Have the core's queues drained and its requests completed (R236)? -/
def Core.drained (c : Core) : Bool :=
  c.mxQ.isEmpty && c.mxRun.isNone && c.mxWait.isEmpty && c.cpQ.isEmpty && c.cpRun.isNone && c.cpWait.isEmpty &&
    c.reqs.isEmpty

/-- Moves local-store bytes, tags and seam fields (R236). -/
def State.moveStore (s : State) (src dst size : Nat) : State :=
  let f := moveAddr src dst
  let here (pa : Nat) : Bool := decide (lsBase src ≤ pa) && decide (pa < lsBase src + size)
  let s1 := s.clearStore dst 0 size
  let s2 := (s.mem.filter (fun c => here c.1)).foldl (fun (s : State) c => { s with mem := Memory.write s.mem (f c.1) c.2 }) s1
  let s3 := (s.tags.filter (fun w => here (w * 8))).foldl (fun (s : State) w => s.setTag (f (w * 8)) true) s2
  let s4 := (s.seams.filter (fun e => here (e.1 * 64))).foldl (fun (s : State) e => s.setSeam (f (e.1 * 64)) e.2) s3
  let s5 := (s.poison.filter here).foldl (fun (s : State) g => { s with poison := setIns s.poison (f g) }) s4
  s5.clearStore src 0 size

/-- The core's threads, in the same slots of the target; in another quad they leave the old one's posts, and waits for its
tasks or its grammar unit start over (R236; log 80). -/
def State.moveThreads (s : State) (src dst : Nat) : State :=
  let same := quadOfCore src == quadOfCore dst
  let uids := (s.coreThreads src).map (fun e => e.2.uid)
  let wait (t : Thread) : Option Park := match t.park with
    | some (.task since) => if same then some (.task since) else none
    | some .unit => if same then some .unit else none
    | p => p
  let s1 := if same then s
    else s.updQuad (quadOfCore src) (fun q => { q with posts := q.posts.filter (fun u => !uids.contains u) })
  (s.coreThreads src).foldl (fun (s : State) e =>
    State.setThread { s with threads := mapDel s.threads e.1 } (dst * 8 + slotOfTid e.1)
      { e.2 with fbuf := [], park := wait e.2 }) s1

/-- Memberships and arrivals of the source's own barriers become the target's (R236). -/
def State.moveBarriers (s : State) (src dst : Nat) : State :=
  (List.range 16).foldl (fun (s : State) id =>
    let a := barKey .core src id
    let b := barKey .core dst id
    match mapGet s.barriers a with
    | none => s
    | some x =>
      { s with
        barriers := mapPut (mapDel s.barriers a) b x
        threads := s.threads.map (fun e =>
          if e.2.park == some (.barrier a) then (e.1, { e.2 with park := some (.barrier b) }) else e)
        retry := s.retry.map (fun w => match w.req with
          | .bar k u op => if k == a then { w with req := .bar b u op } else w
          | _ => w) }) s

/-- A core's threads leave the barriers of its quad for those of the target's quad with the same ids, arrivals with them
(R236; log 81). -/
def State.moveQuadBarriers (s : State) (src dst : Nat) : State :=
  if quadOfCore src == quadOfCore dst then s
  else
    let uids := (s.coreThreads dst).map (fun e => e.2.uid)
    (List.range 16).foldl (fun (s : State) id =>
      let a := barKey .quad (quadOfCore src) id
      let b := barKey .quad (quadOfCore dst) id
      let x := s.barrierAt a
      let y := s.barrierAt b
      let moved := x.members.filter (fun u => uids.contains u)
      if moved.isEmpty then s
      else
        let rest : Barrier :=
          { x with members := x.members.filter (fun u => !uids.contains u), arrived := x.arrived.filter (fun u => !uids.contains u),
                   since := x.since.filter (fun e => !uids.contains e.1) }
        let joined : Barrier :=
          { y with members := moved.foldl setIns y.members
                   arrived := (x.arrived.filter (fun u => uids.contains u)).foldl setIns y.arrived
                   since := y.since ++ x.since.filter (fun e => uids.contains e.1) }
        let s1 : State :=
          { s with
            barriers := mapPut (mapPut s.barriers a rest) b joined
            threads := s.threads.map (fun e =>
              if e.2.park == some (.barrier a) && uids.contains e.2.uid then (e.1, { e.2 with park := some (.barrier b) }) else e)
            retry := s.retry.map (fun w => match w.req with
              | .bar k u op => if k == a && uids.contains u then { w with req := .bar b u op } else w
              | _ => w) }
        (s1.barrierCheck a).barrierCheck b) s

/-- What the target takes from the source; the queues in `c` have drained (R236). -/
def Core.takeFrom (d c : Core) : Core :=
  { d with
    i4 := c.i4, i5 := c.i5, i6 := c.i6, i7 := c.i7, i8 := c.i8, i10 := c.i10, i11 := c.i11,
    c := c.c, cFull := c.cFull, cPend := c.cPend, cPoison := c.cPoison, cWrites := c.cWrites,
    tvec := c.tvec, hvec := c.hvec, mq := c.mq, csplit := c.csplit, ovh := c.ovh, mqIndex := c.mqIndex,
    mqIn := c.mqIn, mqOut := c.mqOut, parked := c.parked, emptied := c.emptied, hvecAt := c.hvecAt,
    slotTab := c.slotTab, staged := c.staged, due := c.due, keep := c.keep, growQ := c.growQ, acc := c.acc, lsOn := c.lsOn }

/-- The vacated core: at its partition-start values, with its L2 split, its disabled slots and its tag generations. -/
def Core.vacated (c : Core) : Core :=
  { Core.reset with
    csplit := c.csplit, disabled := c.disabled, gens := c.gens, late := c.late, tlb := c.tlb, icache := c.icache,
    lsOn := false, heatAt := c.heatAt, playedAt := c.playedAt }

/-- The move itself (R236): the target's split changes under R79, then everything goes over. -/
def State.moveCore (s : State) (src dst : Nat) : State :=
  let c := s.coreAt src
  let size := 65536 * c.csplit
  let s1 := if (s.coreAt dst).csplit < c.csplit then s.emptySlice dst else s
  let s2 := s1.clearStore dst 0 (65536 * Nat.max c.csplit (s.coreAt dst).csplit)
  let f := moveAddr src dst
  let s3 := (((s2.moveStore src dst size).moveThreads src dst).moveBarriers src dst).moveQuadBarriers src dst
  let s4 := (s3.updCore dst (fun d => d.takeFrom c)).updCore src (fun _ => c.vacated)
  let s5 : State :=
    { s4 with
      retry := s4.retry.map (fun w => if w.home == src then { w with home := dst } else w)
      threads := s4.threads.map (fun e => if coreOfTid e.1 == dst then (e.1, { e.2 with lastIssue := some s.cycle }) else e) }
  ((s5.moveAddrs f).updDie (dieOfCore src) (fun d => { d with forward := mapPut d.forward src dst })).examineSpan (lsBase dst) size

/-- CORE_MIGRATION_REQUEST: refused, or the source stops issuing, and moves once it has drained if the conditions
still hold (R236). -/
def doCoreMigration (src dst : Nat) (s : State) : State :=
  if (s.coreAt src).moving.isNone && !s.mayMove src dst then s
  else if (s.coreAt src).moving != none && (s.coreAt src).moving != some dst then s
  else
    let s1 := s.updCore src (fun c => { c with moving := some dst })
    if !(s1.coreAt src).drained then s1
    else if s1.mayMove src dst then
      match (if (s1.coreAt dst).csplit < (s1.coreAt src).csplit then s1.sliceWait dst else none) with
      | some s2 => s2
      | none => s1.moveCore src dst
    else s1.updCore src (fun c => { c with moving := none })

/-- `CORE_MIGRATION_REQUEST`. -/
def execCoreMigrationRequest (src dst : Nat) (s : State) : Host.Outcome State Fault Refusal := event (doCoreMigration src dst) s

/-- FORWARDING_ENTRY_CLEAR (R237). -/
def doForwardClear (src : Nat) (s : State) : State :=
  s.updDie (dieOfCore src) (fun d => { d with forward := mapDel d.forward src })

/-- `FORWARDING_ENTRY_CLEAR`. -/
def execForwardingEntryClear (src : Nat) (s : State) : Host.Outcome State Fault Refusal := event (doForwardClear src) s

end Sys2Proof.Machine
end

