-- ==== Sys2Proof/Machine/PartEvents.lean ====
section
/-! DEFINITION. Partitions, the save engine and the watchdog (R198, R231 to R235), creation (R128), and bring-up,
measurement and attestation (R260 to R264). -/
namespace Sys2Proof.Machine

/-! ## A partition's holdings -/

def State.inPart (s : State) (p core : Nat) : Bool := s.partOfCore core == some p

def State.partThreads (s : State) (p : Nat) : List (Nat × Thread) := s.threads.filter (fun e => s.inPart p (coreOfTid e.1))

def State.partUids (s : State) (p : Nat) : List Nat := (s.partThreads p).map (fun e => e.2.uid)

/-- Is the address in a local store of one of the dies? -/
def inStoreOf (dies : List Nat) (pa : Nat) : Bool :=
  match placeOf pa with
  | .ls d _ _ => dies.contains (pkgOfPa pa * 4 + d)
  | _ => false

/-- Every local store of the dies reads as zero with every word empty (R231). -/
def State.clearStores (s : State) (dies : List Nat) : State :=
  { s with
    mem := s.mem.filter (fun c => !inStoreOf dies c.1)
    tags := s.tags.filter (fun w => !inStoreOf dies (w * 8))
    seams := s.seams.filter (fun e => !inStoreOf dies (e.1 * 64))
    poison := s.poison.filter (fun g => !inStoreOf dies g) }

/-- Waiters on words of the dies' local stores, whose value or tag has changed, are examined (R164). -/
def State.examineStores (s : State) (dies : List Nat) : State :=
  ((s.retry.filterMap (fun w => s.wordOf w.req)).filter (fun w => inStoreOf dies (w * 8))).foldl (fun s w => s.examine w) s

/-- A core at its partition-start values (R35, R67, R112); what belongs to the hardware stays. -/
def Core.restart (c : Core) : Core :=
  { Core.reset with disabled := c.disabled, gens := c.gens, late := c.late, playedAt := c.playedAt, heatAt := c.heatAt }

/-- Dies without cached translations. -/
def State.dropWalks (s : State) (dies : List Nat) : State :=
  { s with dies := s.dies.map (fun e => if dies.contains e.1 then (e.1, { e.2 with walks := [] }) else e) }

/-- Cores, quads, chains and local stores of the dies at partition-start values (R231). -/
def State.restartDies (s : State) (dies : List Nat) : State :=
  let mine (core : Nat) : Bool := dies.contains (dieOfCore core)
  State.examineStores (State.clearStores
    { s.dropWalks dies with
      cores := s.cores.map (fun e => if mine e.1 then (e.1, e.2.restart) else e)
      quads := s.quads.filter (fun e => !dies.contains (e.1 / 512))
      chains := s.chains.filter (fun e => !mine (e.1 / 2)) } dies) dies

/-- A reset (R231): threads and tasks end without departures or set masks, cores return to their start values, local
stores are cleared, the image is invalid, and the watchdog's count is 0. -/
def State.resetPart (s : State) (p : Nat) : State :=
  let uids := s.partUids p
  let dies := (s.partAt p).dies
  let s1 : State :=
    { s with
      threads := s.threads.filter (fun e => !s.inPart p (coreOfTid e.1))
      barriers := s.barriers.filter (fun e => !e.2.members.any (fun u => uids.contains u))
      retry := s.retry.filter (fun w => !s.inPart p w.core) }
  (s1.restartDies dies).updPart p (fun x =>
    { x with
      st := .run, quiesced := false, saveReq := none, resumeReq := false, image := none, imageValid := false,
      wdAt := s.cycle, stallAt := s.cycle, heldAt := none })

/-! ## Halting (R231, R232, R235) -/

/-- Does a wait stay as it is in HALTING: an arrival at a barrier? -/
def Req.stays : Req → Bool
  | .bar _ _ _ => true
  | _ => false

/-- A withdrawn wait's instruction is latched, to issue afresh at RUN: it reads its operands again (R232). -/
def Thread.relatch (t : Thread) : Thread := { t with park := some .withdrawn, kept := [] }

/-- Withdraws the partition's waits in retry lists (R232). -/
def State.withdrawWaits (s : State) (p : Nat) : State :=
  let ws := s.retry.filter (fun w => s.inPart p w.core && !w.req.stays)
  let owner (s : State) (w : Waiter) : Option Who :=
    if w.remote then (s.outReq w.core w.rtag).map (fun o => o.who) else some w.who
  ws.foldl (fun (s : State) w =>
    let o := owner s w
    let s1 : State := { s with retry := s.retry.filter (fun x => x.seq != w.seq) }
    let s2 := if w.remote then s1.updCore w.core (fun c => { c with reqs := c.reqs.filter (fun r => r.rtag != w.rtag) }) else s1
    match o with
    | some (.thread uid) =>
      match s2.tidOf uid with
      | some tid => s2.updThread tid Thread.relatch
      | none => s2
    | _ => s2) s

/-- HALT_REQUEST: RUN to HALTING; the save timeout runs from here when the request carries a save (R231, R235). -/
def doHalt (p : Nat) (save : Bool) (s : State) : State :=
  if (mapGet s.parts p).isNone || (s.partAt p).st != .run then s
  else
    (s.updPart p (fun x =>
      { x with st := .halting, quiesced := false, saveReq := if save then some s.cycle else none, resumeReq := false })).withdrawWaits p

/-- Have issue, requests and matrix commands of a core come to rest (R232)? -/
def Core.atRest (c : Core) : Bool :=
  c.mxQ.isEmpty && c.mxRun.isNone && c.mxWait.isEmpty && c.reqs.all (fun r => r.req.stays && r.sentAt.isNone)

/-- Is every core of the partition quiesced: no instruction in flight, and a running copy command at a boundary? -/
def State.atRest (s : State) (p : Nat) : Bool :=
  s.cores.all (fun e => !s.inPart p e.1 ||
    (e.2.atRest && (match e.2.cpRun with | some r => !s.cpMidway e.1 r | none => true))) &&
    (s.partThreads p).all (fun e => e.2.stores.isEmpty && !e.2.inFlight) &&
    !s.retry.any (fun w => s.inPart p w.core && !w.req.stays)

/-- The partition enters SAVING: its watchdog holds its count (R231, R234). -/
def Partition.startSave (x : Partition) (cycle : Nat) : Partition := { x with st := .saving, heldAt := some cycle }

/-- The partition enters RUN again. -/
def Partition.resume (x : Partition) : Partition :=
  { x with st := .run, quiesced := false, saveReq := none, resumeReq := false }

/-- QUIESCE_COMPLETE: every core is quiesced; a save or a resume that was requested follows (R231, R232). -/
def doQuiesce (p : Nat) (s : State) : State :=
  if (s.partAt p).st != .halting || (s.partAt p).quiesced then s
  else
    let s1 := s.withdrawWaits p
    if !s1.atRest p then s1
    else
      s1.updPart p (fun x =>
        let y : Partition := { x with quiesced := true }
        if y.saveReq.isSome then y.startSave s1.cycle else if y.resumeReq then y.resume else y)

/-- SAVE_REQUEST to a halted partition (R231, R235). -/
def doSaveRequest (p : Nat) (s : State) : State :=
  if (s.partAt p).st != .halting || (s.partAt p).saveReq.isSome then s
  else
    s.updPart p (fun x =>
      let y : Partition := { x with saveReq := some s.cycle }
      if y.quiesced then y.startSave s.cycle else y)

/-- RESUME_REQUEST to a halted partition (R231); before every core is quiesced it is kept. -/
def doResume (p : Nat) (s : State) : State :=
  if (s.partAt p).st != .halting then s
  else s.updPart p (fun x => if x.quiesced then x.resume else { x with resumeReq := true })

/-! ## Saving and restoring (R198, R233, R235) -/

/-- Cleans and invalidates the L2 of the dies (R233). -/
def State.flushL2 (s : State) (dies : List Nat) : State :=
  let vs := s.visitors.filter (fun e => dies.contains (e.1 / 2 ^ 46))
  let s1 := vs.foldl (fun (s : State) e =>
    (s.cleanHome (e.1 / 2 ^ 46) (e.1 % 2 ^ 46)).dropVisitor (e.1 / 2 ^ 46) (e.1 % 2 ^ 46)) s
  let mine (pa : Nat) : Bool := match homeDie pa with
    | some d => dies.contains d
    | none => false
  let ls := (s1.slice.filter (fun c => mine c.1)).map (fun c => c.1 / 64)
  let s2 := ls.foldl (fun (s : State) l => (s.cleanSlice l).dropSlice l) s1
  { s2 with dirs := s2.dirs.filter (fun e => !mine (e.1 * 64)) }

/-- The image the save engine writes (R233). -/
def State.takeImage (s : State) (p : Nat) : Image :=
  let dies := (s.partAt p).dies
  let uids := s.partUids p
  { threads := s.partThreads p
    cores := s.cores.filter (fun e => s.inPart p e.1)
    quads := s.quads.filter (fun e => dies.contains (e.1 / 512))
    chains := s.chains.filter (fun e => s.inPart p (e.1 / 2))
    barriers := s.barriers.filter (fun e => e.2.members.any (fun u => uids.contains u))
    mem := s.mem.filter (fun c => inStoreOf dies c.1)
    tags := s.tags.filter (fun w => inStoreOf dies (w * 8))
    seams := s.seams.filter (fun e => inStoreOf dies (e.1 * 64))
    poison := s.poison.filter (inStoreOf dies) }

/-- SAVE_COMPLETE: the image is complete, VALID last, and the L2 is clean and empty (R231, R233). -/
def doSaveComplete (p : Nat) (s : State) : State :=
  if (s.partAt p).st != .saving then s
  else
    let s1 := s.flushL2 (s.partAt p).dies
    let im := s1.takeImage p
    s1.updPart p (fun x => { x with st := .saved, saveReq := none, quiesced := false, image := some im, imageValid := true })

/-- SAVE_TIMEOUT: 2 ms after the save request the save is aborted and the partition is reset (R235). -/
def doSaveTimeout (p : Nat) (s : State) : State :=
  match (s.partAt p).saveReq with
  | none => s
  | some c =>
    if ((s.partAt p).st == .halting || (s.partAt p).st == .saving) && s.passed c 2000000 then s.resetPart p else s

/-- Report of a refused restore to the host. -/
def restoreRefused : Nat := 16

/-- RESTORE_REQUEST: SAVED to RESTORING for a valid image, else a refusal reported to the host (R231). -/
def doRestoreRequest (p : Nat) (s : State) : State :=
  if (s.partAt p).st != .saved then s
  else
    s.updPart p (fun x =>
      if x.imageValid then { x with st := .restoring, restoreAt := s.cycle }
      else { x with reports := x.reports ++ [(restoreRefused, p)] })

/-- A saved core as it is loaded: caches are empty, and what belongs to the hardware is the core's own (R233). -/
def Core.loadOver (img live : Core) : Core :=
  { img with tlb := [], icache := [], disabled := live.disabled, heatAt := live.heatAt, late := live.late, gens := live.gens,
             playedAt := live.playedAt }

/-- Loads the image (R233, R251). -/
def State.loadImage (s : State) (p : Nat) (im : Image) : State :=
  let dies := (s.partAt p).dies
  let s1 := State.clearStores
    { s.dropWalks dies with
      threads := im.threads.foldl (fun m e => mapPut m e.1 e.2) (s.threads.filter (fun e => !s.inPart p (coreOfTid e.1)))
      cores := im.cores.foldl (fun m e => mapPut m e.1 (e.2.loadOver (s.coreAt e.1))) s.cores
      quads := im.quads.foldl (fun m e => mapPut m e.1 { e.2 with tlb := [], gmCache := [] }) s.quads
      chains := im.chains.foldl (fun m e => mapPut m e.1 e.2) (s.chains.filter (fun e => !s.inPart p (e.1 / 2)))
      barriers := im.barriers.foldl (fun m e => mapPut m e.1 e.2) s.barriers } dies
  State.examineStores { s1 with
    mem := im.mem.foldl (fun m c => Memory.write m c.1 c.2) s1.mem
    tags := im.tags.foldl setIns s1.tags
    seams := im.seams.foldl (fun m e => mapPut m e.1 e.2) s1.seams
    poison := im.poison.foldl setIns s1.poison } dies

/-- Ends every restored thread, task and copy command whose tag is no longer LIVE (R198). -/
def State.endLapsed (s : State) (p : Nat) : State :=
  let s1 := (s.partThreads p).foldl (fun (s : State) e => if s.tagLive e.2.ex then s else s.annul e.1) s
  let s2 : State :=
    { s1 with
      quads := s1.quads.map (fun e =>
        if s1.inPart p (e.1 / 512 * 2048) then
          (e.1, { e.2 with tasks := e.2.tasks.filter (fun k => s1.tagLive k.exp || k.run.isSome) })
        else e) }
  s2.cores.foldl (fun (s : State) e =>
    if s.inPart p e.1 then
      let tags := (e.2.cpQ ++ e.2.cpWait.map (fun x => x.2) ++ (e.2.cpRun.map (fun r => r.cmd)).toList).map (fun m => m.exp)
      (tags.filter (fun t => !s.tagLive t)).foldl (fun (s : State) t => s.cpAnnul e.1 t) s
    else s) s2

/-- Waits at barriers are that much later by the watchdog's count (R234). -/
def State.shiftStalls (s : State) (p d : Nat) : State :=
  let uids := s.partUids p
  { s with
    barriers := s.barriers.map (fun e =>
      (e.1, { e.2 with since := e.2.since.map (fun x => if uids.contains x.1 then (x.1, x.2 + d) else x) })) }

/-- RESTORE_COMPLETE: the image is loaded and R198 applied, then RUN; an inconsistent image resets the partition
(R231, R235). -/
def doRestoreComplete (p : Nat) (consistent : Bool) (s : State) : State :=
  if (s.partAt p).st != .restoring then s
  else
    match (s.partAt p).image with
    | none => s.resetPart p
    | some im =>
      if !consistent then s.resetPart p
      else
        let held := match (s.partAt p).heldAt with
          | some c => s.cycle - c
          | none => 0
        let s1 := ((s.loadImage p im).endLapsed p).shiftStalls p held
        s1.updPart p (fun x =>
          { x.resume with wdAt := x.wdAt + held, stallAt := x.stallAt + held, heldAt := none })

/-- RESTORE_TIMEOUT: 2 ms in RESTORING (R235). -/
def doRestoreTimeout (p : Nat) (s : State) : State :=
  if (s.partAt p).st == .restoring && s.passed (s.partAt p).restoreAt 2000000 then s.resetPart p else s

/-! ## The watchdog (R56, R80, R234) -/

/-- A barrier of the partition with a member parked for a whole PERIOD. -/
def State.stalled (s : State) (p : Nat) : Option Nat :=
  let x := s.partAt p
  let uids := s.partUids p
  (s.barriers.find? (fun e => e.2.since.any (fun u =>
    uids.contains u.1 && s.passed (Nat.max u.2 x.stallAt) (x.wdPeriod * 1000000)))).map (fun e => e.1)

/-- The hang the watchdog finds now: cause, and for barrier-stall the barrier (R234). -/
def State.hang (s : State) (p : Nat) : Option (Nat × Nat) :=
  let x := s.partAt p
  if !x.wdEn || (x.st != .run && x.st != .halting) then none
  else
    match s.stalled p with
    | some key => some (2, key)
    | none => if !(s.partThreads p).isEmpty && s.passed x.wdAt (x.wdPeriod * 1000000) then some (1, 0) else none

/-- WATCHDOG_REPORT: HCAUSE, a report to the management core and an entry of the error log; the count starts again
(R234, R264). -/
def doWatchdog (p : Nat) (s : State) : State :=
  match s.hang p with
  | none => s
  | some (cause, key) =>
    let die := ((s.partAt p).dies.head?).getD 0
    (s.updPart p (fun x =>
      { x with hcause := cause, reports := x.reports ++ [(cause, key)], wdAt := s.cycle, stallAt := s.cycle })).logError die
      (s.logEnt (die * 2048 + 2047) 0 7 0 0 cause)

/-! ## Bring-up (R128, R260 to R263) -/

/-- LINK_TRAINING_WAKE: a host trains an edge port of a package in power-off, which powers up (R260). It has its position
in the pod from then on, and with it every position that completes the combinations of R13 (log 82). -/
def doWake (pkg port : Nat) (s : State) : State :=
  if (s.pkgAt pkg).powered || port < 24 || 28 ≤ port || 128 ≤ pkg then s
  else
    (s.setPkg pkg { Pkg.reset with member := true, powered := true, bootStep := 1 }).assign
      (coord pkg 0 :: s.positions 0) (coord pkg 1 :: s.positions 1) (coord pkg 2 :: s.positions 2)

/-- Header bytes +0 to +63 of an image (R261). -/
def imageHead (i : FwImage) : List Byte := bytesOf 4 i.kind.toNat ++ bytesOf 4 i.svn.toNat ++ bytesOf 8 i.size.toNat ++ bytesOf 48 i.digest.toNat

/-- Bytes of the staging area of a package's mailbox, as a little-endian number (R260). -/
def Pkg.stagedField (p : Pkg) (o n : Nat) : Nat := memRead p.mailbox (Config.firmwareBase + o) n

/-- Is this the image that stands in the staging area: the header's fields and SIZE bytes of body behind it (R261)? -/
def Pkg.stages (p : Pkg) (i : FwImage) : Bool :=
  p.stagedField 0 4 == i.kind.toNat && p.stagedField 4 4 == i.svn.toNat && p.stagedField 8 8 == i.size.toNat &&
    p.stagedField 16 48 == i.digest.toNat && p.stagedField 64 64 == i.sige.toNat && p.stagedField 128 3309 == i.sigm.toNat &&
    i.body.length == i.size.toNat &&
    (i.body.zip (List.range i.body.length)).all (fun e => p.stagedField (3456 + e.2) 1 == e.1.toNat)

/-- May the image run at a step that expects `kind` (R261)? -/
def imageAccepted (i : FwImage) (kind : Nat) : Bool :=
  i.kind.toNat == kind && i.size.toNat == i.body.length && i.digest == Config.sha384 i.body &&
    Config.verifyEd25519 (imageHead i) i.sige && Config.verifyMlDsa65 (imageHead i) i.sigm && decide (Config.minSvn kind ≤ i.svn.toNat)

/-- Extends measurement register `n` with an image's header (R262). -/
def Pkg.extend (p : Pkg) (n : Fin 8) (i : FwImage) : Pkg :=
  let d := Config.sha384 (imageHead i)
  { p with mr := p.mr.set n (Config.sha384 (bytesOf 48 (p.mr.get n).toNat ++ bytesOf 48 d.toNat)) }

/-- A rejected image (R264). -/
def State.rejectImage (s : State) (pkg die : Nat) (i : FwImage) : State :=
  s.logError (pkg * 4 + die) (s.logEnt ((pkg * 4 + die) * 2048 + 2047) 0 8 0 0 i.kind.toNat)

/-- The ports that step 3 of the boot trains: 24 of the torus and 4 of each stack's base die (R9, R11, R260). -/
def trainedPorts : List Nat := List.range 24 ++ (List.range 16).flatMap (fun st => (List.range 4).map (fun p => stackLink st p))

/-- Has step 3 of the boot been done: has each direction of a link to a powered neighbour a key (R207, R260)? -/
def State.linksKeyed (s : State) (pkg : Nat) : Bool :=
  trainedPorts.all (fun port =>
    let (q, qp) := peerPort s pkg port
    q == pkg || !(s.pkgAt q).powered || (((s.pkgAt pkg).link port).txKey.isSome && ((s.pkgAt q).link qp).txKey.isSome))

/-- IMAGE_SUBMIT: the image in the staging area is verified, measured and run, or logged as rejected (R260 to R262).
Steps 1 and 2 take the management firmware of each die in order; it stages the keys of step 3, and once the links have them
the fabric manager follows, then the loader, and configuration images. An image that does not stand in the staging area is
none. -/
def doImageSubmit (pkg die : Nat) (i : FwImage) (s : State) : State :=
  let p := s.pkgAt pkg
  if !p.powered || 4 ≤ die || !p.stages i then s
  else if p.bootStep == 1 then
    if (s.dieAt (pkg * 4 + die)).fwRuns || (List.range die).any (fun d => !(s.dieAt (pkg * 4 + d)).fwRuns) then s
    else if imageAccepted i 0 then
      (s.setPkg pkg { p.extend 0 i with bootStep := if die == 3 then 3 else 1 }).updDie (pkg * 4 + die) (fun d => { d with fwRuns := true })
    else s.rejectImage pkg die i
  else if p.bootStep == 3 then
    if !s.linksKeyed pkg then s
    else if imageAccepted i 1 then s.setPkg pkg { p.extend 1 i with bootStep := 5 } else s.rejectImage pkg die i
  else if p.bootStep == 5 then
    if imageAccepted i 2 then s.setPkg pkg { p.extend 2 i with bootStep := 6 } else s.rejectImage pkg die i
  else if i.kind.toNat ≤ 2 && imageAccepted i i.kind.toNat then s.setPkg pkg (p.extend 3 i)
  else s.rejectImage pkg die i

/-- Bytes +0 to +447 of a report (R263). -/
def reportHead (pkg time : Nat) (nonce : BitVec 256) (mr : Vector (BitVec 384) 8) : List Byte :=
  bytesOf 4 1 ++ bytesOf 1 pkg ++ bytesOf 3 0 ++ bytesOf 8 time ++ bytesOf 32 nonce.toNat ++
    mr.toList.flatMap (fun m => bytesOf 48 m.toNat) ++ bytesOf 4 (Config.minSvn 0) ++ bytesOf 12 0

/-- ATTESTATION_REQUEST: a report of all eight registers at one instant, into the requester's memory, or for a host into the
mailbox (R263). -/
def doAttest (pkg : Nat) (req : AttestReq) (s : State) : State :=
  let p := s.pkgAt pkg
  if !p.powered then s
  else
    let h := reportHead pkg s.podTime req.nonce p.mr
    let r := h ++ bytesOf 64 (Config.signEd25519 pkg h).toNat ++ bytesOf 3309 (Config.signMlDsa65 pkg h).toNat
    match req.into with
    | none => s.setPkg pkg { p with mailbox :=
        ((List.range r.length).zip r).foldl (fun m e => Memory.write m (Config.reportOffset + e.1) e.2) p.mailbox }
    | some pa =>
      if s.mappable pa && s.mappable (pa + r.length - 1) then
        (s.writeCells ((List.range r.length).map (fun o => pa + o) |>.zip r)).examineSpan pa r.length
      else s

/-- POWER_OFF: nothing of the package keeps its contents; its position in the pod stays (R262). -/
def doPowerOff (pkg : Nat) (s : State) : State :=
  let core (c : Nat) : Bool := pkgOfCore c == pkg
  let addr (pa : Nat) : Bool := pkgOfPa pa == pkg && decide (pa < 2 ^ 52)
  { s with
    threads := s.threads.filter (fun e => !core (coreOfTid e.1))
    cores := s.cores.filter (fun e => !core e.1)
    quads := s.quads.filter (fun e => e.1 / 2048 != pkg)
    dies := s.dies.filter (fun e => e.1 / 4 != pkg)
    pkgs := mapPut s.pkgs pkg { Pkg.reset with member := (s.pkgAt pkg).member }
    parts := (s.parts.map (fun e => (e.1, { e.2 with dies := e.2.dies.filter (fun d => d / 4 != pkg) }))).filter
      (fun e => !e.2.dies.isEmpty)
    barriers := s.barriers.filter (fun e => (e.1 / 16 % 2 ^ 32) / (match keyScope e.1 with | 1 => 8192 | 2 => 2048 | 3 => 4 | _ => 1) != pkg)
    chains := s.chains.filter (fun e => !core (e.1 / 2))
    retry := s.retry.filter (fun w => !core w.core && w.req.homePkg != pkg)
    mem := s.mem.filter (fun c => !addr c.1)
    slice := s.slice.filter (fun c => !addr c.1)
    visitors := s.visitors.filter (fun e => e.1 / 2 ^ 46 / 4 != pkg)
    dirs := s.dirs.filter (fun e => !addr (e.1 * 64))
    tags := s.tags.filter (fun w => !addr (w * 8))
    seams := s.seams.filter (fun e => !addr (e.1 * 64))
    poison := s.poison.filter (fun g => if g < 2 ^ 64 then !addr g else (g - 2 ^ 64) / 2 ^ 46 / 4 != pkg) }

/-- PARTITION_CREATE by the partition loader: the dies, the root table, every core at partition-start values, RUN (R128,
R260). -/
def doPartitionCreate (part : Nat) (dies : List Nat) (root : Nat) (s : State) : State :=
  let free (d : Nat) : Bool := (s.pkgAt (d / 4)).bootStep == 6 && (s.dieAt d).part.isNone
  if (mapGet s.parts part).isSome || dies.isEmpty || !dies.all free || root % 4096 != 0 then s
  else
    let s1 := dies.foldl (fun (s : State) d => s.updDie d (fun x => { x with part := some part })) (s.restartDies dies)
    s1.setPart part { Partition.reset with dies := dies, root := root, wdAt := s.cycle, stallAt := s.cycle }

/-! ## The events -/

/-- `HALT_REQUEST`. -/
def execHaltRequest (part : Nat) (save : Bool) (s : State) : Host.Outcome State Fault Refusal := event (doHalt part save) s
/-- `QUIESCE_COMPLETE`. -/
def execQuiesceComplete (part : Nat) (s : State) : Host.Outcome State Fault Refusal := event (doQuiesce part) s
/-- `SAVE_REQUEST`. -/
def execSaveRequest (part : Nat) (s : State) : Host.Outcome State Fault Refusal := event (doSaveRequest part) s
/-- `RESUME_REQUEST`. -/
def execResumeRequest (part : Nat) (s : State) : Host.Outcome State Fault Refusal := event (doResume part) s
/-- `SAVE_COMPLETE`. -/
def execSaveComplete (part : Nat) (s : State) : Host.Outcome State Fault Refusal := event (doSaveComplete part) s
/-- `SAVE_TIMEOUT`. -/
def execSaveTimeout (part : Nat) (s : State) : Host.Outcome State Fault Refusal := event (doSaveTimeout part) s
/-- `RESTORE_REQUEST`. -/
def execRestoreRequest (part : Nat) (s : State) : Host.Outcome State Fault Refusal := event (doRestoreRequest part) s
/-- `RESTORE_COMPLETE`. -/
def execRestoreComplete (part : Nat) (consistent : Bool) (s : State) : Host.Outcome State Fault Refusal :=
  event (doRestoreComplete part consistent) s
/-- `RESTORE_TIMEOUT`. -/
def execRestoreTimeout (part : Nat) (s : State) : Host.Outcome State Fault Refusal := event (doRestoreTimeout part) s
/-- `WATCHDOG_REPORT`. -/
def execWatchdogReport (part : Nat) (s : State) : Host.Outcome State Fault Refusal := event (doWatchdog part) s
/-- `LINK_TRAINING_WAKE`. -/
def execLinkTrainingWake (pkg port : Nat) (s : State) : Host.Outcome State Fault Refusal := event (doWake pkg port) s
/-- `IMAGE_SUBMIT`. -/
def execImageSubmit (pkg die : Nat) (img : FwImage) (s : State) : Host.Outcome State Fault Refusal := event (doImageSubmit pkg die img) s
/-- `ATTESTATION_REQUEST`. -/
def execAttestationRequest (pkg : Nat) (req : AttestReq) (s : State) : Host.Outcome State Fault Refusal :=
  event (doAttest pkg req) s
/-- `POWER_OFF`. -/
def execPowerOff (pkg : Nat) (s : State) : Host.Outcome State Fault Refusal := event (doPowerOff pkg) s
/-- `PARTITION_CREATE`. -/
def execPartitionCreate (part : Nat) (dies : List Nat) (root : Nat) (s : State) : Host.Outcome State Fault Refusal :=
  event (doPartitionCreate part dies root) s

end Sys2Proof.Machine
end

