-- ==== Sys2Proof/Machine/ScalarFp.lean ====
section
/-! DEFINITION. The scalar floating-point class (R289, R290, R292, R293, R295 to R297). -/
namespace Sys2Proof.Machine

/-- A floating-point result with its flags, zero-extended into `gD` (R64, R289). -/
def fpDest (d : Sc) (r : FRes) : M Next := do
  raiseFlags r.fl
  wrS d (BitVec.ofNat 64 r.bits)
  pure .seq

/-- The low bits of a source that a type takes (R64). -/
def low (t : ETy) (x : Word) : Nat := x.toNat % 2 ^ t.bits

/-- A floating-point operation of two sources in the rounding mode of `fcsr` (R289). -/
def fp2 (i : Instr) (t : ETy) (d a b : Sc) (f : Nat → Nat → Nat → FRes) (s : State) :
    Host.Outcome State Fault Refusal :=
  run i { dst := some d, rd := [a, b] } (do
    let x ← rdS a
    let y ← rdS b
    let th ← getThr
    fpDest d (f th.rm (low t x) (low t y))) s

/-- `FADD` (R289, R290). -/
def execFadd (t : ETy) (d a b : Sc) (s : State) : Host.Outcome State Fault Refusal :=
  fp2 (.fadd t d a b) t d a b (fAdd t) s

/-- `FSUB` (R289, R290). -/
def execFsub (t : ETy) (d a b : Sc) (s : State) : Host.Outcome State Fault Refusal :=
  fp2 (.fsub t d a b) t d a b (fSub t) s

/-- `FMUL` (R289, R290). -/
def execFmul (t : ETy) (d a b : Sc) (s : State) : Host.Outcome State Fault Refusal :=
  fp2 (.fmul t d a b) t d a b (fMul t) s

/-- `FFMA` (R289, R290): one rounding. -/
def execFfma (t : ETy) (d a b c : Sc) (s : State) : Host.Outcome State Fault Refusal :=
  run (.ffma t d a b c) { dst := some d, rd := [a, b, c] } (do
    let x ← rdS a
    let y ← rdS b
    let z ← rdS c
    let th ← getThr
    fpDest d (fFma t th.rm (low t x) (low t y) (low t z))) s

/-- `FDIV` (R289, R290). -/
def execFdiv (t : ETy) (d a b : Sc) (s : State) : Host.Outcome State Fault Refusal :=
  fp2 (.fdiv t d a b) t d a b (fDiv t) s

/-- `FSQRT` (R289, R290). -/
def execFsqrt (t : ETy) (d a : Sc) (s : State) : Host.Outcome State Fault Refusal :=
  run (.fsqrt t d a) { dst := some d, rd := [a] } (do
    let x ← rdS a
    let th ← getThr
    fpDest d (fSqrt t th.rm (low t x))) s

/-- `FMIN` (R295). -/
def execFmin (t : ETy) (d a b : Sc) (s : State) : Host.Outcome State Fault Refusal :=
  fp2 (.fmin t d a b) t d a b (fun _ x y => fMaxMin t false x y) s

/-- `FMAX` (R295). -/
def execFmax (t : ETy) (d a b : Sc) (s : State) : Host.Outcome State Fault Refusal :=
  fp2 (.fmax t d a b) t d a b (fun _ x y => fMaxMin t true x y) s

/-- `FSETC` (R296). -/
def execFsetc (cc : Cond) (t : ETy) (d a b : Sc) (s : State) : Host.Outcome State Fault Refusal :=
  fp2 (.fsetc cc t d a b) t d a b (fun _ x y =>
    let r := fCompare t cc x y
    { bits := if r.1 then 1 else 0, fl := r.2 }) s

/-- A conversion's result extended to 64 bits (R293): sign-extended for a signed integer type. -/
def convWord (dt : ETy) (z : Bool) (r : FRes) : Word :=
  if dt.isInt && !z then extend false dt.bits r.bits else BitVec.ofNat 64 r.bits

/-- `FCVT` (R293). -/
def execFcvt (dt st : ETy) (z sat : Bool) (d a : Sc) (s : State) : Host.Outcome State Fault Refusal :=
  run (.fcvt dt st z sat d a) { dst := some d, rd := [a] } (do
    let x ← rdS a
    let th ← getThr
    let r := convert dt z sat th.rm (valOf st z (low st x))
    raiseFlags r.fl
    wrS d (convWord dt z r)
    pure .seq) s

/-- `FCLASS` (R292). -/
def execFclass (t : ETy) (d a : Sc) (s : State) : Host.Outcome State Fault Refusal :=
  run (.fclass t d a) { dst := some d, rd := [a] } (do
    let x ← rdS a
    wrS d (BitVec.ofNat 64 (fClass t (low t x)))
    pure .seq) s

/-- `FSGN` (R297). -/
def execFsgn (op : SgnOp) (t : ETy) (d a b : Sc) (s : State) : Host.Outcome State Fault Refusal :=
  run (.fsgn op t d a b) { dst := some d, rd := [a, b] } (do
    let x ← rdS a
    let y ← rdS b
    wrS d (BitVec.ofNat 64 (fSign t op (low t x) (low t y)))
    pure .seq) s

end Sys2Proof.Machine
end

