-- ==== Sys2Proof/Machine/VecMem.lean ====
section
/-! DEFINITION. The memory forms of the vector class (R228, R229, R343 to R345). -/
namespace Sys2Proof.Machine

/-- Bytes that one mask bit governs (R345). -/
def maskBytes (t : ETy) : Nat := Nat.max 1 (t.bits / 8)

/-- Part of the 256 bytes: its offset and length. -/
def wordRuns (va : Word) : Nat → Nat → Nat → List (Nat × Nat)
  | 0, _, _ => []
  | fuel + 1, off, n =>
    if n == 0 then []
    else
      let m := Nat.min n (8 - (va.toNat + off) % 8)
      (off, m) :: wordRuns va fuel (off + m) (n - m)

def lineRuns (va : Word) : Nat → Nat → Nat → List (Nat × Nat)
  | 0, _, _ => []
  | fuel + 1, off, n =>
    if n == 0 then []
    else
      let m := Nat.min n (64 - (va.toNat + off) % 64)
      (off, m) :: lineRuns va fuel (off + m) (n - m)

/-- The accesses of `VLD` and `VST`: whole lines where every byte is active, else the 8-byte words that hold an
active byte (R345). -/
def activeRuns (va : Word) (act : Nat → Bool) : List (Nat × Nat) :=
  (lineRuns va 6 0 256).flatMap (fun r =>
    if (List.range r.2).all (fun j => act (r.1 + j)) then [r]
    else (wordRuns va 10 r.1 r.2).filter (fun e => (List.range e.2).any (fun j => act (e.1 + j))))

/-- The first active byte of a run: the address a fault names. -/
def firstActive (act : Nat → Bool) (r : Nat × Nat) : Nat :=
  ((List.range r.2).find? (fun j => act (r.1 + j))).getD 0 + r.1

/-- Translates each run at its first active byte. -/
def transRuns (x : Access) (va : Word) (act : Nat → Bool) (l : List (Nat × Nat)) : M (List (Phys × Nat × Nat)) :=
  l.mapM (fun r => do
    let f := firstActive act r
    let p ← trans x (va + BitVec.ofNat 64 f)
    match placeOf p.pa with
    | .tmb _ _ => ((List.range r.2).filter (fun j => act (r.1 + j))).forM (fun j => do
        let _ ← trans x (va + BitVec.ofNat 64 (r.1 + j))
        pure ())
    | _ => pure ()
    pure ({ p with pa := p.pa - (f - r.1) }, r.1, r.2))

/-- `VLD` (R345). -/
def execVld (t : ETy) (d : VReg) (a : Sc) (off : BitVec 27) (k : KReg) (s : State) :
    Host.Outcome State Fault Refusal :=
  runV (.vld t d a off k) (vuses (some d) [] k [a]) [] (do
    let b ← rdS a
    let m ← rdK k
    let va := b + offVal off
    let mb := maskBytes t
    if va.toNat % mb != 0 then misaligned va
    else do
      let old ← oldV d
      let act (j : Nat) : Bool := m.getLsbD (j / mb)
      let rs ← transRuns loadA va act (activeRuns va act)
      rs.forM (fun e => loadPoison e.1 e.2.2)
      let xs ← loadEach ((rs.zip (List.range rs.length)).map (fun e => (e.2, e.1.1, e.1.2.2)))
      let all := (xs.zip rs).foldl (fun acc e => acc ||| e.1 * 2 ^ (8 * e.2.2.1)) 0
      pure { vs := [(d, merge .i8 (packMask act 256) old (fun j => all / 2 ^ (8 * j)))] }) s

/-- `VST` (R345). -/
def execVst (t : ETy) (a : Sc) (off : BitVec 27) (b : VReg) (k : KReg) (s : State) :
    Host.Outcome State Fault Refusal :=
  let i : Instr := .vst t a off b k
  runV i (vuses none [b] k [a]) [b] (do
    let x ← rdS a
    let m ← rdK k
    let va := x + offVal off
    let mb := maskBytes t
    if va.toNat % mb != 0 then misaligned va
    else do
      let v ← rdV b
      let act (j : Nat) : Bool := m.getLsbD (j / mb)
      let rs ← transRuns storeFirst va act (activeRuns va act)
      rs.forM (fun e => cowCheck e.1)
      let cs := rs.map (fun e => (e.1, e.2.2, (cellsOf e.1.pa e.2.2 (v.toNat / 2 ^ (8 * e.2.1))).filter
        (fun c => act (c.1 - e.1.pa + e.2.1))))
      if ← farDone 0 then pure ()
      else checkEach ((cs.zip (List.range cs.length)).map (fun e => storePoison (400 + e.2) e.1.1 e.1.2.2))
      storeAll 0 (some i) cs
      pure {}) s

/-- The address of lane `j` of a gather or scatter (R344). -/
def laneAddr (base : Word) (x : Vec) (j : Nat) : Word := base + extend false 32 (lane 32 x j)

/-- The active lanes with their addresses; the lowest misaligned one faults (R344). -/
def laneAddrs (base : Word) (x : Vec) (m : Mask) : M (List (Nat × Word)) := do
  let l := ((List.range 64).filter (fun j => m.getLsbD j)).map (fun j => (j, laneAddr base x j))
  match l.find? (fun e => e.2.toNat % 4 != 0) with
  | some e => misaligned e.2
  | none => pure l

/-- Acts on the active lanes in ascending order: a fault is taken at its lane, but for a remote-timeout, which comes after
every lane's own checks (R344). -/
def eachLane {α : Type} (l : List (Nat × Word)) (act : Nat → Word → M α) : M (List α) := do
  let rs ← l.mapM (fun e => do
    let r ← tryM (act e.1 e.2)
    match r with
    | .error t => if t.cause == 0x12 then pure (Except.error t) else raiseT t
    | .ok a => pure (Except.ok a))
  match firstFault rs with
  | some t => raiseT t
  | none => pure (rs.filterMap (fun r => match r with | .ok a => some a | .error _ => none))

/-- `VGATH` (R344). -/
def execVgath (t : ETy) (d : VReg) (a : Sc) (off : BitVec 27) (b : VReg) (k : KReg) (s : State) :
    Host.Outcome State Fault Refusal :=
  runV (.vgath t d a off b k) (vuses (some d) [b] k [a]) [b] (do
    let base ← rdS a
    let m ← rdK k
    let x ← rdV b
    let old ← oldV d
    let l ← laneAddrs (base + offVal off) x m
    let at_ ← eachLane l (fun j va => do
      let p ← trans loadA va
      let x ← loadN j p 4
      pure (j, x))
    pure { vs := [(d, merge t m old (fun j => (mapGet at_ j).getD 0))] }) s

/-- `VSCAT` (R344): every lane's checks, then the stores in ascending order. -/
def execVscat (t : ETy) (a : Sc) (off : BitVec 27) (d b : VReg) (k : KReg) (s : State) :
    Host.Outcome State Fault Refusal :=
  let i : Instr := .vscat t a off d b k
  runV i (vuses none [d, b] k [a]) [d, b] (do
    let base ← rdS a
    let m ← rdK k
    let x ← rdV b
    let v ← rdV d
    let l ← laneAddrs (base + offVal off) x m
    let ps ← eachLane l (fun j va => do
      let p ← trans storeA va
      storePoison (400 + j) p (cellsOf p.pa 4 0)
      pure (j, p))
    ps.forM (fun e => storeCells false e.1 e.2 4 (cellsOf e.2.pa 4 (lane 32 v e.1)) (some i))
    pure {}) s

/-! ## Spill and fill (R228, R229, R343) -/

/-- One transfer of a run: a fault carries the count of the registers before it, which stay done, and nothing of the
register that faults (R229). -/
def counted (j : Nat) (act : M Unit) : M Unit := fun s =>
  match act s with
  | .error (.trap t _) _ => .error (.trap { t with info := t.info ||| BitVec.ofNat 64 (256 * j) } true) s
  | r => r

/-- Where a run of transfers starts: at the count in `tinfo` when the retry latch issues it (R229). -/
def Thread.resumeAt (t : Thread) : Nat :=
  match t.hold with
  | some h => if h.fromLatch then t.tinfo.toNat / 256 % 256 else 0
  | none => 0

/-- The marker that the transfer of register `F + j` of a run is made: it is not made again when the instruction issues
again (R229). -/
def transferK (j : Nat) : Nat := 7400 + j

/-- The transfers of `VSPILL` and `VFILL` from register `F + c` (R343). -/
def spillRun (i : Instr) (a : Sc) (off : Word) (f : VReg) (n : Nat) (one : Nat → VReg → Word → M Unit) (s : State) :
    Host.Outcome State Fault Refusal :=
  run i { rd := [a], allot := decide (s.thr.alot < f.val + n) } (do
    let x ← rdS a
    let t ← getThr
    let base := x + off
    let regs : List VReg := (List.range n).map (fun j => f + Fin.ofNat 64 j)
    if base.toNat % 64 != 0 then misaligned base
    else if regs.any (fun v => (t.port? v).isSome) then raiseAt 0x17 0 6
    else if regs.any (fun v => t.vPend.getLsbD v.val) then park .quiesce
    else do
      let c := t.resumeAt
      (List.range n).forM (fun j =>
        if j < c then pure ()
        else do
          let t ← getThr
          if hasMail t (transferK j) then pure ()
          else do
            counted j (one j (f + Fin.ofNat 64 j) (base + BitVec.ofNat 64 (256 * j)))
            updThr (fun t => { t with mail := okMail (transferK j) :: t.mail }))
      pure .seq) s

/-- `VSPILL` (R343). -/
def execVspill (a : Sc) (off : BitVec 27) (f : VReg) (n : BitVec 6) (s : State) :
    Host.Outcome State Fault Refusal :=
  let i : Instr := .vspill a off f n
  spillRun i a (offVal off) f n.toNat (fun j v va => do
    let t ← getThr
    let l ← transPieces storeFirst (pieces va 257 256)
    l.forM (fun e => cowCheck e.1)
    if t.vPoison.getLsbD v.val then raiseAt 0x13 0 v.val
    else do
      let k := 10000 + 1000 * j
      if ← farDone k then pure ()
      else checkEach ((l.zip (List.range l.length)).map (fun e => storePoison (k + 400 + e.2) e.1.1 (cellsOf e.1.1.pa e.1.2 0)))
      let x := (t.v.get v).toNat
      let cut (e : Phys × Nat) : Phys × Nat × List Host.Cell :=
        (e.1, e.2, cellsOf e.1.pa e.2 (x / 2 ^ (8 * (e.1.va - va.toNat)) % 2 ^ (8 * e.2)))
      storeAll k (some i) (l.map cut)) s

/-- `VFILL` (R343). -/
def execVfill (f : VReg) (a : Sc) (off : BitVec 27) (n : BitVec 6) (s : State) :
    Host.Outcome State Fault Refusal :=
  spillRun (.vfill f a off n) a (offVal off) f n.toNat (fun j v va => do
    let l ← transPieces loadA (pieces va 257 256)
    let x ← loadPieces (8 * j) l
    updThr (fun t => t.putV v (BitVec.ofNat 2048 x))) s

end Sys2Proof.Machine
end

