-- ==== Sys2Proof/Machine/Vector.lean ====
section
/-! DEFINITION. The vector class but for its memory forms (R336 to R342, R346 to R350). -/
namespace Sys2Proof.Machine

/-- A lane-wise floating-point operation: flags of the active lanes, then the destination (R336, R338). -/
def fpLanes (t : ETy) (m : Mask) (d : VReg) (f : Nat → FRes) : M VOut := do
  let old ← oldV d
  raiseFlags (laneFlags m t.lanes (fun j => (f j).fl))
  pure { vs := [(d, merge t m old (fun j => (f j).bits))] }

/-- A lane-wise operation without flags. -/
def intLanes (t : ETy) (m : Mask) (d : VReg) (f : Nat → Nat) : M VOut := do
  let old ← oldV d
  pure { vs := [(d, merge t m old f)] }

/-- `vD ← f(vA, b)` lane by lane, floating point (R338). -/
def fpV2 (i : Instr) (t : ETy) (d a : VReg) (b : VSrc) (k : KReg) (f : Nat → Nat → Nat → FRes) (s : State) :
    Host.Outcome State Fault Refusal :=
  let src := a :: vsrcRegs b
  runV i (vuses (some d) src k []) src (do
    let x ← rdV a
    let y ← rdVSrc t b
    let th ← getThr
    fpLanes t (th.mask k) d (fun j => f th.rm (lane t.bits x j) (lane t.bits y j))) s

/-- `vD ← f(vA)` lane by lane, floating point (R342). -/
def fpV1 (i : Instr) (t : ETy) (d a : VReg) (k : KReg) (f : Nat → FRes) (s : State) :
    Host.Outcome State Fault Refusal :=
  runV i (vuses (some d) [a] k []) [a] (do
    let x ← rdV a
    let th ← getThr
    fpLanes t (th.mask k) d (fun j => f (lane t.bits x j))) s

/-- `vD ← f(vA, b)` lane by lane on bits or integers (R339). -/
def intV2 (i : Instr) (t : ETy) (d a : VReg) (b : VSrc) (k : KReg) (f : Nat → Nat → Nat) (s : State) :
    Host.Outcome State Fault Refusal :=
  let src := a :: vsrcRegs b
  runV i (vuses (some d) src k []) src (do
    let x ← rdV a
    let y ← rdVSrc t b
    let m ← rdK k
    intLanes t m d (fun j => f (lane t.bits x j) (lane t.bits y j))) s

/-- Is lane value `a` below `b`: signed, or unsigned under `z`? -/
def laneBelow (z : Bool) (w a b : Nat) : Bool := if z then decide (a < b) else decide (sgnOf w a < sgnOf w b)

/-- The larger or smaller of two lanes (R338): R295 for floating point. -/
def laneMaxMin (t : ETy) (z max : Bool) (a b : Nat) : FRes :=
  if t.isInt then
    { bits := if laneBelow z t.bits a b then (if max then b else a) else (if max then a else b), fl := 0 }
  else fMaxMin t max a b

/-- An integer held to the type's range (R339). -/
def clampInt (z : Bool) (w : Nat) (v : Int) : Nat :=
  let lo : Int := if z then 0 else -((2 ^ (w - 1) : Nat) : Int)
  let hi : Int := if z then ((2 ^ w : Nat) : Int) - 1 else ((2 ^ (w - 1) : Nat) : Int) - 1
  ((if v < lo then lo else if hi < v then hi else v) % ((2 ^ w : Nat) : Int)).toNat

/-- The value of an integer lane. -/
def laneInt (z : Bool) (w x : Nat) : Int := if z then (x : Int) else sgnOf w x

/-- `VIADD` and `VISUB` (R339): wrapped, or clamped under `.sat`. -/
def addLane (z sat sub : Bool) (w a b : Nat) : Nat :=
  let x := laneInt z w a
  let y := laneInt z w b
  let v := if sub then x - y else x + y
  if sat then clampInt z w v else (v % ((2 ^ w : Nat) : Int)).toNat

/-- The shift count of a lane (R339). -/
def laneShift (w b : Nat) : Nat := b % w

/-- A windowed vector sum with its flags (R108). -/
def winResult (t : ETy) (rm win : Nat) (nv : Bool) (ts : List FVal) : FRes :=
  let r := winSum rm win ts
  let x := roundEx t rm false r.1
  let opp := ts.any (fun v => v.isInf && v.neg) && ts.any (fun v => v.isInf && !v.neg) && !ts.any FVal.isNan
  { bits := x.bits, fl := x.fl ||| (if r.2 then flNX else 0) ||| nvIf (nv || opp) }

/-- `VFMA.win`: the exact product and the addend (R108). -/
def fmaWin (t : ETy) (rm win a b c : Nat) : FRes :=
  let x := valOf t false a
  let y := valOf t false b
  let z := valOf t false c
  let nv := x.isSig || y.isSig || z.isSig || zeroTimesInf x y
  winResult t rm win nv [if zeroTimesInf x y then .nan false else mulVal x y, z]

/-- The window of `mxctl` (R76). -/
def Thread.window (t : Thread) : Nat := winWidth (t.mxctl.toNat % 8)

/-- `VADD` (R338). -/
def execVadd (t : ETy) (d a : VReg) (b : VSrc) (k : KReg) (s : State) : Host.Outcome State Fault Refusal :=
  fpV2 (.vadd t d a b k) t d a b k (fAdd t) s

/-- `VSUB` (R338). -/
def execVsub (t : ETy) (d a : VReg) (b : VSrc) (k : KReg) (s : State) : Host.Outcome State Fault Refusal :=
  fpV2 (.vsub t d a b k) t d a b k (fSub t) s

/-- `VMUL` (R338). -/
def execVmul (t : ETy) (d a : VReg) (b : VSrc) (k : KReg) (s : State) : Host.Outcome State Fault Refusal :=
  fpV2 (.vmul t d a b k) t d a b k (fMul t) s

/-- `VFMA` (R108, R338). -/
def execVfma (win : Bool) (t : ETy) (d a : VReg) (b : VSrc) (c : VReg) (k : KReg) (s : State) :
    Host.Outcome State Fault Refusal :=
  let src := a :: c :: vsrcRegs b
  runV (.vfma win t d a b c k) (vuses (some d) src k []) src (do
    let x ← rdV a
    let y ← rdVSrc t b
    let z ← rdV c
    let th ← getThr
    let l := lane t.bits
    fpLanes t (th.mask k) d (fun j =>
      if win then fmaWin t th.rm th.window (l x j) (l y j) (l z j) else fFma t th.rm (l x j) (l y j) (l z j))) s

/-- `VMIN` (R338). -/
def execVmin (z : Bool) (t : ETy) (d a : VReg) (b : VSrc) (k : KReg) (s : State) :
    Host.Outcome State Fault Refusal :=
  fpV2 (.vmin z t d a b k) t d a b k (fun _ => laneMaxMin t z false) s

/-- `VMAX` (R338). -/
def execVmax (z : Bool) (t : ETy) (d a : VReg) (b : VSrc) (k : KReg) (s : State) :
    Host.Outcome State Fault Refusal :=
  fpV2 (.vmax z t d a b k) t d a b k (fun _ => laneMaxMin t z true) s

/-- `VSGN` (R297, R338). -/
def execVsgn (op : SgnOp) (t : ETy) (d a b : VReg) (k : KReg) (s : State) : Host.Outcome State Fault Refusal :=
  intV2 (.vsgn op t d a b k) t d a (.reg b) k (fSign t op) s

/-- `VDIV` (R338). -/
def execVdiv (t : ETy) (d a : VReg) (b : VSrc) (k : KReg) (s : State) : Host.Outcome State Fault Refusal :=
  fpV2 (.vdiv t d a b k) t d a b k (fDiv t) s

/-- `VEXP2` (R105, R342). -/
def execVexp2 (t : ETy) (d a : VReg) (k : KReg) (s : State) : Host.Outcome State Fault Refusal :=
  fpV1 (.vexp2 t d a k) t d a k (fSpecial .exp2 t) s

/-- `VLOG2` (R105, R342). -/
def execVlog2 (t : ETy) (d a : VReg) (k : KReg) (s : State) : Host.Outcome State Fault Refusal :=
  fpV1 (.vlog2 t d a k) t d a k (fSpecial .log2 t) s

/-- `VRCP` (R105, R342). -/
def execVrcp (t : ETy) (d a : VReg) (k : KReg) (s : State) : Host.Outcome State Fault Refusal :=
  fpV1 (.vrcp t d a k) t d a k (fSpecial .rcp t) s

/-- `VRSQ` (R105, R342). -/
def execVrsq (t : ETy) (d a : VReg) (k : KReg) (s : State) : Host.Outcome State Fault Refusal :=
  fpV1 (.vrsq t d a k) t d a k (fSpecial .rsq t) s

/-- `VTANH` (R105, R342). -/
def execVtanh (t : ETy) (d a : VReg) (k : KReg) (s : State) : Host.Outcome State Fault Refusal :=
  fpV1 (.vtanh t d a k) t d a k (fSpecial .tanh t) s

/-- `VIADD` (R339). -/
def execViadd (z sat : Bool) (t : ETy) (d a : VReg) (b : VSrc) (k : KReg) (s : State) :
    Host.Outcome State Fault Refusal :=
  intV2 (.viadd z sat t d a b k) t d a b k (addLane z sat false t.bits) s

/-- `VISUB` (R339). -/
def execVisub (z sat : Bool) (t : ETy) (d a : VReg) (b : VSrc) (k : KReg) (s : State) :
    Host.Outcome State Fault Refusal :=
  intV2 (.visub z sat t d a b k) t d a b k (addLane z sat true t.bits) s

/-- `VIMUL` (R339). -/
def execVimul (t : ETy) (d a : VReg) (b : VSrc) (k : KReg) (s : State) : Host.Outcome State Fault Refusal :=
  intV2 (.vimul t d a b k) t d a b k (fun x y => x * y % 2 ^ t.bits) s

/-- `VAND` (R339). -/
def execVand (t : ETy) (d a : VReg) (b : VSrc) (k : KReg) (s : State) : Host.Outcome State Fault Refusal :=
  intV2 (.vand t d a b k) t d a b k (fun x y => x &&& y) s

/-- `VOR` (R339). -/
def execVor (t : ETy) (d a : VReg) (b : VSrc) (k : KReg) (s : State) : Host.Outcome State Fault Refusal :=
  intV2 (.vor t d a b k) t d a b k (fun x y => x ||| y) s

/-- `VXOR` (R339). -/
def execVxor (t : ETy) (d a : VReg) (b : VSrc) (k : KReg) (s : State) : Host.Outcome State Fault Refusal :=
  intV2 (.vxor t d a b k) t d a b k (fun x y => x ^^^ y) s

/-- `VSHL` (R339). -/
def execVshl (t : ETy) (d a : VReg) (b : VSrc) (k : KReg) (s : State) : Host.Outcome State Fault Refusal :=
  intV2 (.vshl t d a b k) t d a b k (fun x y => x * 2 ^ laneShift t.bits y % 2 ^ t.bits) s

/-- `VSHR` (R339). -/
def execVshr (t : ETy) (d a : VReg) (b : VSrc) (k : KReg) (s : State) : Host.Outcome State Fault Refusal :=
  intV2 (.vshr t d a b k) t d a b k (fun x y => x / 2 ^ laneShift t.bits y) s

/-- `VSAR` (R339). -/
def execVsar (t : ETy) (d a : VReg) (b : VSrc) (k : KReg) (s : State) : Host.Outcome State Fault Refusal :=
  intV2 (.vsar t d a b k) t d a b k (fun x y => (sgnOf t.bits x / ((2 ^ laneShift t.bits y : Nat) : Int) % ((2 ^ t.bits : Nat) : Int)).toNat) s

/-- Does a mask select element `j`? With `k0` every element is selected; an element beyond bit 255 of another
mask is not (log 25). -/
def selects (k : KReg) (m : Mask) (j : Nat) : Bool := k == 0 || m.getLsbD j

/-- `VCVT` (R293, R341). -/
def execVcvt (dt st : ETy) (z sat : Bool) (d a : VReg) (part : BitVec 6) (k : KReg) (s : State) :
    Host.Outcome State Fault Refusal :=
  runV (.vcvt dt st z sat d a part k) (vuses (some d) [a] k []) [a] (do
    let x ← rdV a
    let th ← getThr
    let m := th.mask k
    let old ← oldV d
    let l := Nat.min dt.lanes st.lanes
    let src (j : Nat) : Nat := lane st.bits x (if l < st.lanes then part.toNat * l + j else j)
    let cv (j : Nat) : FRes := convert dt z sat th.rm (valOf st z (src j))
    raiseFlags ((List.range l).foldl (fun acc j => if selects k m j then acc ||| (cv j).fl else acc) 0)
    let first := if l < dt.lanes then part.toNat * l else 0
    let r := pack dt (fun e =>
      if decide (first ≤ e) && decide (e < first + l) && selects k m (e - first) then (cv (e - first)).bits
      else lane dt.bits old e)
    pure { vs := [(d, r)] }) s

/-- `VSETC` (R296, R349). -/
def execVsetc (cc : Cond) (z : Bool) (t : ETy) (d : KReg) (a : VReg) (b : VSrc) (k : KReg) (s : State) :
    Host.Outcome State Fault Refusal :=
  let src := a :: vsrcRegs b
  runV (.vsetc cc z t d a b k) { vuses none src k [] with krd := if k == 0 then [k] else [k, d] } src (do
    let x ← rdV a
    let y ← rdVSrc t b
    let th ← getThr
    let m := th.mask k
    let old := th.mask d
    let cmp (j : Nat) : Bool × Nat :=
      let p := lane t.bits x j
      let q := lane t.bits y j
      if t.isInt then (condHolds cc (laneBelow z t.bits p q) (p == q), 0) else fCompare t cc p q
    raiseFlags (laneFlags m t.lanes (fun j => (cmp j).2))
    pure { post := wrK d (packMask (fun j => if m.getLsbD j then (cmp j).1 else old.getLsbD j) t.lanes) }) s

/-- `VSEL` (R349). -/
def execVsel (t : ETy) (d a b : VReg) (c : KReg) (k : KReg) (s : State) : Host.Outcome State Fault Refusal :=
  runV (.vsel t d a b c k) { vuses (some d) [a, b] k [] with krd := [k, c] } [a, b] (do
    let x ← rdV a
    let y ← rdV b
    let m ← rdK k
    let c ← rdK c
    intLanes t m d (fun j => if c.getLsbD j then lane t.bits x j else lane t.bits y j)) s

/-! ## Reductions and scans (R348) -/

/-- The active lanes in ascending order. -/
def activeLanes (t : ETy) (m : Mask) (x : Vec) : List Nat :=
  ((List.range t.lanes).filter (fun j => m.getLsbD j)).map (fun j => lane t.bits x j)

/-- One step of a reduction. -/
def redStep (op : RedOp) (z : Bool) (t : ETy) (rm a b : Nat) : FRes :=
  match op with
  | .add => if t.isInt then { bits := (a + b) % 2 ^ t.bits, fl := 0 } else fAdd t rm a b
  | .max => laneMaxMin t z true a b
  | .min => laneMaxMin t z false a b

/-- The result with no active lane (R348). -/
def redEmpty (op : RedOp) (z : Bool) (t : ETy) : Nat :=
  match op with
  | .add => 0
  | .max => if t.isInt then (if z then 0 else 2 ^ (t.bits - 1)) else infBits t true
  | .min => if t.isInt then (if z then 2 ^ t.bits - 1 else 2 ^ (t.bits - 1) - 1) else infBits t false

/-- Is a term of a windowed sum formed from a signalling NaN? -/
def anySig (t : ETy) (l : List Nat) : Bool := l.any (fun x => (valOf t false x).isSig)

/-- What the first active lane gives alone: a floating-point NaN as the canonical NaN, with NV when it signals (R104,
R348; log 71). -/
def redFirst (t : ETy) (v : Nat) : FRes :=
  let x := valOf t false v
  if !t.isInt && x.isNan then { bits := canonNaN t, fl := nvIf x.isSig } else { bits := v, fl := 0 }

/-- The combination of lanes in ascending order (R348). -/
def redList (op : RedOp) (z win : Bool) (t : ETy) (rm w : Nat) (l : List Nat) : FRes :=
  match l with
  | [] => { bits := redEmpty op z t, fl := 0 }
  | x :: r =>
    if win then winResult t rm w (anySig t l) (l.map (fun v => valOf t false v))
    else r.foldl (fun acc y =>
      let n := redStep op z t rm acc.bits y
      { bits := n.bits, fl := acc.fl ||| n.fl }) (redFirst t x)

/-- `VRED` (R108, R348). -/
def execVred (op : RedOp) (z win : Bool) (t : ETy) (d : Sc) (a : VReg) (k : KReg) (s : State) :
    Host.Outcome State Fault Refusal :=
  runV (.vred op z win t d a k) { vuses none [a] k [] with dst := some d } [a] (do
    let x ← rdV a
    let th ← getThr
    let r := redList op z win t th.rm th.window (activeLanes t (th.mask k) x)
    raiseFlags r.fl
    pure { post := wrS d (if t.isInt then extend z t.bits r.bits else BitVec.ofNat 64 r.bits) }) s

/-- The scan of the lanes from `j`: results of the active lanes, with all flags. `seen` holds the active lanes
so far, latest first, `acc` their combination. -/
def scanGo (op : RedOp) (z win : Bool) (t : ETy) (rm w : Nat) (m : Mask) (x : Vec) :
    Nat → Nat → List Nat → Option Nat → List (Nat × Nat) × Nat
  | 0, _, _, _ => ([], 0)
  | n + 1, j, seen, acc =>
    if m.getLsbD j then
      let v := lane t.bits x j
      let r : FRes :=
        if win then
          let l := (v :: seen).reverse
          winResult t rm w (anySig t l) (l.map (fun y => valOf t false y))
        else match acc with
          | none => redFirst t v
          | some a => redStep op z t rm a v
      let rest := scanGo op z win t rm w m x n (j + 1) (v :: seen) (some r.bits)
      ((j, r.bits) :: rest.1, r.fl ||| rest.2)
    else scanGo op z win t rm w m x n (j + 1) seen acc

/-- `VSCAN` (R108, R348). -/
def execVscan (op : RedOp) (z win : Bool) (t : ETy) (d a : VReg) (k : KReg) (s : State) :
    Host.Outcome State Fault Refusal :=
  runV (.vscan op z win t d a k) (vuses (some d) [a] k []) [a] (do
    let x ← rdV a
    let th ← getThr
    let m := th.mask k
    let old ← oldV d
    let r := scanGo op z win t th.rm th.window m x t.lanes 0 [] none
    raiseFlags r.2
    pure { vs := [(d, merge t m old (fun j => (mapGet r.1 j).getD 0))] }) s

/-! ## Lane movement (R340, R346) -/

/-- `VPERM` (R346). -/
def execVperm (t : ETy) (d a b : VReg) (k : KReg) (s : State) : Host.Outcome State Fault Refusal :=
  runV (.vperm t d a b k) (vuses (some d) [a, b] k []) [a, b] (do
    let x ← rdV a
    let y ← rdV b
    let m ← rdK k
    intLanes t m d (fun j => lane t.bits x (lane t.bits y j % t.lanes))) s

/-- `VSLIDE` (R346). -/
def execVslide (t : ETy) (d a b : VReg) (c : Sc) (k : KReg) (s : State) : Host.Outcome State Fault Refusal :=
  runV (.vslide t d a b c k) (vuses (some d) [a, b] k [c]) [a, b] (do
    let x ← rdV a
    let y ← rdV b
    let n ← rdS c
    let m ← rdK k
    let sh := Nat.min n.toNat t.lanes
    intLanes t m d (fun j =>
      if j + sh < t.lanes then lane t.bits x (j + sh) else lane t.bits y (j + sh - t.lanes))) s

/-- `VBCAST` (R340). -/
def execVbcast (t : ETy) (d : VReg) (a : Sc) (k : KReg) (s : State) : Host.Outcome State Fault Refusal :=
  runV (.vbcast t d a k) (vuses (some d) [] k [a]) [] (do
    let x ← rdS a
    let m ← rdK k
    intLanes t m d (fun _ => x.toNat % 2 ^ t.bits)) s

/-- `VEXT` (R340). -/
def execVext (z : Bool) (t : ETy) (d : Sc) (a : VReg) (b : Sc) (s : State) : Host.Outcome State Fault Refusal :=
  runV (.vext z t d a b) { vuses none [a] 0 [b] with dst := some d } [a] (do
    let x ← rdV a
    let j ← rdS b
    let v := if j.toNat < t.lanes then lane t.bits x j.toNat else 0
    pure { post := wrS d (if t.isInt then extend z t.bits v else BitVec.ofNat 64 v) }) s

/-- `VINS` (R340): `vD` is read and written, so that a stream port of either direction is misused (R182). -/
def execVins (t : ETy) (d : VReg) (a b : Sc) (s : State) : Host.Outcome State Fault Refusal :=
  runV (.vins t d a b) { rd := [a, b], vs := [d], vrd := [d] } [] (do
    let th ← getThr
    let old ← if (th.port? d).isSome then portMisuse else pure (th.v.get d)
    let x ← rdS a
    let j ← rdS b
    pure { vs := [(d, pack t (fun e => if e == j.toNat then x.toNat % 2 ^ t.bits else lane t.bits old e))] }) s

/-- `VIDX` (R340). -/
def execVidx (t : ETy) (d : VReg) (a : Sc) (k : KReg) (s : State) : Host.Outcome State Fault Refusal :=
  runV (.vidx t d a k) (vuses (some d) [] k [a]) [] (do
    let x ← rdS a
    let m ← rdK k
    intLanes t m d (fun j => (x.toNat + j) % 2 ^ t.bits)) s

/-! ## Ranking (R350) -/

/-- Does an entry (value, id) rank before another? By value descending, −0 equal to +0, every NaN below every
number, equal values by lower id. -/
def ranksBefore (t : ETy) (a b : Nat × Nat) : Bool :=
  if t.isInt then
    let x := sgnOf t.bits a.1
    let y := sgnOf t.bits b.1
    decide (y < x) || (x == y && decide (a.2 < b.2))
  else
    let x := valOf t false a.1
    let y := valOf t false b.1
    if x.isNan && y.isNan then decide (a.2 < b.2)
    else if x.isNan then false
    else if y.isNan then true
    else ltVal y x || (eqVal x y && decide (a.2 < b.2))

def rankIns (t : ETy) (a : Nat × Nat) : List (Nat × Nat) → List (Nat × Nat)
  | [] => [a]
  | b :: r => if ranksBefore t a b then a :: b :: r else b :: rankIns t a r

/-- `VTOPK` (R350). -/
def execVtopk (t : ETy) (d a : VReg) (n : BitVec 6) (c : Sc) (k : KReg) (s : State) :
    Host.Outcome State Fault Refusal :=
  let d1 : VReg := d + 1
  let keep := if k == 0 then [] else [d, d1]
  runV (.vtopk t d a n c k) { rd := [c], vs := [d, d1, a], vrd := keep ++ [a], krd := [k] } [a] (do
    let x ← rdV a
    let base ← rdS c
    let m ← rdK k
    let es := ((List.range t.lanes).filter (fun j => m.getLsbD j)).map
      (fun j => (lane t.bits x j, (base.toNat + j) % 2 ^ 32))
    let top := (es.foldl (fun l e => rankIns t e l) []).take n.toNat
    let _ ← oldV d
    let _ ← oldV d1
    pure { vs := [(d, pack t (fun j => ((top[j]?).map (fun e => e.1)).getD (redEmpty .max false t))),
                  (d1, pack .i32 (fun j => ((top[j]?).map (fun e => e.2)).getD 0xFFFFFFFF))] }) s

/-! ## Random numbers (R347) -/

/-- The rounds of Philox-4x32-10 from a counter and a key. -/
def philox : Nat → Bool → Nat × Nat × Nat × Nat → Nat × Nat → Nat × Nat × Nat × Nat
  | 0, _, c, _ => c
  | n + 1, first, (c0, c1, c2, c3), (k0, k1) =>
    let k0 := if first then k0 else (k0 + 0x9E3779B9) % 2 ^ 32
    let k1 := if first then k1 else (k1 + 0xBB67AE85) % 2 ^ 32
    let p0 := 0xD2511F53 * c0
    let p1 := 0xCD9E8D57 * c2
    philox n false ((p1 / 2 ^ 32) ^^^ c1 ^^^ k0, p1 % 2 ^ 32, (p0 / 2 ^ 32) ^^^ c3 ^^^ k1, p0 % 2 ^ 32) (k0, k1)

/-- Block `b` of `VRAND`. -/
def randBlock (key lo hi : Word) (b : Nat) : Nat × Nat × Nat × Nat :=
  philox 10 true
    (lo.toNat % 2 ^ 32, lo.toNat / 2 ^ 32, hi.toNat % 2 ^ 32, (hi.toNat / 2 ^ 32 + b) % 2 ^ 32)
    (key.toNat % 2 ^ 32, key.toNat / 2 ^ 32)

/-- `VRAND` (R347). -/
def execVrand (d : VReg) (a b c : Sc) (k : KReg) (s : State) : Host.Outcome State Fault Refusal :=
  runV (.vrand d a b c k) (vuses (some d) [] k [a, b, c]) [] (do
    let key ← rdS a
    let lo ← rdS b
    let hi ← rdS c
    let m ← rdK k
    intLanes .i32 m d (fun j =>
      let r := randBlock key lo hi (j / 4)
      match j % 4 with
      | 0 => r.1
      | 1 => r.2.1
      | 2 => r.2.2.1
      | _ => r.2.2.2)) s

end Sys2Proof.Machine
end

