-- ==== Sys2Proof/Machine/Dispatch.lean ====
section
/-! DEFINITION. One arm per constructor of `Instr`, each a direct call of its meaning. -/
namespace Sys2Proof.Machine

/-- The meaning of an instruction for the thread in `cur`, and of an event of the pod's units. -/
def exec (i : Instr) (s : State) : Host.Outcome State Fault Refusal :=
  match i with
  | .add d a b => Sys2Proof.Machine.execAdd d a b s
  | .sub d a b => Sys2Proof.Machine.execSub d a b s
  | .mul d a b => Sys2Proof.Machine.execMul d a b s
  | .mulh z d a b => Sys2Proof.Machine.execMulh z d a b s
  | .div z d a b => Sys2Proof.Machine.execDiv z d a b s
  | .rem z d a b => Sys2Proof.Machine.execRem z d a b s
  | .and d a b => Sys2Proof.Machine.execAnd d a b s
  | .or d a b => Sys2Proof.Machine.execOr d a b s
  | .xor d a b => Sys2Proof.Machine.execXor d a b s
  | .andn d a b => Sys2Proof.Machine.execAndn d a b s
  | .shl d a b => Sys2Proof.Machine.execShl d a b s
  | .shr d a b => Sys2Proof.Machine.execShr d a b s
  | .sar d a b => Sys2Proof.Machine.execSar d a b s
  | .min z d a b => Sys2Proof.Machine.execMin z d a b s
  | .max z d a b => Sys2Proof.Machine.execMax z d a b s
  | .setc cc z d a b => Sys2Proof.Machine.execSetc cc z d a b s
  | .clz d a => Sys2Proof.Machine.execClz d a s
  | .ctz d a => Sys2Proof.Machine.execCtz d a s
  | .popc d a => Sys2Proof.Machine.execPopc d a s
  | .bfx z d a b => Sys2Proof.Machine.execBfx z d a b s
  | .bfxImm z d a pos width => Sys2Proof.Machine.execBfxImm z d a pos width s
  | .bfi d a b c => Sys2Proof.Machine.execBfi d a b c s
  | .sel d a b c => Sys2Proof.Machine.execSel d a b c s
  | .li d v => Sys2Proof.Machine.execLi d v s
  | .li96 d v => Sys2Proof.Machine.execLi96 d v s
  | .li128 d v => Sys2Proof.Machine.execLi128 d v s
  | .lea d b => Sys2Proof.Machine.execLea d b s
  | .mov d a => Sys2Proof.Machine.execMov d a s
  | .fadd t d a b => Sys2Proof.Machine.execFadd t d a b s
  | .fsub t d a b => Sys2Proof.Machine.execFsub t d a b s
  | .fmul t d a b => Sys2Proof.Machine.execFmul t d a b s
  | .ffma t d a b c => Sys2Proof.Machine.execFfma t d a b c s
  | .fdiv t d a b => Sys2Proof.Machine.execFdiv t d a b s
  | .fsqrt t d a => Sys2Proof.Machine.execFsqrt t d a s
  | .fmin t d a b => Sys2Proof.Machine.execFmin t d a b s
  | .fmax t d a b => Sys2Proof.Machine.execFmax t d a b s
  | .fsetc cc t d a b => Sys2Proof.Machine.execFsetc cc t d a b s
  | .fcvt dt st z sat d a => Sys2Proof.Machine.execFcvt dt st z sat d a s
  | .fclass t d a => Sys2Proof.Machine.execFclass t d a s
  | .fsgn op t d a b => Sys2Proof.Machine.execFsgn op t d a b s
  | .br cc z a b off => Sys2Proof.Machine.execBr cc z a b off s
  | .j off => Sys2Proof.Machine.execJ off s
  | .j96 off => Sys2Proof.Machine.execJ96 off s
  | .jl d off => Sys2Proof.Machine.execJl d off s
  | .jl96 d off => Sys2Proof.Machine.execJl96 d off s
  | .jr d a => Sys2Proof.Machine.execJr d a s
  | .haltKeep a => Sys2Proof.Machine.execHaltKeep a s
  | .ld acq z w sc d a off => Sys2Proof.Machine.execLd acq z w sc d a off s
  | .st rel w sc a off b => Sys2Proof.Machine.execSt rel w sc a off b s
  | .lds m z w sc d a off => Sys2Proof.Machine.execLds m z w sc d a off s
  | .sts m w sc a off b => Sys2Proof.Machine.execSts m w sc a off b s
  | .amo op z w sc d a off b => Sys2Proof.Machine.execAmo op z w sc d a off b s
  | .cas w sc d a off b c => Sys2Proof.Machine.execCas w sc d a off b c s
  | .fence sc => Sys2Proof.Machine.execFence sc s
  | .acq sc d a off b => Sys2Proof.Machine.execAcq sc d a off b s
  | .rel sc a off b => Sys2Proof.Machine.execRel sc a off b s
  | .bind sc a off b c => Sys2Proof.Machine.execBind sc a off b c s
  | .unbind a off => Sys2Proof.Machine.execUnbind a off s
  | .cmo op lvl a off b => Sys2Proof.Machine.execCmo op lvl a off b s
  | .mcast sc n a off b c => Sys2Proof.Machine.execMcast sc n a off b c s
  | .mcast128 sc n a off b c => Sys2Proof.Machine.execMcast128 sc n a off b c s
  | .vld t d a off k => Sys2Proof.Machine.execVld t d a off k s
  | .vst t a off b k => Sys2Proof.Machine.execVst t a off b k s
  | .vgath t d a off b k => Sys2Proof.Machine.execVgath t d a off b k s
  | .vscat t a off d b k => Sys2Proof.Machine.execVscat t a off d b k s
  | .vspill a off f n => Sys2Proof.Machine.execVspill a off f n s
  | .vfill f a off n => Sys2Proof.Machine.execVfill f a off n s
  | .vadd t d a b k => Sys2Proof.Machine.execVadd t d a b k s
  | .vsub t d a b k => Sys2Proof.Machine.execVsub t d a b k s
  | .vmul t d a b k => Sys2Proof.Machine.execVmul t d a b k s
  | .vfma win t d a b c k => Sys2Proof.Machine.execVfma win t d a b c k s
  | .vmin z t d a b k => Sys2Proof.Machine.execVmin z t d a b k s
  | .vmax z t d a b k => Sys2Proof.Machine.execVmax z t d a b k s
  | .vsgn op t d a b k => Sys2Proof.Machine.execVsgn op t d a b k s
  | .vdiv t d a b k => Sys2Proof.Machine.execVdiv t d a b k s
  | .vexp2 t d a k => Sys2Proof.Machine.execVexp2 t d a k s
  | .vlog2 t d a k => Sys2Proof.Machine.execVlog2 t d a k s
  | .vrcp t d a k => Sys2Proof.Machine.execVrcp t d a k s
  | .vrsq t d a k => Sys2Proof.Machine.execVrsq t d a k s
  | .vtanh t d a k => Sys2Proof.Machine.execVtanh t d a k s
  | .viadd z sat t d a b k => Sys2Proof.Machine.execViadd z sat t d a b k s
  | .visub z sat t d a b k => Sys2Proof.Machine.execVisub z sat t d a b k s
  | .vimul t d a b k => Sys2Proof.Machine.execVimul t d a b k s
  | .vand t d a b k => Sys2Proof.Machine.execVand t d a b k s
  | .vor t d a b k => Sys2Proof.Machine.execVor t d a b k s
  | .vxor t d a b k => Sys2Proof.Machine.execVxor t d a b k s
  | .vshl t d a b k => Sys2Proof.Machine.execVshl t d a b k s
  | .vshr t d a b k => Sys2Proof.Machine.execVshr t d a b k s
  | .vsar t d a b k => Sys2Proof.Machine.execVsar t d a b k s
  | .vcvt dt st z sat d a part k => Sys2Proof.Machine.execVcvt dt st z sat d a part k s
  | .vsetc cc z t d a b k => Sys2Proof.Machine.execVsetc cc z t d a b k s
  | .vsel t d a b c k => Sys2Proof.Machine.execVsel t d a b c k s
  | .vred op z win t d a k => Sys2Proof.Machine.execVred op z win t d a k s
  | .vscan op z win t d a k => Sys2Proof.Machine.execVscan op z win t d a k s
  | .vperm t d a b k => Sys2Proof.Machine.execVperm t d a b k s
  | .vslide t d a b c k => Sys2Proof.Machine.execVslide t d a b c k s
  | .vbcast t d a k => Sys2Proof.Machine.execVbcast t d a k s
  | .vext z t d a b => Sys2Proof.Machine.execVext z t d a b s
  | .vins t d a b => Sys2Proof.Machine.execVins t d a b s
  | .vidx t d a k => Sys2Proof.Machine.execVidx t d a k s
  | .vtopk t d a n c k => Sys2Proof.Machine.execVtopk t d a n c k s
  | .vrand d a b c k => Sys2Proof.Machine.execVrand d a b c k s
  | .kand d a b => Sys2Proof.Machine.execKand d a b s
  | .kor d a b => Sys2Proof.Machine.execKor d a b s
  | .kxor d a b => Sys2Proof.Machine.execKxor d a b s
  | .knot d a => Sys2Proof.Machine.execKnot d a s
  | .kpopc d a => Sys2Proof.Machine.execKpopc d a s
  | .kfirst d a => Sys2Proof.Machine.execKfirst d a s
  | .kmov d a => Sys2Proof.Machine.execKmov d a s
  | .mma fa fb seam n a b depth tag k => Sys2Proof.Machine.execMma fa fb seam n a b depth tag k s
  | .mxzero n k => Sys2Proof.Machine.execMxzero n k s
  | .mxld n a k => Sys2Proof.Machine.execMxld n a k s
  | .mxst t sat a n k => Sys2Proof.Machine.execMxst t sat a n k s
  | .mxflg d n => Sys2Proof.Machine.execMxflg d n s
  | .mxwait n => Sys2Proof.Machine.execMxwait n s
  | .spawn a b => Sys2Proof.Machine.execSpawn a b s
  | .task wait d a off kw ks => Sys2Proof.Machine.execTask wait d a off kw ks s
  | .evset a => Sys2Proof.Machine.execEvset a s
  | .evclr a => Sys2Proof.Machine.execEvclr a s
  | .evwait a => Sys2Proof.Machine.execEvwait a s
  | .migr a => Sys2Proof.Machine.execMigr a s
  | .grow wait d n => Sys2Proof.Machine.execGrow wait d n s
  | .growReg wait d b => Sys2Proof.Machine.execGrowReg wait d b s
  | .shrink d n => Sys2Proof.Machine.execShrink d n s
  | .shrinkReg d b => Sys2Proof.Machine.execShrinkReg d b s
  | .bar sc id => Sys2Proof.Machine.execBar sc id s
  | .bjoin sc id b => Sys2Proof.Machine.execBjoin sc id b s
  | .bleave sc id => Sys2Proof.Machine.execBleave sc id s
  | .slotw a b => Sys2Proof.Machine.execSlotw a b s
  | .rfillArm d => Sys2Proof.Machine.execRfillArm d s
  | .rfillSend wait a b c => Sys2Proof.Machine.execRfillSend wait a b c s
  | .sbind d a off => Sys2Proof.Machine.execSbind d a off s
  | .sfree d => Sys2Proof.Machine.execSfree d s
  | .exnew d a => Sys2Proof.Machine.execExnew d a s
  | .exjoin d a b => Sys2Proof.Machine.execExjoin d a b s
  | .exset a => Sys2Proof.Machine.execExset a s
  | .exchk d a => Sys2Proof.Machine.execExchk d a s
  | .exfree a => Sys2Proof.Machine.execExfree a s
  | .cpy op t acq rel sc d a b c tag => Sys2Proof.Machine.execCpy op t acq rel sc d a b c tag s
  | .cpyRfg acq sc d a c => Sys2Proof.Machine.execCpyRfg acq sc d a c s
  | .cpyRfv acq sc d a c => Sys2Proof.Machine.execCpyRfv acq sc d a c s
  | .cpgb acq rel sc d a c tag => Sys2Proof.Machine.execCpgb acq rel sc d a c tag s
  | .kvapp acq rel sc a b c => Sys2Proof.Machine.execKvapp acq rel sc a b c s
  | .cpwait d a => Sys2Proof.Machine.execCpwait d a s
  | .coll kind acq rel sc id root c => Sys2Proof.Machine.execColl kind acq rel sc id root c s
  | .cbuf op t id a => Sys2Proof.Machine.execCbuf op t id a s
  | .gmload a => Sys2Proof.Machine.execGmload a s
  | .gmstep d a b => Sys2Proof.Machine.execGmstep d a b s
  | .gmstepRst d a => Sys2Proof.Machine.execGmstepRst d a s
  | .gmmask d a b => Sys2Proof.Machine.execGmmask d a b s
  | .gmmaskK d a b => Sys2Proof.Machine.execGmmaskK d a b s
  | .launch a => Sys2Proof.Machine.execLaunch a s
  | .trap n => Sys2Proof.Machine.execTrap n s
  | .brk n => Sys2Proof.Machine.execBrk n s
  | .srd d sys => Sys2Proof.Machine.execSrd d sys s
  | .swr sys a => Sys2Proof.Machine.execSwr sys a s
  | .swrEx a => Sys2Proof.Machine.execSwrEx a s
  | .swrCsplit a => Sys2Proof.Machine.execSwrCsplit a s
  | .swrOvh a => Sys2Proof.Machine.execSwrOvh a s
  | .swrHvec a => Sys2Proof.Machine.execSwrHvec a s
  | .swrMq a => Sys2Proof.Machine.execSwrMq a s
  | .swrWdog a => Sys2Proof.Machine.execSwrWdog a s
  | .rdtime d => Sys2Proof.Machine.execRdtime d s
  | .sharedRegisterWriteLands core => Sys2Proof.Machine.execSharedRegisterWriteLands core s
  | .handlerThreadStart core => Sys2Proof.Machine.execHandlerThreadStart core s
  | .spawnRequestMessage core => Sys2Proof.Machine.execSpawnRequestMessage core s
  | .migrationArrival core => Sys2Proof.Machine.execMigrationArrival core s
  | .sharerOverflow core => Sys2Proof.Machine.execSharerOverflow core s
  | .overflowWrite core => Sys2Proof.Machine.execOverflowWrite core s
  | .messageReplyTaken core => Sys2Proof.Machine.execMessageReplyTaken core s
  | .messageReplyTimeout core => Sys2Proof.Machine.execMessageReplyTimeout core s
  | .spawnRefused slot => Sys2Proof.Machine.execSpawnRefused slot s
  | .migrationResend slot => Sys2Proof.Machine.execMigrationResend slot s
  | .powerGrant pkg grants avg reserve cool => Sys2Proof.Machine.execPowerGrant pkg grants avg reserve cool s
  | .currentSlotDisable die avg => Sys2Proof.Machine.execCurrentSlotDisable die avg s
  | .thermalSlotDisable core => Sys2Proof.Machine.execThermalSlotDisable core s
  | .hardwareDisplacement slot => Sys2Proof.Machine.execHardwareDisplacement slot s
  | .matrixCommandAccept core => Sys2Proof.Machine.execMatrixCommandAccept core s
  | .matrixCommandExecute core => Sys2Proof.Machine.execMatrixCommandExecute core s
  | .matrixCommandComplete core => Sys2Proof.Machine.execMatrixCommandComplete core s
  | .copyCommandAccept core => Sys2Proof.Machine.execCopyCommandAccept core s
  | .copyCommandExecute core => Sys2Proof.Machine.execCopyCommandExecute core s
  | .copyCommandComplete core => Sys2Proof.Machine.execCopyCommandComplete core s
  | .copyDeferred core => Sys2Proof.Machine.execCopyDeferred core s
  | .copyResume core => Sys2Proof.Machine.execCopyResume core s
  | .pageWalk core va => Sys2Proof.Machine.execPageWalk core va s
  | .shootdownRequest die => Sys2Proof.Machine.execShootdownRequest die s
  | .shootdownDone die => Sys2Proof.Machine.execShootdownDone die s
  | .remoteRequestArrival pkg => Sys2Proof.Machine.execRemoteRequestArrival pkg s
  | .replyArrival pkg => Sys2Proof.Machine.execReplyArrival pkg s
  | .listedNotice pkg => Sys2Proof.Machine.execListedNotice pkg s
  | .busyReply pkg => Sys2Proof.Machine.execBusyReply pkg s
  | .busyResend core rtag => Sys2Proof.Machine.execBusyResend core rtag s
  | .requestResend core rtag => Sys2Proof.Machine.execRequestResend core rtag s
  | .remoteTimeoutExpiry core rtag => Sys2Proof.Machine.execRemoteTimeoutExpiry core rtag s
  | .replayEntryExpiry pkg => Sys2Proof.Machine.execReplayEntryExpiry pkg s
  | .retryListExamine home => Sys2Proof.Machine.execRetryListExamine home s
  | .retryListResend seq => Sys2Proof.Machine.execRetryListResend seq s
  | .syncTimeout seq => Sys2Proof.Machine.execSyncTimeout seq s
  | .taskDispatch quad => Sys2Proof.Machine.execTaskDispatch quad s
  | .streamReadAhead slot v => Sys2Proof.Machine.execStreamReadAhead slot v s
  | .expiryLapse pkg index => Sys2Proof.Machine.execExpiryLapse pkg index s
  | .unpickWaveArrival pkg => Sys2Proof.Machine.execUnpickWaveArrival pkg s
  | .waveComplete pkg index => Sys2Proof.Machine.execWaveComplete pkg index s
  | .quarantineExpiry pkg index => Sys2Proof.Machine.execQuarantineExpiry pkg index s
  | .reachNote pkg => Sys2Proof.Machine.execReachNote pkg s
  | .reachNoteAck pkg => Sys2Proof.Machine.execReachNoteAck pkg s
  | .lapsedTagFilterExpiry pkg => Sys2Proof.Machine.execLapsedTagFilterExpiry pkg s
  | .flitQueueTimeout pkg port => Sys2Proof.Machine.execFlitQueueTimeout pkg port s
  | .frameReceive pkg port ok lost => Sys2Proof.Machine.execFrameReceive pkg port ok lost s
  | .keyStage pkg port key => Sys2Proof.Machine.execKeyStage pkg port key s
  | .keySwitch pkg port => Sys2Proof.Machine.execKeySwitch pkg port s
  | .keyExhaustion pkg port => Sys2Proof.Machine.execKeyExhaustion pkg port s
  | .multicastDelivery pkg => Sys2Proof.Machine.execMulticastDelivery pkg s
  | .multicastAck pkg => Sys2Proof.Machine.execMulticastAck pkg s
  | .hostRequest pkg port op addr size value tag => Sys2Proof.Machine.execHostRequest pkg port op addr size value tag s
  | .patternTableWrite pkg port entry v => Sys2Proof.Machine.execPatternTableWrite pkg port entry v s
  | .fanOutEntryWrite pkg n v => Sys2Proof.Machine.execFanOutEntryWrite pkg n v s
  | .hostWindowWrite pkg port n v => Sys2Proof.Machine.execHostWindowWrite pkg port n v s
  | .registrationMessage pkg => Sys2Proof.Machine.execRegistrationMessage pkg s
  | .collContributionAccept pkg id => Sys2Proof.Machine.execCollContributionAccept pkg id s
  | .collComplete pkg id => Sys2Proof.Machine.execCollComplete pkg id s
  | .trapEntry slot => Sys2Proof.Machine.execTrapEntry slot s
  | .managementThreadEnd slot => Sys2Proof.Machine.execManagementThreadEnd slot s
  | .haltRequest part save => Sys2Proof.Machine.execHaltRequest part save s
  | .quiesceComplete part => Sys2Proof.Machine.execQuiesceComplete part s
  | .saveRequest part => Sys2Proof.Machine.execSaveRequest part s
  | .resumeRequest part => Sys2Proof.Machine.execResumeRequest part s
  | .saveComplete part => Sys2Proof.Machine.execSaveComplete part s
  | .saveTimeout part => Sys2Proof.Machine.execSaveTimeout part s
  | .restoreRequest part => Sys2Proof.Machine.execRestoreRequest part s
  | .restoreComplete part consistent => Sys2Proof.Machine.execRestoreComplete part consistent s
  | .restoreTimeout part => Sys2Proof.Machine.execRestoreTimeout part s
  | .watchdogReport part => Sys2Proof.Machine.execWatchdogReport part s
  | .coreMigrationRequest src dst => Sys2Proof.Machine.execCoreMigrationRequest src dst s
  | .forwardingEntryClear src => Sys2Proof.Machine.execForwardingEntryClear src s
  | .linkTrainingWake pkg port => Sys2Proof.Machine.execLinkTrainingWake pkg port s
  | .imageSubmit pkg die img => Sys2Proof.Machine.execImageSubmit pkg die img s
  | .attestationRequest pkg req => Sys2Proof.Machine.execAttestationRequest pkg req s
  | .powerOff pkg => Sys2Proof.Machine.execPowerOff pkg s
  | .partitionCreate part dies root => Sys2Proof.Machine.execPartitionCreate part dies root s
  | .thermalRankingTableWrite die cores => Sys2Proof.Machine.execThermalRankingTableWrite die cores s
  | .frameSend pkg port => Sys2Proof.Machine.execFrameSend pkg port s
  | .nop => Sys2Proof.Machine.execNop s
  | .nop96 => Sys2Proof.Machine.execNop96 s
  | .nop128 => Sys2Proof.Machine.execNop128 s
  | .halt => Sys2Proof.Machine.execHalt s
  | .yield => Sys2Proof.Machine.execYield s
  | .fbar => Sys2Proof.Machine.execFbar s
  | .mxbeg => Sys2Proof.Machine.execMxbeg s
  | .mxend => Sys2Proof.Machine.execMxend s
  | .tret => Sys2Proof.Machine.execTret s
  | .tretSkip => Sys2Proof.Machine.execTretSkip s
  | .track => Sys2Proof.Machine.execTrack s

end Sys2Proof.Machine
end

