-- ==== Sys2Proof/Machine/Plan.lean ====
section
/-! DEFINITION. What the pod does next (log 1): the choice at the head of `turns`, else a unit's event that is due, else
the issue cycle of a core that has not had it in this cycle (R34 to R36), else the next cycle. How a core's issue
cycle finds its instruction (R94, R191, R224), and how a program is placed where the next issue fetches (log 16). -/
namespace Sys2Proof.Machine

/-! ## Issue -/

/-- Is the thread to be ended at this issue: its tag's entry is not LIVE, and TRAPENT is clear (R191, R195)? -/
def State.mustEnd (s : State) (t : Thread) : Bool := !s.tagLive t.ex && !t.trapent

/-- The instruction a thread issues: the one held beside it, or the one at its pc; a fetch or a held pattern that
faults takes the trap (R94, R222, R224). -/
def State.present (s : State) (tid : Nat) : Option Instr × State :=
  match s.thread? tid with
  | none => (none, s)
  | some t =>
    if s.mustEnd t then (none, s.endThread tid true)
    else
      match t.hold with
      | some h =>
        (match h.what with
         | .instr i => (some i, s)
         | .bad c n => (none, s.takeTrap tid (some (.bad c n)) (mkTrap c 0 0)))
      | none =>
        match s.fetch tid with
        | (s1, .instr i) => (some i, s1)
        | (s1, .bad tr l) => (none, s1.takeTrap tid l tr)

/-- The cores of a quad below a core. -/
def lowerCores (core : Nat) : List Nat := (List.range (core % 4)).map (fun j => core - core % 4 + j)

/-- A core that may issue in this cycle: it has not had its issue cycle, and a thread can issue. -/
def State.mayIssue (s : State) (core : Nat) : Bool :=
  (s.coreAt core).playedAt != some s.cycle && (s.pick core).isSome

/-- The issue cycle of a core: at most one thread, once in a cycle (R34). The cores of a quad issue in ascending order, so
the lower ones have had theirs (R251). -/
def State.issueCore (s : State) (core : Nat) : Option Instr × State :=
  if (s.coreAt core).playedAt == some s.cycle then (none, s)
  else
    let s1 := (lowerCores core ++ [core]).foldl (fun s c => s.updCore c (fun x => { x with playedAt := some s.cycle })) s
    match s1.pick core with
    | none => (none, s1)
    | some tid => State.present { s1 with cur := tid } tid

/-! ## The end of a cycle -/

/-- A core's next cycle: a slot table that is due takes effect (R37). -/
def Core.endCycle (c : Core) : Core :=
  match c.due with
  | some t => { c with slotTab := t, due := none }
  | none => c

/-- A quad's next cycle: conditions are met by the events as they now stand, and the streak is 0 whenever no lower
priority is ready (R174, R178). -/
def Quad.endCycle (q : Quad) (cycle : Nat) : Quad := ({ q with shown := q.events }).settle cycle

/-- A thread in `EVWAIT` whose condition the events meet at the end of a cycle goes on (R174, R175). -/
def Thread.endCycle (t : Thread) (events : Mask) : Thread :=
  match t.park with
  | some (.event m) => if events &&& m == m then { t with park := none, mail := t.mail ++ [okMail evMet] } else t
  | _ => t

/-- Lines that a core's L2 slice holds (R8, R79). -/
def Core.sliceLines (c : Core) : Nat := 1024 * (6 - c.csplit)

/-- Capacity replacement of a visitor line (R151). A line whose clean is on its way stays, and one whose dirty bytes change an
overflowed line asks its handler first (R148, R152). -/
def State.evictLine (s : State) (die line : Nat) : State :=
  match s.linesWait die [line] with
  | some s1 => s1
  | none => (s.cleanHome die line).dropVisitor die line

/-- Capacity replacement in a core's slice: what is beyond its size leaves, visitor lines first (R8, R14, R151; log 10). -/
def State.trimSlice (s : State) (core : Nat) : State :=
  let cap := (s.coreAt core).sliceLines
  if s.visitors.length + s.slice.length ≤ cap then s
  else
    let die := dieOfCore core
    let vs := s.sliceVisitors core
    let ls := firsts ((s.slice.filter (fun c => homeCore c.1 == some core)).map (fun c => c.1 / 64))
    let excess := vs.length + ls.length - cap
    let free := (vs.filter (fun l => !s.cleanRuns die l (.hub 0))).take excess
    let s1 := free.foldl (fun s l => s.evictLine die l) s
    (ls.take (excess - free.length)).foldl (fun s l => (s.cleanSlice l).dropSlice l) s1

/-- The cores whose slices keep visitor lines or dirty home-slice lines. -/
def State.sliceOwners (s : State) : List Nat :=
  firsts (s.visitors.map (fun e => e.1 / 2 ^ 46 * 2048 + sliceOf (e.1 % 2 ^ 46)) ++ s.slice.filterMap (fun c => homeCore c.1))

/-- A cycle ends: changes of events are made whose stores are acknowledged, the conditions of the next cycle are read, and
waiters on shared registers that have emptied are served (R42, R174, R323). -/
def State.tick (s : State) : State :=
  let s1 := s.quads.foldl (fun s e => s.settleEvents e.1) s
  let s2 : State :=
    { s1 with
      cycle := s1.cycle + 1
      threads := s1.threads.map (fun e => (e.1, e.2.endCycle (s1.quadAt (quadOfCore (coreOfTid e.1))).events))
      cores := s1.cores.map (fun e => (e.1, e.2.endCycle))
      quads := s1.quads.map (fun e => (e.1, e.2.endCycle (s1.cycle + 1))) }
  let s3 := s2.cores.foldl (fun s e => s.examineC e.1) s2
  s3.sliceOwners.foldl (fun s c => s.trimSlice c) s3

/-! ## What is due by itself -/

/-- Events of a core's units that may be due. -/
def Core.agenda (c : Nat) (x : Core) : List Instr :=
  (if x.cWrites.isEmpty then [] else [.sharedRegisterWriteLands c]) ++
  (if x.mqOut.isEmpty then [] else [.messageReplyTaken c, .messageReplyTimeout c]) ++
  (match x.mqIn with
   | [] => []
   | m :: _ =>
     if m.kind == 1 then [.spawnRequestMessage c]
     else if m.kind == 2 then [.migrationArrival c]
     else if m.kind == 3 then [.sharerOverflow c]
     else [.overflowWrite c]) ++
  (if x.mxWait.isEmpty then [] else [.matrixCommandAccept c]) ++
  (if x.mxRun.isSome then [.matrixCommandComplete c, .matrixCommandExecute c]
   else if x.mxQ.isEmpty then [] else [.matrixCommandExecute c]) ++
  (if x.cpWait.isEmpty then [] else [.copyCommandAccept c]) ++
  (if x.cpRun.isSome then [.copyCommandComplete c, .copyDeferred c, .copyResume c, .copyCommandExecute c]
   else if x.cpQ.isEmpty then [] else [.copyCommandExecute c]) ++
  x.reqs.flatMap (fun r => [.busyResend c r.rtag, .requestResend c r.rtag, .remoteTimeoutExpiry c r.rtag]) ++
  (if x.hvec == 0 then [] else [.handlerThreadStart c]) ++
  (match x.moving with
   | some d => [.coreMigrationRequest c d]
   | none => [])

/-- Events of a thread that may be due. -/
def Thread.agenda (tid : Nat) (disabled : Bool) (t : Thread) : List Instr :=
  (match t.park with
   | some .refused => [.spawnRefused tid]
   | some (.migr true) => [.migrationResend tid]
   | some (.trap _ _) => [.trapEntry tid]
   | _ => []) ++
  (if disabled then [.hardwareDisplacement tid] else [])

/-- The event that takes a message from a hub's inbox. -/
def Msg.agenda (pkg : Nat) (m : Msg) : List Instr :=
  match m.body with
  | .req _ _ _ => [.remoteRequestArrival pkg, .reachNote pkg]
  | .reply r =>
    if r == .listed then [.listedNotice pkg, .reachNoteAck pkg]
    else if r.refusal then [.busyReply pkg, .reachNoteAck pkg]
    else [.replyArrival pkg, .reachNoteAck pkg]
  | .wave _ => [.unpickWaveArrival pkg]
  | .waveDone t => [.waveComplete (tagPkg t) (tagIndex t)]
  | .reg _ _ _ => [.registrationMessage pkg]
  | .mcast _ _ _ _ _ _ _ => [.multicastDelivery pkg]
  | .mcastAck _ => [.multicastAck pkg]
  | .host _ _ _ _ => []

/-- Events of a package's hub and router that may be due. -/
def Pkg.agenda (p : Nat) (x : Pkg) : List Instr :=
  x.inbox.flatMap (Msg.agenda p) ++
  x.exTab.flatMap (fun e => match e.2.st with
    | .live => [.expiryLapse p e.1]
    | .lapsing => [.waveComplete p e.1]
    | .quarantine => [.quarantineExpiry p e.1]
    | _ => []) ++
  (if x.filter.isEmpty then [] else [.lapsedTagFilterExpiry p]) ++
  (if x.replay.isEmpty then [] else [.replayEntryExpiry p]) ++
  x.links.flatMap (fun l =>
    (if l.2.wire.isEmpty then [] else [.frameReceive p l.1 true []]) ++
    (if l.2.staged.isSome then [.keySwitch p l.1] else if l.2.txKey.isSome then [.keyExhaustion p l.1] else [])) ++
  x.queues.flatMap (fun q =>
    if q.2.isEmpty then [] else .flitQueueTimeout p (q.1 / 4) :: (List.range 28).map (fun port => .frameSend p port)) ++
  x.nbufs.flatMap (fun b => match b.2.run with
    | some r => [if r.accepted then .collComplete p b.1 else .collContributionAccept p b.1]
    | none => [])

/-- Events of a partition that may be due. -/
def Partition.agenda (p : Nat) (x : Partition) : List Instr :=
  (match x.st with
   | .run => []
   | .halting => [.quiesceComplete p, .saveTimeout p]
   | .saving => [.saveTimeout p, .saveComplete p]
   | .saved => []
   | .restoring => [.restoreTimeout p, .restoreComplete p true]) ++
  (if x.wdEn then [.watchdogReport p] else [])

/-- Events of waiters in retry lists that may be due. -/
def Waiter.agenda (w : Waiter) : List Instr :=
  (match w.refusedAt with
   | some _ => [.retryListResend w.seq]
   | none => [.retryListExamine w.home]) ++
  (if w.limit == 0 then [] else [.syncTimeout w.seq])

/-- Everything that may be due, in the order in which it is tried. -/
def State.agenda (s : State) : List Instr :=
  s.threads.flatMap (fun e =>
    e.2.agenda e.1 ((s.coreAt (coreOfTid e.1)).disabled.getLsbD (slotOfTid e.1))) ++
  s.cores.flatMap (fun e => e.2.agenda e.1) ++
  s.quads.flatMap (fun e => if e.2.tasks.isEmpty then [] else [.taskDispatch e.1]) ++
  s.dies.flatMap (fun e => if e.2.shoot.isSome then [.shootdownDone e.1] else [.shootdownRequest e.1]) ++
  s.pkgs.flatMap (fun e => e.2.agenda e.1) ++
  s.retry.flatMap Waiter.agenda ++
  s.parts.flatMap (fun e => e.2.agenda e.1)

/-- Does the event happen now: does it change the pod? -/
def State.due (s : State) (i : Instr) : Bool :=
  match exec i s with
  | .next s1 => s1 != s
  | _ => false

/-- The first event that is due. -/
def State.dueEvent (s : State) : Option Instr := s.agenda.find? (fun i => s.due i)

/-- The first core that may issue. -/
def State.nextCore (s : State) : Option Nat :=
  (s.threads.find? (fun e => s.mayIssue (coreOfTid e.1))).map (fun e => coreOfTid e.1)

/-- What happens without a choice. -/
def State.planSelf (s : State) : Option Instr × State :=
  match s.dueEvent with
  | some i => (some i, s)
  | none =>
    match s.nextCore with
    | some c => s.issueCore c
    | none => (none, s.tick)

/-! ## Events that do not wait -/

/-- Is a handler's start at its latest moment (R39)? -/
def State.handlerLate (s : State) (core : Nat) : Bool :=
  let c := s.coreAt core
  decide (Nat.max ((c.emptied[c.ovh]?).getD 0) c.hvecAt + Config.nsToCycles 2000 ≤ s.cycle)

/-- Events whose moment the spec names: what happens at the end of an interval. -/
def State.timed (s : State) : Instr → Bool
  | .sharedRegisterWriteLands _ => true
  | .taskDispatch _ => true
  | .handlerThreadStart c => s.handlerLate c
  | .messageReplyTimeout _ => true
  | .busyResend _ _ => true
  | .requestResend _ _ => true
  | .remoteTimeoutExpiry _ _ => true
  | .replayEntryExpiry _ => true
  | .retryListExamine _ => true
  | .retryListResend _ => true
  | .syncTimeout _ => true
  | .expiryLapse _ _ => true
  | .quarantineExpiry _ _ => true
  | .lapsedTagFilterExpiry _ => true
  | .flitQueueTimeout _ _ => true
  | .saveTimeout _ => true
  | .restoreTimeout _ => true
  | .watchdogReport _ => true
  | _ => false

def State.timedEvent (s : State) : Option Instr := s.agenda.find? (fun i => s.timed i && s.due i)

/-! ## Choices -/

/-- An event row, as opposed to an instruction of a thread. -/
def isEvent (i : Instr) : Bool := (encodeF i).isNone

/-- An uncorrectable error of a memory granule (R230). -/
def State.poisonAt (s : State) (pa : Nat) : State :=
  let g := pa / granuleSize pa * granuleSize pa
  match homeDie pa with
  | none => s
  | some die =>
    let core := if isLs pa then (homeCore pa).getD 0 else die * 2048 + 2047
    State.logError { s with poison := setIns s.poison g } die (s.logEnt core 0 2 0 pa 0)

/-- An uncorrectable error of a line that a die's L2 holds (R230). -/
def State.poisonLine (s : State) (die line : Nat) : State :=
  match mapGet s.visitors (visitorKey die line) with
  | none => s
  | some _ =>
    State.logError { s with poison := setIns s.poison (visitorPoison (visitorKey die line)) } die
      (s.logEnt (die * 2048 + 2047) 0 2 0 (line * 64) 0)

/-- An uncorrectable error of a scalar register (R230). -/
def State.poisonScalar (s : State) (tid : Nat) (r : Sc) : State :=
  let core := coreOfTid tid
  let s1 := match r with
    | .g n => s.updThread tid (fun t => { t with gPoison := setBit t.gPoison n.val })
    | .c n => s.updCore core (fun c => { c with cPoison := setBit c.cPoison n.val })
    | _ => s
  s1.logError (dieOfCore core) (s.logEnt core (slotOfTid tid) 2 0 0 (scNum r))

/-- An uncorrectable error of a mask register (R230). -/
def State.poisonMask (s : State) (tid : Nat) (k : KReg) : State :=
  (s.updThread tid (fun t => { t with kPoison := setBit t.kPoison k.val })).logError (dieOfCore (coreOfTid tid))
    (s.logEnt (coreOfTid tid) (slotOfTid tid) 2 0 0 k.val)

/-- An uncorrectable error of a vector register (R230). -/
def State.poisonVector (s : State) (tid : Nat) (v : VReg) : State :=
  (s.updThread tid (fun t => { t with vPoison := setBit t.vPoison v.val })).logError (dieOfCore (coreOfTid tid))
    (s.logEnt (coreOfTid tid) (slotOfTid tid) 2 0 0 v.val)

/-- An uncorrectable error of a tile (R123, R230). -/
def State.poisonAcc (s : State) (core : Nat) (n : AReg) : State :=
  (s.updCore core (fun c => { c with acc := c.acc.set n { c.acc.get n with poison := true } })).logError (dieOfCore core)
    (s.logEnt core 0 2 0 0 n.val)

/-- Cycles pass, and units are as slow as the spec lets them be: each cycle ends once every core that may issue has issued
and no event with a moment of its own is due (R34, R36, R39, R57; log 62). -/
def State.pass (s : State) (n : Nat) : Option Instr × State :=
  let again (m : Nat) : State := { s with turns := .tick m :: s.turns }
  match n with
  | 0 => (none, s)
  | m + 1 =>
    match s.timedEvent with
    | some i => (some i, again n)
    | none =>
      match s.nextCore with
      | some c => (again n).issueCore c
      | none => (none, (if m == 0 then s else again m).tick)

/-- A core's issue cycle as a choice: the cores below it in its quad that may issue come first (R251). -/
def State.issueTurn (s : State) (core : Nat) : Option Instr × State :=
  match (lowerCores core).find? (fun c => s.mayIssue c) with
  | some c => State.issueCore { s with turns := .issue core :: s.turns } c
  | none => s.issueCore core

/-- A choice of the environment, carried out. -/
def Turn.play (s : State) : Turn → Option Instr × State
  | .event i => (if isEvent i then some i else none, s)
  | .issue c => s.issueTurn c
  | .tick n => s.pass n
  | .evictVisitor d l => (none, s.evictLine d l)
  | .evictSlice l => (none, (s.cleanSlice l).dropSlice l)
  | .evictCode c l => (none, s.updCore c (fun x => { x with icache := mapDel x.icache l }))
  | .poisonMem pa => (none, s.poisonAt pa)
  | .poisonVisitor d l => (none, s.poisonLine d l)
  | .poisonReg t r => (none, s.poisonScalar t r)
  | .poisonVec t v => (none, s.poisonVector t v)
  | .poisonMask t k => (none, s.poisonMask t k)
  | .poisonTile c n => (none, s.poisonAcc c n)
  | .transient c sl a => (none, s.logError (dieOfCore c) (s.logEnt c sl 1 0 a 0))
  | .correct d => (none, s.updDie d (fun x => { x with corrected := x.corrected + 1 }))
  | .fetchAhead t pa =>
    (none, s.updThread t (fun x => { x with ahead := mapPut x.ahead (pa / 8) (BitVec.ofNat 64 (s.readN (pa / 8 * 8) 8)) }))
  | .fetchFresh t pa => (none, s.updThread t (fun x => { x with fresh := setIns x.fresh (pa / 8) }))
  | .dropFetch t => (none, s.updThread t (fun x => { x with fbuf := [], ahead := [], fresh := [], stale := [] }))
  | .matrixRead c n pa => (none, doMatrixRead c n pa s)
  | .collRead p id pa => (none, doCollRead p id pa s)
  | .assignPositions xs ys zs =>
    (none, s.assign (xs ++ s.positions 0) (ys ++ s.positions 1) (zs ++ s.positions 2))
  | .assignPkgBar p i part => (none, s.updPkg p (fun x => { x with pkgBars := mapPut x.pkgBars i part }))
  | .assignPodBar i part home =>
    (none, { s with
      pkgs := s.pkgs.map (fun e => (e.1, { e.2 with podBars := mapPut e.2.podBars i (part, home) })) })

/-- What comes next: an instruction or event for `exec`, in the state it finds, or a state alone. -/
def State.plan (s : State) : Option Instr × State :=
  match s.turns with
  | [] => s.planSelf
  | t :: rest => Turn.play { s with turns := rest } t

/-! ## Placing a program (log 16) -/

/-- Where a placed program stands: its virtual address, its page and its tables. -/
def progVa : Nat := 0x10000
def progPage : Nat := 0x10000
def progRoot : Nat := 0x1000

/-- The tables of a placed program: three pointers and a leaf with R and X. -/
def State.placeTables (s : State) : State :=
  (((s.homeWrite progRoot 8 0x2001).homeWrite 0x2000 8 0x3001).homeWrite 0x3000 8 0x4001).homeWrite
    (0x4000 + 8 * (progVa / 4096)) 8 (progPage + 0xB)

/-- The slot whose entry this cycle is, under the default slot table. -/
def State.progSlot (s : State) : Nat := s.cycle % 8

/-- A thread at the program's first instruction, in supervisor mode, on core 0 of die 0 of package 0. -/
def State.placeThread (s : State) : State :=
  let s1 := s.setThread s.progSlot { Thread.new s.nextUid (BitVec.ofNat 64 progVa) 0 with mode := .super }
  { s1 with nextUid := s1.nextUid + 1 }

/-- A partition in RUN that holds die 0 of package 0, with nothing cached of other tables. -/
def State.placePartition (s : State) : State :=
  let s1 := s.updPkg 0 (fun p => { p with member := true, powered := true, bootStep := 6 })
  let s2 := s1.updDie 0 (fun d => { d with part := some 0, forward := [], walks := [] })
  let s3 := s2.updPart 0 (fun p => { p with st := .run, dies := [0], root := progRoot })
  (s3.updCore 0 (fun c =>
    { c with tlb := [], icache := [], slotTab := defaultSlotTab, disabled := 0, moving := none, playedAt := none,
             lsOn := true })).updQuad 0 (fun q => { q with tlb := [] })

/-- The state in which the next step issues the instruction `w` of `n` bytes. -/
def State.placeProgram (s : State) (w : Nat) : State :=
  let s1 := (s.placeTables.homeWrite progPage 16 w).placePartition.placeThread
  { s1 with turns := .issue 0 :: s1.turns, poison := setDel s1.poison progPage }

end Sys2Proof.Machine
end

