-- ==== Sys2Proof/Machine/Step.lean ====
section
/-! DEFINITION. One step of the pod, and the placing of an instruction where the next step runs it. -/
namespace Sys2Proof.Machine

/-- One step: the plan's state, and the meaning of the instruction or event it names. -/
def step (s : State) : Host.Outcome State Fault Refusal :=
  match s.plan with
  | (some i, s1) => exec i s1
  | (none, s1) => .next s1

/-- The state with the instruction of `nbits` table bits stored where the next step fetches (log 16). -/
def State.withFetchWord (s : State) (nbits w : Nat) : State := s.placeProgram (w % 2 ^ nbits)

end Sys2Proof.Machine
end

