-- ==== Sys2Proof/Safety.lean ====
section
/-! DEFINITION. What the statements about the machine are said in: the conditions under which an instruction runs,
what its completion is, and what a step leaves alone. A safe run is one in which no thread is in the double-fault
state and memory has its canonical form. -/
namespace Sys2Proof

/-! ## Classes of instructions (R89 and the events) -/

/-- The classes of the reference: instructions of a thread, and events of the units. -/
inductive Cls where
  | int | fp | control | mem | vmem | vec | mask | matrix | thread | expiry | engine | system | event
  deriving DecidableEq, Repr

/-- The class of an instruction: the groups of majors of R89. -/
def Instr.cls (i : Instr) : Cls :=
  match encodeF i with
  | none => .event
  | some f =>
    let m := f.major.toNat
    if m < 0x20 then .int else if m < 0x30 then .fp else if m < 0x40 then .control else if m < 0x60 then .mem
    else if m < 0x66 then .vmem else if m < 0xA0 then .vec else if m < 0xB0 then .mask else if m < 0xC0 then .matrix
    else if m < 0xD0 then .thread else if m < 0xD8 then .expiry else if m < 0xF0 then .engine else .system

/-- The units' events, one by one: the constructors that stand for no instruction word. -/
def Instr.isEvent : Instr → Bool
  | .sharedRegisterWriteLands _ | .handlerThreadStart _ | .spawnRequestMessage _ | .migrationArrival _ | .sharerOverflow _
  | .overflowWrite _ | .messageReplyTaken _ | .messageReplyTimeout _ | .spawnRefused _ | .migrationResend _
  | .powerGrant _ _ _ _ _ | .currentSlotDisable _ _ | .thermalSlotDisable _ | .hardwareDisplacement _
  | .matrixCommandAccept _ | .matrixCommandExecute _ | .matrixCommandComplete _ | .copyCommandAccept _
  | .copyCommandExecute _ | .copyCommandComplete _ | .copyDeferred _ | .copyResume _ | .pageWalk _ _
  | .shootdownRequest _ | .shootdownDone _ | .remoteRequestArrival _ | .replyArrival _ | .listedNotice _ | .busyReply _
  | .busyResend _ _ | .requestResend _ _ | .remoteTimeoutExpiry _ _ | .replayEntryExpiry _ | .retryListExamine _
  | .retryListResend _ | .syncTimeout _ | .taskDispatch _ | .streamReadAhead _ _ | .expiryLapse _ _
  | .unpickWaveArrival _ | .waveComplete _ _ | .quarantineExpiry _ _ | .reachNote _ | .reachNoteAck _
  | .lapsedTagFilterExpiry _ | .flitQueueTimeout _ _ | .frameReceive _ _ _ _ | .keyStage _ _ _ | .keySwitch _ _
  | .keyExhaustion _ _ | .multicastDelivery _ | .multicastAck _ | .hostRequest _ _ _ _ _ _ _
  | .patternTableWrite _ _ _ _ | .fanOutEntryWrite _ _ _ | .hostWindowWrite _ _ _ _ | .registrationMessage _
  | .collContributionAccept _ _ | .collComplete _ _ | .trapEntry _ | .managementThreadEnd _ | .haltRequest _ _
  | .quiesceComplete _ | .saveRequest _ | .resumeRequest _ | .saveComplete _ | .saveTimeout _ | .restoreRequest _
  | .restoreComplete _ _ | .restoreTimeout _ | .watchdogReport _ | .coreMigrationRequest _ _ | .forwardingEntryClear _
  | .linkTrainingWake _ _ | .imageSubmit _ _ _ | .attestationRequest _ _ | .powerOff _ | .partitionCreate _ _ _
  | .thermalRankingTableWrite _ _ | .frameSend _ _ => true
  | _ => false

/-- The scalar register that an instruction writes beside its other effects (R94): its field D. -/
def Instr.otherDest : Instr → Option Sc
  | .ld _ _ _ _ d _ _ | .lds _ _ _ _ d _ _ | .amo _ _ _ _ d _ _ _ | .cas _ _ d _ _ _ _ | .acq _ d _ _ _
  | .task _ d _ _ _ _ | .grow _ d _ | .growReg _ d _ | .shrink d _ | .shrinkReg d _ | .rfillArm d | .gmstep d _ _
  | .gmstepRst d _ | .cpwait d _ | .cpyRfg _ _ d _ _ => some d
  | _ => none

/-- What a vector instruction names: its scalar sources and destination, the vector registers it reads, those it writes,
its lane mask, and the mask registers that it reads beside that one or writes. -/
structure VNames where
  rd : List Sc := []
  sd : Option Sc := none
  src : List VReg := []
  dst : List VReg := []
  k : KReg := 0
  kr : List KReg := []
  kd : Option KReg := none
  deriving DecidableEq, Repr

/-- The registers of an instruction of the vector class and of the vector loads and stores (R336 to R350). -/
def Instr.vnames : Instr → Option VNames
  | .vadd _ d a b k | .vsub _ d a b k | .vmul _ d a b k | .vdiv _ d a b k | .vmin _ _ d a b k | .vmax _ _ d a b k
  | .viadd _ _ _ d a b k | .visub _ _ _ d a b k | .vimul _ d a b k | .vand _ d a b k | .vor _ d a b k | .vxor _ d a b k
  | .vshl _ d a b k | .vshr _ d a b k | .vsar _ d a b k => some { src := a :: Machine.vsrcRegs b, dst := [d], k := k }
  | .vfma _ _ d a b c k => some { src := a :: c :: Machine.vsrcRegs b, dst := [d], k := k }
  | .vsgn _ _ d a b k | .vperm _ d a b k => some { src := [a, b], dst := [d], k := k }
  | .vsel _ d a b c k => some { src := [a, b], dst := [d], k := k, kr := [c] }
  | .vexp2 _ d a k | .vlog2 _ d a k | .vrcp _ d a k | .vrsq _ d a k | .vtanh _ d a k | .vcvt _ _ _ _ d a _ k
  | .vscan _ _ _ _ d a k => some { src := [a], dst := [d], k := k }
  | .vsetc _ _ _ d a b k => some { src := a :: Machine.vsrcRegs b, k := k, kd := some d }
  | .vred _ _ _ _ d a k => some { sd := some d, src := [a], k := k }
  | .vslide _ d a b c k => some { rd := [c], src := [a, b], dst := [d], k := k }
  | .vbcast _ d a k | .vidx _ d a k => some { rd := [a], dst := [d], k := k }
  | .vext _ _ d a b => some { rd := [b], sd := some d, src := [a] }
  | .vins _ d a b => some { rd := [a, b], src := [d], dst := [d] }
  | .vtopk _ d a _ c k => some { rd := [c], src := [a], dst := [d, d + 1], k := k }
  | .vrand d a b c k => some { rd := [a, b, c], dst := [d], k := k }
  | .vld _ d a _ k => some { rd := [a], dst := [d], k := k }
  | .vst _ a _ b k => some { rd := [a], src := [b], k := k }
  | .vgath _ d a _ b k => some { rd := [a], src := [b], dst := [d], k := k }
  | .vscat _ a _ d b k => some { rd := [a], src := [d, b], k := k }
  | _ => none

/-- The vector registers that must be full: the sources, and under a lane mask the destinations too (R65, R336). -/
def VNames.full (n : VNames) : List VReg := n.src ++ (if n.k = 0 then [] else n.dst)

/-- The mask registers read: the lane mask, others, and under a lane mask the mask destination (R336, R349). -/
def VNames.masks (n : VNames) : List KReg := n.k :: n.kr ++ (if n.k = 0 then [] else n.kd.toList)

/-- The scalar register an instruction that computes writes: its field D. -/
def Instr.scalarDest : Instr → Option Sc
  | .add d _ _ | .sub d _ _ | .mul d _ _ | .mulh _ d _ _ | .div _ d _ _ | .rem _ d _ _ | .and d _ _ | .or d _ _
  | .xor d _ _ | .andn d _ _ | .shl d _ _ | .shr d _ _ | .sar d _ _ | .min _ d _ _ | .max _ d _ _ | .setc _ _ d _ _
  | .clz d _ | .ctz d _ | .popc d _ | .bfx _ d _ _ | .bfxImm _ d _ _ _ | .bfi d _ _ _ | .sel d _ _ _ | .li d _
  | .li96 d _ | .li128 d _ | .lea d _ | .mov d _ => some d
  | .fadd _ d _ _ | .fsub _ d _ _ | .fmul _ d _ _ | .ffma _ d _ _ _ | .fdiv _ d _ _ | .fsqrt _ d _ | .fmin _ d _ _
  | .fmax _ d _ _ | .fsetc _ _ d _ _ | .fcvt _ _ _ _ d _ | .fclass _ d _ | .fsgn _ _ d _ _ => some d
  | .jl d _ | .jl96 d _ | .jr d _ | .kpopc d _ | .kfirst d _ => some d
  | .vred _ _ _ _ d _ _ | .vext _ _ d _ _ => some d
  | .srd d _ | .rdtime d | .exnew d _ | .exjoin d _ _ | .exchk d _ => some d
  | _ => none

/-- The number of the system register that a form of `SWR` writes (R73, R331). -/
def Instr.swrDest : Instr → Option Nat
  | .swr sys _ => some sys.toNat
  | .swrEx _ => some 0x000
  | .swrCsplit _ => some 0x020
  | .swrOvh _ => some 0x021
  | .swrWdog _ => some 0x022
  | .swrHvec _ => some 0x023
  | .swrMq _ => some 0x024
  | _ => none

end Sys2Proof

namespace Sys2Proof.Machine

/-! ## When an instruction runs -/

/-- A thread stands in `cur`, every scalar register of the list is full and not poisoned (R65, R230), and none is held from
an earlier issue of an instruction that waits. -/
def State.readable (s : State) (l : List Sc) : Bool :=
  (s.thread? s.cur).isSome && l.all (fun r => s.scFull r && !s.scPois r && !s.isKept r)

/-- The value of the second source of the integer class (R84, R89). -/
def State.src2 (s : State) : Src2 → Word
  | .reg r => s.sc r
  | .imm v => immVal v

/-- Vector registers `all` lie in the allotment and have no stream port; those of `rd` are full and not poisoned
(R65, R69, R230). -/
def State.vreadable (s : State) (all rd : List VReg) : Bool :=
  all.all (fun v => decide (v.val < s.thr.alot) && (s.thr.port? v).isNone) &&
  rd.all (fun v => s.thr.vFull.getLsbD v.val && !s.thr.vPoison.getLsbD v.val && (s.thr.port? v).isNone)

/-- No mask register of the list is poisoned (R230). -/
def State.kreadable (s : State) (l : List KReg) : Bool := l.all (fun k => !s.thr.maskBad k)

/-- A thread stands in `cur`, can read the scalar registers `rd` and the lane mask `k`, and can read the vector registers
`vs` and write `d` under it (R65, R230, R336). -/
def State.vreadyFor (s : State) (rd : List Sc) (d : List VReg) (vs : List VReg) (k : KReg) : Bool :=
  s.readable rd && s.vreadable (d ++ vs) ((if k == 0 then [] else d) ++ vs) && s.kreadable [k]

/-- Lane `j` of the second source of the vector class (R337). -/
def State.vsrc (s : State) (t : ETy) (b : VSrc) (j : Nat) : Nat :=
  match b with
  | .reg v => lane t.bits (s.thr.v.get v) j
  | .imm x => x.toNat

/-- The flags of the active lanes together (R336). -/
def flagsOf (t : ETy) (m : Mask) (f : Nat → FRes) : Nat :=
  (List.range t.lanes).foldl (fun fl j => if m.getLsbD j then fl ||| (f j).fl else fl) 0

/-- The active lanes of `x` hold `f`, the others what `old` holds (R63, R336). -/
def LanesAre (t : ETy) (m : Mask) (old x : Vec) (f : Nat → Nat) : Prop :=
  ∀ j < t.lanes, lane t.bits x j = if m.getLsbD j then f j % 2 ^ t.bits else lane t.bits old j

/-- Nothing is kept from an earlier issue, nothing the thread sent is unanswered, no copy delivery to `g15` is
outstanding, and the thread's number is its own. -/
def State.fresh (s : State) : Bool :=
  s.tidOf s.thr.uid == some s.cur &&
  s.thr.mail.isEmpty && s.thr.stores.isEmpty && s.thr.hold.isNone && !s.thr.gPend.getLsbD 15 &&
  !(s.coreAt s.core).reqs.any (fun r => r.who == .thread s.thr.uid) &&
  !s.retry.any (fun w => w.who == .thread s.thr.uid)

/-- No request waits at a home, no line has more L1 sharers than its directory entry holds, nothing is poisoned, and
the home slices hold lines of HBM only (an invariant: `State.canonical`). -/
def State.calm (s : State) : Bool :=
  s.retry.isEmpty && s.dirs.all (fun e => !e.2.overflowed) && s.poison.isEmpty && s.slice.all (fun c => isHbm c.1)

/-- An address of the thread's own package whose home answers: a local store of another partition that is not in RUN
refuses (R232). -/
def State.homeAnswers (s : State) (pa : Nat) : Bool :=
  pkgOfPa pa == pkgOfCore s.core && !s.refuses s.core pa

/-- An access performed at its home in the thread's own package, and not kept in a visitor line (R150). -/
def State.atHome (s : State) (p : Phys) : Bool := !p.visits s.core && s.homeAnswers p.pa

/-- No clean of a visitor line of the thread's die is on its way (R148). -/
def State.noCleans (s : State) : Prop :=
  (∀ e ∈ s.cores, e.2.reqs = [] ∧ e.2.mqIn = [] ∧ e.2.mqOut = []) ∧ (s.dieAt (dieOfCore s.core)).cleans = []

/-- The translation of an access of the thread in `cur`. -/
def State.reach (s : State) (x : Access) (va : Word) : Except Trap Phys := s.translate s.core s.thr.mode x va

/-- An access to a maintenance block, whose page ends after 32 bytes (R129). -/
def Phys.inBlock (p : Phys) : Bool := match placeOf p.pa with | .tmb _ _ => true | _ => false

/-- A queue takes a command before the first one that counts as later (R111, R137). -/
def TakesPlace {α : Type} (later : α → Prop) (q q' : List α) (x : α) : Prop :=
  ∃ l r, q = l ++ r ∧ q' = l ++ x :: r ∧ (∀ y ∈ l, ¬ later y) ∧ ∀ y r', r = y :: r' → later y

/-- A loaded value in a scalar register (R64, R308): sign-extended, or zero-extended under `.z`. -/
def loaded (z : Bool) (w : Width) (v : Nat) : Word :=
  if z || w == .d then BitVec.ofNat 64 v else BitVec.ofInt 64 (sgnOf (8 * widthBytes w) v)

/-- Bytes `pa` to `pa + n − 1` hold `v`, little-endian, and every other byte of memory reads as before (R3). -/
def Stored (s t : State) (pa n v : Nat) : Prop :=
  ∀ a, t.byteAt a = if pa ≤ a ∧ a < pa + n then BitVec.ofNat 8 (v / 2 ^ (8 * (a - pa))) else s.byteAt a

/-- The bytes at `va + j`, for every `j` below `n` that `on` names, stand at `pa + j` at homes of the package. -/
def State.spans (s : State) (x : Access) (va : Word) (pa n : Nat) (on : Nat → Bool) : Prop :=
  va.toNat % 4096 = pa % 4096 ∧
  ∀ j < n, on j = true → ∃ p, s.reach x (va + BitVec.ofNat 64 j) = .ok p ∧ p.pa = pa + j ∧ s.atHome p = true

/-- The same for a unit of a core that translates in a mode of its own. -/
def State.unitSpans (s : State) (core : Nat) (m : Mode) (x : Access) (va pa n : Nat) : Prop :=
  va % 4096 = pa % 4096 ∧ va + n ≤ 2 ^ 48 ∧
  ∀ j < n, ∃ p, s.translate core m x (BitVec.ofNat 64 (va + j)) = .ok p ∧ p.pa = pa + j ∧ p.visits core = false ∧
    pkgOfPa p.pa = pkgOfCore core ∧ s.refuses core p.pa = false

/-- The trap frame at `f` stands at `pa` at homes, whatever memory holds: its page is in a TLB (R222). -/
def State.frameAt (s : State) (core : Nat) (f : Word) (pa : Nat) : Prop :=
  ∀ (mem slice : List Host.Cell), ∀ j < 16, ∃ p,
    ({ s with mem := mem, slice := slice } : State).translate core .super storeA (f + BitVec.ofNat 64 j) = .ok p ∧
    p.pa = pa + j ∧ p.visits core = false

/-- A message has left a package: it stands in its own inbox, or its flits, a reply's to a host among them, stand in the
injection queue of its class (R200, R201). -/
def State.sent (t : State) (m : Msg) : Prop :=
  if m.dst = m.src ∧ m.toHost = false then m ∈ (t.pkgAt m.src).inbox
  else ∀ j < flitCount m, ∃ f ∈ (mapGet (t.pkgAt m.src).queues (queueKey 28 m.cls)).getD [], f.msg = m ∧ f.idx = j

/-- The only message in a package's inbox, with a tag that need not be reported (R193). -/
def State.onlyMsg (s : State) (pkg : Nat) (m : Msg) : Prop := (s.pkgAt pkg).inbox = [m] ∧ s.mustNote pkg m.exp = false

/-- The reply to a request. -/
def replyTo (pkg : Nat) (m : Msg) (rep : Reply) : Msg :=
  { dst := pkgOfCore m.core, src := pkg, cls := 1, core := m.core, rtag := m.rtag, gen := m.gen, exp := m.exp,
    resend := false, body := .reply rep }

/-- A thread waits with the park given. -/
def State.waits (s : State) (tid : Nat) (who : Who) (p : Park) : Prop :=
  ∃ u, s.thread? tid = some u ∧ u.park = some p ∧ who = .thread u.uid ∧ s.tidOf u.uid = some tid

/-- A thread has its answer, and its instruction issues again. -/
def State.answered (s : State) (tid : Nat) (rep : Reply) : Prop :=
  ∃ u, s.thread? tid = some u ∧ u.park = none ∧ ∃ m ∈ u.mail, m.rep = rep

/-- The tag of the thread's new work: 0 while TRAPENT is set (R192). -/
def State.newTag (s : State) : Tag := if s.thr.trapent then 0 else s.thr.ex

/-- A tag's entry. -/
def State.entry (s : State) (pkg i : Nat) : ExEnt := (s.pkgAt pkg).ex i

/-! ## How an instruction completes -/

/-- The scalar destination gets its value, and the thread goes on after the instruction. -/
def State.done (s : State) (i : Instr) (d : Sc) (v : Word) : State := (s.putSc d v).retire (instrLen i) .seq

/-- The thread goes on after the instruction. -/
def State.goesOn (s : State) (i : Instr) : State := s.retire (instrLen i) .seq

/-- The thread goes on at an address. -/
def State.jumped (s : State) (i : Instr) (pc : Word) : State := s.retire (instrLen i) (.jump pc)

/-- The instruction takes a fault. -/
def State.trapped (s : State) (i : Instr) (cause addr info : Nat) : State :=
  s.takeTrap s.cur (some (.instr i)) (mkTrap cause addr info)

/-- The flags of a floating-point operation are added to `fcsr` (R75). -/
def State.withFlags (s : State) (fl : Nat) : State :=
  s.setThr { s.thr with fcsr := s.thr.fcsr ||| BitVec.ofNat 10 fl }

/-- A vector destination gets its value, and the thread goes on after the instruction. -/
def State.vdone (s : State) (i : Instr) (d : VReg) (x : Vec) : State := (s.setThr (s.thr.putV d x)).goesOn i

/-- A mask destination gets its value, and the thread goes on after the instruction. -/
def State.kdone (s : State) (i : Instr) (d : KReg) (x : Mask) : State := (s.setThr (s.thr.putK d x)).goesOn i

/-- The thread in `cur` ran its instruction to the end: it took no trap and does not wait. -/
def Ran (s t : State) : Prop :=
  t.cur = s.cur ∧ (t.thread? s.cur).isSome = true ∧ t.thr.park = none ∧ t.thr.trapent = s.thr.trapent

/-- The instruction has completed, and the thread goes on after it. -/
def Completed (i : Instr) (s t : State) : Prop :=
  Ran s t ∧ t.thr.hold = none ∧ t.thr.pc = s.thr.pc + BitVec.ofNat 64 (instrLen i)

/-- A scalar destination holds a value: at once for `g`, as a write that lands for `c` (R42); `zr` discards it (R67). -/
def Gets (s t : State) (d : Sc) (v : Word) : Prop :=
  match d with
  | .g n => t.thr.g.get n = v ∧ t.thr.gFull.getLsbD n.val = true
  | .c n => { n := n, v := some v, issued := s.cycle, fill := false } ∈ (t.coreAt s.core).cWrites
  | _ => True

/-- The real value of a finite floating-point value. -/
def FVal.real : FVal → ℚ
  | .fin neg m e => (if neg then -1 else 1) * (m : ℚ) * (2 : ℚ) ^ e
  | _ => 0

/-- The order of real values and infinities that R295 and R296 compare by. -/
def FVal.Below (x y : FVal) : Prop :=
  match x, y with
  | .inf a, .inf b => a = true ∧ b = false
  | .inf a, _ => a = true
  | _, .inf b => b = false
  | x, y => x.real < y.real

/-- Equality of real values, −0 equal to +0, and of infinities. -/
def FVal.Same (x y : FVal) : Prop :=
  match x, y with
  | .inf a, .inf b => a = b
  | .inf _, _ => False
  | _, .inf _ => False
  | x, y => x.real = y.real

/-- The real number that an exact result stands for (R101): zero, or a number of the sign given whose magnitude is `m` times
2^e, or, with something following, lies strictly between that and (m + 1) times 2^e, `m` having 64 bits or more then. -/
def Ex.Stands (r : Ex) (x : ℝ) : Prop :=
  match r with
  | .zero _ => x = 0
  | .num neg m e rest =>
    let y : ℝ := if neg then -x else x
    0 < y ∧ if rest then 2 ^ 63 ≤ m ∧ (m : ℝ) * (2 : ℝ) ^ e < y ∧ y < ((m : ℝ) + 1) * (2 : ℝ) ^ e
      else y = (m : ℝ) * (2 : ℝ) ^ e
  | _ => False

/-- Bytes in a row, little-endian. -/
def bytesN (f : Nat → Byte) (o : Nat) : Nat → Nat
  | 0 => 0
  | n + 1 => (f o).toNat + 256 * bytesN f (o + 1) n

/-- Where the byte at an offset of a named buffer stands. -/
def NBuf.addrAt (n : NBuf) (o : Nat) : Nat :=
  match n.segs.find? (fun e => decide (e.1 ≤ o) && decide (o < e.1 + e.2.2)) with
  | some e => e.2.1 + (o - e.1)
  | none => 0

/-- The pages of a buffer follow one another from its first byte to its last (R213). -/
def NBuf.laid (n : NBuf) : Prop :=
  n.info.size ≤ 2 ^ 30 ∧ n.info.size % 256 = 0 ∧
  n.segs.Pairwise (fun x y => x.1 + x.2.2 ≤ y.1) ∧
  (∀ e ∈ n.segs, e.1 + e.2.2 ≤ n.info.size ∧ e.1 % 8 = 0 ∧ e.2.1 % 8 = 0 ∧ e.2.2 % 8 = 0) ∧
  ∀ o < n.info.size, ∃ e ∈ n.segs, e.1 ≤ o ∧ o < e.1 + e.2.2

/-- A byte of a contribution: as the engine has read its word, else as HBM holds it below the caches (R169, R216). -/
def State.heldByte (s : State) (n : NBuf) (r : CollRun) (o : Nat) : Byte :=
  let pa := n.addrAt o
  match r.staged.find? (fun e => e.1 == pa / 8) with
  | some e => e.2.extractLsb' (8 * (pa % 8)) 8
  | none => Memory.read s.mem pa

/-! ## What stays -/

/-- Every byte of memory, tag, seam field and visitor line reads as before. -/
def SameMemory (s t : State) : Prop :=
  (∀ pa, t.byteAt pa = s.byteAt pa) ∧ (∀ pa, t.tagAt pa = s.tagAt pa) ∧ (∀ pa, t.seamAt pa = s.seamAt pa) ∧
  (∀ k, mapGet t.visitors k = mapGet s.visitors k) ∧ t.poison = s.poison

/-- Other threads, other cores, and the tables of quads, dies, packages and barriers are as before. -/
def SameOthers (s t : State) : Prop :=
  (∀ k, k ≠ s.cur → t.thread? k = s.thread? k) ∧ (∀ c, c ≠ s.core → t.coreAt c = s.coreAt c) ∧
  t.quads = s.quads ∧ t.dies = s.dies ∧ t.pkgs = s.pkgs ∧ t.barriers = s.barriers ∧ t.chains = s.chains ∧
  t.retry = s.retry ∧ t.cycle = s.cycle

/-- The `g` registers but the destination are as before. -/
def SameG (s t : State) (d : Option Sc) : Prop :=
  ∀ n : Fin 16, d ≠ some (.g n) → t.thr.g.get n = s.thr.g.get n ∧
    t.thr.gFull.getLsbD n.val = s.thr.gFull.getLsbD n.val ∧ t.thr.gPoison.getLsbD n.val = s.thr.gPoison.getLsbD n.val

/-- The shared registers but the destination are as before. -/
def SameC (s t : State) (d : Option Sc) : Prop :=
  (t.coreAt s.core).c = (s.coreAt s.core).c ∧ (t.coreAt s.core).cFull = (s.coreAt s.core).cFull ∧
  (t.coreAt s.core).cPoison = (s.coreAt s.core).cPoison ∧
  ∀ n : Fin 16, d ≠ some (.c n) →
    (t.coreAt s.core).cWrites.filter (fun w => w.n == n) = (s.coreAt s.core).cWrites.filter (fun w => w.n == n)

/-- The vector and mask registers are as before. -/
def SameVK (s t : State) : Prop :=
  t.thr.v = s.thr.v ∧ t.thr.vFull = s.thr.vFull ∧ t.thr.vPoison = s.thr.vPoison ∧ t.thr.k = s.thr.k ∧
  t.thr.kPoison = s.thr.kPoison

/-- The special registers of the thread are as before, `fcsr` apart: tag, matrix control, allotment, mode, limits
and the registers that a trap writes. -/
def SameSpecial (s t : State) : Prop :=
  t.thr.ex = s.thr.ex ∧ t.thr.mxctl = s.thr.mxctl ∧ t.thr.alot = s.thr.alot ∧ t.thr.syncl = s.thr.syncl ∧
  t.thr.mode = s.thr.mode ∧ t.thr.trapent = s.thr.trapent ∧ t.thr.pmode = s.thr.pmode ∧
  t.thr.idepth = s.thr.idepth ∧ t.thr.df = s.thr.df ∧ t.thr.tcause = s.thr.tcause ∧
  t.thr.tcause2 = s.thr.tcause2 ∧ t.thr.taddr = s.thr.taddr ∧ t.thr.tpc = s.thr.tpc ∧ t.thr.tinfo = s.thr.tinfo ∧
  t.thr.latch = s.thr.latch ∧ t.thr.ports = s.thr.ports ∧ t.thr.chain = s.thr.chain

/-- A partition is as before but for the time of its last progress (R234). -/
def SamePart (s t : State) : Prop :=
  ∀ p, { t.partAt p with wdAt := (s.partAt p).wdAt } = s.partAt p

/-- Every system register but number `n` is as before: the thread's, the core's, and the partition's watchdog (R73). -/
def SameSystem (s t : State) (n : Nat) : Prop :=
  (n ≠ 0x000 → t.thr.ex = s.thr.ex) ∧ (n ≠ 0x001 → t.thr.fcsr = s.thr.fcsr) ∧ (n ≠ 0x002 → t.thr.mxctl = s.thr.mxctl) ∧
  t.thr.alot = s.thr.alot ∧ (n ≠ 0x004 → t.thr.syncl = s.thr.syncl) ∧ t.thr.mode = s.thr.mode ∧
  (n ≠ 0x010 → (t.coreAt s.core).tvec = (s.coreAt s.core).tvec) ∧ (n ≠ 0x011 → t.thr.tcause = s.thr.tcause) ∧
  (n ≠ 0x012 → t.thr.tcause2 = s.thr.tcause2) ∧ (n ≠ 0x013 → t.thr.taddr = s.thr.taddr) ∧
  (n ≠ 0x014 → t.thr.tpc = s.thr.tpc ∧ t.thr.latch = s.thr.latch) ∧ (n ≠ 0x015 → t.thr.tinfo = s.thr.tinfo) ∧
  (n ≠ 0x016 → t.thr.idepth = s.thr.idepth ∧ t.thr.pmode = s.thr.pmode) ∧
  t.thr.trapent = s.thr.trapent ∧ t.thr.df = s.thr.df ∧
  (n ≠ 0x020 → (t.coreAt s.core).csplit = (s.coreAt s.core).csplit) ∧
  (n ≠ 0x021 → (t.coreAt s.core).ovh = (s.coreAt s.core).ovh) ∧ (n ≠ 0x022 → SamePart s t) ∧
  (n ≠ 0x023 → (t.coreAt s.core).hvec = (s.coreAt s.core).hvec) ∧
  (n ≠ 0x024 → (t.coreAt s.core).mq = (s.coreAt s.core).mq) ∧
  (t.coreAt s.core).slotTab = (s.coreAt s.core).slotTab ∧ (t.coreAt s.core).acc = (s.coreAt s.core).acc ∧
  (∀ j k, t.ident s.core j k = s.ident s.core j k)

/-- What the core holds beside its shared registers is as before: system registers, identity, accumulators and the
queues of its units. -/
def SameCore (s t : State) : Prop :=
  (t.coreAt s.core).tvec = (s.coreAt s.core).tvec ∧ (t.coreAt s.core).hvec = (s.coreAt s.core).hvec ∧
  (t.coreAt s.core).mq = (s.coreAt s.core).mq ∧ (t.coreAt s.core).csplit = (s.coreAt s.core).csplit ∧
  (t.coreAt s.core).ovh = (s.coreAt s.core).ovh ∧ (t.coreAt s.core).acc = (s.coreAt s.core).acc ∧
  (t.coreAt s.core).mxQ = (s.coreAt s.core).mxQ ∧ (t.coreAt s.core).cpQ = (s.coreAt s.core).cpQ ∧
  (∀ j n, t.ident s.core j n = s.ident s.core j n)

/-- Nothing changes but the thread's pc, the destination `d` and the bookkeeping of issue. -/
def OnlyDest (s t : State) (d : Option Sc) : Prop :=
  SameMemory s t ∧ SameOthers s t ∧ SameG s t d ∧ SameC s t d ∧ SameVK s t ∧ SameSpecial s t ∧ SameCore s t ∧
  SamePart s t

/-! ## Invariants -/

/-- Memory has its canonical form, and so has the memory of every image in shadow storage (R233); the home slices hold
bytes of HBM only (R150). -/
def State.canonical (s : State) : Prop :=
  Memory.wf s.mem = true ∧ (∀ p ∈ s.parts, ∀ im, p.2.image = some im → Memory.wf im.mem = true) ∧
  (∀ c ∈ s.slice, isHbm c.1 = true)

/-- No thread is in the double-fault state (R226). -/
def State.noDoubleFault (s : State) : Prop := ∀ e ∈ s.threads, e.2.df = false

/-- A state of a safe run. -/
def State.safe (s : State) : Prop := s.canonical ∧ s.noDoubleFault

end Sys2Proof.Machine
end

