-- ==== Sys2Proof/Certificates/Slice0/Obligations.lean ====
section
/-! DEFINITION. The statements about the machine, for the provers. -/
section Statements

open Sys2Proof Sys2Proof.Machine

/-- A word of a well-formed instruction decodes to that instruction, with every operand at every value its field
admits (R81, R83 to R91); every well-formed instruction has a word, and an event of a unit has none. -/
def Obligations.DecodeOfEncode : Prop :=
  (∀ (i : Instr) (w : IWord), encode i = some w → decode w = .ok i) ∧
  (∀ i : Instr, i.wf = true → i.isEvent = false → (encode i).isSome = true) ∧
  (∀ i : Instr, i.isEvent = true → encode i = none)

/-- What the decoder accepts is well formed, and its fields are the word's: no bit of the instruction's length is
dropped, and no two words of one length decode to one instruction (R81, R93). -/
def Obligations.EncodeOfDecode : Prop :=
  ∀ (w : IWord) (i : Instr), decode w = .ok i →
    i.wf = true ∧ encode i = some (BitVec.ofNat 128 (w.toNat % 2 ^ (8 * instrLen i)))

/-- Words of the reference's own examples decode to the instructions they stand for. -/
def Obligations.DecodeExamples : Prop :=
  decode 0x0000000000810C14#128 = .ok (.div false (.g 3) (.g 1) (.reg (.g 2))) ∧
  decode 0x0000210300011050#128 = .ok (.bfxImm true (.g 4) (.g 1) 8 4) ∧
  decode 0x0000008000C20458#128 = .ok (.sel (.g 1) (.g 2) (.reg (.g 3)) (.g 4)) ∧
  decode 0x0000000220010840#128 = .ok (.setc .lt false (.g 2) (.g 1) (.imm (.i27 0))) ∧
  decode 0x0000000000264064#128 = .ok (.mov (.c 0) (.i 6)) ∧
  decode 0x000000601081108C#128 = .ok (.ffma .f32 (.g 4) (.g 1) (.g 2) (.g 3)) ∧
  decode 0x00000800900114A4#128 = .ok (.fcvt .i32 .f32 false false (.g 5) (.g 1)) ∧
  decode 0xFFFFF600220700C0#128 = .ok (.br .lt false (.g 7) (.g 8) (BitVec.ofInt 27 (-80))) ∧
  decode 0x00000000000FFCCC#128 = .ok (.jr .zr (.g 15)) ∧
  decode 0x0000000000810E80#128 = .ok (.kand 3 1 2) ∧
  decode 0x00000000000000D8#128 = .ok .yield ∧
  decode (0x00000000FF800000#64 ++ 0x000000020000185E#64) = .ok (.li128 (.g 6) 0xFF800000)

/-- The results of the integer operations, on unbounded integers cut to 64 bits (R267). -/
def Obligations.IntegerResults : Prop :=
  ∀ (s : State) (d a : Sc) (b : Src2) (z : Bool), s.readable (a :: src2Regs b) = true → Sc.isI d = false →
    let x := s.sc a
    let y := s.src2 b
    let n := y.toNat % 64
    exec (.add d a b) s = .next (s.done (.add d a b) d (BitVec.ofInt 64 (x.toInt + y.toInt))) ∧
    exec (.sub d a b) s = .next (s.done (.sub d a b) d (BitVec.ofInt 64 (x.toInt - y.toInt))) ∧
    exec (.mul d a b) s = .next (s.done (.mul d a b) d (BitVec.ofInt 64 (x.toInt * y.toInt))) ∧
    exec (.mulh z d a b) s = .next (s.done (.mulh z d a b) d
      (if z then (x.setWidth 128 * y.setWidth 128).extractLsb' 64 64
       else (x.signExtend 128 * y.signExtend 128).extractLsb' 64 64)) ∧
    exec (.and d a b) s = .next (s.done (.and d a b) d (x &&& y)) ∧
    exec (.or d a b) s = .next (s.done (.or d a b) d (x ||| y)) ∧
    exec (.xor d a b) s = .next (s.done (.xor d a b) d (x ^^^ y)) ∧
    exec (.andn d a b) s = .next (s.done (.andn d a b) d (x &&& ~~~y)) ∧
    exec (.shl d a b) s = .next (s.done (.shl d a b) d (BitVec.ofNat 64 (x.toNat * 2 ^ n))) ∧
    exec (.shr d a b) s = .next (s.done (.shr d a b) d (BitVec.ofNat 64 (x.toNat / 2 ^ n))) ∧
    exec (.sar d a b) s = .next (s.done (.sar d a b) d (BitVec.ofInt 64 (x.toInt / ((2 ^ n : Nat) : Int)))) ∧
    exec (.min z d a b) s = .next (s.done (.min z d a b) d
      (if (if z then x.toNat ≤ y.toNat else x.toInt ≤ y.toInt) then x else y)) ∧
    exec (.max z d a b) s = .next (s.done (.max z d a b) d
      (if (if z then x.toNat ≤ y.toNat else x.toInt ≤ y.toInt) then y else x))

/-- Quotient and remainder, the divisor not zero (R285). A divisor of zero takes the integer-divide-by-zero fault, the
destination unchanged, and the signed −2^63 divided by −1 gives −2^63 with remainder 0 (R285). `CLZ`, `CTZ` and `POPC`
write the counts that R281 gives: `CLZ` the zeros above the most significant 1, `CTZ` the zeros below the least
significant 1, each 64 of a zero word, and `POPC` the number of 1 bits. -/
def Obligations.DivisionResults : Prop :=
  (∀ (s : State) (d a : Sc) (b : Src2), s.readable (a :: src2Regs b) = true → Sc.isI d = false → s.src2 b ≠ 0 →
     let x := s.sc a
     let y := s.src2 b
     exec (.div true d a b) s = .next (s.done (.div true d a b) d (BitVec.ofNat 64 (x.toNat / y.toNat))) ∧
     exec (.rem true d a b) s = .next (s.done (.rem true d a b) d (BitVec.ofNat 64 (x.toNat % y.toNat))) ∧
     exec (.div false d a b) s = .next (s.done (.div false d a b) d (BitVec.ofInt 64 (x.toInt.tdiv y.toInt))) ∧
     exec (.rem false d a b) s = .next (s.done (.rem false d a b) d (BitVec.ofInt 64 (x.toInt.tmod y.toInt)))) ∧
  ((∀ (s : State) (z : Bool) (d a : Sc) (b : Src2), s.readable (a :: src2Regs b) = true → Sc.isI d = false →
     s.src2 b = 0 →
     exec (.div z d a b) s = .next (s.trapped (.div z d a b) 0x1B 0 0) ∧
     exec (.rem z d a b) s = .next (s.trapped (.rem z d a b) 0x1B 0 0)) ∧
   (∀ (s : State) (d a : Sc) (b : Src2), s.readable (a :: src2Regs b) = true → Sc.isI d = false →
     (s.sc a).toInt = -2 ^ 63 → (s.src2 b).toInt = -1 →
     exec (.div false d a b) s = .next (s.done (.div false d a b) d (s.sc a)) ∧
     exec (.rem false d a b) s = .next (s.done (.rem false d a b) d 0))) ∧
  (∀ (s : State) (d a : Sc), s.readable [a] = true → Sc.isI d = false →
     (∃ n, exec (.clz d a) s = .next (s.done (.clz d a) d (BitVec.ofNat 64 n)) ∧ n ≤ 64 ∧
       (∀ j, 64 - n ≤ j → (s.sc a).getLsbD j = false) ∧ (n < 64 → (s.sc a).getLsbD (63 - n) = true)) ∧
     (∃ n, exec (.ctz d a) s = .next (s.done (.ctz d a) d (BitVec.ofNat 64 n)) ∧ n ≤ 64 ∧
       (∀ j, j < n → (s.sc a).getLsbD j = false) ∧ (n < 64 → (s.sc a).getLsbD n = true)) ∧
     exec (.popc d a) s = .next (s.done (.popc d a) d
       (BitVec.ofNat 64 (((List.range 64).map (fun j => (s.sc a).toNat / 2 ^ j % 2)).sum))))

/-- The field operations bit by bit: an extracted field stands in the low bits under its extension, an inserted one
replaces the bits of its place and no other, with the width clamped to the word (R275). -/
def Obligations.FieldOperations : Prop :=
  ∀ (s : State) (d a b c : Sc) (z : Bool) (pos : BitVec 6) (width : BitVec 7), Sc.isI d = false →
    (s.readable [a, b] = true → ∃ r : Word, exec (.bfx z d a b) s = .next (s.done (.bfx z d a b) d r) ∧
      let p := (s.sc b).toNat % 64
      let w := min ((s.sc b).toNat / 64 % 128) (64 - p)
      ∀ j < 64, r.getLsbD j = (if w = 0 then false else if j < w then (s.sc a).getLsbD (p + j)
        else (!z && (s.sc a).getLsbD (p + w - 1)))) ∧
    (s.readable [a] = true → 1 ≤ width.toNat → pos.toNat + width.toNat ≤ 64 →
      ∃ r : Word, exec (.bfxImm z d a pos width) s = .next (s.done (.bfxImm z d a pos width) d r) ∧
      ∀ j < 64, r.getLsbD j = (if j < width.toNat then (s.sc a).getLsbD (pos.toNat + j)
        else (!z && (s.sc a).getLsbD (pos.toNat + width.toNat - 1)))) ∧
    (s.readable [a, b, c] = true → ∃ r : Word, exec (.bfi d a b c) s = .next (s.done (.bfi d a b c) d r) ∧
      let p := (s.sc c).toNat % 64
      let w := min ((s.sc c).toNat / 64 % 128) (64 - p)
      ∀ j < 64, r.getLsbD j = (if p ≤ j ∧ j < p + w then (s.sc b).getLsbD (j - p) else (s.sc a).getLsbD j))

/-- Constants, moves, addresses, selections and comparisons (R310, R311, R315, R325, R326). `putSc` and the end of an
instruction: what a completed register instruction leaves. A `g` destination holds the value at once, a `c`
destination as a write that lands 7 cycles later (R42), `zr` discards it (R67), and the pc moves past the instruction.
-/
def Obligations.MoveResults : Prop :=
  (∀ (s : State) (d : Sc), Sc.isI d = false →
     (s.readable [] = true →
       (∀ v : BitVec 27, exec (.li d v) s = .next (s.done (.li d v) d (BitVec.ofInt 64 v.toInt))) ∧
       (∀ v : BitVec 32, exec (.li96 d v) s = .next (s.done (.li96 d v) d (BitVec.ofInt 64 v.toInt))) ∧
       (∀ v : BitVec 64, exec (.li128 d v) s = .next (s.done (.li128 d v) d v))) ∧
     (∀ a : Sc, s.readable [a] = true → exec (.mov d a) s = .next (s.done (.mov d a) d (s.sc a))) ∧
     (∀ b : Src2, s.readable (src2Regs b) = true →
       exec (.lea d b) s = .next (s.done (.lea d b) d (s.thr.pc + s.src2 b))) ∧
     (∀ (a c : Sc) (b : Src2), s.readable (a :: c :: src2Regs b) = true →
       exec (.sel d a b c) s = .next (s.done (.sel d a b c) d (if s.sc c ≠ 0 then s.sc a else s.src2 b))) ∧
     (∀ (a : Sc) (b : Src2) (z : Bool), s.readable (a :: src2Regs b) = true →
       let lt : Bool := if z then decide ((s.sc a).toNat < (s.src2 b).toNat) else decide ((s.sc a).toInt < (s.src2 b).toInt)
       let eq : Bool := decide (s.sc a = s.src2 b)
       ∀ cc : Cond, exec (.setc cc z d a b) s = .next (s.done (.setc cc z d a b) d
         (if (match cc with
           | .eq => eq
           | .ne => !eq
           | .lt => lt
           | .le => lt || eq
           | .gt => !lt && !eq
           | .ge => !lt) then 1 else 0)))) ∧
  (∀ (s : State) (i : Instr) (d : Sc) (v : Word), (s.thread? s.cur).isSome = true → Sc.isI d = false →
     Completed i s (s.done i d v) ∧ Gets s (s.done i d v) d v ∧ OnlyDest s (s.done i d v) (some d) ∧
     (s.done i d v).thr.fcsr = s.thr.fcsr ∧
     (d = .zr → ∀ n, (s.done i d v).thr.g.get n = s.thr.g.get n))

/-- The frame of the integer and mask classes, and of the jumps: an instruction that ran changes its destination, its
mask destination and the pc, and no flag, no other register and no byte of memory. The frame of the scalar
floating-point class: beside the destination only the sticky flags of `fcsr` may be set; rounding mode and enables
stay (R75, R289). The frame of the mask and control classes: no flag and no byte of memory, no register but the
destination. The frame of the matrix, expiry and system classes: no instruction of them writes memory at issue; the
matrix class changes no scalar register, and the expiry class none but its destination D; `SRD` and `RDTIME` change
only their destination; a form of `SWR` changes no scalar, vector or mask register and no system register but the one
it names (the write of `csplit`, which moves the local store, is left to the statement of the system registers), and a
write of `ex` also nothing else of memory. -/
def Obligations.RegisterFrames : Prop :=
  (∀ (s t : State) (i : Instr), i.cls = .int → exec i s = .next t → Ran s t →
     OnlyDest s t i.scalarDest ∧ t.thr.fcsr = s.thr.fcsr) ∧
  (∀ (s t : State) (i : Instr), i.cls = .fp → exec i s = .next t → Ran s t →
     OnlyDest s t i.scalarDest ∧ t.thr.fcsr &&& s.thr.fcsr = s.thr.fcsr ∧
     t.thr.fcsr &&& 0x383#10 = s.thr.fcsr &&& 0x383#10) ∧
  (∀ (s t : State) (i : Instr), i.cls = .mask ∨ (i.cls = .control ∧ i ≠ .halt ∧ (∀ a, i ≠ .haltKeep a)) →
     exec i s = .next t → Ran s t →
     SameMemory s t ∧ SameOthers s t ∧ SameG s t i.scalarDest ∧ SameC s t i.scalarDest ∧ SameSpecial s t ∧
     SameCore s t ∧ SamePart s t ∧ t.thr.fcsr = s.thr.fcsr ∧ t.thr.v = s.thr.v ∧
     ∀ n : KReg, (∀ a b, i ≠ .kand n a b ∧ i ≠ .kor n a b ∧ i ≠ .kxor n a b ∧ i ≠ .knot n a ∧ i ≠ .kmov n a) →
       t.thr.k.get n = s.thr.k.get n ∧ t.thr.kPoison.getLsbD n.val = s.thr.kPoison.getLsbD n.val) ∧
  (∀ (s t : State) (i : Instr), exec i s = .next t → Ran s t →
     (i.cls = .matrix → SameMemory s t ∧ SameG s t none ∧ SameC s t none ∧ t.thr.v = s.thr.v ∧
       t.thr.fcsr = s.thr.fcsr ∧ t.thr.ex = s.thr.ex ∧ t.thr.alot = s.thr.alot ∧ t.thr.mode = s.thr.mode ∧
       (t.coreAt s.core).acc = (s.coreAt s.core).acc ∧ ((∀ d n, i ≠ .mxflg d n) → t.thr.k = s.thr.k)) ∧
     (i.cls = .expiry → (∀ q, t.byteAt q = s.byteAt q) ∧ t.tags = s.tags ∧ SameG s t i.scalarDest ∧ SameC s t i.scalarDest ∧
       SameVK s t ∧ SameSystem s t 0x000 ∧ ((∀ a, i ≠ .exset a) → t.thr.ex = s.thr.ex)) ∧
     ((∃ d sys, i = .srd d sys) ∨ (∃ d, i = .rdtime d) → OnlyDest s t i.scalarDest ∧ t.thr.fcsr = s.thr.fcsr) ∧
     (∀ n, i.swrDest = some n → n ≠ 0x020 → SameG s t none ∧ SameC s t none ∧ SameVK s t ∧ SameSystem s t n ∧
       (∀ q, t.byteAt q = s.byteAt q) ∧ t.tags = s.tags ∧ (n ≠ 0x000 → SameMemory s t ∧ SameOthers s t)))

/-- The scalar floating-point arithmetic (R289, R290): the exact result rounded once in the mode of `fcsr`, its flags
added, zero-extended into the destination; and where a raised flag is enabled, the FP-exception fault with the flags
set and the destination unchanged. The exact results that are rounded (R101, R290). Of finite operands they are the
real sum, difference, product, fused sum, quotient and root, and an exact zero has the sign of R290; a product of zero
and an infinity, a NaN, infinities of opposite sign, 0/0, the root of a negative number and a division by zero give
what R290's table says, with its flags. -/
def Obligations.FloatResults : Prop :=
  (∀ (s : State) (t : ETy) (d a b c : Sc), s.readable [a, b, c] = true → Sc.isI d = false → t.isScalarFp = true →
     let x := valOf t false (low t (s.sc a))
     let y := valOf t false (low t (s.sc b))
     let z := valOf t false (low t (s.sc c))
     let rm := s.thr.rm
     let ends (i : Instr) (r : FRes) : Prop :=
       (enabledFlags s.thr.fcsr r.fl = 0 →
         exec i s = .next ((s.withFlags r.fl).done i d (BitVec.ofNat 64 r.bits))) ∧
       (enabledFlags s.thr.fcsr r.fl ≠ 0 → exec i s = .next ((s.withFlags r.fl).trapped i 0x1A 0 r.fl))
     ends (.fadd t d a b) (finishEx t rm (addEx rm x y)) ∧
     ends (.fsub t d a b) (finishEx t rm (addEx rm x y.negate)) ∧
     ends (.fmul t d a b) (finishEx t rm (mulEx x y)) ∧
     ends (.ffma t d a b c) (finishEx t rm (fmaEx rm x y z)) ∧
     ends (.fdiv t d a b) (finishEx t rm (divEx x y)) ∧
     ends (.fsqrt t d a) (finishEx t rm (sqrtEx x))) ∧
  (∀ (t : ETy) (mode : Nat) (x y c : FVal),
     let v (q : FVal) : ℝ := (q.real : ℝ)
     let is (r : Ex × Nat) (z : ℝ) : Prop := r.1.Stands z ∧ r.2 = 0
     let sig (l : List FVal) : Nat := if l.any FVal.isSig then 4 else 0
     (∀ r : Ex × Nat, finishEx t mode r =
       { bits := (roundEx t mode false r.1).bits, fl := (roundEx t mode false r.1).fl ||| r.2 }) ∧
     (∀ n1 n2 n3 m1 m2 m3 e1 e2 e3, x = .fin n1 m1 e1 → y = .fin n2 m2 e2 → c = .fin n3 m3 e3 →
       is (addEx mode x y) (v x + v y) ∧ is (addEx mode x y.negate) (v x - v y) ∧ is (mulEx x y) (v x * v y) ∧
       is (fmaEx mode x y c) (v x * v y + v c) ∧ (m2 ≠ 0 → is (divEx x y) (v x / v y)) ∧
       (m1 = 0 ∨ n1 = false → is (sqrtEx x) (Real.sqrt (v x))) ∧
       (v x + v y = 0 → (addEx mode x y).1 = .zero (if m1 = 0 ∧ m2 = 0 ∧ n1 = n2 then n1 else decide (mode = 3))) ∧
       (v x - v y = 0 → (addEx mode x y.negate).1 =
         .zero (if m1 = 0 ∧ m2 = 0 ∧ n1 = !n2 then n1 else decide (mode = 3))) ∧
       (m1 = 0 ∨ m2 = 0 → mulEx x y = (.zero (n1 != n2), 0)) ∧
       (v x * v y + v c = 0 → (fmaEx mode x y c).1 =
         .zero (if (m1 = 0 ∨ m2 = 0) ∧ m3 = 0 ∧ (n1 != n2) = n3 then n3 else decide (mode = 3))) ∧
       (m1 = 0 → m2 ≠ 0 → divEx x y = (.zero (n1 != n2), 0)) ∧
       (m2 = 0 → divEx x y = if m1 = 0 then (.nan, 4) else (.inf (n1 != n2), 8)) ∧
       (m1 = 0 → sqrtEx x = (.zero n1, 0)) ∧ (m1 ≠ 0 → n1 = true → sqrtEx x = (.nan, 4))) ∧
     ((x.isZero = true ∧ y.isInf = true) ∨ (x.isInf = true ∧ y.isZero = true) →
       mulEx x y = (.nan, 4) ∧ fmaEx mode x y c = (.nan, 4)) ∧
     (x.isNan = true ∨ y.isNan = true → addEx mode x y = (.nan, sig [x, y]) ∧
       addEx mode x y.negate = (.nan, sig [x, y]) ∧ mulEx x y = (.nan, sig [x, y]) ∧ divEx x y = (.nan, sig [x, y])) ∧
     (x.isNan = true ∨ y.isNan = true ∨ c.isNan = true → zeroTimesInf x y = false →
       fmaEx mode x y c = (.nan, sig [x, y, c])) ∧
     (x.isNan = true → sqrtEx x = (.nan, sig [x])) ∧
     (∀ a b, x = .inf a → y = .inf b → addEx mode x y = (if a = b then (.inf a, 0) else (.nan, 4)) ∧
       mulEx x y = (.inf (a != b), 0) ∧ divEx x y = (.nan, 4) ∧ sqrtEx x = if a then (.nan, 4) else (.inf false, 0)) ∧
     (∀ a n m e, x = .inf a → y = .fin n m e → addEx mode x y = (.inf a, 0) ∧ addEx mode y x = (.inf a, 0) ∧
       (m ≠ 0 → mulEx x y = (.inf (a != n), 0) ∧ mulEx y x = (.inf (a != n), 0)) ∧ divEx x y = (.inf (a != n), 0) ∧
       divEx y x = (.zero (n != a), 0)) ∧
     (x.isNan = false → y.isNan = false → zeroTimesInf x y = false → c.isNan = false →
       (x.isInf = true ∨ y.isInf = true → fmaEx mode x y c =
         if c.isInf = true ∧ c.neg ≠ (x.neg != y.neg) then (.nan, 4) else (.inf (x.neg != y.neg), 0)) ∧
       (x.isInf = false → y.isInf = false → c.isInf = true → fmaEx mode x y c = (.inf c.neg, 0))))

/-- Selection, comparison, classification, conversion and signs (R292, R293, R295 to R297), with the same end. The
class bit is the one of R292's table, by the sign, exponent and mantissa fields: infinities, normal and subnormal
numbers and zeros of either sign, signalling and quiet NaNs; exactly one bit is set. What selections, comparisons,
conversions and signs are (R293, R295 to R297): the larger or smaller operand in the order of the real values with −0
below +0, a NaN giving way to the other operand; a comparison of the real values, unordered with a NaN; a value
rounded to an integer and held to the range, or rounded once into the format and exact where it is representable; and
the sign bit replaced. -/
def Obligations.FloatSelections : Prop :=
  (∀ (s : State) (t dt st : ETy) (op : SgnOp) (cc : Cond) (z sat : Bool) (d a b : Sc), s.readable [a, b] = true →
     Sc.isI d = false → t.isScalarFp = true → dt.isFcvt = true → st.isFcvt = true →
     let x := low t (s.sc a)
     let y := low t (s.sc b)
     let ends (i : Instr) (v : Word) (fl : Nat) : Prop :=
       (enabledFlags s.thr.fcsr fl = 0 → exec i s = .next ((s.withFlags fl).done i d v)) ∧
       (enabledFlags s.thr.fcsr fl ≠ 0 → exec i s = .next ((s.withFlags fl).trapped i 0x1A 0 fl))
     ends (.fmin t d a b) (BitVec.ofNat 64 (fMaxMin t false x y).bits) (fMaxMin t false x y).fl ∧
     ends (.fmax t d a b) (BitVec.ofNat 64 (fMaxMin t true x y).bits) (fMaxMin t true x y).fl ∧
     ends (.fsetc cc t d a b) (if (fCompare t cc x y).1 then 1 else 0) (fCompare t cc x y).2 ∧
     (let r := convert dt z sat s.thr.rm (valOf st z (low st (s.sc a)))
      ends (.fcvt dt st z sat d a)
        (if dt.isInt && !z then BitVec.ofInt 64 (sgnOf dt.bits r.bits) else BitVec.ofNat 64 r.bits) r.fl) ∧
     exec (.fclass t d a) s = .next (s.done (.fclass t d a) d (BitVec.ofNat 64 (fClass t x))) ∧
     exec (.fsgn op t d a b) s = .next (s.done (.fsgn op t d a b) d (BitVec.ofNat 64 (fSign t op x y)))) ∧
  (∀ (t : ETy) (x : Nat), t.isScalarFp = true → x < 2 ^ t.bits →
     let f := fmtOf t
     let mant := x % 2 ^ f.mbits
     let ex := x / 2 ^ f.mbits % 2 ^ f.ebits
     let neg := 2 ^ (t.bits - 1) ≤ x
     fClass t x =
       if ex = 2 ^ f.ebits - 1 then
         if mant = 0 then (if neg then 1 else 0x80) else if mant < 2 ^ (f.mbits - 1) then 0x100 else 0x200
       else if ex = 0 then
         if mant = 0 then (if neg then 8 else 0x10) else if neg then 4 else 0x20
       else if neg then 2 else 0x40) ∧
  (∀ (t dt : ETy) (a b : Nat) (cc : Cond) (op : SgnOp) (max z sat : Bool) (mode : Nat) (v : FVal), a < 2 ^ t.bits →
     b < 2 ^ t.bits → mode < 4 →
     let x := valOf t false a
     let y := valOf t false b
     let nan := x.isNan = true ∨ y.isNan = true
     let sig := x.isSig = true ∨ y.isSig = true
     let r := fMaxMin t max a b
     let c := convert dt z sat mode v
     (r.fl = (if sig then 4 else 0) ∧
       (x.isNan = true → y.isNan = true → r.bits = canonNaN t) ∧ (x.isNan = true → y.isNan = false → r.bits = b) ∧
       (x.isNan = false → y.isNan = true → r.bits = a) ∧
       (¬ nan → (r.bits = a ∨ r.bits = b) ∧
         (x.Below y ∨ (x.isZero = true ∧ y.isZero = true ∧ x.neg = true ∧ y.neg = false) →
           r.bits = if max then b else a) ∧
         (y.Below x ∨ (x.isZero = true ∧ y.isZero = true ∧ y.neg = true ∧ x.neg = false) →
           r.bits = if max then a else b))) ∧
     ((nan → (fCompare t cc a b).1 = decide (cc = .ne) ∧
         (fCompare t cc a b).2 = if sig ∨ (cc ≠ .eq ∧ cc ≠ .ne) then 4 else 0) ∧
       (¬ nan → (fCompare t cc a b).2 = 0 ∧ ((fCompare t cc a b).1 = true ↔ match cc with
         | .eq => x.Same y
         | .ne => ¬ x.Same y
         | .lt => x.Below y
         | .le => x.Below y ∨ x.Same y
         | .gt => y.Below x
         | .ge => y.Below x ∨ x.Same y))) ∧
     (dt.isInt = true →
       let w := dt.bits
       let lo : Int := if z then 0 else -2 ^ (w - 1)
       let hi : Int := if z then 2 ^ w - 1 else 2 ^ (w - 1) - 1
       let enc (i : Int) : Nat := (i % 2 ^ w).toNat
       (v.isNan = true → c = { bits := 0, fl := 4 }) ∧
       (∀ n, v = .inf n → c = { bits := enc (if n then lo else hi), fl := if sat then 0 else 4 }) ∧
       (∀ n m e, v = .fin n m e → ∃ i : Int,
         (mode = 0 → |v.real - i| ≤ 1 / 2 ∧ (|v.real - i| = 1 / 2 → i % 2 = 0)) ∧
         (mode = 1 → i = if v.real < 0 then ⌈v.real⌉ else ⌊v.real⌋) ∧ (mode = 2 → i = ⌈v.real⌉) ∧ (mode = 3 → i = ⌊v.real⌋) ∧
         c = if i < lo then { bits := enc lo, fl := if sat then 0 else 4 }
           else if hi < i then { bits := enc hi, fl := if sat then 0 else 4 }
           else { bits := enc i, fl := if (i : ℚ) = v.real then 0 else 64 })) ∧
     (dt.isScalarFp = true →
       (∀ s, v = .nan s → c = { bits := canonNaN dt, fl := if s then 4 else 0 }) ∧
       (∀ n, v = .inf n → c = roundEx dt mode sat (.inf n)) ∧
       (∀ n e, v = .fin n 0 e → c = { bits := if n then 2 ^ (dt.bits - 1) else 0, fl := 0 }) ∧
       (∀ n m e, v = .fin n m e → m ≠ 0 → c = roundEx dt mode sat (.num n m e false) ∧
         (Ex.num n m e false).Stands (v.real : ℝ) ∧
         ∀ d n' k q, d < 2 ^ dt.bits → valOf dt false d = .fin n' k q → v.real = (FVal.fin n' k q).real →
           (valOf dt false c.bits).real = v.real ∧ c.fl = 0)) ∧
     (fSign t op a b < 2 ^ t.bits ∧ ∀ j < t.bits, (fSign t op a b).testBit j =
       if j + 1 < t.bits then a.testBit j
       else match op with
         | .cpy => b.testBit j
         | .ncp => !b.testBit j
         | .xor => a.testBit j != b.testBit j))

/-- Round to nearest (R101, R102): short of overflow the delivered value is finite, no finite value of the format is
nearer to the exact one, and of two equally near the one with an even last mantissa bit is delivered; overflow begins
half a step above the largest finite value. Rounding toward zero (R101): the delivered value is finite, not above the
exact magnitude, and no finite value of the format lies between; overflow begins at the next power of two. Rounding up
and down (R101): short of overflow the delivered value is finite, not below (not above) the exact one, and no finite
value of the format lies between. Overflow, by mode (R103): infinity under RNE, under up for positive and under down
for negative values, else the largest finite magnitude; OF and NX are raised. The flags of a rounding (R102): short of
overflow NX exactly when the delivered value differs from the exact one, UF when its magnitude also lies below the
smallest normal number, and no other; and the results that are not rounded: a NaN, an infinity and a zero, by the rows
of R103 for each format. -/
def Obligations.Rounding : Prop :=
  (∀ (t : ETy) (neg : Bool) (m : Nat) (e : Int) (rest : Bool) (x : ℝ),
     (t = .f64 ∨ t = .f32 ∨ t = .bf16 ∨ t = .f16 ∨ t = .e5m2) → (Ex.num neg m e rest).Stands x →
     let f := fmtOf t
     let r := roundEx t 0 false (.num neg m e rest)
     let d : ℝ := ((valOf t false r.bits).real : ℝ)
     (r.fl / 16 % 2 = 1 ↔ (2 : ℝ) ^ (f.bias + 1) - (2 : ℝ) ^ ((f.bias : Int) - f.mbits - 1) ≤ |x|) ∧
     (r.fl / 16 % 2 = 0 → (∃ n k q, valOf t false r.bits = .fin n k q) ∧
       ∀ c n k q, c < 2 ^ t.bits → valOf t false c = .fin n k q →
         let y : ℝ := ((FVal.fin n k q).real : ℝ)
         |x - d| ≤ |x - y| ∧ (|x - d| = |x - y| → d ≠ y → r.bits % 2 = 0))) ∧
  (∀ (t : ETy) (neg : Bool) (m : Nat) (e : Int) (rest : Bool) (x : ℝ),
     (t = .f64 ∨ t = .f32 ∨ t = .bf16 ∨ t = .f16 ∨ t = .e5m2) → (Ex.num neg m e rest).Stands x →
     let r := roundEx t 1 false (.num neg m e rest)
     let d : ℝ := ((valOf t false r.bits).real : ℝ)
     (r.fl / 16 % 2 = 1 ↔ (2 : ℝ) ^ ((fmtOf t).bias + 1) ≤ |x|) ∧
     (∃ k q, valOf t false r.bits = .fin neg k q) ∧ |d| ≤ |x| ∧
     ∀ c n k q, c < 2 ^ t.bits → valOf t false c = .fin n k q → |((FVal.fin n k q).real : ℝ)| ≤ |x| →
       |((FVal.fin n k q).real : ℝ)| ≤ |d|) ∧
  (∀ (t : ETy) (mode : Nat) (neg : Bool) (m : Nat) (e : Int) (rest : Bool) (x : ℝ),
     (t = .f64 ∨ t = .f32 ∨ t = .bf16 ∨ t = .f16 ∨ t = .e5m2) → mode = 2 ∨ mode = 3 → (Ex.num neg m e rest).Stands x →
     let r := roundEx t mode false (.num neg m e rest)
     let d : ℝ := ((valOf t false r.bits).real : ℝ)
     let away := (mode = 2 ∧ neg = false) ∨ (mode = 3 ∧ neg = true)
     (r.fl / 16 % 2 = 1 ↔
       if away then ((valOf t false (infBits t false - 1)).real : ℝ) < |x| else (2 : ℝ) ^ ((fmtOf t).bias + 1) ≤ |x|) ∧
     (r.fl / 16 % 2 = 0 → (∃ n k q, valOf t false r.bits = .fin n k q) ∧
       (mode = 2 → x ≤ d) ∧ (mode = 3 → d ≤ x) ∧
       ∀ c n k q, c < 2 ^ t.bits → valOf t false c = .fin n k q →
         let y : ℝ := ((FVal.fin n k q).real : ℝ)
         (mode = 2 → x ≤ y → d ≤ y) ∧ (mode = 3 → y ≤ x → y ≤ d))) ∧
  (∀ (t : ETy) (mode : Nat) (sat neg : Bool), (t = .f64 ∨ t = .f32 ∨ t = .bf16 ∨ t = .f16 ∨ t = .e5m2) → mode < 4 →
     let r := overflow t mode sat neg
     r.fl = 16 + 64 ∧
     (sat = false → (mode = 0 ∨ (mode = 2 ∧ neg = false) ∨ (mode = 3 ∧ neg = true)) →
       valOf t false r.bits = .inf neg) ∧
     ((sat = true ∨ mode = 1 ∨ (mode = 2 ∧ neg = true) ∨ (mode = 3 ∧ neg = false)) → r.bits + 1 = infBits t neg)) ∧
  ((∀ (t : ETy) (mode : Nat) (sat neg : Bool) (m : Nat) (e : Int) (rest : Bool) (x : ℝ),
     (t = .f64 ∨ t = .f32 ∨ t = .bf16 ∨ t = .f16 ∨ t = .e5m2) → mode < 4 → (Ex.num neg m e rest).Stands x →
     let r := roundEx t mode sat (.num neg m e rest)
     let d : ℝ := ((valOf t false r.bits).real : ℝ)
     (r.fl / 16 % 2 = 1 → r = overflow t mode sat neg) ∧
     (r.fl / 16 % 2 = 0 → r.fl % 16 = 0 ∧ (r.fl / 64 % 2 = 1 ↔ d ≠ x) ∧
       (r.fl / 32 % 2 = 1 ↔ d ≠ x ∧ |d| < (2 : ℝ) ^ (1 - ((fmtOf t).bias : Int))))) ∧
   (∀ (t : ETy) (mode : Nat) (sat n : Bool), (t = .f64 ∨ t = .f32 ∨ t = .bf16 ∨ t = .f16 ∨ t = .e5m2) →
     roundEx t mode sat .nan = { bits := canonNaN t, fl := 0 } ∧
     roundEx t mode sat (.zero n) = { bits := if n then 2 ^ (t.bits - 1) else 0, fl := 0 } ∧
     (roundEx t mode sat (.inf n)).fl = 0 ∧
     (sat = false → valOf t false (roundEx t mode sat (.inf n)).bits = .inf n) ∧
     (sat = true → (roundEx t mode sat (.inf n)).bits + 1 = infBits t n)) ∧
   canonNaN .f64 = 0x7FF8000000000000 ∧ canonNaN .f32 = 0x7FC00000 ∧ canonNaN .bf16 = 0x7FC0 ∧ canonNaN .f16 = 0x7E00 ∧
   canonNaN .e5m2 = 0x7E ∧ canonNaN .e4m3 = 0x7F ∧
   (∀ (mode : Nat) (sat n : Bool),
     roundEx .e4m3 mode sat .nan = { bits := 0x7F, fl := 0 } ∧
     roundEx .e4m3 mode sat (.inf n) =
       (if sat then { bits := if n then 0xFE else 0x7E, fl := 0 } else { bits := 0x7F, fl := 4 }) ∧
     roundEx .e2m1 mode sat .nan = { bits := 0, fl := 4 } ∧
     roundEx .e2m1 mode sat (.inf n) = { bits := if n then 0xF else 7, fl := if sat then 0 else 4 } ∧
     roundEx .tw8 mode sat .nan = { bits := 0x77, fl := 4 } ∧
     roundEx .tw8 mode sat (.inf n) = { bits := if n then 0x88 else 0, fl := if sat then 0 else 4 }))

/-- The special functions (R105): the special operands of its table with their flags; elsewhere the exact value where
a finite one exists (2^x of an integer, the logarithm of a power of two, 1/x, 1/√x), rounded once to nearest; a 2^x
far out of range overflows or underflows. What stands for 2^x, log₂ x and tanh x elsewhere is the statement of the
approximations (log 13). Windowed sums (R106 to R108): the special terms; else each term is cut to the window that
reaches from the leading bit of the largest one down, the cut terms are added exactly, and LS is set exactly when one
was cut; the flags of a vector sum; and the terms of a fused sum and of one step of an `MMA`, a TW8 weight giving one
for each half that is not zero. -/
def Obligations.SpecialFunctions : Prop :=
  (∀ (t : ETy) (a : Nat), (t = .f32 ∨ t = .bf16 ∨ t = .f16) → a < 2 ^ t.bits →
     let x := valOf t false a
     let v : ℝ := (x.real : ℝ)
     let is (fn : SpFn) (y : ℝ) : Prop := (spEx fn x).1.Stands y ∧ (spEx fn x).2 = 0
     (∀ fn, fSpecial fn t a = finishEx t 0 (spEx fn x)) ∧
     (∀ s, x = .nan s → ∀ fn, spEx fn x = (.nan, if s then 4 else 0)) ∧
     (∀ n, x = .inf n →
       spEx .exp2 x = (if n then .zero false else .inf false, 0) ∧
       spEx .log2 x = (if n then (.nan, 4) else (.inf false, 0)) ∧ spEx .rcp x = (.zero n, 0) ∧
       spEx .rsq x = (if n then (.nan, 4) else (.zero false, 0)) ∧ is .tanh (if n then -1 else 1)) ∧
     (∀ n e, x = .fin n 0 e → is .exp2 1 ∧ spEx .log2 x = (.inf true, 8) ∧ spEx .rcp x = (.inf n, 8) ∧
       spEx .rsq x = (.inf n, 8) ∧ spEx .tanh x = (.zero n, 0)) ∧
     (∀ n m e, x = .fin n m e → m ≠ 0 →
       is .rcp (1 / v) ∧ (n = false → is .rsq (1 / Real.sqrt v)) ∧
       (n = true → spEx .log2 x = (.nan, 4) ∧ spEx .rsq x = (.nan, 4)) ∧
       (∀ k : Int, v = k → |v| < 2 ^ 13 → is .exp2 ((2 : ℝ) ^ k)) ∧ (∀ k : Int, v = (2 : ℝ) ^ k → is .log2 k) ∧
       (2 ^ 13 ≤ v → fSpecial .exp2 t a = { bits := infBits t false, fl := 0x50 }) ∧
       (v ≤ -2 ^ 13 → fSpecial .exp2 t a = { bits := 0, fl := 0x60 }))) ∧
  (∀ (t : ETy) (mode w : Nat) (ts : List FVal),
     let pos := .inf false ∈ ts
     let neg := .inf true ∈ ts
     let nan := ∃ q ∈ ts, q.isNan = true
     (nan ∨ (pos ∧ neg) → winSum mode w ts = (.nan, false)) ∧
     (¬ nan → pos → ¬ neg → winSum mode w ts = (.inf false, false)) ∧
     (¬ nan → neg → ¬ pos → winSum mode w ts = (.inf true, false)) ∧
     (ts ≠ [] → (∀ q ∈ ts, q.isZero = true) → winSum mode w ts = (.zero (ts.all FVal.neg), false)) ∧
     (0 < w → (∀ q ∈ ts, ∃ n m e, q = .fin n m e) → ∀ E : Int,
       (∃ q ∈ ts, q.real ≠ 0 ∧ Int.log 2 |q.real| = E) → (∀ q ∈ ts, q.real ≠ 0 → Int.log 2 |q.real| ≤ E) →
       let lsb : Int := E - w + 1
       let u (q : FVal) : ℚ := (if q.neg then -1 else 1) * (⌊|q.real| / (2 : ℚ) ^ lsb⌋ : ℚ) * (2 : ℚ) ^ lsb
       let s : ℚ := (ts.map u).sum
       ((winSum mode w ts).2 = true ↔ ∃ q ∈ ts, u q ≠ q.real) ∧
       (s = 0 → (winSum mode w ts).1 = .zero (decide (mode = 3))) ∧ (s ≠ 0 → (winSum mode w ts).1.Stands (s : ℝ))) ∧
     (∀ nv : Bool, (winResult t mode w nv ts).bits = (roundEx t mode false (winSum mode w ts).1).bits ∧
       (winResult t mode w nv ts).fl = (roundEx t mode false (winSum mode w ts).1).fl |||
         (if (winSum mode w ts).2 then 64 else 0) ||| (if nv = true ∨ (pos ∧ neg ∧ ¬ nan) then 4 else 0)) ∧
     (∀ a b c : Nat,
       let x := valOf t false a
       let y := valOf t false b
       let z := valOf t false c
       ∃ p, fmaWin t mode w a b c = winResult t mode w (x.isSig || y.isSig || z.isSig || zeroTimesInf x y) [p, z] ∧
         (x.isNan = true ∨ y.isNan = true ∨ zeroTimesInf x y = true → p.isNan = true) ∧
         (x.isNan = false → y.isNan = false → zeroTimesInf x y = false →
           (x.isInf = true ∨ y.isInf = true → p = .inf (x.neg != y.neg)) ∧
           (x.isInf = false → y.isInf = false → (∃ n m e, p = .fin n m e) ∧ p.real = x.real * y.real))) ∧
     (∀ (a : FVal) (b : Nat) (n : Bool) (m : Nat) (e : Int), a = .fin n m e →
       (t ≠ .tw8 → ∀ n' m' e', valOf t false b = .fin n' m' e' →
         (products t a (b, none)).map FVal.real = [a.real * (valOf t false b).real]) ∧
       let half (s c : Nat) : List ℚ := if c = 7 then [] else [a.real * ((if s = 1 then -1 else 1) * (2 : ℚ) ^ (-(c : Int)))]
       let l := half (b / 128 % 2) (b / 16 % 8) ++ half (b / 8 % 2) (b % 8)
       (products .tw8 a (b, none)).map FVal.real = if l = [] then [0] else l) ∧
     (List.range 8).map winWidth = [24, 32, 40, 48, 56, 64, 80, 96])

/-- What stands for 2^x, log₂ x and tanh x of an operand that has no exact finite result lies within 2^−100 of the
true value, relative to it (log 13): R105 asks for the true value rounded once, and no destination has more than 24
bits. -/
def Obligations.SpecialApproximations : Prop :=
  ∀ (t : ETy) (a : Nat) (n : Bool) (m : Nat) (e : Int), (t = .f32 ∨ t = .bf16 ∨ t = .f16) → a < 2 ^ t.bits →
    valOf t false a = .fin n m e → m ≠ 0 →
    let v : FVal := .fin n m e
    let x : ℝ := (v.real : ℝ)
    let near (fn : SpFn) (y : ℝ) : Prop := (spEx fn v).2 = 0 ∧ ∃ g k q rest, (spEx fn v).1 = .num g k q rest ∧
      |((FVal.fin g k q).real : ℝ) - y| ≤ |y| / 2 ^ 100
    (|x| < 2 ^ 13 → near .exp2 ((2 : ℝ) ^ x)) ∧ (n = false → x ≠ 1 → near .log2 (Real.logb 2 x)) ∧ near .tanh (Real.tanh x)

/-- The condition of a branch or a comparison, from "less" and "equal" (R88). Branches and jumps (R271, R302): the
target and the link, the target read before the link is written, and a register target that is not a multiple of 4
faulting at the jump with no register written. `NOP` of every length and `YIELD` change no register, flag or memory
word; the pc moves past them, and after `YIELD` the thread is put back by 32 cycles (R319, R351). The mask
instructions act on all 256 bits; `k0` reads as all ones; none sets a flag (R303). -/
def Obligations.ControlResults : Prop :=
  (∀ x y : Word,
     let lt := decide (x.toInt < y.toInt)
     let eq := decide (x = y)
     (condHolds .eq lt eq = true ↔ x = y) ∧ (condHolds .ne lt eq = true ↔ x ≠ y) ∧
     (condHolds .lt lt eq = true ↔ x.toInt < y.toInt) ∧ (condHolds .le lt eq = true ↔ x.toInt ≤ y.toInt) ∧
     (condHolds .gt lt eq = true ↔ y.toInt < x.toInt) ∧ (condHolds .ge lt eq = true ↔ y.toInt ≤ x.toInt)) ∧
  (∀ (s : State),
     (∀ (cc : Cond) (z : Bool) (a b : Sc) (off : BitVec 27), s.readable [a, b] = true →
       let lt : Bool := if z then decide ((s.sc a).toNat < (s.sc b).toNat) else decide ((s.sc a).toInt < (s.sc b).toInt)
       exec (.br cc z a b off) s = .next (s.jumped (.br cc z a b off)
         (if (match cc with
           | .eq => decide (s.sc a = s.sc b)
           | .ne => decide (s.sc a ≠ s.sc b)
           | .lt => lt
           | .le => lt || decide (s.sc a = s.sc b)
           | .gt => !lt && decide (s.sc a ≠ s.sc b)
           | .ge => !lt) then s.thr.pc + BitVec.ofInt 64 off.toInt
          else s.thr.pc + 8))) ∧
     (s.readable [] = true →
       (∀ off : BitVec 27, exec (.j off) s = .next (s.jumped (.j off) (s.thr.pc + BitVec.ofInt 64 off.toInt))) ∧
       (∀ off : BitVec 32, exec (.j96 off) s = .next (s.jumped (.j96 off) (s.thr.pc + BitVec.ofInt 64 off.toInt))) ∧
       (∀ (d : Sc) (off : BitVec 27), Sc.isI d = false → exec (.jl d off) s =
         .next ((s.putSc d (s.thr.pc + 8)).jumped (.jl d off) (s.thr.pc + BitVec.ofInt 64 off.toInt))) ∧
       (∀ (d : Sc) (off : BitVec 32), Sc.isI d = false → exec (.jl96 d off) s =
         .next ((s.putSc d (s.thr.pc + 12)).jumped (.jl96 d off) (s.thr.pc + BitVec.ofInt 64 off.toInt)))) ∧
     (∀ d a : Sc, s.readable [a] = true → Sc.isI d = false →
       ((s.sc a).toNat % 4 = 0 →
         exec (.jr d a) s = .next ((s.putSc d (s.thr.pc + 8)).jumped (.jr d a) (s.sc a))) ∧
       ((s.sc a).toNat % 4 ≠ 0 → exec (.jr d a) s = .next (s.trapped (.jr d a) 0x06 (s.sc a).toNat 0)))) ∧
  (∀ s : State, (s.thread? s.cur).isSome = true →
     exec .nop s = .next (s.goesOn .nop) ∧ exec .nop96 s = .next (s.goesOn .nop96) ∧
     exec .nop128 s = .next (s.goesOn .nop128) ∧
     (∀ t, (t = s.goesOn .nop ∨ t = s.goesOn .nop96 ∨ t = s.goesOn .nop128 ∨ exec .yield s = .next t) →
       OnlyDest s t none ∧ t.thr.fcsr = s.thr.fcsr ∧ Ran s t) ∧
     (∃ t, exec .yield s = .next t ∧ t.thr.pc = s.thr.pc + 8 ∧ t.thr.yieldTo = some (s.cycle + 32)) ∧
     (s.goesOn .nop).thr.pc = s.thr.pc + 8 ∧ (s.goesOn .nop96).thr.pc = s.thr.pc + 12 ∧
     (s.goesOn .nop128).thr.pc = s.thr.pc + 16) ∧
  (∀ (s : State) (d a b : KReg), s.readable [] = true → s.kreadable [a, b] = true → d ≠ 0 →
     let m (k : KReg) : Mask := if k = 0 then BitVec.allOnes 256 else s.thr.k.get k
     exec (.kand d a b) s = .next (s.kdone (.kand d a b) d (m a &&& m b)) ∧
     exec (.kor d a b) s = .next (s.kdone (.kor d a b) d (m a ||| m b)) ∧
     exec (.kxor d a b) s = .next (s.kdone (.kxor d a b) d (m a ^^^ m b)) ∧
     exec (.knot d a) s = .next (s.kdone (.knot d a) d (~~~ m a)) ∧
     exec (.kmov d a) s = .next (s.kdone (.kmov d a) d (m a)) ∧
     (∀ g : Sc, Sc.isI g = false →
       exec (.kpopc g a) s = .next (s.done (.kpopc g a) g
         (BitVec.ofNat 64 (((List.range 256).filter (fun j => (m a).getLsbD j)).length))) ∧
       ∃ n, exec (.kfirst g a) s = .next (s.done (.kfirst g a) g (BitVec.ofNat 64 n)) ∧ n ≤ 256 ∧
         (∀ j, j < n → (m a).getLsbD j = false) ∧ (n < 256 → (m a).getLsbD n = true)) ∧
     (∀ x, (s.kdone (.kmov d a) d x).thr.k.get d = x ∧ (∀ n, n ≠ d → (s.kdone (.kmov d a) d x).thr.k.get n = s.thr.k.get n)))

/-- `HALT` and `HALT.keep` (R48, R51, R52, R300): inside an inline child with TRAPENT clear the depth falls by one and
the thread goes on at `g15`, no reservation being made; otherwise, once its stores are acknowledged, the thread is
gone from its slot, and `HALT.keep` leaves the reservation named in bits [31:0]. -/
def Obligations.HaltResults : Prop :=
  ∀ (s : State) (a : Sc), s.readable [a, .g 15] = true → s.thr.vPend = 0 →
    (s.thr.trapent = false → s.thr.idepth ≠ 0 → (s.thr.g.get 15).toNat % 4 = 0 →
      exec .halt s = .next ((s.setThr { s.thr with idepth := s.thr.idepth - 1 }).jumped .halt (s.thr.g.get 15)) ∧
      exec (.haltKeep a) s =
        .next ((s.setThr { s.thr with idepth := s.thr.idepth - 1 }).jumped (.haltKeep a) (s.thr.g.get 15))) ∧
    (s.thr.trapent = true ∨ s.thr.idepth = 0 → s.thr.stores = [] →
      (∃ t, exec .halt s = .next t ∧ t.thread? s.cur = none) ∧
      (∃ t, exec (.haltKeep a) s = .next t ∧ t.thread? s.cur = none ∧
        (t.coreAt s.core).keep = some ((s.sc a).setWidth 32)))

/-- The floating-point vector instructions, lane by lane as their scalar counterparts (R105, R108, R295, R336, R338,
R342): inactive lanes keep their value, the flags are those of the active lanes together, and an enabled flag takes
the FP-exception fault with the destination unchanged. -/
def Obligations.VectorFloatResults : Prop :=
  ∀ (s : State) (t : ETy) (d a c : VReg) (b : VSrc) (k : KReg), t.isVecFp = true →
    s.vreadyFor [] [d] (a :: c :: vsrcRegs b) k = true → b.fits t = true →
    let m := s.thr.mask k
    let rm := s.thr.rm
    let x (j : Nat) := lane t.bits (s.thr.v.get a) j
    let y (j : Nat) := s.vsrc t b j
    let z (j : Nat) := lane t.bits (s.thr.v.get c) j
    let ends (i : Instr) (f : Nat → FRes) : Prop :=
      let fl := flagsOf t m f
      (enabledFlags s.thr.fcsr fl = 0 →
        ∃ r, exec i s = .next ((s.withFlags fl).vdone i d r) ∧ LanesAre t m (s.thr.v.get d) r (fun j => (f j).bits)) ∧
      (enabledFlags s.thr.fcsr fl ≠ 0 → exec i s = .next ((s.withFlags fl).trapped i 0x1A 0 fl))
    ends (.vadd t d a b k) (fun j => fAdd t rm (x j) (y j)) ∧
    ends (.vsub t d a b k) (fun j => fSub t rm (x j) (y j)) ∧
    ends (.vmul t d a b k) (fun j => fMul t rm (x j) (y j)) ∧
    ends (.vdiv t d a b k) (fun j => fDiv t rm (x j) (y j)) ∧
    ends (.vfma false t d a b c k) (fun j => fFma t rm (x j) (y j) (z j)) ∧
    ends (.vfma true t d a b c k) (fun j => fmaWin t rm s.thr.window (x j) (y j) (z j)) ∧
    ends (.vmin false t d a b k) (fun j => fMaxMin t false (x j) (y j)) ∧
    ends (.vmax false t d a b k) (fun j => fMaxMin t true (x j) (y j)) ∧
    ends (.vexp2 t d a k) (fun j => fSpecial .exp2 t (x j)) ∧
    ends (.vlog2 t d a k) (fun j => fSpecial .log2 t (x j)) ∧
    ends (.vrcp t d a k) (fun j => fSpecial .rcp t (x j)) ∧
    ends (.vrsq t d a k) (fun j => fSpecial .rsq t (x j)) ∧
    ends (.vtanh t d a k) (fun j => fSpecial .tanh t (x j))

/-- The integer and bitwise vector instructions, lane by lane (R297, R336, R338, R339): arithmetic wraps, or is
clamped to the type's range under `.sat`; a shift takes the low bits of its count; no flag is touched. -/
def Obligations.VectorIntegerResults : Prop :=
  ∀ (s : State) (t : ETy) (d a c : VReg) (b : VSrc) (k : KReg) (z : Bool) (op : SgnOp), t.isVec = true →
    s.vreadyFor [] [d] (a :: c :: vsrcRegs b) k = true → b.fits t = true →
    let m := s.thr.mask k
    let w := t.bits
    let x (j : Nat) := lane w (s.thr.v.get a) j
    let y (j : Nat) := s.vsrc t b j
    let sx (j : Nat) : Int := sgnOf w (x j)
    let sy (j : Nat) : Int := sgnOf w (y j)
    let ends (i : Instr) (f : Nat → Nat) : Prop :=
      ∃ r, exec i s = .next (s.vdone i d r) ∧ LanesAre t m (s.thr.v.get d) r f
    let clamp (lo hi v : Int) : Nat := ((max lo (min hi v)) % ((2 ^ w : Nat) : Int)).toNat
    ends (.vand t d a b k) (fun j => x j &&& y j) ∧
    ends (.vor t d a b k) (fun j => x j ||| y j) ∧
    ends (.vxor t d a b k) (fun j => x j ^^^ y j) ∧
    (t.isVecFp = true → ends (.vsgn op t d a c k) (fun j => fSign t op (x j) (lane w (s.thr.v.get c) j))) ∧
    (t.isVecInt = true →
      ends (.viadd false false t d a b k) (fun j => x j + y j) ∧
      ends (.viadd false true t d a b k) (fun j => clamp (-2 ^ (w - 1)) (2 ^ (w - 1) - 1) (sx j + sy j)) ∧
      ends (.viadd true true t d a b k) (fun j => clamp 0 (2 ^ w - 1) ((x j : Int) + y j)) ∧
      ends (.visub false false t d a b k) (fun j => x j + (2 ^ w - y j)) ∧
      ends (.visub false true t d a b k) (fun j => clamp (-2 ^ (w - 1)) (2 ^ (w - 1) - 1) (sx j - sy j)) ∧
      ends (.visub true true t d a b k) (fun j => clamp 0 (2 ^ w - 1) ((x j : Int) - y j)) ∧
      ends (.vimul t d a b k) (fun j => x j * y j) ∧
      ends (.vshl t d a b k) (fun j => x j * 2 ^ (y j % w)) ∧
      ends (.vshr t d a b k) (fun j => x j / 2 ^ (y j % w)) ∧
      ends (.vsar t d a b k) (fun j => (sx j / ((2 ^ (y j % w) : Nat) : Int) % ((2 ^ w : Nat) : Int)).toNat) ∧
      ends (.vmin z t d a b k) (fun j => if (if z then x j ≤ y j else sx j ≤ sy j) then x j else y j) ∧
      ends (.vmax z t d a b k) (fun j => if (if z then x j ≤ y j else sx j ≤ sy j) then y j else x j))

/-- Conversions between element types (R293, R341): part `part` of the type with more elements, the mask governing the
converted elements; elements outside the part keep their value. That a nonzero mask makes the converted elements from
256 up of a 4-bit type inactive is the model's choice (log 25). Comparisons and selections (R63, R296, R349): each
active bit of the mask destination gets the result, an inactive bit stays, and the bits from the lane count up are
cleared; `VSEL` copies the lane that the mask names. -/
def Obligations.VectorComparisons : Prop :=
  (∀ (s : State) (dt st : ETy) (z sat : Bool) (d a : VReg) (part : BitVec 6) (k : KReg),
     (Instr.vcvt dt st z sat d a part k).wf = true → s.vreadyFor [] [d] [a] k = true →
     let l := min dt.lanes st.lanes
     let m := s.thr.mask k
     let on (j : Nat) : Bool := k == 0 || m.getLsbD j
     let x (j : Nat) := lane st.bits (s.thr.v.get a) (if l < st.lanes then part.toNat * l + j else j)
     let f (j : Nat) : FRes := convert dt z sat s.thr.rm (valOf st z (x j))
     let fl := (List.range l).foldl (fun acc j => if on j then acc ||| (f j).fl else acc) 0
     let i : Instr := .vcvt dt st z sat d a part k
     (enabledFlags s.thr.fcsr fl = 0 → ∃ r, exec i s = .next ((s.withFlags fl).vdone i d r) ∧
       (∀ j < l, lane dt.bits r (if l < dt.lanes then part.toNat * l + j else j) =
         if on j then (f j).bits % 2 ^ dt.bits
         else lane dt.bits (s.thr.v.get d) (if l < dt.lanes then part.toNat * l + j else j)) ∧
       (∀ e < dt.lanes, l < dt.lanes → (e < part.toNat * l ∨ part.toNat * l + l ≤ e) →
         lane dt.bits r e = lane dt.bits (s.thr.v.get d) e)) ∧
     (enabledFlags s.thr.fcsr fl ≠ 0 → exec i s = .next ((s.withFlags fl).trapped i 0x1A 0 fl))) ∧
  (∀ (s : State) (t : ETy) (cc : Cond) (z : Bool) (a b2 : VReg) (b : VSrc) (k : KReg),
     s.readable [] = true → b.fits t = true →
     let m := s.thr.mask k
     let x (j : Nat) := lane t.bits (s.thr.v.get a) j
     (∀ d : KReg, (Instr.vsetc cc z t d a b k).wf = true → s.vreadyFor [] [] (a :: vsrcRegs b) k = true →
       s.kreadable [d] = true ∨ k = 0 →
       let y (j : Nat) := s.vsrc t b j
       let i : Instr := .vsetc cc z t d a b k
       let lt (j : Nat) : Bool :=
         if z then decide (x j < y j) else decide (sgnOf t.bits (x j) < sgnOf t.bits (y j))
       let res (j : Nat) : Bool := if t.isInt then condHolds cc (lt j) (x j == y j) else (fCompare t cc (x j) (y j)).1
       let fl := if t.isInt then 0 else flagsOf t m (fun j => { bits := 0, fl := (fCompare t cc (x j) (y j)).2 })
       (enabledFlags s.thr.fcsr fl = 0 → ∃ r, exec i s = .next ((s.withFlags fl).kdone i d r) ∧
         ∀ j < 256, r.getLsbD j = (decide (j < t.lanes) && (if m.getLsbD j then res j else (s.thr.mask d).getLsbD j))) ∧
       (enabledFlags s.thr.fcsr fl ≠ 0 → exec i s = .next ((s.withFlags fl).trapped i 0x1A 0 fl))) ∧
     (∀ (d : VReg) (c : KReg), t.isVec = true → s.vreadyFor [] [d] [a, b2] k = true → s.kreadable [c] = true →
       ∃ r, exec (.vsel t d a b2 c k) s = .next (s.vdone (.vsel t d a b2 c k) d r) ∧
         LanesAre t m (s.thr.v.get d) r
           (fun j => if (s.thr.mask c).getLsbD j then x j else lane t.bits (s.thr.v.get b2) j)))

/-- Reductions and scans (R108, R348): `VRED` combines the active lanes, and `VSCAN` gives each active lane the
combination of the active lanes up to it, the others keeping their value. Integer lanes: a sum that wraps, or the
active lane that no active lane exceeds or falls below, signed, or unsigned under `.z`; with no active lane 0, or the
lowest or highest value of the type. Floating-point lanes: a fold in ascending order, one rounding for each addition,
or the windowed sum; with no active lane +0 or an infinity. An enabled flag takes the FP-exception fault with the
destination unchanged. -/
def Obligations.VectorReductions : Prop :=
  ∀ (s : State) (op : RedOp) (z win : Bool) (t : ETy) (a : VReg) (k : KReg),
    let m := s.thr.mask k
    let w := t.bits
    let rm := s.thr.rm
    let below (n : Nat) : List Nat :=
      ((List.range n).filter (fun j => m.getLsbD j)).map (fun j => lane w (s.thr.v.get a) j)
    let comb (l : List Nat) : FRes := redList op z win t rm s.thr.window l
    (∀ d : Sc, (Instr.vred op z win t d a k).wf = true → Sc.isI d = false → s.vreadyFor [] [] [a] k = true →
      let i : Instr := .vred op z win t d a k
      let r := comb (below t.lanes)
      (enabledFlags s.thr.fcsr r.fl = 0 → exec i s = .next ((s.withFlags r.fl).done i d
        (if t.isInt then extend z w r.bits else BitVec.ofNat 64 r.bits))) ∧
      (enabledFlags s.thr.fcsr r.fl ≠ 0 → exec i s = .next ((s.withFlags r.fl).trapped i 0x1A 0 r.fl))) ∧
    (∀ d : VReg, (Instr.vscan op z win t d a k).wf = true → s.vreadyFor [] [d] [a] k = true →
      let i : Instr := .vscan op z win t d a k
      let fl := flagsOf t m (fun j => comb (below (j + 1)))
      (enabledFlags s.thr.fcsr fl = 0 → ∃ x, exec i s = .next ((s.withFlags fl).vdone i d x) ∧
        LanesAre t m (s.thr.v.get d) x (fun j => (comb (below (j + 1))).bits)) ∧
      (enabledFlags s.thr.fcsr fl ≠ 0 → exec i s = .next ((s.withFlags fl).trapped i 0x1A 0 fl))) ∧
    (t.isVecInt = true → win = false → ∀ l : List Nat, (∀ x ∈ l, x < 2 ^ w) →
      let r := (comb l).bits
      let le (x y : Nat) : Prop := if z then x ≤ y else sgnOf w x ≤ sgnOf w y
      (comb l).fl = 0 ∧ (op = .add → r % 2 ^ w = l.sum % 2 ^ w) ∧
      (l ≠ [] → op = .max → r ∈ l ∧ ∀ x ∈ l, le x r) ∧ (l ≠ [] → op = .min → r ∈ l ∧ ∀ x ∈ l, le r x) ∧
      (l = [] → op = .max → if z then r = 0 else sgnOf w r = -2 ^ (w - 1)) ∧
      (l = [] → op = .min → if z then r = 2 ^ w - 1 else sgnOf w r = 2 ^ (w - 1) - 1)) ∧
    (t.isVecFp = true →
      (comb []).fl = 0 ∧ (op = .add → (comb []).bits = 0) ∧ (op = .max → valOf t false (comb []).bits = .inf true) ∧
      (op = .min → valOf t false (comb []).bits = .inf false) ∧
      (win = false → ∀ x, (valOf t false x).isNan = false → comb [x] = { bits := x, fl := 0 }) ∧
      (win = false → ∀ l y, l ≠ [] →
        let n := match op with
          | .add => fAdd t rm (comb l).bits y
          | .max => fMaxMin t true (comb l).bits y
          | .min => fMaxMin t false (comb l).bits y
        comb (l ++ [y]) = { bits := n.bits, fl := (comb l).fl ||| n.fl }) ∧
      (win = true → ∀ l : List Nat, l ≠ [] → comb l =
        winResult t rm s.thr.window (l.any (fun x => (valOf t false x).isSig)) (l.map (fun x => valOf t false x))))

/-- Moves between lanes and scalar registers, and random numbers (R340, R346, R347). The words of `VRAND` are those of
Philox-4x32-10 (R347). `VTOPK` writes the ranked values and ids (R350): as many as there are, each a lane that is
active, in an order in which a later one never ranks before an earlier one, and no active lane left out ranks before
one that is written. -/
def Obligations.VectorMoves : Prop :=
  (∀ (s : State) (t : ETy) (d a b : VReg) (k : KReg) (x y : Sc) (z : Bool), t.isVec = true →
     let m := s.thr.mask k
     let va (j : Nat) := lane t.bits (s.thr.v.get a) j
     let vb (j : Nat) := lane t.bits (s.thr.v.get b) j
     let old := s.thr.v.get d
     let ends (i : Instr) (f : Nat → Nat) : Prop := ∃ r, exec i s = .next (s.vdone i d r) ∧ LanesAre t m old r f
     (s.vreadyFor [] [d] [a, b] k = true → ends (.vperm t d a b k) (fun j => va (vb j % t.lanes))) ∧
     (s.vreadyFor [x] [d] [a, b] k = true → ends (.vslide t d a b x k) (fun j =>
       let n := min (s.sc x).toNat t.lanes
       if j + n < t.lanes then va (j + n) else vb (j + n - t.lanes))) ∧
     (s.vreadyFor [x] [d] [] k = true → ends (.vbcast t d x k) (fun _ => (s.sc x).toNat)) ∧
     (s.vreadyFor [x] [d] [] k = true → t.isVecInt = true → ends (.vidx t d x k) (fun j => (s.sc x).toNat + j)) ∧
     (s.vreadyFor [x] [] [a] 0 = true → ∀ g : Sc, Sc.isI g = false →
       exec (.vext z t g a x) s = .next (s.done (.vext z t g a x) g
         (let v := if (s.sc x).toNat < t.lanes then va (s.sc x).toNat else 0
          if t.isInt then extend z t.bits v else BitVec.ofNat 64 v))) ∧
     (s.readable [x, y] = true → s.vreadable [d] [d] = true →
       ∃ r, exec (.vins t d x y) s = .next (s.vdone (.vins t d x y) d r) ∧
         ∀ j < t.lanes, lane t.bits r j = if j = (s.sc y).toNat then (s.sc x).toNat % 2 ^ t.bits else lane t.bits old j)) ∧
  (∀ (s : State) (d : VReg) (a b c : Sc) (k : KReg), s.vreadyFor [a, b, c] [d] [] k = true →
     ∃ r, exec (.vrand d a b c k) s = .next (s.vdone (.vrand d a b c k) d r) ∧
       LanesAre .i32 (s.thr.mask k) (s.thr.v.get d) r (fun j =>
         let key := s.sc a
         let lo := s.sc b
         let hi := s.sc c
         let step (x : (Nat × Nat × Nat × Nat) × (Nat × Nat)) : (Nat × Nat × Nat × Nat) × (Nat × Nat) :=
           let p0 := 0xD2511F53 * x.1.1
           let p1 := 0xCD9E8D57 * x.1.2.2.1
           ((p1 / 2 ^ 32 ^^^ x.1.2.1 ^^^ x.2.1, p1 % 2 ^ 32, p0 / 2 ^ 32 ^^^ x.1.2.2.2 ^^^ x.2.2, p0 % 2 ^ 32),
            ((x.2.1 + 0x9E3779B9) % 2 ^ 32, (x.2.2 + 0xBB67AE85) % 2 ^ 32))
         let w := (step^[10] ((lo.toNat % 2 ^ 32, lo.toNat / 2 ^ 32, hi.toNat % 2 ^ 32,
           (hi.toNat / 2 ^ 32 + j / 4) % 2 ^ 32), (key.toNat % 2 ^ 32, key.toNat / 2 ^ 32))).1
         match j % 4 with
         | 0 => w.1
         | 1 => w.2.1
         | 2 => w.2.2.1
         | _ => w.2.2.2)) ∧
  (∀ (s : State) (t : ETy) (d a : VReg) (n : BitVec 6) (c : Sc) (k : KReg),
     (Instr.vtopk t d a n c k).wf = true → s.vreadyFor [c] [d, d + 1] [a] k = true →
     let m := s.thr.mask k
     let id (j : Nat) : Nat := ((s.sc c).toNat + j) % 2 ^ 32
     let cand := ((List.range t.lanes).filter (fun j => m.getLsbD j)).map (fun j => (lane t.bits (s.thr.v.get a) j, id j))
     ∃ (x y : Vec) (top : List (Nat × Nat)),
       exec (.vtopk t d a n c k) s =
         .next ((s.setThr ((s.thr.putV d x).putV (d + 1) y)).goesOn (.vtopk t d a n c k)) ∧
       top.length = min n.toNat cand.length ∧
       (∀ e ∈ top, e ∈ cand) ∧
       (∀ p q, p < q → q < top.length → ranksBefore t (top.getD q (0, 0)) (top.getD p (0, 0)) = false) ∧
       (∀ e ∈ cand, e ∉ top → ∀ f ∈ top, ranksBefore t e f = false) ∧
       (∀ j < t.lanes, lane t.bits x j =
         if j < top.length then (top.getD j (0, 0)).1 else (redEmpty .max false t) % 2 ^ t.bits) ∧
       (∀ j < 64, lane 32 y j = if j < top.length then (top.getD j (0, 0)).2 else 0xFFFFFFFF))

/-- The frame of the vector class, memory forms apart, on registers that are no stream ports: only the registers that
the instruction writes change, in their value, their full bit and their poison (a second vector register for `VTOPK`
alone, a mask register for `VSETC` alone), and sticky flags are set. -/
def Obligations.VectorFrame : Prop :=
  ∀ (s t : State) (i : Instr), i.cls = .vec → s.thr.ports = [] → exec i s = .next t → Ran s t →
    SameMemory s t ∧ SameOthers s t ∧ SameG s t i.scalarDest ∧ SameC s t i.scalarDest ∧ SameSpecial s t ∧
    SameCore s t ∧ SamePart s t ∧ t.thr.fcsr &&& s.thr.fcsr = s.thr.fcsr ∧
    t.thr.fcsr &&& 0x383#10 = s.thr.fcsr &&& 0x383#10 ∧
    ∃ n : VNames, i.vnames = some n ∧
      (∀ v : VReg, v ∉ n.dst → t.thr.v.get v = s.thr.v.get v ∧ t.thr.vFull.getLsbD v.val = s.thr.vFull.getLsbD v.val ∧
        t.thr.vPoison.getLsbD v.val = s.thr.vPoison.getLsbD v.val ∧ t.thr.vPend.getLsbD v.val = s.thr.vPend.getLsbD v.val) ∧
      (∀ k : KReg, n.kd ≠ some k → t.thr.k.get k = s.thr.k.get k ∧
        t.thr.kPoison.getLsbD k.val = s.thr.kPoison.getLsbD k.val)

/-- Stream ports of the chain, for every instruction of the vector class (R182, R184). One whose source is bound to a
receiving port does what it does with the oldest vector of the queue in that register, and takes that vector from the
queue; one whose destination is bound to a sending port pushes what it would write there, with zero in the inactive
lanes, and the register stays. It waits while the queue to read is empty or the queue to push into is full, and a port
of the wrong direction takes the stream fault with reason 2. The registers that an instruction of the vector class or
a vector load or store names (R65, R69, R230): one past the allotment takes the allotment fault, an empty one that is
read makes the thread wait with nothing written, and a poisoned one that is read, vector or mask, takes the poison
fault with its number. -/
def Obligations.VectorRegisters : Prop :=
  (∀ (s : State) (i : Instr) (n : VNames) (v : VReg) (p : Port), i.cls = .vec → i.vnames = some n →
     s.readable n.rd = true → (∀ d, n.sd = some d → Sc.isI d = false) → (∀ u ∈ n.src ++ n.dst, u.val < s.thr.alot) →
     (∀ u ∈ n.full, u ≠ v → s.thr.vFull.getLsbD u.val = true ∧ s.thr.vPoison.getLsbD u.val = false) →
     s.kreadable n.masks = true → s.thr.ports = [(v.val, p)] → p.drawn = none →
     let with_ (x : Vec) : State := s.setThr { s.thr.putV v x with ports := [] }
     (v ∈ n.src → v ∉ n.dst →
       (∀ q head rest, p.kind = 6 ∨ p.kind = 7 → chainIn s.core p.kind = some q → mapGet s.chains q = some (head :: rest) →
         ∀ t, exec i (with_ head) = .next t → Completed i s t → ∃ u, exec i s = .next u ∧ Completed i s u ∧
           mapGet u.chains q = some rest ∧ (∀ w, w ≠ v → u.thr.v.get w = t.thr.v.get w) ∧ u.thr.v.get v = s.thr.v.get v ∧
           u.thr.k = t.thr.k ∧ u.thr.g = t.thr.g ∧ u.thr.fcsr = t.thr.fcsr ∧
           (u.coreAt s.core).cWrites = (t.coreAt s.core).cWrites) ∧
       (∀ q, p.kind = 6 ∨ p.kind = 7 → chainIn s.core p.kind = some q → (mapGet s.chains q).getD [] = [] →
         ∃ a b, exec i s = .next (s.parkHere i (.regs a b)) ∧ v ∈ b) ∧
       (p.receives = false → exec i s = .next (s.trapped i 0x0D 0 2))) ∧
     (v ∈ n.dst → v ∉ n.src →
       (p.receives = true → n.k = 0 ∨ p.kind < 6 → exec i s = .next (s.trapped i 0x0D 0 2)) ∧
       (n.dst = [v] → p.kind = 4 ∨ p.kind = 5 → ∀ t, exec i (with_ 0) = .next t → Completed i s t →
         let q := chainKey s.core (decide (p.kind = 4))
         let l := (mapGet s.chains q).getD []
         (l.length < 4 → ∃ u, exec i s = .next u ∧ Completed i s u ∧ u.thr.v = s.thr.v ∧
           mapGet u.chains q = some (l ++ [t.thr.v.get v]) ∧ u.thr.fcsr = t.thr.fcsr) ∧
         (l.length = 4 → ∃ u, exec i s = .next u ∧ u.thr.park = some (.drain q 1) ∧ u.thr.pc = s.thr.pc ∧
           mapGet u.chains q = mapGet s.chains q)))) ∧
  (∀ (s : State) (i : Instr) (n : VNames), i.vnames = some n → s.readable n.rd = true →
     (∀ d, n.sd = some d → Sc.isI d = false) → s.thr.ports = [] →
     ((∃ v ∈ n.src ++ n.dst, s.thr.alot ≤ v.val) → exec i s = .next (s.trapped i 0x04 0 0)) ∧
     ((∀ v ∈ n.src ++ n.dst, v.val < s.thr.alot) →
       (∀ v ∈ n.full, s.thr.vFull.getLsbD v.val = false →
         ∃ a b, exec i s = .next (s.parkHere i (.regs a b)) ∧ v ∈ b) ∧
       ((∀ v ∈ n.full, s.thr.vFull.getLsbD v.val = true) →
         ((∃ v ∈ n.full, s.thr.vPoison.getLsbD v.val = true) →
           ∃ v ∈ n.full, s.thr.vPoison.getLsbD v.val = true ∧ exec i s = .next (s.trapped i 0x13 0 v.val)) ∧
         ((∀ v ∈ n.full, s.thr.vPoison.getLsbD v.val = false) → s.kreadable n.masks = false →
           ∃ k ∈ n.masks, s.thr.maskBad k = true ∧ exec i s = .next (s.trapped i 0x13 0 k.val)))))

/-- Loads (R147, R150, R308): an aligned value read at its home, a misaligned one read byte by byte, and one read from
the die's visitor line; the destination gets it under its extension, and no byte of memory changes. `LDS.ig` is the
same load. -/
def Obligations.LoadResults : Prop :=
  ∀ (s : State) (acq z : Bool) (w : Width) (sc : Option Scope) (d a : Sc) (off : BitVec 27),
    s.readable [a] = true → Sc.isI d = false → s.fresh = true →
    let va := s.sc a + BitVec.ofInt 64 off.toInt
    let n := widthBytes w
    let ends (i : Instr) (v : Nat) : Prop := ∃ t, exec i s = .next t ∧ Completed i s t ∧
      Gets s t d (loaded z w v) ∧ ∀ pa, t.byteAt pa = s.byteAt pa
    (∀ p, va.toNat % n = 0 → s.reach loadA va = .ok p → s.atHome p = true → s.poisoned p.pa n = false →
      ends (.ld acq z w sc d a off) (s.readN p.pa n) ∧ ends (.lds .ig z w sc d a off) (s.readN p.pa n)) ∧
    (∀ f : Nat → Phys, va.toNat % n ≠ 0 →
      (∀ j < n, s.reach loadA (va + BitVec.ofNat 64 j) = .ok (f j) ∧ s.atHome (f j) = true ∧
        s.poisoned (f j).pa 1 = false) →
      let v := ((List.range n).map (fun j => (s.byteAt (f j).pa).toNat * 2 ^ (8 * j))).sum
      ends (.ld false z w sc d a off) v ∧ ends (.lds .ig z w sc d a off) v) ∧
    (∀ p l, va.toNat % n = 0 → s.reach loadA va = .ok p → p.visits s.core = true →
      mapGet s.visitors (visitorKey (dieOfCore s.core) (p.pa / 64)) = some l → s.poison = [] →
      let v := l.data.toNat / 2 ^ (8 * (p.pa % 64)) % 2 ^ (8 * n)
      ends (.ld acq z w sc d a off) v ∧ ends (.lds .ig z w sc d a off) v)

/-- Plain and releasing stores (R147, R150, R332): an aligned value at its home, a misaligned one byte by byte, and
one kept dirty in the die's visitor line; every other byte of memory reads as before. `STS.ig` is the same store. -/
def Obligations.StoreResults : Prop :=
  ∀ (s : State) (rel : Bool) (w : Width) (sc : Option Scope) (a b : Sc) (off : BitVec 27),
    s.readable [a, b] = true → s.fresh = true → s.calm = true →
    let va := s.sc a + BitVec.ofInt 64 off.toInt
    let n := widthBytes w
    let v := (s.sc b).toNat
    (∀ p, va.toNat % n = 0 → s.reach storeA va = .ok p → s.atHome p = true →
      (∃ t, exec (.st rel w sc a off b) s = .next t ∧ Completed (.st rel w sc a off b) s t ∧ Stored s t p.pa n v ∧
        t.tags = s.tags) ∧
      (∃ t, exec (.sts .ig w sc a off b) s = .next t ∧ Completed (.sts .ig w sc a off b) s t ∧ Stored s t p.pa n v ∧
        t.tags = s.tags)) ∧
    (∀ pa, va.toNat % n ≠ 0 → s.spans storeA va pa n (fun _ => true) →
      (∃ t, exec (.st false w sc a off b) s = .next t ∧ Completed (.st false w sc a off b) s t ∧ Stored s t pa n v) ∧
      (∃ t, exec (.sts .ig w sc a off b) s = .next t ∧ Completed (.sts .ig w sc a off b) s t ∧ Stored s t pa n v)) ∧
    (∀ p l, va.toNat % n = 0 → s.reach storeA va = .ok p → p.visits s.core = true →
      mapGet s.visitors (visitorKey (dieOfCore s.core) (p.pa / 64)) = some l →
      ∃ t l', exec (.st rel w sc a off b) s = .next t ∧ Completed (.st rel w sc a off b) s t ∧
        (∀ q, t.byteAt q = s.byteAt q) ∧
        mapGet t.visitors (visitorKey (dieOfCore s.core) (p.pa / 64)) = some l' ∧
        (∀ j < 64, lineByte l'.data j =
          if p.pa % 64 ≤ j ∧ j < p.pa % 64 + n then BitVec.ofNat 8 (v / 2 ^ (8 * (j - p.pa % 64)))
          else lineByte l.data j) ∧
        (∀ j < 64, l'.dirty.getLsbD j =
          (decide (p.pa % 64 ≤ j ∧ j < p.pa % 64 + n) || l.dirty.getLsbD j)))

/-- Full/empty loads and stores at the word's home (R164, R309, R332): `.wf` and `.wfe` read a full word, `.wfe`
leaving it empty; `.wef` writes an empty word and `.sf` any word, leaving it full; an unsatisfied one is listed, and
its thread waits. -/
def Obligations.FullEmptyResults : Prop :=
  ∀ (s : State) (z : Bool) (w : Width) (sc : Option Scope) (d a b : Sc) (off : BitVec 27),
    s.readable [a, b] = true → Sc.isI d = false → s.fresh = true → s.calm = true →
    let va := s.sc a + BitVec.ofInt 64 off.toInt
    let n := widthBytes w
    va.toNat % n = 0 →
    (∀ (m : LdMode) (p : Phys), m ≠ .ig → s.reach { rd := true, fe := true } va = .ok p → s.homeAnswers p.pa = true →
      let i : Instr := .lds m z w sc d a off
      (s.tagAt p.pa = true → ∃ t, exec i s = .next t ∧ Completed i s t ∧ Gets s t d (loaded z w (s.readN p.pa n)) ∧
        (∀ q, t.byteAt q = s.byteAt q) ∧ t.tagAt p.pa = (m == .wf)) ∧
      (s.tagAt p.pa = false → ∃ t, exec i s = .next t ∧ t.thr.park = some .listed ∧ t.thr.pc = s.thr.pc ∧
        ∃ e ∈ t.retry, e.who = .thread s.thr.uid ∧ e.req = .feLd m p.pa n)) ∧
    (∀ (m : StMode) (p : Phys), m ≠ .ig → s.reach { wr := true, fe := true } va = .ok p → s.homeAnswers p.pa = true →
      let i : Instr := .sts m w sc a off b
      (m = .sf ∨ s.tagAt p.pa = false → ∃ t, exec i s = .next t ∧ Completed i s t ∧
        Stored s t p.pa n (s.sc b).toNat ∧ t.tagAt p.pa = true) ∧
      (m = .wef → s.tagAt p.pa = true → ∃ t, exec i s = .next t ∧ t.thr.park = some .listed ∧ t.thr.pc = s.thr.pc ∧
        ∃ e ∈ t.retry, e.who = .thread s.thr.uid ∧ e.req.base = .feSt m p.pa n ((s.sc b).toNat % 2 ^ (8 * n))))

/-- Atomics at the word's home (R166, R269, R279): the destination gets the old value, and the word the new one. -/
def Obligations.AtomicResults : Prop :=
  ∀ (s : State) (op : AmoOp) (z : Bool) (w : Width) (sc : Option Scope) (d a b c : Sc) (off : BitVec 27)
    (off2 : BitVec 32), w.isAmo = true → s.readable [a, b, c] = true → Sc.isI d = false → s.fresh = true →
    s.calm = true →
    let n := widthBytes w
    (∀ p, (s.sc a + BitVec.ofInt 64 off.toInt).toNat % n = 0 → s.reach amoA (s.sc a + BitVec.ofInt 64 off.toInt) = .ok p →
      s.homeAnswers p.pa = true →
      let i : Instr := .amo op z w sc d a off b
      let old := s.readN p.pa n
      let v := (s.sc b).toNat % 2 ^ (8 * n)
      let le : Bool := if z then decide (old ≤ v) else decide (sgnOf (8 * n) old ≤ sgnOf (8 * n) v)
      let new : Nat := match op with
        | .add => old + v
        | .max => if le then v else old
        | .min => if le then old else v
        | .and => old &&& v
        | .or => old ||| v
        | .xor => old ^^^ v
        | .swap => v
      ∃ t, exec i s = .next t ∧ Completed i s t ∧ Gets s t d (loaded z w old) ∧ Stored s t p.pa n new ∧
        t.tags = s.tags) ∧
    (∀ p, (s.sc a + BitVec.ofInt 64 off2.toInt).toNat % n = 0 → s.reach amoA (s.sc a + BitVec.ofInt 64 off2.toInt) = .ok p →
      s.homeAnswers p.pa = true →
      let i : Instr := .cas w sc d a off2 b c
      let old := s.readN p.pa n
      ∃ t, exec i s = .next t ∧ Completed i s t ∧ Gets s t d (BitVec.ofNat 64 old) ∧ t.tags = s.tags ∧
        (old = (s.sc b).toNat % 2 ^ (8 * n) → Stored s t p.pa n (s.sc c).toNat) ∧
        (old ≠ (s.sc b).toNat % 2 ^ (8 * n) → ∀ q, t.byteAt q = s.byteAt q))

/-- A misaligned atomic, full/empty access, acquiring load, releasing store or peg access takes the misaligned fault
with its address (R147). An access whose translation faults takes that fault with its registers (R134): scalar loads
and stores of every kind, atomics, pegs, range maintenance, multicast, vector loads and stores at their first active
byte, gathers and scatters at their lowest active lane, and spills and fills. -/
def Obligations.MemoryFaults : Prop :=
  (∀ (s : State) (z : Bool) (w : Width) (sc : Option Scope) (d a b c : Sc) (off : BitVec 27) (off2 : BitVec 32)
     (op : AmoOp) (lm : LdMode) (sm : StMode), s.readable [a, b, c] = true → Sc.isI d = false →
     let va := s.sc a + BitVec.ofInt 64 off.toInt
     let va2 := s.sc a + BitVec.ofInt 64 off2.toInt
     let n := widthBytes w
     let mis (i : Instr) (v : Word) : Prop := exec i s = .next (s.trapped i 0x06 v.toNat 0)
     (va.toNat % n ≠ 0 → mis (.ld true z w sc d a off) va ∧ mis (.st true w sc a off b) va ∧
       (lm ≠ .ig → mis (.lds lm z w sc d a off) va) ∧ (sm ≠ .ig → mis (.sts sm w sc a off b) va) ∧
       mis (.amo op z w sc d a off b) va) ∧
     (va2.toNat % n ≠ 0 → mis (.cas w sc d a off2 b c) va2) ∧
     (va.toNat % 8 ≠ 0 → mis (.acq sc d a off b) va ∧ mis (.rel sc a off b) va ∧ mis (.unbind a off) va) ∧
     (va2.toNat % 8 ≠ 0 → mis (.bind sc a off2 b c) va2)) ∧
  (∀ (s : State) (z acq : Bool) (w : Width) (sc : Option Scope) (d a b c : Sc) (off : BitVec 27) (off2 : BitVec 32)
     (op : AmoOp) (lm : LdMode) (sm : StMode) (co : CmoOp) (lvl : CmoLvl) (ty : ETy) (v u : VReg) (k : KReg) (n : BitVec 6)
     (t : Trap), s.readable [a, b, c] = true → Sc.isI d = false → t.cause ≠ 0x12 →
     let va := s.sc a + BitVec.ofInt 64 off.toInt
     let va2 := s.sc a + BitVec.ofInt 64 off2.toInt
     let len := (s.sc c).toNat
     let takes (i : Instr) : Prop := exec i s = .next (s.takeTrap s.cur (some (.instr i)) t)
     let m := s.thr.mask k
     let mb := max 1 (ty.bits / 8)
     let lane (j : Nat) : Word := va + BitVec.ofInt 64 (sgnOf 32 (lane 32 (s.thr.v.get u) j))
     (va.toNat % widthBytes w = 0 →
       (s.reach loadA va = .error t → takes (.ld acq z w sc d a off) ∧ takes (.lds .ig z w sc d a off)) ∧
       (s.reach storeA va = .error t → takes (.st acq w sc a off b) ∧ takes (.sts .ig w sc a off b)) ∧
       (lm ≠ .ig → s.reach { rd := true, fe := true } va = .error t → takes (.lds lm z w sc d a off)) ∧
       (sm ≠ .ig → s.reach { wr := true, fe := true } va = .error t → takes (.sts sm w sc a off b)) ∧
       (s.reach amoA va = .error t → takes (.amo op z w sc d a off b))) ∧
     (va2.toNat % widthBytes w = 0 → s.reach amoA va2 = .error t → takes (.cas w sc d a off2 b c)) ∧
     (va.toNat % widthBytes w ≠ 0 → s.reach loadA va = .error t → takes (.ld false z w sc d a off)) ∧
     (va.toNat % widthBytes w ≠ 0 → s.reach storeFirst va = .error t → takes (.st false w sc a off b)) ∧
     (va.toNat % 8 = 0 → s.reach { rd := true, fe := true } va = .error t →
       takes (.acq sc d a off b) ∧ takes (.unbind a off)) ∧
     (va.toNat % 8 = 0 → s.reach { wr := true, fe := true } va = .error t → takes (.rel sc a off b)) ∧
     (va2.toNat % 8 = 0 → (s.sc b).toNat % 64 = 0 → (s.sc c).toNat % 64 = 0 →
       s.reach { rd := true, fe := true } va2 = .error t → takes (.bind sc a off2 b c)) ∧
     (∀ r l, (s.sc b).toNat ≤ 2 ^ 36 → rangeRuns va.toNat (s.sc b).toNat = r :: l →
       s.reach loadA (BitVec.ofNat 64 (r.1 * 64)) = .error t → takes (.cmo co lvl a off b)) ∧
     (∀ fan, mapGet (s.pkgAt (pkgOfCore s.core)).fan n.toNat = some fan → fan.valid = true → 0 < len → len ≤ 4096 →
       len % 8 = 0 → va2.toNat % 8 = 0 → (s.sc b).toNat % 8 = 0 →
       (s.reach storeA va2 = .error t → takes (.mcast sc n a off2 b c)) ∧
       (∀ p, s.reach storeA va2 = .ok p → isHbm p.pa = true → s.reach loadA (s.sc b) = .error t →
         takes (.mcast sc n a off2 b c))) ∧
     (∀ j < 256, va.toNat % mb = 0 → m.getLsbD (j / mb) = true → (∀ l < j, m.getLsbD (l / mb) = false) →
       (s.vreadyFor [a] [v] [] k = true → s.reach loadA (va + BitVec.ofNat 64 j) = .error t → takes (.vld ty v a off k)) ∧
       (s.vreadyFor [a] [] [v] k = true → s.reach storeFirst (va + BitVec.ofNat 64 j) = .error t →
         takes (.vst ty a off v k))) ∧
     (∀ j < 64, m.getLsbD j = true → (∀ l < j, m.getLsbD l = false) → (∀ l < 64, m.getLsbD l = true → (lane l).toNat % 4 = 0) →
       (s.vreadyFor [a] [v] [u] k = true → s.reach loadA (lane j) = .error t → takes (.vgath ty v a off u k)) ∧
       (s.vreadyFor [a] [] [v, u] k = true → s.reach storeA (lane j) = .error t → takes (.vscat ty a off v u k))) ∧
     (n ≠ 0 → v.val + n.toNat ≤ s.thr.alot → va.toNat % 64 = 0 → s.thr.ports = [] → s.thr.vPend = 0 → s.fresh = true →
       (s.reach storeFirst va = .error t → takes (.vspill a off v n)) ∧
       (s.reach loadA va = .error t → takes (.vfill v a off n))))

/-- Accesses to another package (R149, R150, R202): a load waits for its reply with the request on its way, and a
plain store goes on at once, remembered until it is acknowledged. Multicast (R208, R209, R312), either length: the
first issue sends the data, as the source stands, under a request tag and waits for TOTAL acknowledgements, and the
answer completes the instruction; that one with TOTAL 0 goes on at once is the model's choice (log 26). -/
def Obligations.RemoteAccesses : Prop :=
  (∀ (s : State) (z : Bool) (w : Width) (d a b : Sc) (off : BitVec 27) (p : Phys) (tag gen : Nat),
     s.readable [a, b] = true → Sc.isI d = false → s.fresh = true →
     let va := s.sc a + BitVec.ofInt 64 off.toInt
     let n := widthBytes w
     va.toNat % n = 0 → (s.coreAt s.core).freeTag = some (tag, gen) →
     (s.reach loadA va = .ok p → p.visits s.core = false → pkgOfPa p.pa ≠ pkgOfCore s.core →
       let i : Instr := .ld false z w none d a off
       ∃ t, exec i s = .next t ∧ t.thr.park = some .reply ∧ t.thr.pc = s.thr.pc ∧
         ∃ r ∈ (t.coreAt s.core).reqs, r.rtag = tag ∧ r.gen = gen ∧ r.dst = pkgOfPa p.pa ∧
           r.who = .thread s.thr.uid ∧ r.req = .rd p.pa n) ∧
     (s.reach storeA va = .ok p → p.visits s.core = false → pkgOfPa p.pa ≠ pkgOfCore s.core →
       let i : Instr := .st false w none a off b
       ∃ t, exec i s = .next t ∧ Completed i s t ∧ (p.pa, n, tag, p.va) ∈ t.thr.stores ∧
         (∀ q, t.byteAt q = s.byteAt q) ∧ ∃ r ∈ (t.coreAt s.core).reqs, r.rtag = tag ∧ r.dst = pkgOfPa p.pa)) ∧
  (∀ (s : State) (n : BitVec 6) (a b c : Sc) (off : BitVec 32) (off2 : BitVec 64) (p : Phys) (pb : Nat) (fan : Fan) (tag gen : Nat),
     s.readable [a, b, c] = true → s.calm = true → s.thr.stores = [] → (s.coreAt s.core).reqs = [] →
     (s.coreAt s.core).freeTag = some (tag, gen) → off2 = BitVec.ofInt 64 off.toInt →
     mapGet (s.pkgAt (pkgOfCore s.core)).fan n.toNat = some fan → fan.valid = true →
     let len := (s.sc c).toNat
     0 < len → len ≤ 4096 → len % 8 = 0 → (s.sc a + off2).toNat % 8 = 0 → (s.sc b).toNat % 8 = 0 →
     s.reach storeA (s.sc a + off2) = .ok p → isHbm p.pa = true → s.spans loadA (s.sc b) pb len (fun _ => true) →
     let sent (t : State) : Prop := ∃ m ∈ (t.pkgAt (pkgOfCore s.core)).inbox, m.rtag = tag ∧ m.core = s.core ∧
       ∃ data scp fe unc uid, m.body = .mcast n.toNat p.pa data scp fe unc uid ∧
         data = (List.range len).map (fun j => s.byteAt (pb + j))
     let ends (i : Instr) : Prop :=
       (s.thr.mail = [] → fan.total.toNat ≠ 0 → ∃ t, exec i s = .next t ∧ t.thr.park = some .reply ∧
         t.thr.pc = s.thr.pc ∧ (∃ r ∈ (t.coreAt s.core).reqs, r.rtag = tag) ∧ sent t) ∧
       (s.thr.mail = [] → fan.total = 0 → ∃ t, exec i s = .next t ∧ Completed i s t ∧ sent t) ∧
       (∀ m, s.thr.mail = [m] → m.k = mcastK p.leaf.fe (p.leaf.home == 3) → m.rep = .ok →
         ∃ t, exec i s = .next t ∧ Completed i s t)
     ends (.mcast none n a off b c) ∧ ends (.mcast128 none n a off2 b c))

/-- Fences (R154, R239, R294): with every store acknowledged `FENCE` completes with no effect; otherwise the thread
waits. `FBAR` gives up what the thread has fetched, but for words of a line that another thread has invalidated since
the thread's last acquire (log 96). Pegs (R158 to R160, R266, R277, R321, R335): `ACQ` reads a full word whose count
has come, `REL` writes the word and leaves it full, `BIND` adds a range to the peg's entry and `UNBIND` removes the
entry. Range maintenance (R162, R282): over every line of the range, an invalidate at L2 or HBM leaves no visitor line
in the issuing die, a clean at L2 leaves its dirty bytes at their home, a clean at HBM leaves none in the home slice,
and an invalidate of the instruction path leaves the line in no instruction cache of the partition. A length above
2^36 takes the engine-command fault. -/
def Obligations.OrderingResults : Prop :=
  (∀ (s : State) (sc : Scope), (s.thread? s.cur).isSome = true →
     (s.thr.stores = [] → exec (.fence sc) s = .next (s.goesOn (.fence sc))) ∧
     (s.thr.stores ≠ [] → exec (.fence sc) s = .next (s.parkBegun (.fence sc) .acks [])) ∧
     exec .fbar s = .next ((s.setThr { s.thr with
       fbuf := [], fresh := [], ahead := s.thr.ahead.filter (fun e => s.thr.stale.contains (e.1 / 8)) }).goesOn .fbar)) ∧
  (∀ (s : State) (sc : Option Scope) (d a b c : Sc) (off : BitVec 27) (off2 : BitVec 32),
     s.readable [a, b, c] = true → Sc.isI d = false → s.fresh = true → s.calm = true →
     let va := s.sc a + BitVec.ofInt 64 off.toInt
     let va2 := s.sc a + BitVec.ofInt 64 off2.toInt
     (∀ p, va.toNat % 8 = 0 → s.reach { rd := true, fe := true } va = .ok p → s.homeAnswers p.pa = true →
       let i : Instr := .acq sc d a off b
       (s.tagAt p.pa = true → (s.sc b).toNat ≤ s.readN p.pa 8 → ∃ t, exec i s = .next t ∧ Completed i s t ∧
         Gets s t d (BitVec.ofNat 64 (s.readN p.pa 8)) ∧ (∀ q, t.byteAt q = s.byteAt q) ∧ t.tags = s.tags) ∧
       ((s.tagAt p.pa = false ∨ s.readN p.pa 8 < (s.sc b).toNat) →
         ∃ t, exec i s = .next t ∧ t.thr.park = some .listed ∧ t.thr.pc = s.thr.pc)) ∧
     (∀ p, va.toNat % 8 = 0 → s.reach { wr := true, fe := true } va = .ok p → s.homeAnswers p.pa = true →
       (∀ e ∈ s.visitors, isHbm (e.1 % 2 ^ 46 * 64) = true ∧
         (e.2.dirty = 0 ∨ pkgOfPa (e.1 % 2 ^ 46 * 64) = pkgOfCore s.core)) → s.visitors.all (fun e =>
         e.1 / 2 ^ 46 == dieOfCore s.core) = true → s.noCleans →
       let i : Instr := .rel sc a off b
       ∃ t, exec i s = .next t ∧ Completed i s t ∧ t.readN p.pa 8 = (s.sc b).toNat ∧ t.tagAt p.pa = true) ∧
     (∀ p, va2.toNat % 8 = 0 → s.reach { rd := true, fe := true } va2 = .ok p →
       pkgOfPa p.pa = pkgOfCore s.core → (s.sc b).toNat % 64 = 0 → (s.sc c).toNat % 64 = 0 → s.sc c ≠ 0 →
       (s.sc c).toNat ≤ 2 ^ 36 →
       (∀ e ∈ (s.pkgAt (pkgOfCore s.core)).pegs, e.pa = p.pa → e.ranges.length < 8) →
       (s.pkgAt (pkgOfCore s.core)).pegs.length < 4096 →
       let i : Instr := .bind sc a off2 b c
       ∃ t, exec i s = .next t ∧ Completed i s t ∧ (∀ q, t.byteAt q = s.byteAt q) ∧
         ∃ e ∈ (t.pkgAt (pkgOfCore s.core)).pegs, e.pa = p.pa ∧ e.sc = sc.getD .pod ∧
           ((s.sc b).toNat, (s.sc c).toNat) ∈ e.ranges) ∧
     (∀ p, va.toNat % 8 = 0 → s.reach { rd := true, fe := true } va = .ok p → pkgOfPa p.pa = pkgOfCore s.core →
       let i : Instr := .unbind a off
       ∃ t, exec i s = .next t ∧ Completed i s t ∧ (∀ q, t.byteAt q = s.byteAt q) ∧
         ∀ e ∈ (t.pkgAt (pkgOfCore s.core)).pegs, e.pa ≠ p.pa)) ∧
  (∀ (s : State) (op : CmoOp) (lvl : CmoLvl) (a b : Sc) (off : BitVec 27), s.readable [a, b] = true → s.fresh = true →
     s.calm = true →
     let va := s.sc a + BitVec.ofInt 64 off.toInt
     let n := (s.sc b).toNat
     let i : Instr := .cmo op lvl a off b
     (2 ^ 36 < n → exec i s = .next (s.trapped i 0x17 0 0)) ∧
     (∀ f : Nat × Nat → Phys, n ≤ 2 ^ 36 → (∀ v ∈ s.visitors, isHbm (v.1 % 2 ^ 46 * 64) = true) →
       s.noCleans →
       (∀ r ∈ rangeRuns va.toNat n, s.reach loadA (BitVec.ofNat 64 (r.1 * 64)) = .ok (f r) ∧
         ∀ j < r.2, pkgOfPa (((f r).pa / 64 + j) * 64) = pkgOfCore s.core) →
       ∃ t, exec i s = .next t ∧ Completed i s t ∧
         ∀ r ∈ rangeRuns va.toNat n, ∀ j < r.2,
           let line := (f r).pa / 64 + j
           let key := visitorKey (dieOfCore s.core) line
           (lvl = .l2 ∨ lvl = .hbm → op ≠ .cl → mapGet t.visitors key = none) ∧
           (lvl = .l2 ∨ lvl = .hbm → op = .cl → ∀ l, mapGet t.visitors key = some l → l.dirty = 0) ∧
           (lvl = .l2 ∨ lvl = .hbm → op ≠ .inv → ∀ l, mapGet s.visitors key = some l → ∀ o < 64,
             l.dirty.getLsbD o = true → t.byteAt (line * 64 + o) = lineByte l.data o) ∧
           (lvl = .hbm → op ≠ .inv → ∀ c ∈ t.slice, c.1 / 64 ≠ line) ∧
           (lvl = .ipath → ∀ e ∈ t.cores, s.partOfCore e.1 = s.partOfCore s.core → mapGet e.2.icache line = none)))

/-- Vector loads and stores (R345): the bytes of the active lanes move as they stand; inactive lanes of a loaded
register and bytes of inactive lanes in memory stay; a misaligned address takes the misaligned fault. Gathers and
scatters (R344): lane `j` at the base plus its signed offset; a scatter writes in ascending lane order, so that of two
lanes that name one word the higher one's value stays; the lowest misaligned lane takes the fault. -/
def Obligations.VectorMemory : Prop :=
  (∀ (s : State) (t : ETy) (d : VReg) (a : Sc) (off : BitVec 27) (k : KReg) (pa : Nat), t.isVecAny = true →
     s.fresh = true → s.calm = true →
     let va := s.sc a + BitVec.ofInt 64 off.toInt
     let mb := max 1 (t.bits / 8)
     let on (j : Nat) : Bool := (s.thr.mask k).getLsbD (j / mb)
     (va.toNat % mb ≠ 0 →
       (s.vreadyFor [a] [d] [] k = true → exec (.vld t d a off k) s = .next (s.trapped (.vld t d a off k) 0x06 va.toNat 0)) ∧
       (s.vreadyFor [a] [] [d] k = true → exec (.vst t a off d k) s = .next (s.trapped (.vst t a off d k) 0x06 va.toNat 0))) ∧
     (va.toNat % mb = 0 → s.vreadyFor [a] [d] [] k = true → s.spans loadA va pa 256 on →
       let i : Instr := .vld t d a off k
       ∃ u, exec i s = .next u ∧ Completed i s u ∧ (∀ q, u.byteAt q = s.byteAt q) ∧
         u.thr.vFull.getLsbD d.val = true ∧
         ∀ j < 256, lane 8 (u.thr.v.get d) j =
           if on j then (s.byteAt (pa + j)).toNat else lane 8 (s.thr.v.get d) j) ∧
     (va.toNat % mb = 0 → s.vreadyFor [a] [] [d] k = true → s.spans storeA va pa 256 on →
       let i : Instr := .vst t a off d k
       ∃ u, exec i s = .next u ∧ Completed i s u ∧ u.tags = s.tags ∧
         (∀ q, u.byteAt q = if pa ≤ q ∧ q < pa + 256 ∧ on (q - pa) = true then
           BitVec.ofNat 8 (lane 8 (s.thr.v.get d) (q - pa)) else s.byteAt q))) ∧
  (∀ (s : State) (t : ETy) (d b : VReg) (a : Sc) (off : BitVec 27) (k : KReg) (f : Nat → Phys), t.isLane32 = true →
     s.fresh = true → s.calm = true →
     let m := s.thr.mask k
     let va (j : Nat) : Word := s.sc a + BitVec.ofInt 64 off.toInt + BitVec.ofInt 64 (sgnOf 32 (lane 32 (s.thr.v.get b) j))
     let aligned : Prop := ∀ j < 64, m.getLsbD j = true → (va j).toNat % 4 = 0
     (∀ j < 64, m.getLsbD j = true → (va j).toNat % 4 ≠ 0 → (∀ l < j, m.getLsbD l = true → (va l).toNat % 4 = 0) →
       (s.vreadyFor [a] [d] [b] k = true →
         exec (.vgath t d a off b k) s = .next (s.trapped (.vgath t d a off b k) 0x06 (va j).toNat 0)) ∧
       (s.vreadyFor [a] [] [d, b] k = true →
         exec (.vscat t a off d b k) s = .next (s.trapped (.vscat t a off d b k) 0x06 (va j).toNat 0))) ∧
     (aligned → s.vreadyFor [a] [d] [b] k = true →
       (∀ j < 64, m.getLsbD j = true → s.reach loadA (va j) = .ok (f j) ∧ s.atHome (f j) = true) →
       let i : Instr := .vgath t d a off b k
       ∃ u, exec i s = .next u ∧ Completed i s u ∧ (∀ q, u.byteAt q = s.byteAt q) ∧
         LanesAre t m (s.thr.v.get d) (u.thr.v.get d) (fun j => s.readN (f j).pa 4)) ∧
     (aligned → s.vreadyFor [a] [] [d, b] k = true →
       (∀ j < 64, m.getLsbD j = true → s.reach storeA (va j) = .ok (f j) ∧ s.atHome (f j) = true) →
       let i : Instr := .vscat t a off d b k
       ∃ u, exec i s = .next u ∧ Completed i s u ∧
         (∀ q, (∀ j < 64, m.getLsbD j = true → q < (f j).pa ∨ (f j).pa + 4 ≤ q) → u.byteAt q = s.byteAt q) ∧
         (∀ j < 64, m.getLsbD j = true →
           (∀ e, j < e → e < 64 → m.getLsbD e = true → (f e).pa + 4 ≤ (f j).pa ∨ (f j).pa + 4 ≤ (f e).pa) →
           u.readN (f j).pa 4 = lane 32 (s.thr.v.get d) j)))

/-- Spills and fills (R228, R343): register F + j moves to or from the 256 bytes at base + 256j; a filled register is
full. A run past the allotment takes the allotment fault, and a base that is no multiple of 64 the misaligned one. -/
def Obligations.SpillFill : Prop :=
  ∀ (s : State) (f : VReg) (n : BitVec 6) (a : Sc) (off : BitVec 27) (pa : Nat),
    s.readable [a] = true → s.fresh = true → s.calm = true → n ≠ 0 → s.thr.ports = [] → s.thr.vPend = 0 →
    let va := s.sc a + BitVec.ofInt 64 off.toInt
    (s.thr.alot < f.val + n.toNat →
      exec (.vspill a off f n) s = .next (s.trapped (.vspill a off f n) 0x04 0 0) ∧
      exec (.vfill f a off n) s = .next (s.trapped (.vfill f a off n) 0x04 0 0)) ∧
    (f.val + n.toNat ≤ s.thr.alot → va.toNat % 64 ≠ 0 →
      exec (.vspill a off f n) s = .next (s.trapped (.vspill a off f n) 0x06 va.toNat 0) ∧
      exec (.vfill f a off n) s = .next (s.trapped (.vfill f a off n) 0x06 va.toNat 0)) ∧
    (f.val + n.toNat ≤ s.thr.alot → s.thr.alot ≤ 64 → va.toNat % 64 = 0 →
      (s.spans loadA va pa (256 * n.toNat) (fun _ => true) →
        ∃ u, exec (.vfill f a off n) s = .next u ∧ Completed (.vfill f a off n) s u ∧
          (∀ q, u.byteAt q = s.byteAt q) ∧
          (∀ j < n.toNat, u.thr.vFull.getLsbD (f.val + j) = true ∧
            ∀ o < 256, lane 8 (u.thr.v.get (f + Fin.ofNat 64 j)) o = (s.byteAt (pa + 256 * j + o)).toNat) ∧
          (∀ v : VReg, v.val < f.val ∨ f.val + n.toNat ≤ v.val → u.thr.v.get v = s.thr.v.get v)) ∧
      (s.thr.vPoison = 0 → (∀ mem slice : List Host.Cell,
          ({ s with mem := mem, slice := slice } : State).spans storeA va pa (256 * n.toNat) (fun _ => true)) →
        ∃ u, exec (.vspill a off f n) s = .next u ∧ Completed (.vspill a off f n) s u ∧ u.thr.v = s.thr.v ∧
          (∀ q, u.byteAt q = if pa ≤ q ∧ q < pa + 256 * n.toNat then
            BitVec.ofNat 8 (lane 8 (s.thr.v.get (f + Fin.ofNat 64 ((q - pa) / 256))) ((q - pa) % 256))
            else s.byteAt q)))

/-- The frame of loads: no byte, tag or seam field of memory changes, no flag, and no register but the destination.
The frame of a store: with no request waiting at a home, the bytes outside those it stores to read as before, where
the address is the one its translation gives; no register and no flag changes. -/
def Obligations.MemoryFrames : Prop :=
  (∀ (s t : State) (z acq : Bool) (w : Width) (sc : Option Scope) (d a : Sc) (off : BitVec 27) (i : Instr),
     i = .ld acq z w sc d a off ∨ i = .lds .ig z w sc d a off → exec i s = .next t → Ran s t →
     (∀ pa, t.byteAt pa = s.byteAt pa) ∧ t.tags = s.tags ∧ t.seams = s.seams ∧
     SameG s t (some d) ∧ SameC s t (some d) ∧ SameVK s t ∧ SameSpecial s t ∧ t.thr.fcsr = s.thr.fcsr ∧
     (∀ k, k ≠ s.cur → t.thread? k = s.thread? k)) ∧
  (∀ (s t : State) (rel : Bool) (w : Width) (sc : Option Scope) (a b : Sc) (off : BitVec 27),
     s.retry = [] → exec (.st rel w sc a off b) s = .next t → Ran s t →
     let va := s.sc a + BitVec.ofInt 64 off.toInt
     (∀ p, va.toNat % widthBytes w = 0 → s.reach storeA va = .ok p →
       ∀ q, q < p.pa ∨ p.pa + widthBytes w ≤ q → t.byteAt q = s.byteAt q) ∧
     (∀ f : Nat → Phys, va.toNat % widthBytes w ≠ 0 →
       (∀ j < widthBytes w, s.reach storeA (va + BitVec.ofNat 64 j) = .ok (f j)) →
       ∀ q, (∀ j < widthBytes w, q ≠ (f j).pa) → t.byteAt q = s.byteAt q) ∧
     t.tags = s.tags ∧ SameG s t none ∧ SameC s t none ∧ SameVK s t ∧ SameSpecial s t ∧ t.thr.fcsr = s.thr.fcsr ∧
     (∀ k, k ≠ s.cur → t.thread? k = s.thread? k))

/-- Matrix commands (R111, R117, R119, R126): an issued command enters the core's queue, and the instruction completes
then; with the queue full it waits. The command carries its window and mode, and, by the model's choice, the lane mask
and the translations as they stood at issue (logs 69 and 37). `MXFLG`, `MXWAIT`, `MXBEG` and `MXEND` (R120, R121,
R123, R316, R317): the flags of a tile once every command accepted before is done; the wait for the thread's own
commands; a chain opens once and closes once. -/
def Obligations.MatrixCommands : Prop :=
  (∀ (s : State) (fa fb t : ETy) (seam sat : Bool) (n : AReg) (a b : Sc) (depth : BitVec 9) (tag : BitVec 16) (k : KReg)
     (f g : Nat → Phys),
     s.readable [a, b] = true → s.kreadable [k] = true → s.thr.mail = [] → (s.coreAt s.core).mxWait = [] →
     let c := s.coreAt s.core
     let m := s.thr.mask k
     let win := winWidth (s.thr.mxctl.toNat % 8)
     let rz := s.thr.mxctl.getLsbD 3
     let room := c.mxQ.length + (if c.mxRun.isSome then 1 else 0) < 16
     let later (y : MxCmd) : Prop := y.at_ = s.cycle ∧ slotOfTid s.cur < y.slot
     let at_ (l : List MxLine) (h : Nat → Phys) (r : Nat) : Prop :=
       l.map (fun x => (x.va, x.pa, x.visits)) = (List.range r).map (fun j => ((h j).va, (h j).pa, (h j).visits s.core))
     let ends (i : Instr) (P : MxOp → Prop) : Prop := ∃ u cmd, exec i s = .next u ∧ Completed i s u ∧
       TakesPlace later c.mxQ (u.coreAt s.core).mxQ cmd ∧ (u.coreAt s.core).acc = c.acc ∧ (∀ q, u.byteAt q = s.byteAt q) ∧
       cmd.uid = s.thr.uid ∧ cmd.slot = slotOfTid s.cur ∧ cmd.at_ = s.cycle ∧ cmd.exp = s.newTag ∧
       cmd.mode = s.thr.mode ∧ P cmd.op
     let lines (h : Nat → Phys) (ty : ETy) : Nat := (16 * depth.toNat * (fmtType (h 0).leaf.fmt ty).bits / 8 + 63) / 64
     (room → 0 < depth.toNat → (s.sc a).toNat % 64 = 0 → (s.sc b).toNat % 64 = 0 →
       (∀ j < lines f fa, s.reach loadA (s.sc a + BitVec.ofNat 64 (64 * j)) = .ok (f j) ∧ (f j).inBlock = false ∧
         (f j).leaf.fmt = (f 0).leaf.fmt ∧ (f j).leaf.blk = (f 0).leaf.blk) →
       (∀ j < lines g fb, s.reach loadA (s.sc b + BitVec.ofNat 64 (64 * j)) = .ok (g j) ∧ (g j).inBlock = false ∧
         (g j).leaf.fmt = (g 0).leaf.fmt ∧ (g j).leaf.blk = (g 0).leaf.blk) →
       0 < lines f fa → 0 < lines g fb →
       fmtAccepted fa (f 0).leaf.fmt = true → fmtAccepted fb (g 0).leaf.fmt = true →
       (seam = true → s.seamAt (f 0).pa = tag ∧ s.seamAt (g 0).pa = tag) →
       ends (.mma fa fb seam n a b depth tag k) (fun op =>
         ∃ la lb, op = .mma n fa fb la lb depth.toNat m win rz ∧ at_ la f (lines f fa) ∧ at_ lb g (lines g fb))) ∧
     (room → ends (.mxzero n k) (fun op => op = .zero n m)) ∧
     (room → (s.sc a).toNat % 64 = 0 →
       (∀ j < 16, s.reach loadA (s.sc a + BitVec.ofNat 64 (64 * j)) = .ok (f j) ∧ (f j).inBlock = false ∧
         (f j).leaf.fmt = 0) →
       ends (.mxld n a k) (fun op => ∃ l, op = .load n l m ∧ at_ l f 16)) ∧
     (room → (s.sc a).toNat % 64 = 0 → (c.acc.get n).poison = false →
       (∀ j < 256 * t.bits / 512, s.reach storeA (s.sc a + BitVec.ofNat 64 (64 * j)) = .ok (f j) ∧ (f j).inBlock = false ∧
         (f j).leaf.fmt = 0) →
       ends (.mxst t sat a n k) (fun op => ∃ l, op = .store n t sat l m rz ∧ at_ l f (256 * t.bits / 512))) ∧
     (c.mxQ.length + (if c.mxRun.isSome then 1 else 0) = 16 →
       ∃ u cmd, exec (.mxzero n k) s = .next u ∧ u.thr.park = some .mxQueue ∧ u.thr.pc = s.thr.pc ∧
         (u.coreAt s.core).mxWait = [(slotOfTid s.cur, cmd)] ∧ (u.coreAt s.core).mxQ = c.mxQ) ∧
     ((s.sc a).toNat % 64 ≠ 0 →
       exec (.mma fa fb seam n a b depth tag k) s = .next (s.trapped (.mma fa fb seam n a b depth tag k) 0x06 (s.sc a).toNat 0) ∧
       exec (.mxld n a k) s = .next (s.trapped (.mxld n a k) 0x06 (s.sc a).toNat 0) ∧
       exec (.mxst t sat a n k) s = .next (s.trapped (.mxst t sat a n k) 0x06 (s.sc a).toNat 0))) ∧
  (∀ (s : State) (d : KReg) (n : AReg) (w : BitVec 4), s.readable [] = true →
     let c := s.coreAt s.core
     (c.mxQ = [] → c.mxRun = none → (c.acc.get n).poison = false →
       exec (.mxflg d n) s = .next (s.kdone (.mxflg d n) d (c.acc.get n).ls)) ∧
     (c.mxQ = [] → c.mxRun = none → (c.acc.get n).poison = true →
       exec (.mxflg d n) s = .next (s.trapped (.mxflg d n) 0x13 0 n.val)) ∧
     (∀ q, c.mxQ = [q] → c.mxRun = none → s.thr.mail = [] →
       exec (.mxflg d n) s = .next (s.parkBegun (.mxflg d n) (.mxFlag 1) [])) ∧
     (let mine := (c.mxQ.filter (fun q => q.uid == s.thr.uid)).length +
         (match c.mxRun with
          | some r => if r.cmd.uid = s.thr.uid then 1 else 0
          | none => 0)
      (mine ≤ w.toNat → exec (.mxwait w) s = .next (s.goesOn (.mxwait w))) ∧
      (w.toNat < mine → exec (.mxwait w) s = .next (s.parkBegun (.mxwait w) (.mxWait w.toNat) []))) ∧
     (s.thr.chain = false → exec .mxbeg s = .next ((s.setThr { s.thr with chain := true }).goesOn .mxbeg) ∧
       exec .mxend s = .next (s.trapped .mxend 0x1E 0 0)) ∧
     (s.thr.chain = true → exec .mxend s = .next ((s.setThr { s.thr with chain := false }).goesOn .mxend) ∧
       exec .mxbeg s = .next (s.trapped .mxbeg 0x1E 0 0)))

/-- `SPAWN` (R47, R48, R330): a core or entry point that is not allowed takes the launch fault; else the request goes
to the target's queue while the thread waits, and its acceptance completes the instruction. `MIGR` (R49, R50, R313): a
thread that holds vector registers takes the migration fault; to its own core it does nothing; else, once its own work
has come to rest, its scalar context goes to the target's queue and it waits. -/
def Obligations.SpawnsAndMigrations : Prop :=
  (∀ (s : State) (a b : Sc), s.readable [a, b, .g 0, .g 1, .g 2, .g 3] = true → s.thr.stores = [] →
     let i : Instr := .spawn a b
     let x := (s.sc a).toNat
     let pc := s.sc b
     let core := s.coreAt x
     let ok : Prop := x < 2 ^ 20 ∧ x % 2048 < 1152 ∧ (s.pkgAt (x / 8192)).member = true ∧ pc.toNat % 4 = 0 ∧
       (s.partOfCore x).isSome = true ∧ s.partOfCore x = s.partOfCore s.core
     let req : Req := .spawn x s.core pc s.newTag [s.thr.g.get 0, s.thr.g.get 1, s.thr.g.get 2, s.thr.g.get 3]
     (¬ ok → s.thr.mail = [] → exec i s = .next (s.trapped i 0x1F 0 0)) ∧
     (ok → s.fresh = true → pkgOfCore x = pkgOfCore s.core → (s.dieAt (dieOfCore x)).forward = [] →
       core.mqIn = [] → core.mqOut = [] → core.parked = [] →
       ∃ t m, exec i s = .next t ∧ t.thr.park = some .spawn ∧ t.thr.pc = s.thr.pc ∧ (t.coreAt x).mqIn = [m] ∧
         m.kind = 1 ∧ m.who = .thread s.thr.uid ∧ m.req = req) ∧
     (ok → s.thr.mail = [{ k := 0, epoch := 0, req := req, rep := .ok }] →
       ∃ t, exec i s = .next t ∧ Completed i s t ∧ (∀ q, t.byteAt q = s.byteAt q))) ∧
  (∀ (s : State) (a : Sc) (p : Phys) (h : Nat), s.readable [a] = true → s.reach loadA (s.sc a) = .ok p →
     homeCore p.pa = some h →
     let i : Instr := .migr a
     (s.thr.alot ≠ 0 → exec i s = .next (s.trapped i 0x0E 0 0)) ∧
     (s.thr.alot = 0 → (s.partOfCore h).isSome = true → s.partOfCore h = s.partOfCore s.core →
       (h = s.core ∨ s.thr.trapent = true → exec i s = .next (s.goesOn i)) ∧
       (h ≠ s.core → s.thr.trapent = false → s.fresh = true → pkgOfCore h = pkgOfCore s.core →
         (s.dieAt (dieOfCore h)).forward = [] → s.thr.gPend = 0 → s.thr.vPend = 0 →
         s.mxOutstanding s.core s.thr.uid = 0 →
         (s.coreAt h).mqIn = [] → (s.coreAt h).mqOut = [] → (s.coreAt h).parked = [] →
         ∃ t m ctx, exec i s = .next t ∧ t.thr.park = some (.migr false) ∧ (t.coreAt h).mqIn = [m] ∧ m.kind = 2 ∧
           m.who = .thread s.thr.uid ∧ m.req = .migr h s.core ctx ∧ ctx.g = s.thr.g ∧ ctx.pc = s.thr.pc + 8 ∧
           ctx.mode = s.thr.mode ∧ ctx.ex = s.thr.ex ∧ ctx.fcsr = s.thr.fcsr)))

/-- `TASK` (R176, R177, R333): the record at its address is posted to the quad's queue and `gD` is 1; with the queue
full `gD` is 0, or the thread waits; a record with a reserved field, a priority above 3 or a misaligned entry point
takes the launch fault. `EVSET`, `EVCLR` and `EVWAIT` (R155, R174, R175, R286): the bits of the mask are set or
cleared in the quad's events at once, a bit set in a cycle outlasting its clear in the same cycle; a set made before
the thread's stores are acknowledged is noted until they are; a wait ends when every bit of its mask was set at the
end of a cycle, and goes on only when no such note of another thread concerns it (log 73). -/
def Obligations.TasksAndEvents : Prop :=
  (∀ (s : State) (wait : Bool) (d a : Sc) (off : BitVec 32) (kw ks : KReg) (pa : Nat),
     s.readable [a] = true → s.kreadable [kw, ks] = true → Sc.isI d = false → s.fresh = true → s.calm = true →
     let i : Instr := .task wait d a off kw ks
     let va := s.sc a + BitVec.ofInt 64 off.toInt
     let q := s.quadAt (quadOfCore s.core)
     let f (o n : Nat) : Nat := s.readN (pa + o) n
     let ok : Prop := f 0 8 % 4 = 0 ∧ f 40 1 ≤ 3 ∧ f 41 23 = 0
     (va.toNat % 64 ≠ 0 → exec i s = .next (s.trapped i 0x06 va.toNat 0)) ∧
     (va.toNat % 64 = 0 → s.spans loadA va pa 64 (fun _ => true) →
       (¬ ok → exec i s = .next (s.trapped i 0x1F 0 0)) ∧
       (ok → q.tasks.length < 64 → q.posts = [] →
         ∃ t k, exec i s = .next t ∧ Completed i s t ∧ Gets s t d 1 ∧ (∀ b, t.byteAt b = s.byteAt b) ∧
           (t.quadAt (quadOfCore s.core)).tasks = q.tasks ++ [k] ∧ k.pc = BitVec.ofNat 64 (f 0 8) ∧
           k.args = [8, 16, 24, 32].map (fun o => BitVec.ofNat 64 (f o 8)) ∧ k.pri = f 40 1 ∧ k.kw = s.thr.mask kw ∧
           k.ks = s.thr.mask ks ∧ k.exp = s.newTag ∧ k.run = none) ∧
       (ok → q.tasks.length = 64 → wait = false →
         ∃ t, exec i s = .next t ∧ Completed i s t ∧ Gets s t d 0 ∧ t.quads = s.quads) ∧
       (ok → q.tasks.length = 64 → wait = true → s.thr.park = none → q.posts = [] →
         ∃ t, exec i s = .next t ∧ t.thr.park = some (.task s.cycle) ∧ t.thr.pc = s.thr.pc ∧
           (t.quadAt (quadOfCore s.core)).posts = [s.thr.uid] ∧ (t.quadAt (quadOfCore s.core)).tasks = q.tasks))) ∧
  (∀ (s : State) (a : KReg), s.readable [] = true → s.kreadable [a] = true →
     let m := s.thr.mask a
     let q := s.quadAt (quadOfCore s.core)
     let after (t : State) : Quad := t.quadAt (quadOfCore s.core)
     (∃ t, exec (.evset a) s = .next t ∧ Completed (.evset a) s t ∧
       (∀ j, (after t).events.getLsbD j = (q.events.getLsbD j || m.getLsbD j)) ∧ (after t).shown = q.shown ∧
       (after t).later = q.later ++
         (if s.thr.stores = [] then [] else [{ uid := s.thr.uid, mask := m, stores := s.thr.stores }])) ∧
     (∃ t, exec (.evclr a) s = .next t ∧ Completed (.evclr a) s t ∧
       (∀ j, (after t).events.getLsbD j =
         (q.events.getLsbD j && !(m.getLsbD j && !(decide (q.evAt = s.cycle) && q.evSet.getLsbD j)))) ∧
       (after t).shown = q.shown) ∧
     ((∀ j, m.getLsbD j = true → q.shown.getLsbD j = true) →
       ((∀ e ∈ q.later, e.uid = s.thr.uid ∨ e.mask &&& m = 0) →
         ∃ t, exec (.evwait a) s = .next t ∧ Completed (.evwait a) s t ∧ t.quads = s.quads) ∧
       (∀ e ∈ q.later, ∀ tid u, e.uid ≠ s.thr.uid → e.mask &&& m ≠ 0 → s.tidOf e.uid = some tid → s.thread? tid = some u →
         e.stores ≠ [] → u.stores = e.stores →
         ∃ t, exec (.evwait a) s = .next t ∧ t.thr.park = some (.owed m) ∧ t.thr.pc = s.thr.pc)) ∧
     ((∃ j, m.getLsbD j = true ∧ q.shown.getLsbD j = false) → s.thr.mail = [] →
       exec (.evwait a) s = .next (s.parkBegun (.evwait a) (.event m) [])))

/-- `GROW` and `SHRINK` (R70, R71, R299, R327): registers that an allotment gains read zero and are full; `gD` gets
the new allotment; a pool without room gives 0, or the thread waits, until registers that come back are granted to the
head of the queue; a count that is zero, no multiple of 8 or out of range takes the allotment fault. Barriers at a
home in the thread's package (R53 to R55, R272 to R274): a join makes the thread a member and sets the count of a
count barrier, which is compared with the count as departures have lowered it (log 86); an arrival waits, and the last
one of a phase goes on at once; a departure ends membership; misuse takes the barrier-misuse fault. A thread that a
displacement has taken elsewhere leaves the barrier it joined (R60, R272). -/
def Obligations.AllotmentsAndBarriers : Prop :=
  (∀ (s : State) (d b : Sc) (w : BitVec 27) (wait : Bool), s.readable [b] = true → Sc.isI d = false → s.thr.mail = [] →
     let gives (i : Instr) (n : Nat) : Prop :=
       (n ≠ 0 → n % 8 = 0 → s.thr.alot + n ≤ 64 → n ≤ s.poolFree s.core → (s.coreAt s.core).growQ = [] →
         ∃ t, exec i s = .next t ∧ Completed i s t ∧ Gets s t d (BitVec.ofNat 64 (s.thr.alot + n)) ∧
           t.thr.alot = s.thr.alot + n ∧
           ∀ v : VReg, if s.thr.alot ≤ v.val ∧ v.val < s.thr.alot + n then
               t.thr.v.get v = 0 ∧ t.thr.vFull.getLsbD v.val = true
             else t.thr.v.get v = s.thr.v.get v ∧ t.thr.vFull.getLsbD v.val = s.thr.vFull.getLsbD v.val) ∧
       (n = 0 ∨ n % 8 ≠ 0 ∨ 64 < s.thr.alot + n → exec i s = .next (s.trapped i 0x04 0 0)) ∧
       (n ≠ 0 → n % 8 = 0 → s.thr.alot + n ≤ 64 → s.poolFree s.core < n → (s.coreAt s.core).growQ = [] →
         (wait = false → ∃ t, exec i s = .next t ∧ Completed i s t ∧ Gets s t d 0 ∧ t.thr.alot = s.thr.alot) ∧
         (wait = true → ∃ t, exec i s = .next t ∧ t.thr.park = some (.grow n) ∧ t.thr.pc = s.thr.pc ∧
           (t.coreAt s.core).growQ = [s.thr.uid]))
     let takes (i : Instr) (n : Nat) : Prop :=
       (n ≠ 0 → n % 8 = 0 → n ≤ s.thr.alot → (∀ e ∈ s.thr.ports, e.1 < s.thr.alot - n ∨ s.thr.alot ≤ e.1) →
         ((s.coreAt s.core).growQ = [] →
           ∃ t, exec i s = .next t ∧ Completed i s t ∧ Gets s t d (BitVec.ofNat 64 (s.thr.alot - n)) ∧
             t.thr.alot = s.thr.alot - n ∧ t.thr.v = s.thr.v) ∧
         (∀ u tid x m, (s.coreAt s.core).growQ = [u] → s.tidOf u = some tid → tid ≠ s.cur → s.thread? tid = some x →
           x.park = some (.grow m) → m ≤ (s.setThr { s.thr with alot := s.thr.alot - n }).poolFree s.core →
           ∃ t y, exec i s = .next t ∧ t.thread? tid = some y ∧ y.alot = x.alot + m ∧ y.park = none ∧
             (t.coreAt s.core).growQ = [])) ∧
       (n = 0 ∨ n % 8 ≠ 0 ∨ s.thr.alot < n → exec i s = .next (s.trapped i 0x04 0 0))
     gives (.grow wait d w) (BitVec.ofInt 64 w.toInt).toNat ∧ gives (.growReg wait d b) (s.sc b).toNat ∧
     takes (.shrink d w) (BitVec.ofInt 64 w.toInt).toNat ∧ takes (.shrinkReg d b) (s.sc b).toNat) ∧
  (∀ (s : State) (sc : Scope) (id : BitVec 4) (b : Sc) (key : Nat), s.readable [b] = true → s.fresh = true →
     s.retry = [] → s.barrierOf sc id.toNat = .ok (key, pkgOfCore s.core) →
     let uid := s.thr.uid
     let x := s.barrierAt key
     let counts := sc = .die ∨ sc = .pkg ∨ sc = .pod
     let elsewhere (e : Nat × Barrier) : Prop := keyScope e.1 = scopeCode sc ∧ e.1 % 16 = id.toNat ∧ uid ∈ e.2.members
     let n := (s.sc b).toNat % 2 ^ 32
     (uid ∉ x.members → (counts → n ≠ 0 ∧ (x.count = none ∨ x.count = some n)) →
       ∃ t, exec (.bjoin sc id b) s = .next t ∧ Completed (.bjoin sc id b) s t ∧
         uid ∈ (t.barrierAt key).members ∧ (∀ u, u ≠ uid → (u ∈ (t.barrierAt key).members ↔ u ∈ x.members)) ∧
         (counts → (t.barrierAt key).count = some n) ∧ (t.barrierAt key).arrived = x.arrived) ∧
     (uid ∈ x.members ∨ (counts ∧ (n = 0 ∨ ∃ c, x.count = some c ∧ c ≠ n)) →
       exec (.bjoin sc id b) s = .next (s.trapped (.bjoin sc id b) 0x14 0 0)) ∧
     (uid ∉ x.members → (∀ e ∈ s.barriers, ¬ elsewhere e) → exec (.bleave sc id) s = .next (s.trapped (.bleave sc id) 0x14 0 0) ∧
       exec (.bar sc id) s = .next (s.trapped (.bar sc id) 0x14 0 0)) ∧
     (uid ∈ x.members →
       ∃ t, exec (.bleave sc id) s = .next t ∧ Completed (.bleave sc id) s t ∧ uid ∉ (t.barrierAt key).members) ∧
     (∀ k y, uid ∉ x.members → s.barriers = [(k, y)] → elsewhere (k, y) →
       ∃ t, exec (.bleave sc id) s = .next t ∧ Completed (.bleave sc id) s t ∧ uid ∉ (t.barrierAt k).members) ∧
     (uid ∈ x.members → keyScope key ≤ 2 → (∀ u ∈ x.members, u = uid ∨ u ∈ x.arrived) →
       ∃ t, exec (.bar sc id) s = .next t ∧ Completed (.bar sc id) s t ∧ (t.barrierAt key).arrived = []) ∧
     (uid ∈ x.members → keyScope key ≤ 2 → (∃ u ∈ x.members, u ≠ uid ∧ u ∉ x.arrived) →
       ∃ t, exec (.bar sc id) s = .next t ∧ t.thr.park = some (.barrier key) ∧ t.thr.pc = s.thr.pc ∧
         uid ∈ (t.barrierAt key).arrived) ∧
     (uid ∈ x.members → 2 < keyScope key → uid ∉ x.arrived → x.count = some (x.arrived.length + 1) →
       ∃ t, exec (.bar sc id) s = .next t ∧ Completed (.bar sc id) s t ∧ (t.barrierAt key).arrived = []) ∧
     (uid ∈ x.members → 2 < keyScope key → uid ∉ x.arrived → x.count ≠ some (x.arrived.length + 1) →
       ∃ t, exec (.bar sc id) s = .next t ∧ t.thr.park = some (.barrier key) ∧ uid ∈ (t.barrierAt key).arrived))

/-- `SLOTW` (R35, R37, R328) in supervisor mode: an image in which two entries of one slot stand at least 8 apart on
the ring of 32 and the handler's slot owns one takes effect at once, or is staged while barrier 0 of the core has
members; any other takes the slot-table fault. `RFILL` (R66, R322, R323): the arm form empties a register of the
thread; the send form fills one of a thread of its partition, or a shared one of the core, and completes; with `.wait`
on a full register the sender waits; a core outside takes the launch fault, a register or slot that does not exist the
engine-command fault. `SBIND` and `SFREE` (R181, R185, R324): a valid descriptor makes a port of the register; a fifth
port, a register already bound, an invalid descriptor, a chain without a neighbour and the freeing of a register that
has no port take the engine-command fault with their reasons; a freed register reads zero and is full. That a KREG of
a kind other than 0 takes reason 3 is the model's choice (log 33). -/
def Obligations.SlotsFillsStreams : Prop :=
  (∀ (s : State) (a b : Sc), s.readable [a, b] = true → s.thr.mode = .super →
     let i : Instr := .slotw a b
     let im : BitVec 128 := s.sc b ++ s.sc a
     let v (e : Nat) : Nat := im.toNat / 16 ^ e % 16
     let c := s.coreAt s.core
     let ok : Prop := (∀ e f, e < f → f < 32 → 8 ≤ v e → v e = v f → 8 ≤ f - e ∧ f - e ≤ 24) ∧
       ∃ e < 32, v e = 8 + c.ovh
     c.ovh < 8 →
     (ok → (s.barrierAt (barKey .core s.core 0)).members = [] →
       ∃ t, exec i s = .next t ∧ Completed i s t ∧ (t.coreAt s.core).slotTab = im ∧ (t.coreAt s.core).staged = none) ∧
     (ok → (s.barrierAt (barKey .core s.core 0)).members ≠ [] →
       ∃ t, exec i s = .next t ∧ Completed i s t ∧ (t.coreAt s.core).slotTab = c.slotTab ∧
         (t.coreAt s.core).staged = some im) ∧
     (¬ ok → exec i s = .next (s.trapped i 0x1C 0 0))) ∧
  (∀ (s : State) (wait : Bool) (a b c : Sc) (n : Fin 16), s.readable [a, b, c] = true → s.calm = true →
     let i : Instr := .rfillSend wait a b c
     let x := (s.sc a).toNat
     let r := (s.sc b).toNat
     let ok : Prop := x < 2 ^ 20 ∧ x % 2048 < 1152 ∧ (s.pkgAt (x / 8192)).member = true ∧
       (s.partOfCore x).isSome = true ∧ s.partOfCore x = s.partOfCore s.core
     (∃ t, exec (.rfillArm (.g n)) s = .next t ∧ Completed (.rfillArm (.g n)) s t ∧ t.thr.gFull.getLsbD n.val = false ∧
       ∀ m : Fin 16, m ≠ n → t.thr.gFull.getLsbD m.val = s.thr.gFull.getLsbD m.val) ∧
     (∃ t, exec (.rfillArm (.c n)) s = .next t ∧ Completed (.rfillArm (.c n)) s t ∧
       { n := n, v := none, issued := s.cycle, fill := false } ∈ (t.coreAt s.core).cWrites) ∧
     (∃ t, exec (.rfillArm .zr) s = .next t ∧ Completed (.rfillArm .zr) s t) ∧
     (¬ ok → exec i s = .next (s.trapped i 0x1F 0 0)) ∧
     (ok → (256 ≤ r ∨ (128 ≤ r ∧ r % 8 ≠ 0)) → exec i s = .next (s.trapped i 0x17 0 1)) ∧
     (ok → s.fresh = true → pkgOfCore x = pkgOfCore s.core → (s.dieAt (dieOfCore x)).forward = [] →
       (∀ u, r < 128 → s.thread? (x * 8 + r % 8) = some u → wait = false ∨ u.gFull.getLsbD (r / 8) = false →
         ∃ t u', exec i s = .next t ∧ Completed i s t ∧ t.thread? (x * 8 + r % 8) = some u' ∧
           u'.gFull.getLsbD (r / 8) = true ∧ ∀ m : Fin 16, m.val = r / 8 → u'.g.get m = s.sc c) ∧
       (r < 128 → s.thread? (x * 8 + r % 8) = none → exec i s = .next (s.trapped i 0x17 0 2)) ∧
       (∀ m : Fin 16, r = 128 + 8 * m.val → wait = false ∨ s.cFull x m = false →
         ∃ t, exec i s = .next t ∧ Completed i s t ∧
           { n := m, v := some (s.sc c), issued := s.cycle, fill := true } ∈ (t.coreAt x).cWrites) ∧
       (∀ u, r < 128 → s.thread? (x * 8 + r % 8) = some u → wait = true → u.gFull.getLsbD (r / 8) = true →
         ∃ t, exec i s = .next t ∧ t.thr.park = some .listed ∧ t.thr.pc = s.thr.pc))) ∧
  (∀ (s : State) (d : VReg) (a : Sc) (off : BitVec 27) (p : Phys), s.readable [a] = true → d.val < s.thr.alot →
     let i : Instr := .sbind d a off
     let va := s.sc a + BitVec.ofInt 64 off.toInt
     let w := s.readN p.pa 32
     let f (o n : Nat) : Nat := w / 2 ^ (8 * o) % 2 ^ (8 * n)
     (va.toNat % 32 ≠ 0 → exec i s = .next (s.trapped i 0x06 va.toNat 0)) ∧
     (va.toNat % 32 = 0 → s.reach loadA va = .ok p → s.atHome p = true → s.calm = true → s.fresh = true →
       (4 ≤ s.thr.ports.length → exec i s = .next (s.trapped i 0x17 0 1)) ∧
       (s.thr.ports.length < 4 → (s.thr.port? d).isSome = true → exec i s = .next (s.trapped i 0x17 0 2)) ∧
       (s.thr.ports.length < 4 → s.thr.port? d = none →
         (8 ≤ f 20 1 ∨ f 23 9 ≠ 0 ∨ 8 ≤ f 22 1 ∨ (f 20 1 ≠ 0 ∧ f 22 1 ≠ 0) ∨ (f 20 1 ≤ 1 ∧ f 16 4 = 0) ∨
          (1 < f 20 1 ∧ (f 8 8 ≠ 0 ∨ f 16 4 ≠ 0 ∨ f 21 1 ≠ 0)) ∨ (3 < f 20 1 ∧ f 0 8 ≠ 0) →
           exec i s = .next (s.trapped i 0x17 0 3)) ∧
         ((streamDesc w).ok = true → 4 ≤ f 20 1 →
           neighbour s.core (decide (f 20 1 = 4 ∨ f 20 1 = 7)) = none → exec i s = .next (s.trapped i 0x17 0 4)) ∧
         ((streamDesc w).ok = true → f 20 1 ≠ 2 →
           (4 ≤ f 20 1 → (neighbour s.core (decide (f 20 1 = 4 ∨ f 20 1 = 7))).isSome = true) →
           ∃ t q, exec i s = .next t ∧ Completed i s t ∧ t.thr.port? d = some q ∧ q.kind = f 20 1 ∧ q.base = f 0 8 ∧
             q.stride = sgnOf 64 (f 8 8) ∧ q.count = f 16 4 ∧ q.kreg = f 22 1 ∧ q.m = 0 ∧ q.h = 0 ∧ q.ahead = [] ∧
             (∀ b, t.byteAt b = s.byteAt b)))) ∧
     (s.thr.port? d = none → exec (.sfree d) s = .next (s.trapped (.sfree d) 0x17 0 5)) ∧
     (∀ q, s.thr.port? d = some q → q.receives = true ∨ (s.thr.stores = [] ∧ s.thr.vPend.getLsbD d.val = false) →
       ∃ t, exec (.sfree d) s = .next t ∧ Completed (.sfree d) s t ∧ t.thr.port? d = none ∧ t.thr.v.get d = 0 ∧
         t.thr.vFull.getLsbD d.val = true ∧ ∀ v, v ≠ d → t.thr.v.get v = s.thr.v.get v ∧ t.thr.port? v = s.thr.port? v))

/-- The expiry instructions on entries of the thread's package (R187 to R192, R287, R288): a new entry takes the
lowest free index; a gusset is live while one of its parents is, and carries the latest of the instants of those that
are; a tag takes effect only on a live or lapsing entry of the thread's partition; the faults carry their reasons. -/
def Obligations.ExpiryInstructions : Prop :=
  ∀ (s : State) (d a b : Sc), s.readable [a, b] = true → Sc.isI d = false → s.fresh = true → s.cur < 2 ^ 23 →
    (s.pkgAt (pkgOfCore s.core)).member = true →
    let pkg := pkgOfCore s.core
    let x := (s.sc a).toNat
    let idx := x % 4096
    let own : Prop := x < 2 ^ 19 ∧ x / 4096 = pkg ∧ idx ≠ 0
    let e := s.entry pkg idx
    let free (j : Nat) : Prop := (s.entry pkg j).st = .free
    (∀ j, 1 ≤ j → j < 4096 → free j → (∀ l, 1 ≤ l → l < j → ¬ free l) →
      ∃ t, exec (.exnew d a) s = .next t ∧ Completed (.exnew d a) s t ∧
        Gets s t d (BitVec.ofNat 64 (pkg * 4096 + j)) ∧ (t.entry pkg j).gusset = false ∧
        (t.entry pkg j).instant = x ∧ (t.entry pkg j).part = s.partNum ∧
        (t.entry pkg j).st = (if x ≤ s.podTime then .lapsing else .live)) ∧
    ((∀ l, 1 ≤ l → l < 4096 → ¬ free l) → exec (.exnew d a) s = .next (s.trapped (.exnew d a) 0x15 0 0)) ∧
    (joinBits (s.sc a) = true ∨ joinBits (s.sc b) = true →
      exec (.exjoin d a b) s = .next (s.trapped (.exjoin d a b) 0x17 0 1)) ∧
    (joinBits (s.sc a) = false → joinBits (s.sc b) = false →
      let ps := presentTags (joinTags (s.sc a) (s.sc b))
      (ps = [] → ∃ t, exec (.exjoin d a b) s = .next t ∧ Completed (.exjoin d a b) s t ∧ Gets s t d 0) ∧
      (∀ j, 1 ≤ j → j < 4096 → free j → (∀ l, 1 ≤ l → l < j → ¬ free l) → ps ≠ [] →
        (∀ c ∈ (s.pkgAt pkg).exTab, c.2.forming = none) →
        (∀ q ∈ ps, tagPkg q = pkg ∧ if (s.exAt q).st = .free then tagIndex q ≠ j else (s.exAt q).part = s.partNum) →
        ∃ t, exec (.exjoin d a b) s = .next t ∧ Completed (.exjoin d a b) s t ∧
          Gets s t d (BitVec.ofNat 64 (pkg * 4096 + j)) ∧ (t.entry pkg j).gusset = true ∧
          (t.entry pkg j).parents = ps.map (fun q => (q, decide ((s.exAt q).st ≠ .live))) ∧
          (t.entry pkg j).st = (if ps.any (fun q => (s.exAt q).st == .live) then .live else .lapsing) ∧
          (t.entry pkg j).instant =
            ((ps.filter (fun q => (s.exAt q).st == .live)).map (fun q => (s.exAt q).instant)).foldl max 0)) ∧
    (2 ^ 19 ≤ x → exec (.exset a) s = .next (s.trapped (.exset a) 0x17 0 1) ∧
      exec (.exchk d a) s = .next (s.trapped (.exchk d a) 0x17 0 1) ∧
      exec (.exfree a) s = .next (s.trapped (.exfree a) 0x17 0 1)) ∧
    (x < 2 ^ 19 → idx = 0 →
      (s.thr.mode = .super ∨ s.thr.ex.toNat % 4096 = 0 →
        ∃ t, exec (.exset a) s = .next t ∧ Completed (.exset a) s t ∧ t.thr.ex = 0) ∧
      (s.thr.mode = .user → s.thr.ex.toNat % 4096 ≠ 0 → exec (.exset a) s = .next (s.trapped (.exset a) 0x17 0 5)) ∧
      (∃ t, exec (.exchk d a) s = .next t ∧ Completed (.exchk d a) s t ∧ Gets s t d 0) ∧
      exec (.exfree a) s = .next (s.goesOn (.exfree a))) ∧
    (x < 2 ^ 19 → idx ≠ 0 → (s.pkgAt (x / 4096)).member = false →
      exec (.exset a) s = .next (s.trapped (.exset a) 0x17 0 2)) ∧
    (own → e.st = .free → exec (.exset a) s = .next (s.trapped (.exset a) 0x17 0 4) ∧
      (∃ t, exec (.exchk d a) s = .next t ∧ Completed (.exchk d a) s t ∧ Gets s t d 2) ∧
      (∃ t, exec (.exfree a) s = .next t ∧ Completed (.exfree a) s t ∧ (t.entry pkg idx).st = .free)) ∧
    (own → e.st ≠ .free → e.part ≠ s.partNum → exec (.exset a) s = .next (s.trapped (.exset a) 0x17 0 3) ∧
      exec (.exchk d a) s = .next (s.trapped (.exchk d a) 0x17 0 3) ∧
      exec (.exfree a) s = .next (s.trapped (.exfree a) 0x17 0 3)) ∧
    (own → e.st ≠ .free → e.part = s.partNum →
      (e.st = .quarantine → exec (.exset a) s = .next (s.trapped (.exset a) 0x17 0 4)) ∧
      (e.st ≠ .quarantine → ∃ t, exec (.exset a) s = .next t ∧ Completed (.exset a) s t ∧
        t.thr.ex = BitVec.ofNat 19 x ∧ (t.entry pkg idx).reach.getLsbD pkg = true) ∧
      (∃ t, exec (.exchk d a) s = .next t ∧ Completed (.exchk d a) s t ∧ Gets s t d (match e.st with
        | .live => 0
        | .lapsing => 1
        | .lapsed => 1
        | _ => 2)) ∧
      (∃ t, exec (.exfree a) s = .next t ∧ Completed (.exfree a) s t ∧
        (t.entry pkg idx).st = (match e.st with
          | .live => .lapsing
          | .lapsed => .quarantine
          | st => st) ∧
        (e.st = .live ∨ e.st = .lapsing → (t.entry pkg idx).freePend = true)))

/-- The commands of the copy channel (R137 to R143, R284, R304, R305): an accepted command is in the queue with what
its instruction names, the first word of its record is empty, and a register that it fills is empty; with the queue
full the thread waits, where the running command counts as one of the 8 entries (log 74, the model's choice); a size
out of range takes the engine-command fault, a misaligned record the misaligned one. `CPWAIT` (R144): a full record
word is read and left full, a misaligned record faults, and while the word is empty the thread waits in its retry
list. -/
def Obligations.CopyCommands : Prop :=
  (∀ (s : State) (op : CpyOp) (ty : Option ETy) (acq rel : Bool) (sc : Option Scope) (d a b c : Sc) (v : VReg)
     (tag : BitVec 16) (p : Phys) (pa : Nat),
     s.readable [d, a, b, c] = true → s.calm = true → s.fresh = true → (s.coreAt s.core).cpWait = [] →
     let k := s.coreAt s.core
     let room := k.cpQ.length + (if k.cpRun.isSome then 1 else 0) < 8
     let dst := (s.sc d).toNat
     let src := (s.sc a).toNat
     let n := (s.sc b).toNat
     let r := s.sc c
     let x (o l : Nat) : Nat := s.readN (pa + o) l
     let later (y : CpCmd) : Prop := y.at_ = s.cycle ∧ slotOfTid s.cur < y.slot
     let queued (i : Instr) (rel : Bool) (op : CpOp) (t : State) : Prop := ∃ cmd, exec i s = .next t ∧ Completed i s t ∧
       TakesPlace later k.cpQ (t.coreAt s.core).cpQ cmd ∧ cmd.uid = s.thr.uid ∧ cmd.slot = slotOfTid s.cur ∧ cmd.exp = s.newTag ∧ cmd.mode = s.thr.mode ∧
       cmd.record = p.pa ∧ cmd.rel = rel ∧ cmd.op = op ∧ t.tagAt p.pa = false ∧ ∀ z, t.byteAt z = s.byteAt z
     (r.toNat % 32 ≠ 0 → exec (.cpy op ty acq rel sc d a b c tag) s =
         .next (s.trapped (.cpy op ty acq rel sc d a b c tag) 0x06 r.toNat 0) ∧
       exec (.cpgb acq rel sc d a c tag) s = .next (s.trapped (.cpgb acq rel sc d a c tag) 0x06 r.toNat 0)) ∧
     (r.toNat % 32 = 0 → s.reach { wr := true, fe := true } r = .ok p →
       (∀ t', (match ty with
           | some _ => dst % 64 = 0 ∧ src % 64 = 0
           | none => True) → t' = Instr.cpy op ty acq rel sc d a b c tag →
         (n = 0 ∨ 2 ^ 32 < n ∨ (ty.isSome = true ∧ n % 64 ≠ 0) → exec t' s = .next (s.trapped t' 0x17 0 0)) ∧
         (n ≠ 0 → n ≤ 2 ^ 32 → (ty.isSome = true → n % 64 = 0) →
           (room → ∃ t, queued t' rel (match ty with
             | some e => .atomic op e dst src n tag
             | none => .cpy dst src n tag) t) ∧
           (¬ room → ∃ t, exec t' s = .next t ∧ t.thr.park = some .cpQueue ∧ t.thr.pc = s.thr.pc ∧
             (t.coreAt s.core).cpQ = k.cpQ))) ∧
       (room → ∀ g : Fin 16, ∃ t, queued (.cpyRfg acq sc (.g g) a c) false (.rfg (.g g) src) t ∧
         t.thr.gFull.getLsbD g.val = false ∧ t.thr.gPend.getLsbD g.val = true) ∧
       (room → ∀ g : Fin 16, ∃ t, queued (.cpyRfg acq sc (.c g) a c) false (.rfg (.c g) src) t ∧
         { n := g, v := none, issued := s.cycle, fill := false } ∈ (t.coreAt s.core).cWrites ∧
         (t.coreAt s.core).cPend.getLsbD g.val = true) ∧
       (room → v.val < s.thr.alot → s.thr.port? v = none → src % 64 = 0 →
         ∃ t, queued (.cpyRfv acq sc v a c) false (.rfv v src) t ∧
           t.thr.vFull.getLsbD v.val = false ∧ t.thr.vPend.getLsbD v.val = true) ∧
       (room → (s.sc a).toNat % 32 = 0 → s.spans loadA (s.sc a) pa 32 (fun _ => true) →
         x 16 4 ≠ 0 → x 16 4 ≤ 2 ^ 20 → 6 ≤ x 20 1 → x 20 1 ≤ 26 → x 21 11 = 0 →
         ∃ t, queued (.cpgb acq rel sc d a c tag) rel (.cpgb dst (x 0 8) (x 8 8) (x 16 4) (x 20 1) tag) t) ∧
       (room → (s.sc a).toNat % 64 = 0 → s.spans loadA (s.sc a) pa 64 (fun _ => true) →
         x 36 4 ≠ 0 → x 36 4 ≤ 65535 → 6 ≤ x 40 1 → x 40 1 ≤ 26 → 6 ≤ x 41 1 → x 41 1 ≤ x 40 1 → x 42 22 = 0 →
         ∃ t, queued (.kvapp acq rel sc a b c) rel (.kvapp src (x 0 8) (x 8 8) (x 16 8) (x 24 8) (x 32 4) (x 36 4)
           (x 40 1) (x 41 1) n) t))) ∧
  (∀ (s : State) (d a : Sc) (p : Phys), s.readable [a] = true → Sc.isI d = false → s.fresh = true → s.calm = true →
     let i : Instr := .cpwait d a
     let x := s.sc a
     (x.toNat % 32 ≠ 0 → exec i s = .next (s.trapped i 0x06 x.toNat 0)) ∧
     (x.toNat % 32 = 0 → s.reach { rd := true, fe := true } x = .ok p → s.homeAnswers p.pa = true →
       (s.tagAt p.pa = true → ∃ t, exec i s = .next t ∧ Completed i s t ∧
         Gets s t d (BitVec.ofNat 64 (s.readN p.pa 8)) ∧ t.tagAt p.pa = true ∧ ∀ z, t.byteAt z = s.byteAt z) ∧
       (s.tagAt p.pa = false → ∃ t, exec i s = .next t ∧ t.thr.park = some .listed ∧ t.thr.pc = s.thr.pc ∧
         ∃ w ∈ t.retry, w.who = .thread s.thr.uid ∧ w.req.base = .feLd .wf p.pa 8)))

/-- Named buffers and collectives (R213 to R216, R218, R280, R283): a registration records the pages, the peg and the
group; one of size 0 removes the buffer; a `COLL` on an idle buffer of the partition starts its next instance and
waits; the engine's acceptance, while the partition runs or halts, empties the record and lets the thread go on; a
mismatch of registrations ends the instance, and so does that every other member has left (that an instance is
complete then, and the order of registrations, are the model's: logs 40 and 75). -/
def Obligations.Collectives : Prop :=
  ∀ (s : State) (op : CbufOp) (ty : ETy) (kind : CollKind) (acq rel : Bool) (sc : Option Scope) (id : BitVec 10)
    (root : BitVec 7) (a c : Sc) (pa : Nat) (p q : Phys) (f : Nat → Phys) (st : Nat),
    s.readable [a, c] = true → s.calm = true → s.fresh = true →
    let pkg := pkgOfCore s.core
    let x (o l : Nat) : Nat := s.readN (pa + o) l
    let grp : BitVec 128 := BitVec.ofNat 128 (x 16 16)
    let i : Instr := .cbuf op ty id a
    let j : Instr := .coll kind acq rel sc id root c
    let buf (t : State) : Option NBuf := mapGet (t.pkgAt pkg).nbufs id.toNat
    (s.spans loadA (s.sc a) pa 64 (fun _ => true) →
      x 44 20 = 0 → x 8 8 % 256 = 0 → x 8 8 ≤ 2 ^ 30 → x 0 8 % 4096 = 0 →
      (if op = .smerge then 1 ≤ x 40 4 ∧ x 40 4 ≤ 1024 ∧ ty = .f32 ∧ x 8 8 % (4 * (x 40 4 + 2)) = 0 else x 40 4 = 0) →
      2 ≤ (membersOf grp).length → (membersOf grp).length ≤ 64 → grp.getLsbD pkg = true → buf s = none →
      (x 8 8 = 0 → s.reach loadA (BitVec.ofNat 64 (x 0 8)) = .ok p →
        x 32 8 % 8 = 0 → s.reach loadA (BitVec.ofNat 64 (x 32 8)) = .ok q → q.leaf.fe = true → pkgOfPa q.pa = pkg →
        ∃ t, exec i s = .next t ∧ Completed i s t ∧ buf t = none) ∧
      (x 8 8 ≠ 0 →
        (∀ o < x 8 8, s.reach loadA (BitVec.ofNat 64 (x 0 8 + o)) = .ok (f o) ∧
          ∀ z < min (x 8 8 - o) ((f o).leaf.vbase + (f o).leaf.size - (f o).va),
            pkgOfPa ((f o).pa + z) = pkg ∧ ∃ off, placeOf ((f o).pa + z) = .hbm st off) →
        x 32 8 % 8 = 0 → s.reach loadA (BitVec.ofNat 64 (x 32 8)) = .ok q → q.leaf.fe = true → pkgOfPa q.pa = pkg →
        ∃ t n, exec i s = .next t ∧ Completed i s t ∧ buf t = some n ∧ n.peg = q.pa ∧ n.part = s.partNum ∧
          n.tag = s.newTag ∧ n.started = 0 ∧ n.run = none ∧ n.info.size = x 8 8 ∧ n.info.ty = ty ∧ n.info.op = op ∧
          n.info.group = grp ∧ n.info.stack = st ∧ (∀ z, t.byteAt z = s.byteAt z))) ∧
    ((s.sc c).toNat % 32 = 0 → s.reach { wr := true, fe := true } (s.sc c) = .ok p →
      (buf s = none → exec j s = .next (s.trapped j 0x16 0 1)) ∧
      (∀ n, buf s = some n → n.ended = false → n.part = s.partNum →
        (n.run.isSome = true → exec j s = .next (s.trapped j 0x16 0 2)) ∧
        (collReason n kind root.toNat = none → ∃ t m r, exec j s = .next t ∧ t.thr.park = some .engine ∧
          t.thr.pc = s.thr.pc ∧ buf t = some m ∧
          m.run = some r ∧ m.started = n.started + 1 ∧ r.inst = n.started ∧ r.kind = kind ∧ r.root = root.toNat ∧
          r.core = s.core ∧ r.record = p.pa ∧ r.accepted = false ∧
          ∀ z, t.byteAt z = s.byteAt z))) ∧
    (∀ n r, buf s = some n → n.run = some r →
      (r.accepted = false → (s.partAt n.part).st = .run ∨ (s.partAt n.part).st = .halting →
        ∃ t m, exec (.collContributionAccept pkg id.toNat) s = .next t ∧ buf t = some m ∧
        m.run = some { r with accepted := true } ∧ t.tagAt r.record = false ∧
        ∀ tid h, s.waits tid (.thread h.uid) .engine → s.thread? tid = some h → r.uid = h.uid →
          ∃ u, t.thread? tid = some u ∧ u.park = none ∧ hasMail u collAccepted = true) ∧
      (r.accepted = true → s.mismatch pkg id.toNat n = true →
        ∃ t, exec (.collComplete pkg id.toNat) s = .next t ∧ (∀ m, buf t = some m → m.run = none) ∧
          t.readN r.record 8 = 3 + 256 * 0x16 ∧ t.tagAt r.record = true) ∧
      (r.accepted = true → s.mismatch pkg id.toNat n = false → (s.pkgAt pkg).agreed pkg id.toNat n.info = true →
        n.info.group.getLsbD pkg = true →
        (∀ k ∈ membersOf n.info.group, k = pkg ∨
          (s.contributed pkg k id.toNat r.inst = none ∧ s.memberLeft pkg k id.toNat r.inst = true)) →
        ∃ t, exec (.collComplete pkg id.toNat) s = .next t ∧ (∀ m, buf t = some m → m.run = none) ∧
          t.readN r.record 1 = 1 ∧ t.tagAt r.record = true)) ∧
    (∀ (src n serial : Nat) (info : RegInfo) (m : Msg), s.onlyMsg pkg m → m.body = .reg n serial info → m.src = src →
      ∃ t, exec (.registrationMessage pkg) s = .next t ∧ (t.pkgAt pkg).inbox = [] ∧
        ∃ e ∈ (t.pkgAt pkg).peers, e.1 = (src, n) ∧ (e.2.cur = some (serial, info) ∨ e.2.next = some (serial, info)))

/-- The end of an instance (R169, R216, R218): once every member has contributed or left, every contributor has the
result of its kind in its buffer and the rest of the buffer as it was, its peg full with the contributors' ranks, and
its record DONE with their packages and the lines that the result covers. What a member contributes is HBM below the
caches, as its engine read it. Each contributor has the result of the kind its own `COLL` names (log 94, the model's
choice). What one element, and one record of a softmax merge, is reduced to (R109, R217): integer sums wrap, integer
extremes compare as signed; a sum is taken in FP32, with one rounding for each contribution after the first, and
rounded once to the type; extremes take −0 below +0 and give the canonical NaN for any NaN; a merge has the
pseudocode's words. -/
def Obligations.CollectiveResults : Prop :=
  (∀ (s : State) (pkg id : Nat) (n : NBuf) (r : CollRun), s.calm = true → mapGet (s.pkgAt pkg).nbufs id = some n →
     n.run = some r → r.accepted = true → s.mismatch pkg id n = false → n.info.group.getLsbD pkg = true →
     let ms := membersOf n.info.group
     let size := n.info.size
     let part := size / ms.length
     let rank (q : Nat) : Nat := ms.findIdx (fun m => m == q)
     let cs : List (Nat × NBuf × CollRun) :=
       ms.filterMap (fun q => (s.contributed pkg q id r.inst).map (fun c => (q, c)))
     let ranks := (cs.map (fun c => 2 ^ rank c.1)).sum
     let mask := (cs.map (fun c => 2 ^ c.1)).sum
     let unit := if n.info.op = .smerge then 4 * (n.info.l + 2) else n.info.ty.bits / 8
     let reduce (xs : List Nat) : Nat := if n.info.op = .smerge then
         (match xs with
          | [] => 0
          | x :: l => l.foldl (fun a b => mergeRecord (n.info.l + 2) a b) x)
       else reduceElem n.info.op n.info.ty xs
     ms.length ≤ 64 → n.info.ty ∈ [ETy.f32, .bf16, .f16, .i32] →
     (n.info.op = .smerge → size % (4 * (n.info.l + 2)) = 0) →
     (∀ q ∈ ms, (s.contributed pkg q id r.inst).isSome = true ∨ s.memberLeft pkg q id r.inst = true) →
     (∀ c ∈ cs, c.2.1.info = n.info ∧ (s.pkgAt c.1).agreed c.1 id n.info = true ∧ c.2.1.laid ∧
       (c.2.2.staged.map Prod.fst).Nodup ∧ c.2.1.peg % 8 = 0 ∧ c.2.2.record % 32 = 0 ∧
       collReason { c.2.1 with run := none } c.2.2.kind c.2.2.root = none) →
     (cs.flatMap (fun c => c.2.1.segs.map (fun e => (e.2.1, e.2.2)) ++ [(c.2.1.peg, 8), (c.2.2.record, 32)])).Pairwise
       (fun x y => x.1 + x.2 ≤ y.1 ∨ y.1 + y.2 ≤ x.1) →
     ∃ t, exec (.collComplete pkg id) s = .next t ∧ ∀ w ∈ cs,
       let m := w.2.1
       let k := w.2.2
       let held (c : Nat × NBuf × CollRun) (o l : Nat) : Nat := bytesN (s.heldByte c.2.1 c.2.2) o l
       let out (o l : Nat) : Nat := bytesN (fun z => t.byteAt (m.addrAt z)) o l
       let reduced (lo len : Nat) : Prop := ∀ o < len, o % unit = 0 →
         out (lo + o) unit = reduce (cs.map (fun c => held c (lo + o) unit))
       let inPart (q o : Nat) : Bool := decide (rank q * part ≤ o) && decide (o < rank q * part + part)
       let hits (o : Nat) : Bool := match k.kind with
         | .ar => true
         | .rs => inPart w.1 o
         | .ag => cs.any (fun c => inPart c.1 o)
         | .bc => cs.any (fun c => c.1 == k.root)
       (k.kind = .ar → reduced 0 size) ∧
       (k.kind = .rs → reduced (rank w.1 * part) part) ∧
       (k.kind = .ag → ∀ c ∈ cs, ∀ o < size, inPart c.1 o = true → out o 1 = held c o 1) ∧
       (k.kind = .bc → ∀ c ∈ cs, c.1 = k.root → ∀ o < size, out o 1 = held c o 1) ∧
       (∀ o < size, hits o = false → t.byteAt (m.addrAt o) = s.byteAt (m.addrAt o)) ∧
       t.readN m.peg 8 = ranks ∧ t.tagAt m.peg = true ∧
       t.readN k.record 8 = 1 + 2 ^ 16 * (List.range (size / 64)).countP (fun j =>
         (List.range 64).any (fun z => hits (64 * j + z))) ∧
       t.readN (k.record + 8) 8 = 0 ∧ t.readN (k.record + 16) 16 = mask ∧ t.tagAt k.record = true ∧
       (∀ m', mapGet (t.pkgAt w.1).nbufs id = some m' → m'.run = none)) ∧
  ((∀ l : List Nat, l ≠ [] → (∀ x ∈ l, x < 2 ^ 32) →
     reduceElem .sum .i32 l = l.sum % 2 ^ 32 ∧
     reduceElem .max .i32 l ∈ l ∧ (∀ x ∈ l, sgnOf 32 x ≤ sgnOf 32 (reduceElem .max .i32 l)) ∧
     reduceElem .min .i32 l ∈ l ∧ (∀ x ∈ l, sgnOf 32 (reduceElem .min .i32 l) ≤ sgnOf 32 x)) ∧
   (∀ t ∈ [ETy.f32, .bf16, .f16], ∀ l : List Nat, l ≠ [] → (∀ x ∈ l, x < 2 ^ t.bits) →
     let val := valOf t false
     let minusZero (x : Nat) : Prop := x = 2 ^ (t.bits - 1)
     ((∃ x ∈ l, (val x).isNan = true) → reduceElem .max t l = canonNaN t ∧ reduceElem .min t l = canonNaN t) ∧
     ((∀ x ∈ l, (val x).isNan = false) →
       (reduceElem .max t l ∈ l ∧ ∀ x ∈ l, ¬ (val (reduceElem .max t l)).Below (val x) ∧
         (x = 0 → ¬ minusZero (reduceElem .max t l))) ∧
       (reduceElem .min t l ∈ l ∧ ∀ x ∈ l, ¬ (val x).Below (val (reduceElem .min t l)) ∧
         (minusZero x → reduceElem .min t l ≠ 0))) ∧
     (t ≠ .f32 → reduceElem .sum t l =
       (roundEx t 0 false (valOf .f32 false (reduceElem .sum .f32 (l.map (toF32 t)))).toEx).bits ∧
       ∀ x ∈ l, (val x).isNan = false → (valOf .f32 false (toF32 t x)).Same (val x))) ∧
   (∀ x < 2 ^ 32, (valOf .f32 false x).isNan = false → reduceElem .sum .f32 [x] = x) ∧
   (∀ (l : List Nat) (y : Nat), l ≠ [] → (∀ x ∈ y :: l, x < 2 ^ 32) →
     reduceElem .sum .f32 (l ++ [y]) = (fAdd .f32 0 (reduceElem .sum .f32 l) y).bits) ∧
   (∀ (n a b : Nat), 2 ≤ n → a < 2 ^ (32 * n) → b < 2 ^ (32 * n) →
     let w (x j : Nat) : Nat := x / 2 ^ (32 * j) % 2 ^ 32
     let val := valOf .f32 false
     let nan (x : Nat) : Bool := (val x).isNan
     let low : Nat := 0xFF800000
     let m := reduceElem .max .f32 [w a 0, w b 0]
     let factor (x f : Nat) : Prop := (x = low → f = 0) ∧ (x ≠ low → (val x).Same (val m) → f = 0x3F800000) ∧
       (x ≠ low → ¬ (val x).Same (val m) → f = (fSpecial .exp2 .f32 (fSub .f32 0 x m).bits).bits)
     let z := mergeRecord n a b
     w z 0 = m ∧ z < 2 ^ (32 * n) ∧
     ∀ j, 0 < j → j < n →
       (nan (w a 0) || nan (w b 0) || nan (w a j) || nan (w b j) → w z j = canonNaN .f32) ∧
       ((nan (w a 0) || nan (w b 0) || nan (w a j) || nan (w b j)) = false →
         (w a 0 = low → w b 0 = low → w z j = 0) ∧
         (w a 0 ≠ low ∨ w b 0 ≠ low → ∀ f1 f2, factor (w a 0) f1 → factor (w b 0) f2 →
           w z j = (fAdd .f32 0 (fMul .f32 0 (w a j) f1).bits (fMul .f32 0 (w b j) f2).bits).bits))))

/-- The grammar unit (R247 to R249, R254, R298): a load of a valid descriptor starts all 16 contexts; a step takes the
token's class, then the transition, and pushes or pops one symbol; a reset starts one context again; a mask row holds
the allowed tokens below VOCAB; behind another thread's instruction the unit's order makes one wait (R251). -/
def Obligations.GrammarResults : Prop :=
  ∀ (s : State) (d a b : Sc) (v : VReg) (k : KReg) (pd pa pb : Nat) (g : Grammar) (n : Fin 16),
    s.readable [a, b] = true → Sc.isI d = false → s.calm = true → s.fresh = true →
    let q := s.quadAt (quadOfCore s.core)
    let x := s.sc a
    let tok := (s.sc b).toNat
    let c := q.ctxs.get n
    let cl := s.readN pa 2
    let e := s.readN pb 4
    let sym := e / 2 ^ 14 % 256
    let i : Instr := .gmstep d a b
    let depthOf (l : List Nat) : Nat := match l with
      | [] => 0
      | y :: _ => y + 1
    let ctx (t : State) : GCtx := (t.quadAt (quadOfCore s.core)).ctxs.get n
    let fault (i : Instr) (cause addr info : Nat) : Prop :=
      exec i s = .next ((s.unitLeave (quadOfCore s.core) s.thr.uid).trapped i cause addr info)
    (s.thr.uid ∉ q.gmQ → (∃ u ∈ q.gmQ, s.inUnit (quadOfCore s.core) u = true) →
      ∃ t, exec i s = .next t ∧ t.thr.park = some .unit ∧ t.thr.pc = s.thr.pc ∧
        (t.quadAt (quadOfCore s.core)).gmQ = q.gmQ ++ [s.thr.uid]) ∧
    (q.gmQ = [] →
    (x.toNat % 64 ≠ 0 → fault (.gmload a) 0x06 x.toNat 0) ∧
    (x.toNat % 64 = 0 → s.spans loadA x pd 64 (fun _ => true) →
      (grammarOk (grammarOf (s.readN pd 64)) (s.readN pd 64) = true →
        ∃ t h, exec (.gmload a) s = .next t ∧ Completed (.gmload a) s t ∧
          (t.quadAt (quadOfCore s.core)).grammar = some h ∧ h.vocab = s.readN (pd + 24) 4 ∧
          h.nstate = s.readN (pd + 28) 2 ∧ h.start = s.readN (pd + 36) 2 ∧
          ∀ m : Fin 16, (t.quadAt (quadOfCore s.core)).ctxs.get m = { state := h.start, stack := [] }) ∧
      (s.readN (pd + 24) 4 = 0 ∨ 2 ^ 20 < s.readN (pd + 24) 4 →
        fault (.gmload a) 0x11 x.toNat 1)) ∧
    (16 ≤ x.toNat → fault i 0x11 0 5 ∧
      fault (.gmstepRst d a) 0x11 0 5) ∧
    (x.toNat < 16 → q.grammar = none → fault i 0x11 0 7) ∧
    (x.toNat = n.val → q.grammar = some g →
      (∃ t, exec (.gmstepRst d a) s = .next t ∧ Completed (.gmstepRst d a) s t ∧
        ctx t = { state := g.start, stack := [] } ∧ Gets s t d (BitVec.ofNat 64 g.start)) ∧
      (g.vocab ≤ tok → fault i 0x11 0 4) ∧
      (tok < g.vocab → s.spans loadA (BitVec.ofNat 64 (g.cls + 2 * tok)) pa 2 (fun _ => true) → cl < g.nclass →
        s.spans loadA (BitVec.ofNat 64 (g.trans + 4 * (c.state * g.nclass + cl))) pb 4 (fun _ => true) →
        e % 2 ^ 12 < g.nstate → sym < g.nsym → e / 2 ^ 22 = 0 →
        let goes (stack : List Nat) : Prop := ∃ t, exec i s = .next t ∧ Completed i s t ∧
          ctx t = { state := e % 2 ^ 12, stack := stack } ∧
          Gets s t d (BitVec.ofNat 64 (e % 2 ^ 12 + stack.length * 2 ^ 16 + depthOf stack * 2 ^ 32)) ∧
          ∀ m : Fin 16, m ≠ n → (t.quadAt (quadOfCore s.core)).ctxs.get m = q.ctxs.get m
        (e / 2 ^ 12 % 4 = 0 → goes c.stack) ∧
        (e / 2 ^ 12 % 4 = 1 → c.stack.length ≠ g.depth → goes (sym :: c.stack)) ∧
        (e / 2 ^ 12 % 4 = 1 → c.stack.length = g.depth → fault i 0x0F 0 n.val) ∧
        (e / 2 ^ 12 % 4 = 2 → c.stack = [] → fault i 0x10 0 n.val) ∧
        (e / 2 ^ 12 % 4 = 2 → ∀ l, c.stack = sym :: l → goes l) ∧
        (e / 2 ^ 12 % 4 = 3 → fault i 0x11 (BitVec.ofNat 64 (g.trans + 4 * (c.state * g.nclass + cl))).toNat 3)) ∧
      (q.gmCache = [] →
        let chunks := (g.vocab + 2047) / 2048
        let row (z : Nat) : Word :=
          BitVec.ofNat 64 (g.masks + ((c.state * (g.nsym + 1) + depthOf c.stack) * chunks + z) * 256)
        let on (z : Nat) : Bool := (s.byteAt (pa + z % 2048 / 8)).getLsbD (z % 8) && decide (z < g.vocab)
        (tok < chunks → v.val < s.thr.alot → s.thr.port? v = none →
          s.spans loadA (row tok) pa 256 (fun _ => true) →
          ∃ t, exec (.gmmask v a b) s = .next t ∧ Completed (.gmmask v a b) s t ∧ t.thr.vFull.getLsbD v.val = true ∧
            ∀ z < 2048, (t.thr.v.get v).getLsbD z = on (2048 * tok + z)) ∧
        (tok / 8 < chunks → k ≠ 0 → s.spans loadA (row (tok / 8)) pa 256 (fun _ => true) →
          ∃ t, exec (.gmmaskK k a b) s = .next t ∧ Completed (.gmmaskK k a b) s t ∧
            ∀ z < 256, (t.thr.k.get k).getLsbD z = on (256 * tok + z)) ∧
        (chunks ≤ tok / 8 → fault (.gmmaskK k a b) 0x11 0 6))))

/-- `LAUNCH` (R43 to R46, R306, R307): a descriptor that breaks a condition takes the launch fault with nothing
started; else every core of the rectangle that has a tile starts a thread in slot 0 at KPC with its tile in the
identity registers, and those of every other core stay. A core whose router holds a forwarding entry counts as
occupied (R237). -/
def Obligations.LaunchResults : Prop :=
  ∀ (s : State) (a : Sc) (pa : Nat), s.readable [a] = true → s.calm = true → s.fresh = true →
    let i : Instr := .launch a
    let f (o n : Nat) : Nat := s.readN (pa + o) n
    let w := f 20 2
    let h := f 22 2
    let nr := (f 24 4 + f 32 4 - 1) / f 32 4
    let nc := (f 28 4 + f 36 4 - 1) / f 36 4
    let core (n : Nat) : Nat := coreAtPos (pkgOfCore s.core) (f 16 2 + n % w) (f 18 2 + n / w)
    let ok : Prop := f 44 20 = 0 ∧ f 0 8 % 4 = 0 ∧ w ≠ 0 ∧ h ≠ 0 ∧ f 24 4 ≠ 0 ∧ f 28 4 ≠ 0 ∧ f 32 4 ≠ 0 ∧ f 36 4 ≠ 0 ∧
      f 16 2 + w ≤ 96 ∧ f 18 2 + h ≤ 48 ∧ nr * nc ≤ w * h ∧
      (∀ n < w * h, (s.partOfCore (core n)).isSome = true ∧ s.partOfCore (core n) = s.partOfCore s.core) ∧
      (∀ n < nr * nc, s.thread? (core n * 8) = none ∧ (s.coreAt (core n)).disabled.getLsbD 0 = false ∧
        (s.coreAt (core n)).ovh ≠ 0 ∧ mapGet (s.dieAt (dieOfCore (core n))).forward (core n) = none)
    ((s.sc a).toNat % 64 ≠ 0 → exec i s = .next (s.trapped i 0x06 (s.sc a).toNat 0)) ∧
    ((s.sc a).toNat % 64 = 0 → s.spans loadA (s.sc a) pa 64 (fun _ => true) →
      (¬ ok → exec i s = .next (s.trapped i 0x1F 0 0)) ∧
      (ok → ∃ t, exec i s = .next t ∧ Completed i s t ∧
        (∀ n < nr * nc, ∃ u, t.thread? (core n * 8) = some u ∧ u.pc = BitVec.ofNat 64 (f 0 8) ∧ u.mode = .user ∧
          u.ex = s.newTag ∧ u.alot = 0 ∧ u.park = none ∧
          t.ident (core n) 0 4 = BitVec.ofNat 64 (n / nc * f 32 4) ∧
          t.ident (core n) 0 5 = BitVec.ofNat 64 (n % nc * f 36 4) ∧
          t.ident (core n) 0 6 = BitVec.ofNat 64 (min (f 32 4) (f 24 4 - n / nc * f 32 4)) ∧
          t.ident (core n) 0 7 = BitVec.ofNat 64 (min (f 36 4) (f 28 4 - n % nc * f 36 4)) ∧
          t.ident (core n) 0 8 = BitVec.ofNat 64 (f 8 8) ∧ t.ident (core n) 0 10 = BitVec.ofNat 64 (f 40 4) ∧
          t.ident (core n) 0 11 = BitVec.ofNat 64 (nr * 2 ^ 32 + nc)) ∧
        ∀ c, (∀ n < nr * nc, core n ≠ c) → ∀ j k, t.ident c j k = s.ident c j k))

/-- Trap entry (R222, R225, R226): `TRAP` and `BRK` take their faults; the saved registers, the mode, the frame at
`tvec − 128 + 16·slot` and the pc are as R222 gives them; a delivery to `g15` delays the entry; a fault while TRAPENT
is set is a double fault, which keeps the first trap's registers. -/
def Obligations.TrapEntry : Prop :=
  ∀ (s : State) (n : BitVec 8) (pa : Nat), (s.thread? s.cur).isSome = true → s.calm = true → s.thr.df = false →
    let tvec := (s.coreAt s.core).tvec
    let f : Word := tvec - 128 + BitVec.ofNat 64 (16 * slotOfTid s.cur)
    let entered (t : State) (cause : Nat) (l : Option Latched) (addr info : Word) : Prop :=
      t.thr.tpc = s.thr.pc ∧ t.thr.tcause = BitVec.ofNat 8 cause ∧ t.thr.taddr = addr ∧ t.thr.tinfo = info ∧
      t.thr.latch = l ∧ t.thr.pmode = s.thr.mode ∧ t.thr.mode = .super ∧ t.thr.trapent = true ∧ t.thr.pc = tvec ∧
      t.thr.g.get 15 = f ∧ t.thr.gFull.getLsbD 15 = true ∧ t.thr.hold = none ∧ t.thr.park = none ∧
      (∀ m : Fin 16, m ≠ 15 → t.thr.g.get m = s.thr.g.get m) ∧ t.thr.v = s.thr.v ∧ t.thr.k = s.thr.k ∧
      t.thr.fcsr = s.thr.fcsr ∧
      Stored s t pa 16 ((s.thr.g.get 15).toNat + 2 ^ 64 * (if s.thr.gFull.getLsbD 15 then 1 else 0))
    (s.frameAt s.core f pa → 128 ≤ tvec.toNat → s.thr.gPoison.getLsbD 15 = false → s.thr.trapent = false →
      s.thr.gPend.getLsbD 15 = false →
      (∃ t, exec (.trap n) s = .next t ∧ entered t 0x19 (some (.instr (.trap n))) 0 (BitVec.ofNat 64 n.toNat)) ∧
      (∃ t, exec (.brk n) s = .next t ∧ entered t 0x18 (some (.instr (.brk n))) 0 (BitVec.ofNat 64 n.toNat)) ∧
      (∀ tr l, s.thr.park = some (.trap tr l) →
        ∃ t, exec (.trapEntry s.cur) s = .next t ∧ entered t tr.cause l tr.addr tr.info)) ∧
    (s.thr.trapent = false → s.thr.gPend.getLsbD 15 = true →
      ∃ t, exec (.trap n) s = .next t ∧ t.thr.pc = s.thr.pc ∧ t.thr.trapent = false ∧ (∀ q, t.byteAt q = s.byteAt q) ∧
        t.thr.park = some (.trap (mkTrap 0x19 0 n.toNat) (some (.instr (.trap n))))) ∧
    (s.thr.trapent = true → (s.dieAt (dieOfCore s.core)).log.length < 4096 → ∀ i, i = Instr.trap n ∨ i = Instr.brk n →
      ∃ t, exec i s = .next t ∧ t.thr.df = true ∧ t.thr.park = some .halted ∧
        t.thr.tcause2 = (if i = Instr.trap n then 0x19#8 else 0x18#8) ∧ t.thr.tcause = s.thr.tcause ∧
        t.thr.tpc = s.thr.tpc ∧ t.thr.taddr = s.thr.taddr ∧ t.thr.tinfo = s.thr.tinfo ∧ t.thr.alot = s.thr.alot ∧
        (∀ q, t.byteAt q = s.byteAt q) ∧ ∃ e ∈ (t.dieAt (dieOfCore s.core)).log, e.cause = 0xFF ∧
          e.core = s.core % 2048 ∧ e.slot = slotOfTid s.cur)

/-- The end of a trap (R224): `TRACK` clears TRAPENT, and an end that waited for it takes effect; `TRET` also brings
the mode back from PMODE and goes on with the latched instruction, after it under `.skip`, or at `tpc` when the latch
is empty. -/
def Obligations.TrapReturn : Prop :=
  ∀ s : State, s.readable [] = true → s.thr.mode = .super →
    let back (t : State) (pc : Word) (h : Option Held) : Prop :=
      t.thr.mode = s.thr.pmode ∧ t.thr.trapent = false ∧ t.thr.latch = none ∧ t.thr.pc = pc ∧ t.thr.hold = h ∧
      t.thr.park = none ∧ t.thr.g = s.thr.g ∧ t.thr.fcsr = s.thr.fcsr ∧ (∀ q, t.byteAt q = s.byteAt q)
    (s.thr.doomed = false → exec .track s = .next ((s.setThr { s.thr with trapent := false }).goesOn .track)) ∧
    (s.thr.doomed = true → ∃ t, exec .track s = .next t ∧ t.thread? s.cur = none) ∧
    (s.thr.trapent = true → s.thr.doomed = true →
      (∃ t, exec .tret s = .next t ∧ t.thread? s.cur = none) ∧
      (∃ t, exec .tretSkip s = .next t ∧ t.thread? s.cur = none)) ∧
    (s.thr.trapent = false ∨ s.thr.doomed = false →
      (s.thr.latch = none →
        (∃ t, exec .tret s = .next t ∧ back t s.thr.tpc none) ∧ (∃ t, exec .tretSkip s = .next t ∧ back t s.thr.tpc none)) ∧
      (∀ i, s.thr.latch = some (.instr i) →
        (∃ t, exec .tret s = .next t ∧ back t s.thr.tpc (some { what := .instr i, fromLatch := true })) ∧
        (∃ t, exec .tretSkip s = .next t ∧ back t (s.thr.tpc + BitVec.ofNat 64 (instrLen i)) none)))

/-- The system registers (R73 to R80, R320, R331): what `SRD` reads of each, what `SWR` leaves in each, a user's
access to a supervisor register, a write to a read-only one, and a reserved number. That a reserved number takes the
illegal-operation fault in either mode is deduced (log 64), and so is the time's count of the cycles (log 3). -/
def Obligations.SystemRegisters : Prop :=
  ∀ (s : State) (d a : Sc), s.readable [a] = true → Sc.isI d = false →
    let c := s.coreAt s.core
    let v := s.sc a
    let p := s.partAt s.partNum
    let gets (sys : BitVec 12) (x : Word) : Prop := exec (.srd d sys) s = .next (s.done (.srd d sys) d x)
    let puts (sys : BitVec 12) (t : Thread) : Prop := exec (.swr sys a) s = .next ((s.setThr t).goesOn (.swr sys a))
    let bit (b : Bool) (n : Nat) : Nat := if b then n else 0
    (gets 0x000#12 (s.thr.ex.setWidth 64) ∧ gets 0x001#12 (s.thr.fcsr.setWidth 64) ∧
      gets 0x002#12 (s.thr.mxctl.setWidth 64) ∧ gets 0x003#12 (BitVec.ofNat 64 s.thr.alot) ∧
      gets 0x004#12 s.thr.syncl ∧ gets 0x005#12 (if s.thr.mode = .super then 1 else 0) ∧
      gets 0x020#12 (BitVec.ofNat 64 c.csplit) ∧ gets 0x021#12 (BitVec.ofNat 64 c.ovh) ∧
      gets 0x022#12 (BitVec.ofNat 64 (p.hcause * 2 ^ 17 + bit p.wdEn (2 ^ 16) + p.wdPeriod)) ∧
      exec (.rdtime d) s = .next (s.done (.rdtime d) d (BitVec.ofNat 64 (s.cycle * 4 / 7))) ∧
      puts 0x001#12 { s.thr with fcsr := v.setWidth 10 } ∧ puts 0x002#12 { s.thr with mxctl := v.setWidth 4 } ∧
      puts 0x004#12 { s.thr with syncl := v }) ∧
    (s.thr.mode = .user → ∀ sys : BitVec 12, sys ∈ [0x010#12, 0x011#12, 0x012#12, 0x013#12, 0x014#12, 0x015#12, 0x016#12] →
      exec (.srd d sys) s = .next (s.trapped (.srd d sys) 0x1D 0 0) ∧
      exec (.swr sys a) s = .next (s.trapped (.swr sys a) 0x1D 0 0)) ∧
    (∀ sys : BitVec 12, (5 < sys.toNat ∧ sys.toNat < 16) ∨ (0x16 < sys.toNat ∧ sys.toNat < 0x20) ∨ 0x24 < sys.toNat →
      exec (.srd d sys) s = .next (s.trapped (.srd d sys) 0x01 0 0) ∧
      exec (.swr sys a) s = .next (s.trapped (.swr sys a) 0x01 0 0)) ∧
    (s.thr.mode = .super →
      gets 0x010#12 c.tvec ∧ gets 0x011#12 (s.thr.tcause.setWidth 64) ∧ gets 0x012#12 (s.thr.tcause2.setWidth 64) ∧
      gets 0x013#12 s.thr.taddr ∧ gets 0x014#12 s.thr.tpc ∧ gets 0x015#12 s.thr.tinfo ∧
      gets 0x016#12 (BitVec.ofNat 64 (bit s.thr.df 32 + 4 * s.thr.idepth + bit (s.thr.pmode == .super) 2 +
        bit s.thr.trapent 1)) ∧
      gets 0x023#12 c.hvec ∧ gets 0x024#12 c.mq ∧
      exec (.swr 0x003#12 a) s = .next (s.trapped (.swr 0x003#12 a) 0x05 0 0) ∧
      exec (.swr 0x005#12 a) s = .next (s.trapped (.swr 0x005#12 a) 0x05 0 0) ∧
      exec (.swr 0x010#12 a) s = .next ((s.setCore s.core { c with tvec := v &&& ~~~3#64 }).goesOn (.swr 0x010#12 a)) ∧
      puts 0x011#12 { s.thr with tcause := v.setWidth 8 } ∧ puts 0x012#12 { s.thr with tcause2 := v.setWidth 8 } ∧
      puts 0x013#12 { s.thr with taddr := v } ∧ puts 0x014#12 { s.thr with tpc := v &&& ~~~3#64, latch := none } ∧
      puts 0x015#12 { s.thr with tinfo := v } ∧
      (v.toNat / 4 % 8 ≤ 4 → puts 0x016#12 { s.thr with
        idepth := v.toNat / 4 % 8, pmode := if v.getLsbD 1 then .super else .user }) ∧
      (4 < v.toNat / 4 % 8 → exec (.swr 0x016#12 a) s = .next (s.trapped (.swr 0x016#12 a) 0x01 0 0)) ∧
      (v.toNat % 4096 = 0 → exec (.swrEx a) s = .next ((s.setThr { s.thr with ex := 0 }).goesOn (.swrEx a))) ∧
      (v.toNat % 8 ≤ 6 → c.csplit ≤ 6 → s.slice = [] → s.visitors = [] → s.retry = [] →
        ∃ t, exec (.swrCsplit a) s = .next t ∧ Completed (.swrCsplit a) s t ∧
        (t.coreAt s.core).csplit = v.toNat % 8 ∧
        (∀ q, t.byteAt q = if lsBase s.core + 65536 * min c.csplit (v.toNat % 8) ≤ q ∧
          q < lsBase s.core + 65536 * max c.csplit (v.toNat % 8) then 0 else s.byteAt q)) ∧
      (v.toNat % 8 = 7 → exec (.swrCsplit a) s = .next (s.trapped (.swrCsplit a) 0x01 0 0)) ∧
      ((∃ e < 32, c.slotTab.toNat / 16 ^ e % 16 = 8 + v.toNat % 8) →
        exec (.swrOvh a) s = .next ((s.setCore s.core { c.serveParked with ovh := v.toNat % 8 }).goesOn (.swrOvh a))) ∧
      ((∀ e < 32, c.slotTab.toNat / 16 ^ e % 16 ≠ 8 + v.toNat % 8) →
        exec (.swrOvh a) s = .next (s.trapped (.swrOvh a) 0x1C 0 0)) ∧
      (∃ t, exec (.swrHvec a) s = .next t ∧ Completed (.swrHvec a) s t ∧ (t.coreAt s.core).hvec = v &&& ~~~3#64) ∧
      (v.toNat / 2 ^ 28 % 16 = 0 ∨ (4 ≤ v.toNat / 2 ^ 28 % 16 ∧ v.toNat / 2 ^ 28 % 16 ≤ 10) →
        exec (.swrMq a) s = .next ((s.setCore s.core { c with mq := v &&& 0xF007FFC0#64, mqIndex := 0 }).goesOn (.swrMq a))) ∧
      (1 ≤ v.toNat % 65536 → v.toNat % 65536 ≤ 60000 →
        ∃ t, exec (.swrWdog a) s = .next t ∧ Completed (.swrWdog a) s t ∧ (t.partAt s.partNum).wdEn = v.getLsbD 16 ∧
          (t.partAt s.partNum).wdPeriod = v.toNat % 65536 ∧ (t.partAt s.partNum).hcause = p.hcause) ∧
      (v.toNat % 65536 = 0 ∨ 60000 < v.toNat % 65536 → exec (.swrWdog a) s = .next (s.trapped (.swrWdog a) 0x01 0 0)))

/-- What an instruction may not do (R68, R94, R95, R134): a destination among the identity registers takes the
read-only fault and a supervisor instruction in user mode the privilege fault, before anything else; an address beyond
48 bits, a page without the permission, a supervisor page for a user, a page that is not full/empty-tagged and a
copy-on-write page take their translation faults. That the copy-on-write fault has tinfo 0 is deduced from R227's
table (log 84). -/
def Obligations.AccessChecks : Prop :=
  (∀ (s : State) (i : Instr) (n : Fin 16), (s.thread? s.cur).isSome = true →
    i.scalarDest = some (.i n) ∨ i.otherDest = some (.i n) →
    (∀ d sys, i ≠ .srd d sys) → exec i s = .next (s.trapped i 0x05 0 0)) ∧
  (∀ (s : State) (a b : Sc) (i : Instr), (s.thread? s.cur).isSome = true → s.thr.mode = .user →
    i ∈ [.track, .tret, .tretSkip, .slotw a b, .swrEx a, .swrCsplit a, .swrOvh a, .swrHvec a, .swrMq a, .swrWdog a] →
    exec i s = .next (s.trapped i 0x1D 0 0)) ∧
  (∀ (s : State) (c : Nat) (m : Mode) (x : Access) (va : Word), 2 ^ 48 ≤ va.toNat →
    s.translate c m x va = .error (mkTrap 0x08 va.toNat 7)) ∧
  (∀ (s : State) (c : Nat) (m : Mode) (x : Access) (va : Word) (l : Leaf), va.toNat < 2 ^ 48 →
    s.leafFor c va.toNat = .ok l →
    let e := l.entry
    let pa := e.toNat / 2 ^ 12 % 2 ^ 40 * 4096 + (va.toNat - l.vbase)
    let bad (reason : Nat) : Prop := s.translate c m x va = .error (mkTrap 0x08 va.toNat (reason + 16 * l.level))
    let allowed : Prop := (x.rd = true → e.getLsbD 1 = true) ∧ (x.wr = true → e.getLsbD 2 = true) ∧
      (x.ex = true → e.getLsbD 3 = true)
    isHbm pa = true → (s.pkgAt (pkgOfPa pa)).member = true → e.toNat / 2 ^ 53 % 4 ≠ 2 →
    (m = .user → e.getLsbD 4 = false → bad 5) ∧
    (m = .super ∨ e.getLsbD 4 = true →
      (¬ allowed → bad 4) ∧
      (allowed → x.fe = true → e.getLsbD 63 = false → bad 8) ∧
      (allowed → (x.fe = true → e.getLsbD 63 = true) → x.wr = true → x.laterCow = false → e.getLsbD 62 = true →
        s.translate c m x va = .error (mkTrap 0x0A va.toNat 0)) ∧
      (allowed → (x.fe = true → e.getLsbD 63 = true) → (x.wr = false ∨ e.getLsbD 62 = false) →
        ∃ q, s.translate c m x va = .ok q ∧ q.pa = pa ∧ q.leaf = l)))

/-- What reset leaves (R35, R67, R73 to R80, R112, R260): every package in power-off, no thread, no partition and
nothing in memory; a core's registers at the values that the register descriptions give, and a new thread's. Memory
then has its canonical form. The time and the contents of a byte nothing has written are the model's choices (logs 2
and 3). -/
def Obligations.ResetState : Prop :=
  State.reset.canonical ∧ State.reset.noDoubleFault ∧ (∀ k, State.reset.thread? k = none) ∧
  (∀ p, (State.reset.pkgAt p).powered = false ∧ (State.reset.pkgAt p).bootStep = 0) ∧ (∀ d, State.reset.partOfDie d = none) ∧
  (∀ pa, State.reset.byteAt pa = 0 ∧ State.reset.tagAt pa = false ∧ State.reset.seamAt pa = 0) ∧
  (∀ c, let x := State.reset.coreAt c
    x.tvec = 0 ∧ x.hvec = 0 ∧ x.mq = 0 ∧ x.csplit = 4 ∧ x.ovh = 7 ∧ x.cFull = 0xFFFF ∧ x.disabled = 0 ∧
    (∀ e < 32, x.slotTab.toNat / 16 ^ e % 16 = 8 + e % 8) ∧
    (∀ n : Fin 4, (x.acc.get n).ls = 0 ∧ (x.acc.get n).poison = false ∧ ∀ m : Fin 256, (x.acc.get n).el.get m = 0)) ∧
  (∀ (uid : Nat) (pc : Word) (tag : Tag), let t := Thread.new uid pc tag
    t.pc = pc ∧ t.ex = tag ∧ t.mode = .user ∧ t.trapent = false ∧ t.idepth = 0 ∧ t.fcsr = 0 ∧ t.mxctl = 5 ∧
    t.syncl = 65536 ∧ t.alot = 0 ∧ t.gFull = 0xFFFF ∧ (∀ n, t.g.get n = 0) ∧ ∀ n, t.k.get n = 0)

/-- A step runs the decoded instruction (R34, R94, R224, R238, R251): when a core's issue is chosen, no core below it
in its quad may still issue and it has not had this cycle's issue, the thread picked issues the instruction held
beside it, or the one its bytes at the pc decode to; a step is then `exec` of it, in the state with the thread in
`cur`, the cycle marked as used and the fetched line in the core's instruction cache. An event whose turn it is, is
`exec` of the event. A cycle that passes ends when no event with a moment of its own is due and no core may issue. The
turns, their passing of cycles and the fetch buffer are the model's (logs 1, 62 and 65). The length code of bits [1:0]
is 8, 12 or 16 bytes; 0b11 and a pattern that would pass its 32-byte block are refused, each by its own cause,
whatever the other bits are (R81, R82). -/
def Obligations.StepRunsInstruction : Prop :=
  ((∀ (s : State) (rest : List Turn) (core tid : Nat) (t : Thread) (i : Instr), s.turns = .issue core :: rest →
     (s.coreAt core).playedAt ≠ some s.cycle →
     let s0 : State := { s with turns := rest }
     let s1 : State := (lowerCores core ++ [core]).foldl
       (fun s c => s.updCore c (fun x => { x with playedAt := some s.cycle })) s0
     (∀ c ∈ lowerCores core, s0.mayIssue c = false) →
     s1.pick core = some tid → s.thread? tid = some t → (t.ex.toNat % 4096 = 0 ∨ t.trapent = true) →
     let s2 : State := { s1 with cur := tid }
     (∀ b, t.hold = some { what := .instr i, fromLatch := b } → step s = exec i s2) ∧
     (∀ (p : Phys), t.hold = none → t.fbuf = [] → t.ahead = [] → coreOfTid tid = core →
       mapGet (s.coreAt core).icache (p.pa / 64) = none →
       s.translate core t.mode fetchA t.pc = .ok p → p.pa % 32 = t.pc.toNat % 32 → s.poisoned p.pa 16 = false →
       t.pc.toNat % 32 + 16 ≤ 32 → decode (BitVec.ofNat 128 (s.readN p.pa 16)) = .ok i →
       ∃ u, step s = exec i u ∧ u.cur = tid ∧ u.mem = s.mem ∧ u.slice = s.slice ∧ u.cycle = s.cycle ∧
         u.thread? tid = some { t with fresh := [], fbuf := [(p.pa / 32,
           (BitVec.ofNat 512 (s.readN (p.pa / 64 * 64) 64)).extractLsb' (p.pa % 64 / 32 * 256) 256)] })) ∧
   (∀ (s : State) (rest : List Turn) (i : Instr), s.turns = .event i :: rest → i.cls = .event →
     step s = exec i { s with turns := rest }) ∧
   (∀ (s : State) (rest : List Turn) (n : Nat), s.turns = .tick (n + 1) :: rest →
     let s0 : State := { s with turns := rest }
     (∀ i, s0.timedEvent = some i → step s = exec i s) ∧
     (s0.timedEvent = none → s0.nextCore = none → ∃ t, step s = .next t ∧ t.cycle = s.cycle + 1 ∧
       t.turns = if n = 0 then rest else .tick n :: rest))) ∧
  (∀ (b : BitVec 256) (pc : Word),
     let w : IWord := (b >>> (8 * (pc.toNat % 32))).setWidth 128
     (w.extractLsb' 0 2 = 3#2 → ∃ l, parseBlock b pc = .bad (mkTrap 0x02 0 0) l) ∧
     (∀ n, (w.extractLsb' 0 2 = 0#2 ∧ n = 8) ∨ (w.extractLsb' 0 2 = 1#2 ∧ n = 12) ∨ (w.extractLsb' 0 2 = 2#2 ∧ n = 16) →
       (32 < pc.toNat % 32 + n → ∃ l, parseBlock b pc = .bad (mkTrap 0x03 0 0) l) ∧
       (pc.toNat % 32 + n ≤ 32 → ∀ i, decode w = .ok i → parseBlock b pc = .instr i ∧ instrLen i = n)))

/-- Every step keeps memory in its canonical form, in the pod and in every saved image, and the home slices hold bytes
of HBM only (R3, R150, R233). -/
def Obligations.StepKeepsCanonical : Prop :=
  ∀ s t : State, s.canonical → step s = .next t → t.canonical

/-- What a core's units do on their own (R39 to R42, R47 to R50, R152, R226, R183): writes to shared registers land
with their values; the handler starts at `hvec`; a message enters the queue with its words, its reply is taken or
times out, and without a handler it is refused; a refused spawn runs inline below depth 4, or waits at its target; a
migration is sent again once its target has room; a linear port reads its next vector ahead; a thread in the
double-fault state is ended. That the end of another thread changes nothing, that a refused spawn enters its target's
list at once, and the order of messages and of replies, are the model's choices (logs 8, 34, 49). -/
def Obligations.CoreEvents : Prop :=
  ∀ (s : State) (core tid : Nat),
    let c := s.coreAt core
    let ev (k : Nat) : Instr := match k with
      | 1 => .spawnRequestMessage core
      | 2 => .migrationArrival core
      | 3 => .sharerOverflow core
      | _ => .overflowWrite core
    let a := c.mqAddr core c.mqIndex
    (∃ t, exec (.sharedRegisterWriteLands core) s = .next t ∧ (∀ w ∈ (t.coreAt core).cWrites, s.cycle < w.issued + 8) ∧
      ∀ n : Fin 16, (t.coreAt core).c.get n = s.cVal core n ∧ (t.coreAt core).cFull.getLsbD n.val = s.cFull core n ∧
        (t.coreAt core).cPoison.getLsbD n.val = s.cPois core n) ∧
    (c.hvec ≠ 0 → s.hasHandler core = false → s.coreRuns core = true →
      Nat.max ((c.emptied[c.ovh]?).getD 0) c.hvecAt + Config.nsToCycles 1000 ≤ s.cycle →
      ∃ t h, exec (.handlerThreadStart core) s = .next t ∧ t.thread? (core * 8 + c.ovh) = some h ∧ h.pc = c.hvec ∧
        h.mode = .super ∧ h.ex = 0 ∧ h.alot = 0 ∧ ∀ n, h.g.get n = 0) ∧
    (∀ k m rest, 1 ≤ k → k ≤ 4 → c.mqIn = m :: rest → m.kind = k → s.coreActs core = true → s.calm = true →
      (s.hasHandler core = true → c.mqEntries ≠ 0 → s.tagAt a = false → (∀ e ∈ c.mqOut, e.idx ≠ a) →
        ∃ t, exec (ev k) s = .next t ∧ t.readN a 8 = k ∧ t.tagAt a = true ∧ t.tagAt (a + 8) = false ∧
          (∀ j < 6, t.readN (a + 16 + 8 * j) 8 = ((m.words[j]?).getD 0) % 2 ^ 64) ∧ (t.coreAt core).mqIn = rest ∧
          (t.coreAt core).mqIndex = c.mqIndex + 1 ∧
          (k ≠ 3 → (t.coreAt core).mqOut = c.mqOut ++ [{ idx := a, msg := m, since := s.cycle }])) ∧
      (s.hasHandler core = false → k ≤ 2 → m.remote = false →
        (s.waits tid m.who .spawn → ∃ t u, exec (ev k) s = .next t ∧ t.thread? tid = some u ∧ u.park = some .refused) ∧
        (∀ b, s.waits tid m.who (.migr b) →
          ∃ t u, exec (ev k) s = .next t ∧ t.thread? tid = some u ∧ u.park = some (.migr true))) ∧
      (s.hasHandler core = false → k = 3 → ∀ d, mapGet s.dirs (m.line / 64) = some d →
        ∃ t, exec (ev k) s = .next t ∧ mapGet t.dirs (m.line / 64) = some { d with bcast := true }) ∧
      (s.hasHandler core = false → k = 4 → ∃ t, exec (ev k) s = .next t ∧ mapGet t.dirs (m.line / 64) = none)) ∧
    (∀ e rest, c.mqOut = e :: rest → s.coreActs core = true →
      (s.tagAt (e.idx + 8) = true → e.msg.kind ≠ 4 → s.readN (e.idx + 8) 8 = 1 → ∀ j, s.freeSlot core = some j →
        (∀ x src pc tag g, e.msg.req = .spawn x src pc tag g →
          ∃ t h, exec (.messageReplyTaken core) s = .next t ∧ t.thread? (core * 8 + j) = some h ∧ h.pc = pc ∧
            h.ex = tag ∧ (∀ n : Fin 16, h.g.get n = (g[n.val]?).getD 0) ∧ (t.coreAt core).mqOut = rest) ∧
        (∀ x src ctx from_ old, e.msg.req = .migr x src ctx → s.tidOf ctx.uid = some from_ → s.thread? from_ = some old →
          (∃ b, old.park = some (.migr b)) → from_ ≠ core * 8 + j →
          ∃ t h, exec (.messageReplyTaken core) s = .next t ∧ t.thread? (core * 8 + j) = some h ∧ h.uid = ctx.uid ∧
            h.pc = ctx.pc ∧ h.g = ctx.g ∧ h.mode = ctx.mode ∧ h.ex = ctx.ex ∧ h.fcsr = ctx.fcsr ∧ h.alot = 0 ∧
            t.thread? from_ = none)) ∧
      (s.tagAt (e.idx + 8) = true → e.msg.kind = 4 → s.namedSharers e.idx (s.readN (e.idx + 8) 8) = none →
        ∃ t, exec (.messageReplyTaken core) s = .next t ∧ mapGet t.dirs (e.msg.line / 64) = none) ∧
      (s.tagAt (e.idx + 8) = true → e.msg.kind ≠ 4 → s.readN (e.idx + 8) 8 ≠ 1 → e.msg.remote = false →
        s.waits tid e.msg.who .spawn →
        ∃ t u, exec (.messageReplyTaken core) s = .next t ∧ t.thread? tid = some u ∧ u.park = some .refused) ∧
      (s.tagAt (e.idx + 8) = false → e.since + Config.nsToCycles 100000 ≤ s.cycle →
        (e.msg.kind ≠ 4 → e.msg.remote = false → s.waits tid e.msg.who .spawn →
          ∃ t u, exec (.messageReplyTimeout core) s = .next t ∧ t.thread? tid = some u ∧ u.park = some .refused) ∧
        (e.msg.kind = 4 → ∃ t, exec (.messageReplyTimeout core) s = .next t ∧ mapGet t.dirs (e.msg.line / 64) = none))) ∧
    (∀ h, s.thread? tid = some h →
      (∀ x src pc tag g, h.park = some .refused → h.refusedReq = some (.spawn x src pc tag g) →
        (h.idepth < 4 → h.trapent = false → ∃ t u, exec (.spawnRefused tid) s = .next t ∧ t.thread? tid = some u ∧
          u.pc = pc ∧ u.idepth = h.idepth + 1 ∧ u.g.get 15 = h.pc + 8 ∧ u.park = none ∧
          ∀ n : Fin 16, n ≠ 15 → u.g.get n = h.g.get n) ∧
        (4 ≤ h.idepth ∨ h.trapent = true → ∃ t u, exec (.spawnRefused tid) s = .next t ∧ t.thread? tid = some u ∧
          u.park = some .spawnParked ∧ u.pc = h.pc ∧
          ∃ m ∈ (t.coreAt (s.forwardCore x)).parked, m.who = .thread h.uid ∧ m.req = .spawn x src pc tag g)) ∧
      (∀ x src ctx, h.park = some (.migr true) → h.refusedReq = some (.migr x src ctx) →
        (s.freeSlot (s.forwardCore x)).isSome = true → s.hasHandler (s.forwardCore x) = true →
        (s.coreAt (s.forwardCore x)).mqEntries ≠ 0 →
        ∃ t u, exec (.migrationResend tid) s = .next t ∧ t.thread? tid = some u ∧ u.park = none ∧ u.mail = [] ∧ u.pc = h.pc) ∧
      (∀ (v : VReg) (p : Port) (w : Nat), h.port? v = some p → p.kind = 0 → p.ahead.length < 4 →
        let q : Port := { p with m := p.m + p.ahead.length }
        let n := Nat.min p.ty.lanes (p.count - q.m * p.ty.lanes) * p.ty.bits / 8
        q.m * p.ty.lanes < p.count → s.peekSpan (coreOfTid tid) h (pieces (linearAddr q) (n + 1) n) = some w →
        ∃ t u r, exec (.streamReadAhead tid v) s = .next t ∧ t.thread? tid = some u ∧ u.port? v = some r ∧ r.m = p.m ∧
          r.ahead = p.ahead ++ [BitVec.ofNat 2048 w]) ∧
      (h.df = true → ∃ t, exec (.managementThreadEnd tid) s = .next t ∧ t.thread? tid = none) ∧
      (h.df = false → exec (.managementThreadEnd tid) s = .next s)) ∧
    (let q := s.quadAt core
     ∀ k st y sl, q.dispatchedAt ≠ some s.cycle → q.nextTask? s.cycle = some (k, st) → s.quadSlot core = some (y, sl) →
      k.run = none ∧ k.since < s.cycle ∧ q.shown &&& k.kw = k.kw ∧
      (q.streak < 15 → ∀ x ∈ q.readyTasks s.cycle, k.pri ≤ x.pri) ∧
      ∃ t h, exec (.taskDispatch core) s = .next t ∧ t.thread? (y * 8 + sl) = some h ∧ h.pc = k.pc ∧ h.ex = k.exp ∧
        (∀ n : Fin 16, h.g.get n = (k.args[n.val]?).getD 0) ∧ h.task = some (core, k.serial) ∧
        (t.quadAt core).dispatchedAt = some s.cycle ∧ ∃ x ∈ (t.quadAt core).tasks, x = { k with run := some h.uid })

/-- Power and heat (R58 to R61) and the migration of a core (R236, R237): grants take effect when they keep to the
limits, and give back at most one slot of a cool core of each die; a slot to shed is the highest that may go, on the
core with the most; a thread in a disabled slot moves to a cooler core with all it holds; a core that may move, with
its queues empty, moves with its threads, registers and local store, and leaves a forwarding entry. That an event
without cause changes nothing, the comparison with the grant in force, the 1 μs between disables, and the core's move
in one action are the model's choices (logs 8, 51, 53). -/
def Obligations.PowerEvents : Prop :=
  ∀ (s : State) (pkg die core tid avg : Nat) (grants avgs cool cores : List Nat) (reserve src dst : Nat),
    let ok := grants.length = 4 ∧ avgs.length = 4 ∧ (∀ g ∈ grants, 350 ≤ g) ∧ grants.foldl (· + ·) reserve ≤ 4200
    let shed (c : Core) (j : Nat) : Prop := j < 8 ∧ j ≠ 0 ∧ j ≠ c.ovh ∧ c.disabled.getLsbD j = false ∧
      ∀ l < 8, j < l → l = c.ovh ∨ c.disabled.getLsbD l = true
    let c := s.coreAt src
    (ok → (∀ b, (s.pkgAt pkg).grantAt = some b → b + Config.nsToCycles 10000 ≤ s.cycle) →
      ∃ t, exec (.powerGrant pkg grants avgs reserve cool) s = .next t ∧ (t.pkgAt pkg).grantAt = some s.cycle ∧
        ∀ j < 4, (t.dieAt (pkg * 4 + j)).grant = (grants[j]?).getD 0 ∧
          (∀ x l, 100 * (avgs[j]?).getD 0 ≤ 95 * (s.dieAt (pkg * 4 + j)).grant →
            s.enableNext (pkg * 4 + j) cool = some (x, l) → (t.coreAt x).disabled = clrBit (s.coreAt x).disabled l) ∧
          (95 * (s.dieAt (pkg * 4 + j)).grant < 100 * (avgs[j]?).getD 0 →
            ∀ x ∈ dieCores (pkg * 4 + j), t.coreAt x = s.coreAt x)) ∧
    (¬ ok → exec (.powerGrant pkg grants avgs reserve cool) s = .next s) ∧
    ((s.dieAt die).grant < avg → microPassed s.cycle (s.dieAt die).disableAt = true →
      (∃ x ∈ dieCores die, (s.coreAt x).shedSlot.isSome = true) →
      ∃ t x j, exec (.currentSlotDisable die avg) s = .next t ∧ x ∈ dieCores die ∧ shed (s.coreAt x) j ∧
        (∀ y ∈ dieCores die, (s.coreAt y).shedSlot.isSome = true → enabledSlots (s.coreAt y) ≤ enabledSlots (s.coreAt x)) ∧
        t.coreAt x = { s.coreAt x with disabled := setBit (s.coreAt x).disabled j } ∧
        (∀ y, y ≠ x → t.coreAt y = s.coreAt y) ∧ (t.dieAt die).disableAt = some s.cycle) ∧
    (avg ≤ (s.dieAt die).grant → exec (.currentSlotDisable die avg) s = .next s) ∧
    (microPassed s.cycle (s.coreAt core).heatAt = true → (s.coreAt core).shedSlot.isSome = true →
      ∃ t j, exec (.thermalSlotDisable core) s = .next t ∧ shed (s.coreAt core) j ∧
        (t.coreAt core).disabled = setBit (s.coreAt core).disabled j ∧ (t.coreAt core).heatAt = some s.cycle) ∧
    (∃ t, exec (.thermalRankingTableWrite die cores) s = .next t ∧ (t.dieAt die).ranking = cores.take 64) ∧
    (∀ h x j, s.thread? tid = some h → (s.coreAt (coreOfTid tid)).disabled.getLsbD (slotOfTid tid) = true →
      s.coreRuns (coreOfTid tid) = true → s.mayLeave (coreOfTid tid) h = true →
      s.coolCore (dieOfCore (coreOfTid tid)) h.alot = some (x, j) →
      ∃ t u, exec (.hardwareDisplacement tid) s = .next t ∧ t.thread? tid = none ∧ t.thread? (x * 8 + j) = some u ∧
        u.uid = h.uid ∧ u.pc = h.pc ∧ u.g = h.g ∧ u.gFull = h.gFull ∧ u.v = h.v ∧ u.k = h.k ∧ u.ex = h.ex ∧
        u.alot = h.alot ∧ u.mode = h.mode ∧ u.ports = h.ports ∧ u.hold = h.hold) ∧
    (c.moving = none → s.mayMove src dst = false → exec (.coreMigrationRequest src dst) s = .next s) ∧
    (c.moving = none → s.mayMove src dst = true → c.drained = false →
      exec (.coreMigrationRequest src dst) s = .next (s.updCore src (fun c => { c with moving := some dst }))) ∧
    (c.moving = none ∨ c.moving = some dst → s.mayMove src dst = true → c.drained = true → s.canonical →
      s.visitors = [] → s.retry = [] → c.csplit ≤ 6 → (s.coreAt dst).csplit ≤ 6 →
      ∃ t, exec (.coreMigrationRequest src dst) s = .next t ∧
        (∀ j < 8, t.thread? (src * 8 + j) = none ∧ ∀ h, s.thread? (src * 8 + j) = some h →
          ∃ u, t.thread? (dst * 8 + j) = some u ∧ u.uid = h.uid ∧ u.pc = h.pc ∧ u.g = h.g ∧ u.v = h.v ∧ u.k = h.k ∧
            u.ex = h.ex ∧ u.alot = h.alot ∧ u.mode = h.mode) ∧
        (t.coreAt dst).c = c.c ∧ (t.coreAt dst).tvec = c.tvec ∧ (t.coreAt dst).hvec = c.hvec ∧
        (t.coreAt dst).mq = c.mq ∧ (t.coreAt dst).acc = c.acc ∧ (t.coreAt dst).csplit = c.csplit ∧
        (∀ o < 65536 * c.csplit, t.byteAt (lsBase dst + o) = s.byteAt (lsBase src + o)) ∧
        mapGet (t.dieAt (dieOfCore src)).forward src = some dst) ∧
    (∃ t, exec (.forwardingEntryClear src) s = .next t ∧ mapGet (t.dieAt (dieOfCore src)).forward src = none)

/-- The matrix unit's steps (R106, R111, R115 to R117, R119): a waiting command takes a free entry, among those of its
cycle in the order of the slots; an accepted command may read single words of its operands early, each once (R116,
R148); the running command computes its tile from those words and the lines as memory holds them (each active element
of an `MMA` is one rounding of the windowed sum of the accumulator and all products); on completion the tile, or the
bytes of a store, are written. The turn of an early read, and that a tile is read at execution and written at
completion, are the model's (log 37). -/
def Obligations.MatrixEvents : Prop :=
  ∀ (s : State) (core : Nat),
    let c := s.coreAt core
    let plain (l : List MxLine) : Prop := ∀ m ∈ l, m.visits = false ∧ m.fmt = 0 ∧ m.pa % 64 = 0 ∧
      pkgOfPa m.pa = pkgOfCore core ∧ s.refuses core m.pa = false ∧ s.poisoned m.pa 64 = false
    let word (cmd : MxCmd) (pa : Nat) : Nat := match cmd.early.find? (fun e => e.1 == pa / 8) with
      | some e => e.2.toNat
      | none => s.readN pa 8
    let elem (cmd : MxCmd) (l : List MxLine) (t : ETy) (e : Nat) : Nat := match l[e * t.bits / 512]? with
      | some m => word cmd (m.pa + e * t.bits % 512 / 64 * 8) / 2 ^ (e * t.bits % 64) % 2 ^ t.bits
      | none => 0
    (∀ x cmd, c.mxWait = [(x, cmd)] → c.mxQ.length + (if c.mxRun.isSome then 1 else 0) < 16 →
      ∃ t, exec (.matrixCommandAccept core) s = .next t ∧
        TakesPlace (fun y : MxCmd => y.at_ = s.cycle ∧ cmd.slot < y.slot) c.mxQ (t.coreAt core).mxQ { cmd with at_ := s.cycle } ∧
        (t.coreAt core).mxWait = [] ∧ ∀ tid h, s.tidOf cmd.uid = some tid → s.thread? tid = some h →
          h.park = some .mxQueue → ∃ u, t.thread? tid = some u ∧ u.park = none) ∧
    (∀ cmd rest, c.mxRun = none → c.mxQ = cmd :: rest → (cmd.early.map (fun e => e.1)).Nodup →
      (∀ n k, cmd.op = .zero n k → ∃ t r x, exec (.matrixCommandExecute core) s = .next t ∧ (t.coreAt core).mxQ = rest ∧
        (t.coreAt core).mxRun = some r ∧ r.cmd = cmd ∧ r.done = true ∧ r.tile = some (n, x) ∧ x.poison = false ∧
        x.ls = (c.acc.get n).ls &&& ~~~k ∧
        ∀ m : Fin 256, x.el.get m = if k.getLsbD m.val then 0 else (c.acc.get n).el.get m) ∧
      (∀ n l k, cmd.op = .load n l k → l.length = 16 → plain l →
        ∃ t r x, exec (.matrixCommandExecute core) s = .next t ∧ (t.coreAt core).mxQ = rest ∧
          (t.coreAt core).mxRun = some r ∧ r.cmd = cmd ∧ r.done = true ∧ r.tile = some (n, x) ∧ x.poison = false ∧
          x.ls = (c.acc.get n).ls &&& ~~~k ∧
          ∀ m : Fin 256, x.el.get m =
            if k.getLsbD m.val then BitVec.ofNat 32 (elem cmd l .f32 m.val) else (c.acc.get n).el.get m) ∧
      (∀ n fa fb la lb depth k win rz, cmd.op = .mma n fa fb la lb depth k win rz → la ≠ [] → lb ≠ [] → plain la →
        plain lb →
        ∃ t r x, exec (.matrixCommandExecute core) s = .next t ∧ (t.coreAt core).mxRun = some r ∧ r.cmd = cmd ∧
          r.done = true ∧ r.tile = some (n, x) ∧ x.poison = (c.acc.get n).poison ∧
          ∀ m : Fin 256,
            let acc := valOf .f32 false ((c.acc.get n).el.get m).toNat
            let ts := (List.range depth).flatMap (fun e =>
              products fb (valOf fa false (elem cmd la fa (m.val / 16 * depth + e)))
                (elem cmd lb fb (m.val % 16 * depth + e), none))
            let sum := winSum (if rz then 1 else 0) win (acc :: ts)
            x.el.get m = (if k.getLsbD m.val then BitVec.ofNat 32 (roundEx .f32 (if rz then 1 else 0) false sum.1).bits
              else (c.acc.get n).el.get m) ∧
            x.ls.getLsbD m.val = ((c.acc.get n).ls.getLsbD m.val || (k.getLsbD m.val && sum.2)))) ∧
    (∀ rest n m j pa cmd, s.turns = .matrixRead core n pa :: rest → m ∈ cmd.op.reads → plain cmd.op.reads → j < 8 →
      pa = m.pa + 8 * j → pa / 8 ∉ cmd.early.map (fun e => e.1) →
      let read : MxCmd := { cmd with early := cmd.early ++ [(pa / 8, BitVec.ofNat 64 (s.readN pa 8))] }
      (∀ r, c.mxRun = some r → r.done = false → r.cmd = cmd → n = 0 → ∃ t, step s = .next t ∧ t.turns = rest ∧
        (t.coreAt core).mxRun = some { r with cmd := read } ∧ (t.coreAt core).mxQ = c.mxQ) ∧
      (∀ r l l', c.mxRun = some r → c.mxQ = l ++ cmd :: l' → n = l.length + 1 → ∃ t, step s = .next t ∧ t.turns = rest ∧
        (t.coreAt core).mxRun = some r ∧ (t.coreAt core).mxQ = l ++ read :: l')) ∧
    (∀ r, c.mxRun = some r → r.done = true →
      (∀ n x, r.tile = some (n, x) → (∀ m t z l k q, r.cmd.op ≠ .store m t z l k q) →
        ∃ t, exec (.matrixCommandComplete core) s = .next t ∧ (t.coreAt core).mxRun = none ∧
          (t.coreAt core).acc = c.acc.set n x ∧ ∀ a, t.byteAt a = s.byteAt a) ∧
      (∀ n ty z l k q, r.cmd.op = .store n ty z l k q → r.tile = none → (c.acc.get n).poison = false → s.calm = true →
        c.mxMail = [] → (∀ o ∈ c.reqs, o.who ≠ .matrix core) → ((r.cells.flatMap (fun e => e.2)).map (fun x => x.1)).Nodup →
        (∀ e ∈ r.cells, ∃ m, l[e.1]? = some m ∧ m.visits = false ∧ pkgOfPa m.pa = pkgOfCore core ∧
          ∀ x ∈ e.2, s.refuses core x.1 = false) →
        ∃ t, exec (.matrixCommandComplete core) s = .next t ∧ (t.coreAt core).mxRun = none ∧
          (t.coreAt core).acc = c.acc ∧
          ∀ a, t.byteAt a = (mapGet (r.cells.flatMap (fun e => e.2)) a).getD (s.byteAt a)))

/-- The copy channel's steps (R137, R138, R141, R142, R145): a waiting command takes a free entry, among those of its
cycle in the order of the slots; the channel of a core in RUN starts a command and moves one destination line a step,
an atomic form's as one action element by element; fills and gathers read their source, and a gather its table, when
they reach it; a completion writes the record, fills its word and delivers the fill; a refused destination defers the
command until it is back in RUN. The parts of an append (R143): an entry of the table is read, a hole or a shared
block takes a fresh one from the ring, whose count becomes 1; the lines of a shared block are copied; the entry is
rewritten and the old block's count lowered; the block is read again and the new entry copied line by line; LEN is
written when all are done. An empty ring ends the command with the engine-command fault. -/
def Obligations.CopyEvents : Prop :=
  (∀ (s : State) (core : Nat), s.calm = true → mapRising s.threads = true →
     let c := s.coreAt core
     (∀ x cmd, c.cpWait = [(x, cmd)] → c.cpRoom = true →
       ∃ t, exec (.copyCommandAccept core) s = .next t ∧
         TakesPlace (fun y : CpCmd => y.at_ = s.cycle ∧ cmd.slot < y.slot) c.cpQ (t.coreAt core).cpQ { cmd with at_ := s.cycle } ∧
         (t.coreAt core).cpWait = [] ∧ t.tagAt cmd.record = false ∧
         ∀ tid h, s.tidOf cmd.uid = some tid → s.thread? tid = some h → h.park = some .cpQueue →
           ∃ u, t.thread? tid = some u ∧ u.park = none) ∧
     (∀ cmd rest, s.coreRuns core = true → c.cpRun = none → c.cpQ = cmd :: rest →
       ∃ t, exec (.copyCommandExecute core) s = .next t ∧ (t.coreAt core).cpRun = some (newRun cmd) ∧
         (t.coreAt core).cpQ = rest ∧ ∀ a, t.byteAt a = s.byteAt a) ∧
     (∀ r, s.coreRuns core = true → c.cpRun = some r → r.status = none → r.deferred = false → r.annul = false →
       c.cpMail = [] → (∀ o ∈ c.reqs, o.who ≠ .channel core) →
       let m := r.cmd.mode
       let advanced (q : CpRun) (dst n size : Nat) : Prop := q.pos = r.pos + n ∧
         q.status = (if r.pos + n = size then some (1, 0, 0) else none) ∧
         q.progress = (if (dst + r.pos + n) % 64 = 0 ∨ r.pos + n = size then r.progress + 1 else r.progress)
       (∀ dst src size seam pa pb, r.cmd.op = .cpy dst src size seam → r.pos < size →
         let n := lineLen dst r.pos size
         s.unitSpans core m loadA (src + r.pos) pa n → s.unitSpans core m storeA (dst + r.pos) pb n →
         ∃ t q, exec (.copyCommandExecute core) s = .next t ∧ Stored s t pb n (s.readN pa n) ∧
           (t.coreAt core).cpRun = some q ∧ advanced q dst n size) ∧
       (∀ op ty dst src size seam pa pb, r.cmd.op = .atomic op ty dst src size seam → op ≠ .copy →
         ty ∈ [ETy.f32, .bf16, .f16, .i32] → dst % 64 = 0 → src % 64 = 0 → r.pos % 64 = 0 → r.pos + 64 ≤ size →
         s.unitSpans core m loadA (src + r.pos) pa 64 → s.unitSpans core m amoA (dst + r.pos) pb 64 →
         let w := ty.bits / 8
         let elem (x y : Nat) : Nat := match op with
           | .add => if ty = .i32 then (x + y) % 2 ^ 32 else (fAdd ty 0 x y).bits
           | .max => reduceElem .max ty [x, y]
           | _ => reduceElem .min ty [x, y]
         ∃ t q, exec (.copyCommandExecute core) s = .next t ∧
           (∀ j, j * w < 64 → t.readN (pb + j * w) w = elem (s.readN (pb + j * w) w) (s.readN (pa + j * w) w)) ∧
           (∀ a, ¬ (pb ≤ a ∧ a < pb + 64) → t.byteAt a = s.byteAt a) ∧
           (t.coreAt core).cpRun = some q ∧ advanced q dst 64 size) ∧
       (∀ d src pa, r.cmd.op = .rfg d src → s.unitSpans core m loadA src pa 8 →
         ∃ t q, exec (.copyCommandExecute core) s = .next t ∧ (t.coreAt core).cpRun = some q ∧
           q.status = some (1, 0, 0) ∧ q.fill = s.readN pa 8) ∧
       (∀ v src pa, r.cmd.op = .rfv v src → s.fillPort r.cmd v = none → s.unitSpans core m loadA src pa 256 →
         ∃ t q, exec (.copyCommandExecute core) s = .next t ∧ (t.coreAt core).cpRun = some q ∧
           q.status = some (1, 0, 0) ∧ q.fill = s.readN pa 256) ∧
       (∀ dst table pool count bsh seam e1 e2 p1 p2 pb, r.cmd.op = .cpgb dst table pool count bsh seam → 6 ≤ bsh →
         r.pos < count * 2 ^ bsh →
         let n := lineLen dst r.pos (count * 2 ^ bsh)
         let j := r.pos / 2 ^ bsh
         let o := r.pos % 2 ^ bsh
         let n1 := min n (2 ^ bsh - o)
         let fetched (j e : Nat) : Prop := ∃ pt, s.unitSpans core m loadA (table + 4 * j) pt 4 ∧ e = s.readN pt 4
         let bytes (e o k p : Nat) : Prop :=
           e % 2 ^ 31 = 0x7FFFFFFF ∨ s.unitSpans core m loadA (pool + e % 2 ^ 31 * 2 ^ bsh + o) p k
         let val (e k p : Nat) : Nat := if e % 2 ^ 31 = 0x7FFFFFFF then 0 else s.readN p k
         (r.entry = j + 1 ∧ r.tmp = some e1) ∨ (r.entry ≠ j + 1 ∧ fetched j e1) → bytes e1 o n1 p1 →
         (n1 < n → fetched (j + 1) e2 ∧ bytes e2 0 (n - n1) p2) → s.unitSpans core m storeA (dst + r.pos) pb n →
         ∃ t q, exec (.copyCommandExecute core) s = .next t ∧
           Stored s t pb n (val e1 n1 p1 + 2 ^ (8 * n1) * (if n1 < n then val e2 (n - n1) p2 else 0)) ∧
           (t.coreAt core).cpRun = some q ∧ advanced q dst n (count * 2 ^ bsh) ∧
           q.entry = (if n1 < n then j + 2 else j + 1) ∧ q.tmp = some (if n1 < n then e2 else e1))) ∧
     (∀ r st cause detail, s.coreRuns core = true → c.cpRun = some r → r.status = some (st, cause, detail) → st < 256 →
       cause < 256 →
       ∃ t, exec (.copyCommandComplete core) s = .next t ∧ (t.coreAt core).cpRun = none ∧
         t.readN r.cmd.record 8 = st + 2 ^ 8 * cause + 2 ^ 16 * (r.progress % 2 ^ 32) ∧
         t.readN (r.cmd.record + 8) 8 = detail % 2 ^ 64 ∧ t.readN (r.cmd.record + 16) 16 = 0 ∧
         t.tagAt r.cmd.record = true ∧
         ∀ tid h, s.tidOf r.cmd.uid = some tid → s.thread? tid = some h → r.cmd.drop = false →
           (∀ (n : Fin 16) src, r.cmd.op = .rfg (.g n) src →
             ∃ u, t.thread? tid = some u ∧ u.gFull.getLsbD n.val = true ∧
               u.g.get n = BitVec.ofNat 64 (if st = 1 then r.fill else 0)) ∧
           (∀ v src, r.cmd.op = .rfv v src → h.port? v = none → v.val < h.alot →
             ∃ u, t.thread? tid = some u ∧ u.vFull.getLsbD v.val = true ∧
               u.v.get v = BitVec.ofNat 2048 (if st = 1 then r.fill else 0))) ∧
     (∀ r, c.cpRun = some r → r.status = none →
       (s.coreRuns core = true → r.deferred = false → r.annul = false → s.cpRefused core r = true →
         ∃ t, exec (.copyDeferred core) s = .next t ∧ (t.coreAt core).cpRun = some { r with deferred := true } ∧
           t.readN r.cmd.record 8 = 4 + 2 ^ 16 * (r.progress % 2 ^ 32) ∧ t.tagAt r.cmd.record = s.tagAt r.cmd.record) ∧
       (r.deferred = true → s.cpRefused core r = false →
         ∃ t, exec (.copyResume core) s = .next t ∧ (t.coreAt core).cpRun = some { r with deferred := false }))) ∧
  (∀ (s : State) (core : Nat) (r : CpRun) (desc table pool ring refc len new bsh esh src t b pa pb : Nat),
     s.calm = true → mapRising s.threads = true → s.coreRuns core = true → (s.coreAt core).cpRun = some r →
     r.status = none → r.deferred = false → r.annul = false → (s.coreAt core).cpMail = [] →
     (∀ o ∈ (s.coreAt core).reqs, o.who ≠ .channel core) →
     r.cmd.op = .kvapp desc table pool ring refc len new bsh esh src → r.tmp.getD 0 = t → r.popped.getD 0 = b →
     let spans := s.unitSpans core r.cmd.mode
     let epb := 2 ^ (bsh - esh)
     let slot := (len + r.entry) % epb
     let entry := table + 4 * ((len + r.entry) / epb)
     let hole (x : Nat) : Prop := x % 2 ^ 31 = 0x7FFFFFFF
     let becomes (u : State) (q : CpRun) : Prop := exec (.copyCommandExecute core) s = .next u ∧ (u.coreAt core).cpRun = some q
     let same (u : State) : Prop := ∀ a, u.byteAt a = s.byteAt a
     (r.phase = 0 → r.entry ≠ new → spans loadA entry pa 4 →
       let x := s.readN pa 4
       ∃ u, same u ∧ (hole x ∨ x / 2 ^ 31 = 1 → becomes u { r with tmp := some x, phase := 1, pos := 0 }) ∧
         (¬ hole x → x / 2 ^ 31 = 0 → becomes u { r with tmp := some x, phase := 9, pos := 0 })) ∧
     (r.phase = 1 → spans amoA ring pa 16 →
       let head := s.readN pa 4
       let size := s.readN (pa + 8) 4
       (head = s.readN (pa + 4) 4 → ∃ u q, same u ∧ becomes u q ∧ q.status = some (3, 0x17, r.popped.getD 0)) ∧
       (head ≠ s.readN (pa + 4) 4 → size ≠ 0 → spans loadA (ring + 16 + 4 * (head % size)) pb 4 →
         ∃ u, Stored s u pa 4 ((head + 1) % 2 ^ 32) ∧ becomes u { r with popped := some (s.readN pb 4), phase := 2 })) ∧
     (r.phase = 2 → spans storeA (refc + 4 * b) pb 4 → ∃ u, Stored s u pb 4 1 ∧
       (hole t → becomes u { r with phase := 4, pos := 0 }) ∧ (¬ hole t → becomes u { r with phase := 3, pos := 0 })) ∧
     (r.phase = 3 →
       (r.pos = slot * 2 ^ esh → ∃ u, same u ∧ becomes u { r with phase := 4 }) ∧
       (r.pos < slot * 2 ^ esh →
         let n := lineLen (pool + b * 2 ^ bsh) r.pos (slot * 2 ^ esh)
         spans loadA (pool + t % 2 ^ 31 * 2 ^ bsh + r.pos) pa n → spans storeA (pool + b * 2 ^ bsh + r.pos) pb n →
         ∃ u, Stored s u pb n (s.readN pa n) ∧ becomes u { r with pos := r.pos + n })) ∧
     (r.phase = 4 → spans storeA entry pb 4 → ∃ u, Stored s u pb 4 b ∧
       (hole t → becomes u { r with phase := 9, popped := none }) ∧ (¬ hole t → becomes u { r with phase := 5 })) ∧
     (r.phase = 5 → (refc + 4 * (t % 2 ^ 31)) % 4 = 0 → spans amoA (refc + 4 * (t % 2 ^ 31)) pb 4 →
       ∃ u, Stored s u pb 4 ((s.readN pb 4 + 2 ^ 32 - 1) % 2 ^ 32) ∧ becomes u { r with phase := 9, popped := none }) ∧
     (r.phase = 9 → spans loadA entry pa 4 →
       ∃ u, same u ∧ becomes u { r with tmp := some (s.readN pa 4 % 2 ^ 31), phase := 10, pos := 0 }) ∧
     (r.phase = 10 → r.pos < 2 ^ esh →
       let dst := pool + t * 2 ^ bsh + slot * 2 ^ esh
       let n := lineLen dst r.pos (2 ^ esh)
       spans loadA (src + r.entry * 2 ^ esh + r.pos) pa n → spans storeA (dst + r.pos) pb n →
       ∃ u q, Stored s u pb n (s.readN pa n) ∧ becomes u q ∧
         q.progress = (if (dst + r.pos + n) % 64 = 0 ∨ r.pos + n = 2 ^ esh then r.progress + 1 else r.progress) ∧
         (if r.pos + n = 2 ^ esh then q.entry = r.entry + 1 ∧ q.phase = 0 ∧ q.pos = 0
           else q.entry = r.entry ∧ q.phase = 10 ∧ q.pos = r.pos + n)) ∧
     (r.phase = 0 → r.entry = new → spans storeA (desc + 32) pb 4 →
       ∃ u q, Stored s u pb 4 ((len + new) % 2 ^ 32) ∧ becomes u q ∧ q.status = some (1, 0, 0)))

/-- The walkers and the translation maintenance block (R130 to R135): a walk enters its leaf in the core's and the
quad's TLB; a shootdown removes every entry that overlaps its range from the partition's TLBs and walk caches, keeps
what each of them covered and, with no access of the range or of those left, sets DONE. Both TLBs take the leaf (log
4), a failing walk changes nothing (log 8), and what DONE waits for is the model's count of what runs (log 54). -/
def Obligations.TranslationEvents : Prop :=
  ∀ (s : State) (core die : Nat) (va : Word), s.calm = true →
    let root := s.rootOf core
    let b := tmbBase die
    let n := s.readN (b + 8) 8
    let lo := if n = 0 then 0 else s.readN b 8 / 4096 * 4096
    let hi := if n = 0 then 2 ^ 48 else lo + 4096 * n
    let outside (r : Nat) (l : List TlbEnt) : Prop := ∀ e ∈ l, e.root = r → ¬ (e.base < hi ∧ lo < e.base + e.size)
    (va.toNat < 2 ^ 48 → s.mappable root = true → (s.partOfCore core).isSome = true →
      tlbFind (s.coreAt core).tlb root va.toNat = none → tlbFind (s.quadAt (quadOfCore core)).tlb root va.toNat = none →
      (∀ l, s.walk core va.toNat root = .ok l → (s.quadAt (quadOfCore core)).tlb.length < 2048 →
        ∃ t, exec (.pageWalk core va) s = .next t ∧ tlbFind (t.coreAt core).tlb root va.toNat = some l ∧
          tlbFind (t.quadAt (quadOfCore core)).tlb root va.toNat = some l) ∧
      (∀ f, s.walk core va.toNat root = .error f → exec (.pageWalk core va) s = .next s)) ∧
    (∀ p, s.partOfDie die = some p → s.tagAt (b + 16) = true → (s.dieAt die).shoot = none →
      ∃ t, exec (.shootdownRequest die) s = .next t ∧ t.tagAt (b + 16) = false ∧
        (∃ gone, (t.dieAt die).shoot = some ((lo, hi) :: gone, s.cycle) ∧
          (∀ k, s.partOfCore k = some p → ∀ e ∈ (s.coreAt k).tlb, e.root = (s.partAt p).root → e.base < hi →
            lo < e.base + e.size → (e.base, e.base + e.size) ∈ gone)) ∧
        (∀ k, s.partOfCore k = some p → outside (s.partAt p).root (t.coreAt k).tlb) ∧
        (∀ q, s.partOfDie (q / 512) = some p → outside (s.partAt p).root (t.quadAt q).tlb) ∧
        (∀ d, s.partOfDie d = some p → ∀ e ∈ (t.dieAt d).walks, e.root = (s.partAt p).root →
          ¬ (e.base < hi ∧ lo < e.base + e.size))) ∧
    (∀ p l c, s.partOfDie die = some p → (s.dieAt die).shoot = some (l, c) → s.accessRuns p l c = false →
      ∃ t, exec (.shootdownDone die) s = .next t ∧ (t.dieAt die).shoot = none ∧ t.readN (b + 24) 8 = 1 ∧
        t.tagAt (b + 24) = true)

/-- Requests, replies and retry lists (R164, R165, R202 to R205): a home serves a read, performs a write once and
keeps its reply, answers a resend from the replay table, and turns a request away while that table has no room; a
reply completes its request and wakes its thread, a late one is counted; listed and busy notices act on the timers; a
request is sent again once after 50 μs, and faults after 50 μs more; waiters complete, are sent again or time out,
those that a full list refused too. -/
def Obligations.RequestEvents : Prop :=
  ∀ (s : State) (pkg core rtag home seq tid : Nat) (m : Msg), s.poison = [] →
    let out (t : State) (k : Nat) : List OutReq := (t.coreAt k).reqs
    let again (o : OutReq) (gen : Nat) (re : Bool) : Msg :=
      { dst := o.dst, src := pkgOfCore core, cls := reqClass o.req, core := core, rtag := o.rtag, gen := gen, exp := o.exp,
        resend := re, body := .req o.req o.limit o.fullAt }
    (s.onlyMsg pkg m → s.calm = true →
      (∀ pa n limit first, m.body = .req (.rd pa n) limit first → s.forwardPa pa = pa → s.refuses m.core pa = false →
        ∃ t, exec (.remoteRequestArrival pkg) s = .next t ∧
          t.sent (replyTo pkg m (if 8 < n then .bytes (bytesOf n (s.readN pa n)) else .val (s.readN pa n))) ∧
          ∀ a, t.byteAt a = s.byteAt a) ∧
      (∀ pa n limit first, m.body = .req (.rd pa n) limit first → s.forwardPa pa = pa → s.refuses m.core pa = true →
        ∃ t, exec (.remoteRequestArrival pkg) s = .next t ∧ t.sent (replyTo pkg m .busy)) ∧
      (∀ cells limit first, m.body = .req (.wr cells) limit first → (cells.map (fun x => x.1)).Nodup →
        (∀ x ∈ cells, s.forwardPa x.1 = x.1 ∧ s.refuses m.core x.1 = false) →
        ((s.pkgAt pkg).replay.find? (fun e => e.core == m.core && e.rtag == m.rtag) = none →
          (s.replayRoom pkg = true → ∃ t, exec (.remoteRequestArrival pkg) s = .next t ∧ t.sent (replyTo pkg m .ok) ∧
            (∀ a, t.byteAt a = (mapGet cells a).getD (s.byteAt a)) ∧
            ∃ e ∈ (t.pkgAt pkg).replay, e.core = m.core ∧ e.rtag = m.rtag ∧ e.gen = m.gen ∧ e.rep = .ok) ∧
          (s.replayRoom pkg = false → ∃ t, exec (.remoteRequestArrival pkg) s = .next t ∧ t.sent (replyTo pkg m .busy) ∧
            (t.pkgAt pkg).replay = (s.pkgAt pkg).replay ∧ ∀ a, t.byteAt a = s.byteAt a)) ∧
        (∀ e, (s.pkgAt pkg).replay.find? (fun e => e.core == m.core && e.rtag == m.rtag) = some e → m.resend = true →
          (e.gen + 1) % 16 = m.gen →
          ∃ t, exec (.remoteRequestArrival pkg) s = .next t ∧ t.sent (replyTo pkg m e.rep) ∧
            ∀ a, t.byteAt a = s.byteAt a))) ∧
    (s.onlyMsg pkg m →
      (∀ rep, m.body = .reply rep → rep.goesOn = false →
        (∀ o, s.answers m = some o → o.req.isNote = false → o.resent = false → s.storeOf m.core o = none →
          rep ≠ .refused → s.waits tid o.who .reply →
          ∃ t, exec (.replyArrival pkg) s = .next t ∧ t.answered tid rep ∧ ∀ r ∈ out t m.core, r.rtag ≠ o.rtag) ∧
        (s.answers m = none → ∃ t, exec (.replyArrival pkg) s = .next t ∧
          (t.coreAt m.core).late = (s.coreAt m.core).late + 1)) ∧
      (∀ o, s.answers m = some o →
        (m.body = .reply .listed → ∃ t, exec (.listedNotice pkg) s = .next t ∧
          ∀ r ∈ out t m.core, r.rtag = o.rtag → r.sentAt = none) ∧
        (m.body = .reply .busy → ∃ t, exec (.busyReply pkg) s = .next t ∧
          ∀ r ∈ out t m.core, r.rtag = o.rtag → r.sentAt = some s.cycle ∧ r.busyAt = some s.cycle))) ∧
    (∀ o, s.outReq core rtag = some o → o.isMcast = false →
      (∀ b, o.busyAt = some b →
        (s.fullOver o = false → s.passed b 1000 = true →
          ∃ t, exec (.busyResend core rtag) s = .next t ∧ t.sent (again o o.gen o.resent) ∧
            ∀ r ∈ out t core, r.rtag = o.rtag → r.busyAt = none) ∧
        (∀ f, o.fullAt = some f → o.limit ≠ 0 → o.req.limited = true → s.passed f (1000 * o.limit) = true →
          s.storeOf core o = none → s.waits tid o.who .listed →
          ∃ t, exec (.busyResend core rtag) s = .next t ∧ t.answered tid (.fault (mkTrap 0x0B 0 0)) ∧
            ∀ r ∈ out t core, r.rtag ≠ o.rtag)) ∧
      (∀ b, o.sentAt = some b → o.busyAt = none → s.passed b 50000 = true →
        (o.resent = false → s.cpGivesUp core o = false → ∃ t, exec (.requestResend core rtag) s = .next t ∧ t.sent (again o ((o.gen + 1) % 16) true) ∧
          ∀ r ∈ out t core, r.rtag = o.rtag → r.gen = (o.gen + 1) % 16 ∧ r.resent = true ∧ r.sentAt = some s.cycle) ∧
        (o.resent = true → o.req.neverTimesOut = false → s.storeOf core o = none → s.waits tid o.who .reply →
          ∃ t, exec (.remoteTimeoutExpiry core rtag) s = .next t ∧ t.answered tid (.fault (mkTrap 0x12 0 0)) ∧
            ∀ r ∈ out t core, r.rtag ≠ o.rtag))) ∧
    (∃ t, exec (.replayEntryExpiry pkg) s = .next t ∧
      ∀ e, e ∈ (t.pkgAt pkg).replay ↔ e ∈ (s.pkgAt pkg).replay ∧ s.cycle < e.since + Config.nsToCycles 110000) ∧
    ((∀ w ∈ s.retry, w.refusedAt = none → s.satisfied w.req = false) → exec (.retryListExamine home) s = .next s) ∧
    (∀ w pa n, s.retry = [w] → w.home = home → w.refusedAt = none → w.remote = false → w.req = .feLd .wfe pa n →
      s.tagAt pa = true → s.waits tid w.who .listed →
      ∃ t, exec (.retryListExamine home) s = .next t ∧ t.retry = [] ∧ t.tagAt pa = false ∧
        t.answered tid (.val (s.readN pa n))) ∧
    (∀ w, s.retry.find? (fun w => w.seq == seq) = some w →
      (∀ b md pa n, w.refusedAt = some b → s.passed b 1000 = true → w.home ≠ 2 ^ 25 → w.req = .feLd md pa n → md ≠ .ig →
        s.tagAt pa = false → s.refuses w.core pa = false → s.retry.length < 64 →
        w.limit = 0 ∨ s.passed w.since (1000 * w.limit) = false →
        ∃ t x, exec (.retryListResend seq) s = .next t ∧ x ∈ t.retry ∧ x.refusedAt = none ∧ x.req = w.req ∧
          x.since = w.since ∧ x.who = w.who ∧ t.retry.length = (s.retry.filter (fun w => w.seq != seq)).length + 1) ∧
      (w.limit ≠ 0 → w.req.limited = true → s.passed w.since (1000 * w.limit) = true → w.remote = false →
        s.waits tid w.who .listed →
        ∃ t, exec (.syncTimeout seq) s = .next t ∧ (∀ x ∈ t.retry, x.seq ≠ seq) ∧
          t.answered tid (.fault (mkTrap 0x0B 0 0))))

/-- Expiry entries and the unpick wave (R188, R189, R193 to R196): an entry whose instant has come lapses and sends
its wave to every package of its reach (an event that is not due changes nothing, log 8); the wave, one action (log
48), ends the package's threads and waiting tasks of the tag, enters the filter and is acknowledged; with every
package done the entry lapses; a quarantined entry is free after 200 μs; a reach note is answered and recorded. -/
def Obligations.ExpiryEvents : Prop :=
  ∀ (s : State) (pkg idx : Nat) (m : Msg), pkg < 128 → idx < 4096 →
    let e := s.entry pkg idx
    let wave (dst : Nat) (g : Tag) : Msg :=
      { dst := dst, src := tagPkg g, cls := 2, core := tagPkg g * 8192 + 2047, rtag := 0, gen := 0, exp := 0,
        resend := false, body := .wave g }
    (e.st = .live → e.gusset = false →
      (e.instant ≤ s.podTime → ∃ t, exec (.expiryLapse pkg idx) s = .next t ∧
        t.entry pkg idx = { e with st := .lapsing, done := 0, since := s.cycle } ∧
        ∀ p < 128, e.reach.getLsbD p = true → t.sent (wave p (mkTag pkg idx))) ∧
      (s.podTime < e.instant → exec (.expiryLapse pkg idx) s = .next s)) ∧
    (e.st = .lapsing → (∀ x ∈ (s.pkgAt pkg).inbox, x.body ≠ .waveDone (mkTag pkg idx)) →
      (e.reach &&& ~~~e.done = 0 → ∃ t, exec (.waveComplete pkg idx) s = .next t ∧
        (t.entry pkg idx).st = (if e.freePend then .quarantine else .lapsed) ∧ (t.entry pkg idx).since = s.cycle) ∧
      (e.reach &&& ~~~e.done ≠ 0 → exec (.waveComplete pkg idx) s = .next s)) ∧
    ((s.pkgAt pkg).inbox = [m] → m.body = .waveDone (mkTag pkg idx) → e.st = .lapsing →
      e.reach &&& ~~~(setBit e.done m.src) = 0 →
      ∃ t, exec (.waveComplete pkg idx) s = .next t ∧ (t.pkgAt pkg).inbox = [] ∧
        (t.entry pkg idx).st = (if e.freePend then .quarantine else .lapsed)) ∧
    (e.st = .quarantine →
      (e.since + Config.nsToCycles 200000 ≤ s.cycle → ∃ t, exec (.quarantineExpiry pkg idx) s = .next t ∧
        t.entry pkg idx = ExEnt.reset) ∧
      (s.cycle < e.since + Config.nsToCycles 200000 → exec (.quarantineExpiry pkg idx) s = .next s)) ∧
    (∃ t, exec (.lapsedTagFilterExpiry pkg) s = .next t ∧
      ∀ x, x ∈ (t.pkgAt pkg).filter ↔ x ∈ (s.pkgAt pkg).filter ∧ s.cycle < x.2 + Config.nsToCycles 100000) ∧
    (∀ g, s.onlyMsg pkg m → m.body = .wave g →
      ∃ t, exec (.unpickWaveArrival pkg) s = .next t ∧ (t.pkgAt pkg).filter.any (fun x => x.1 == g) = true ∧
        t.sent { dst := tagPkg g, src := pkg, cls := 2, core := hubOf pkg, rtag := 0, gen := 0, exp := 0, resend := false,
                 body := .waveDone g } ∧
        (∀ tid h, s.thread? tid = some h → pkgOfCore (coreOfTid tid) = pkg → s.unreached (coreOfTid tid) = false →
          h.ex = g → h.trapent = false → h.df = false → t.thread? tid = none) ∧
        (∀ q, q / 2048 = pkg → s.unreached (q / 512 * 2048) = false →
          ∀ k ∈ (t.quadAt q).tasks, k.exp = g → k.run.isSome = true)) ∧
    (∀ g from_ limit first, s.onlyMsg pkg m → m.body = .req (.note g from_) limit first → tagPkg g = pkg → s.calm = true → from_ < 128 →
      ((s.exAt g).st = .live → ∃ t, exec (.reachNote pkg) s = .next t ∧ (t.exAt g).reach.getLsbD from_ = true ∧
        t.sent (replyTo pkg m (.val 1))) ∧
      ((s.exAt g).st ≠ .live → (s.exAt g).st ≠ .free → ∃ t, exec (.reachNote pkg) s = .next t ∧
        (t.exAt g).reach.getLsbD from_ = true ∧ t.sent (wave from_ g) ∧ t.sent (replyTo pkg m (.val 0)))) ∧
    (∀ v o g x, s.onlyMsg pkg m → m.body = .reply (.val v) → s.answers m = some o → o.req = .note g x →
      ∃ t, exec (.reachNoteAck pkg) s = .next t ∧ (∀ r ∈ (t.coreAt m.core).reqs, r.rtag ≠ o.rtag) ∧
        (v = 1 → g ∈ (t.pkgAt pkg).reachCache) ∧ (v ≠ 1 → (t.pkgAt pkg).reachCache = (s.pkgAt pkg).reachCache))

/-- Routers, links and the tables of the management complex (R199 to R201, R206 to R210, R260): late flits are dropped
and counted; a frame carries flits that leave by its port, in the order of the pattern table; a received frame
delivers its flits, or is dropped and counted when it fails authentication; keys are staged, switched and exhausted;
the tables take what the fabric manager writes once it runs; a multicast is written at the stacks of its entry and
acknowledged. A host's requests come in frames of its own link direction, and enter by its edge port where a window
allows them; its replies leave by it, and its mailbox takes what it stores. The host's tags and sizes, the mailbox and
its use before that direction has a key, the choices of frames, and that a write without a place changes nothing, are
the model's (logs 42, 83, 95, 66, 93, 8). -/
def Obligations.FabricEvents : Prop :=
  ∀ (s : State) (pkg port : Nat) (key : BitVec 256) (m : Msg),
    let l := (s.pkgAt pkg).link port
    let link (t : State) : Link := (t.pkgAt pkg).link port
    let queue (t : State) (p k : Nat) : List Flit := (mapGet (t.pkgAt p).queues k).getD []
    let drops (t : State) (p x : Nat) : Nat := (mapGet (t.pkgAt p).drops x).getD 0
    let q := (peerPort s pkg port).1
    let qp := (peerPort s pkg port).2
    let late (f : Flit) : Bool := decide (f.since + Config.nsToCycles 2000 ≤ s.cycle)
    (∃ t, exec (.flitQueueTimeout pkg port) s = .next t ∧
      (∀ k < 4, queue t pkg (queueKey port k) = (queue s pkg (queueKey port k)).filter (fun f => !late f)) ∧
      drops t pkg port = drops s pkg port +
        ((List.range 4).map (fun k => ((queue s pkg (queueKey port k)).filter late).length)).sum) ∧
    (l.txKey = some key → port < 24 →
      let fl := (s.nextFrame pkg port).2
      l.switchDue fl.length = false →
      ∃ t, exec (.frameSend pkg port) s = .next t ∧ (link t).counter = l.counter + fl.length ∧
        (link t).wire = l.wire ++ (if fl = [] then []
          else [{ flits := fl, key := key, counter := l.counter, switch := false }]) ∧ fl.length ≤ 64 ∧
        (∀ f ∈ fl, f.port s pkg = some port ∧ (s.pkgAt pkg).filtered f.msg.exp = false ∧
          ∃ k, f ∈ queue s pkg k) ∧
        ∀ k f rest, patternOwner ((mapGet (s.pkgAt pkg).patterns (port * 64)).getD 0) = some (28, some k) →
          queue s pkg (queueKey 28 k) = f :: rest → f.port s pkg = some port →
          (s.pkgAt pkg).filtered f.msg.exp = false →
          (queue s q (queueKey qp (port % 4))).length + (l.wire.map (fun f => f.flits.length)).sum < 64 →
          l.counter < 2 ^ 48 - 1 → fl.head? = some f) ∧
    (l.txKey = some key → 24 ≤ port → port < 28 →
      let fl := (s.nextFrame pkg port).2
      l.switchDue fl.length = false →
      ∃ t, exec (.frameSend pkg port) s = .next t ∧ (link t).counter = l.counter + fl.length ∧
        (t.pkgAt pkg).hostReplies = (s.pkgAt pkg).hostReplies ++ (fl.filterMap Flit.toHost).map (fun r => (port, r))) ∧
    (∀ f rest, l.wire = f :: rest →
      (f.switch = true → l.staged = some f.key → ∃ t, exec (.frameReceive pkg port true []) s = .next t ∧
        (link t).rxKey = some f.key ∧ (link t).staged = none ∧ (link t).wire = rest) ∧
      (f.switch = false → l.rxKey = some f.key → ∀ x, f.flits = [x] →
        let plain : Prop := ∀ op a n v, x.msg.body ≠ .host op a n v
        ((s.pkgAt q).filtered x.msg.exp = true → ∃ t, exec (.frameReceive pkg port true []) s = .next t ∧
          (t.pkgAt q).inbox = (s.pkgAt q).inbox ∧ ∀ k, queue t q k = queue s q k) ∧
        (plain → (s.pkgAt q).filtered x.msg.exp = false → x.msg.dst = q → x.msg.toHost = false → flitCount x.msg = 1 → (∀ y ∈ (s.pkgAt q).partial_, y.1 ≠ x.msg) →
          ∃ t, exec (.frameReceive pkg port true []) s = .next t ∧ x.msg ∈ (t.pkgAt q).inbox) ∧
        (plain → (s.pkgAt q).filtered x.msg.exp = false → x.msg.dst ≠ q → ∃ t, exec (.frameReceive pkg port true []) s = .next t ∧
          queue t q (queueKey qp x.msg.cls) = queue s q (queueKey qp x.msg.cls) ++ [{ x with since := s.cycle, via := none }]) ∧
        (∃ t, exec (.frameReceive pkg port true [0]) s = .next t ∧ drops t q qp = drops s q qp + 1)) ∧
      (f.switch = false → ∀ ok lost, ok = false ∨ l.rxKey ≠ some f.key →
        ∃ t, exec (.frameReceive pkg port ok lost) s = .next t ∧ drops t q qp = drops s q qp + f.flits.length ∧
          (t.pkgAt q).inbox = (s.pkgAt q).inbox)) ∧
    (∃ t, exec (.keyStage pkg port key) s = .next t ∧ (link t).staged = some key ∧ (link t).txKey = l.txKey) ∧
    (l.staged = some key → l.switchDue (if port < 28 then (s.nextFrame pkg port).2.length else if port < 64 then 1 else 0) = true →
      l.txKey ≠ some key →
      ∃ t, exec (.keySwitch pkg port) s = .next t ∧ (link t).txKey = some key ∧ (link t).counter = 0 ∧
        (link t).wire = l.wire ++ [{ flits := [], key := key, counter := 0, switch := true }]) ∧
    (l.counter = 2 ^ 48 - 1 → l.staged = none → l.exhausted = false → (s.dieAt (pkg * 4)).log.length < 4096 →
      ∃ t, exec (.keyExhaustion pkg port) s = .next t ∧ (link t).exhausted = true ∧
        ∃ e ∈ (t.dieAt (pkg * 4)).log, e.kind = 6 ∧ e.detail = port) ∧
    ((s.pkgAt pkg).bootStep < 5 → ∀ n (v : BitVec 8) (f : Fan) (w : Window),
      exec (.patternTableWrite pkg port n v) s = .next s ∧ exec (.fanOutEntryWrite pkg n f) s = .next s ∧
      exec (.hostWindowWrite pkg port n w) s = .next s) ∧
    (∀ n (v : BitVec 8), 5 ≤ (s.pkgAt pkg).bootStep → n < 64 → (s.dieAt (pkg * 4)).log.length < 4096 →
      ∃ t, exec (.patternTableWrite pkg port n v) s = .next t ∧ mapGet (t.pkgAt pkg).patterns (port * 64 + n) = some v ∧
        (v.getLsbD 7 = true → patternOwner v = none → (t.pkgAt pkg).cfgErrors = (s.pkgAt pkg).cfgErrors + 1 ∧
          ∃ e ∈ (t.dieAt (pkg * 4)).log, e.kind = 4)) ∧
    (∀ n v, (5 ≤ (s.pkgAt pkg).bootStep → n < 64 → ∃ t, exec (.fanOutEntryWrite pkg n v) s = .next t ∧ mapGet (t.pkgAt pkg).fan n = some v) ∧
      (64 ≤ n → exec (.fanOutEntryWrite pkg n v) s = .next s)) ∧
    (∀ n v, 5 ≤ (s.pkgAt pkg).bootStep → 24 ≤ port → port < 28 → n < 16 → ∃ t, exec (.hostWindowWrite pkg port n v) s = .next t ∧
      mapGet (t.pkgAt pkg).windows (port * 16 + n) = some v) ∧
    (∀ n addr data scp fe unc uid (f : Fan) k, s.onlyMsg pkg m → m.body = .mcast n addr data scp fe unc uid →
      mapGet (s.pkgAt pkg).fan n = some f → s.calm = true →
      (f.valid = false → ∃ t, exec (.multicastDelivery pkg) s = .next t ∧ (t.pkgAt pkg).inbox = [] ∧
        ∀ a, t.byteAt a = s.byteAt a) ∧
      (f.valid = true → f.out = 0 → k < 16 → (∀ j < 16, f.shift.getLsbD j = decide (j = k)) → m.resend = false →
        8 ≤ data.length → data.length % 8 = 0 → (s.pkgAt pkg).replay.find? (fun e => e.core == m.core && e.rtag == m.rtag) = none →
        s.replayRoom pkg = true →
        let pa := deliveryAddr pkg addr k
        ∃ t, exec (.multicastDelivery pkg) s = .next t ∧
          (∀ a, t.byteAt a = if pa ≤ a ∧ a < pa + data.length then (data[a - pa]?).getD 0 else s.byteAt a) ∧
          (fe = true → t.tagAt (pa + (data.length - 8)) = true) ∧
          t.sent { dst := pkgOfCore m.core, src := pkg, cls := 1, core := m.core, rtag := m.rtag, gen := m.gen,
                   exp := m.exp, resend := false, body := .mcastAck uid })) ∧
    (∀ uid o n scp (f : Fan) tid, s.onlyMsg pkg m → m.body = .mcastAck uid → s.answers m = some o →
      mcastOf o = some (n, scp) → mapGet (s.pkgAt pkg).fan n = some f → mapGet (s.pkgAt pkg).mcasts (m.core * 64 + m.rtag) = none →
      (f.total.toNat ≤ 1 → s.storeOf m.core o = none → s.waits tid o.who .reply →
        ∃ t, exec (.multicastAck pkg) s = .next t ∧ t.answered tid .ok) ∧
      (1 < f.total.toNat → ∃ t, exec (.multicastAck pkg) s = .next t ∧
        mapGet (t.pkgAt pkg).mcasts (m.core * 64 + m.rtag) = some (m.gen * 4096 + 1))) ∧
    (∀ op addr (v : Word) tag, (s.pkgAt pkg).powered = true → 24 ≤ port → port < 28 →
      let pa := addr % 2 ^ 52
      let la := pa % 2 ^ 45
      let i : Instr := .hostRequest pkg port op addr 8 v tag
      let hl := (s.pkgAt pkg).link (32 + port)
      let mailbox : Prop := pkgOfPa pa = pkg ∧ inFirmware la = true
      let taken (t : State) : Prop :=
        ∀ o < 8, Memory.read (t.pkgAt pkg).mailbox (la + o) = BitVec.ofNat 8 (v.toNat / 2 ^ (8 * o))
      (hl.txKey = none →
        (mailbox → op = .st → ∃ t, exec i s = .next t ∧ taken t ∧
          (t.pkgAt pkg).hostReplies = (s.pkgAt pkg).hostReplies ++ [(port, .ok)]) ∧
        (¬ mailbox → exec i s = .next s)) ∧
      (hl.txKey = some key → hl.switchDue 1 = false → 0 < s.hostCredits pkg port → hl.counter < 2 ^ 48 - 1 →
        ∃ t x, exec i s = .next t ∧ (∀ a, t.byteAt a = s.byteAt a) ∧
          ((t.pkgAt pkg).link (32 + port)).counter = hl.counter + 1 ∧ ((t.pkgAt pkg).link (32 + port)).wire =
            hl.wire ++ [{ flits := [x], key := key, counter := hl.counter, switch := false }] ∧
          x.msg = { dst := pkgOfPa pa, src := pkg, cls := 0, core := pkg * 8192 + 1152 + (port - 24),
                    rtag := s.nextSeq % 64, gen := 0, exp := tag, resend := false, body := .host op addr 8 v }) ∧
      (∀ f rest x, hl.wire = f :: rest → f.switch = false → hl.rxKey = some f.key → f.flits = [x] →
        x.msg.body = .host op addr 8 v → x.msg.dst = pkgOfPa pa → (s.pkgAt pkg).filtered x.msg.exp = false →
        let j : Instr := .frameReceive pkg (32 + port) true []
        let enters (r : Req) : Prop := ∃ t, exec j s = .next t ∧ (∀ a, t.byteAt a = s.byteAt a) ∧
          (pkgOfPa pa = pkg → { x.msg with body := .req r 0 none } ∈ (t.pkgAt pkg).inbox) ∧
          (pkgOfPa pa ≠ pkg → ∃ g ∈ queue t pkg (queueKey port x.msg.cls), g.msg = { x.msg with body := .req r 0 none })
        (mailbox → (op = .st → ∃ t, exec j s = .next t ∧ taken t ∧ t.sent (replyTo pkg x.msg .ok)) ∧
          (op = .ld → ∃ t, exec j s = .next t ∧ t.sent (replyTo pkg x.msg (.val (bytesN (s.mailboxByte pkg) la 8))))) ∧
        (¬ mailbox → op = .ld ∨ op = .st →
          ((s.pkgAt pkg).allows port (addr % 2 ^ 45) 8 op = false → ∃ t, exec j s = .next t ∧
            t.sent (replyTo pkg x.msg .refused) ∧ ∀ a, t.byteAt a = s.byteAt a) ∧
          ((s.pkgAt pkg).allows port (addr % 2 ^ 45) 8 op = true → s.mappable (s.forwardPa pa) = true →
            s.mappable (s.forwardPa (pa + 7)) = true → (s.pkgAt pkg).partial_ = [] →
            (op = .ld → enters (.rd pa 8)) ∧ (op = .st → enters (.wr (cellsOf pa 8 v.toNat)))))))

/-- Partitions (R128, R231 to R235) and bring-up (R260 to R264): the transitions of the state machine with what each
sets; an image holds the partition's threads and local stores, and a restore brings both back; a reset ends every
thread; the watchdog reports a hang; creation, wake-up, images that stand in the staging area, attestation and
power-off. -/
def Obligations.PartitionEvents : Prop :=
  ∀ (s : State) (p : Nat),
    let x := s.partAt p
    let st (t : State) : PSt := (t.partAt p).st
    let emptied (t : State) : Prop := st t = .run ∧ (t.partAt p).image = none ∧
      ∀ tid h, t.thread? tid = some h → s.inPart p (coreOfTid tid) = false
    (x.st = .run → (mapGet s.parts p).isSome = true → ∀ save, ∃ t, exec (.haltRequest p save) s = .next t ∧
      st t = .halting ∧ (t.partAt p).saveReq = (if save then some s.cycle else none) ∧
      ∀ w ∈ t.retry, s.inPart p w.core = true → w.req.stays = true) ∧
    (x.st = .halting →
      (x.quiesced = false → s.retry = [] → s.atRest p = true → ∃ t, exec (.quiesceComplete p) s = .next t ∧
        st t = (if x.saveReq.isSome then .saving else if x.resumeReq then .run else .halting) ∧
        (x.saveReq = none → x.resumeReq = false → (t.partAt p).quiesced = true) ∧
        (x.saveReq.isSome = true → (t.partAt p).heldAt = some s.cycle)) ∧
      (x.saveReq = none → ∃ t, exec (.saveRequest p) s = .next t ∧ (t.partAt p).saveReq = some s.cycle ∧
        st t = (if x.quiesced then .saving else .halting)) ∧
      (∃ t, exec (.resumeRequest p) s = .next t ∧ (x.quiesced = true → st t = .run) ∧
        (x.quiesced = false → st t = .halting ∧ (t.partAt p).resumeReq = true))) ∧
    (x.st = .saving → s.canonical → s.retry = [] → (∀ v ∈ s.visitors, isHbm (v.1 % 2 ^ 46 * 64) = true) →
      ∃ t im, exec (.saveComplete p) s = .next t ∧ st t = .saved ∧ (t.partAt p).imageValid = true ∧
        (t.partAt p).image = some im ∧ im.threads = s.partThreads p ∧
        ∀ a, inStoreOf x.dies a = true → Memory.read im.mem a = s.byteAt a) ∧
    (x.st = .halting ∨ x.st = .saving → ∀ b, x.saveReq = some b → s.passed b 2000000 = true →
      ∃ t, exec (.saveTimeout p) s = .next t ∧ emptied t) ∧
    (x.st = .saved → ∃ t, exec (.restoreRequest p) s = .next t ∧
      (x.imageValid = true → st t = .restoring ∧ (t.partAt p).restoreAt = s.cycle) ∧
      (x.imageValid = false → st t = .saved ∧ (t.partAt p).reports = x.reports ++ [(restoreRefused, p)])) ∧
    (x.st = .restoring →
      (∃ t, exec (.restoreComplete p false) s = .next t ∧ emptied t) ∧
      (s.passed x.restoreAt 2000000 = true → ∃ t, exec (.restoreTimeout p) s = .next t ∧ emptied t) ∧
      (∀ im, x.image = some im → mapRising im.threads = true → (∀ e ∈ im.threads, s.tagLive e.2.ex = true) →
        (∀ e ∈ im.cores ++ s.cores, e.2.cpQ = [] ∧ e.2.cpWait = [] ∧ e.2.cpRun = none) → s.canonical → s.retry = [] →
        ∃ t, exec (.restoreComplete p true) s = .next t ∧ st t = .run ∧
          (∀ tid h, mapGet im.threads tid = some h → t.thread? tid = some h) ∧
          ∀ a, inStoreOf x.dies a = true → t.byteAt a = Memory.read im.mem a)) ∧
    (x.wdEn = false → exec (.watchdogReport p) s = .next s) ∧
    (∀ cause key, s.hang p = some (cause, key) → ∃ t, exec (.watchdogReport p) s = .next t ∧
      (t.partAt p).hcause = cause ∧ (t.partAt p).reports = x.reports ++ [(cause, key)] ∧ (t.partAt p).wdAt = s.cycle ∧
      ((s.dieAt ((x.dies.head?).getD 0)).log.length < 4096 →
        ∃ e ∈ (t.dieAt ((x.dies.head?).getD 0)).log, e.kind = 7 ∧ e.detail = cause)) ∧
    (x.wdEn = true → x.st = .run → s.stalled p = none → s.partThreads p ≠ [] →
      s.passed x.wdAt (x.wdPeriod * 1000000) = true → s.hang p = some (1, 0)) ∧
    (∀ dies root, (mapGet s.parts p) = none → dies ≠ [] → root % 4096 = 0 → s.canonical → s.retry = [] →
      (∀ d ∈ dies, (s.pkgAt (d / 4)).bootStep = 6 ∧ (s.dieAt d).part = none) →
      ∃ t, exec (.partitionCreate p dies root) s = .next t ∧ st t = .run ∧ (t.partAt p).dies = dies ∧
        (t.partAt p).root = root ∧ (∀ d ∈ dies, t.partOfDie d = some p) ∧
        ∀ a, inStoreOf dies a = true → t.byteAt a = Config.coldByte) ∧
    (∀ port, p < 128 → 24 ≤ port → port < 28 → (s.pkgAt p).powered = false →
      ∃ t, exec (.linkTrainingWake p port) s = .next t ∧ (t.pkgAt p).powered = true ∧ (t.pkgAt p).bootStep = 1 ∧
        ∀ n, (t.pkgAt p).mr.get n = 0) ∧
    (∀ d (img : FwImage), (s.pkgAt p).powered = true → d < 4 →
      let i : Instr := .imageSubmit p d img
      let extended (t : State) (n : Fin 8) : Prop := (t.pkgAt p).mr = ((s.pkgAt p).extend n img).mr
      ((s.pkgAt p).stages img = false → exec i s = .next s) ∧
      ((s.pkgAt p).stages img = true →
      ((s.pkgAt p).bootStep = 1 → (s.dieAt (p * 4 + d)).fwRuns = false →
        (∀ j < d, (s.dieAt (p * 4 + j)).fwRuns = true) →
        (imageAccepted img 0 = true → ∃ t, exec i s = .next t ∧ (t.dieAt (p * 4 + d)).fwRuns = true ∧ extended t 0 ∧
          (t.pkgAt p).bootStep = (if d = 3 then 3 else 1)) ∧
        (imageAccepted img 0 = false → (s.dieAt (p * 4 + d)).log.length < 4096 →
          ∃ t, exec i s = .next t ∧ t.pkgAt p = s.pkgAt p ∧ ∃ e ∈ (t.dieAt (p * 4 + d)).log, e.kind = 8)) ∧
      ((s.pkgAt p).bootStep = 3 → s.linksKeyed p = false → exec i s = .next s) ∧
      ((s.pkgAt p).bootStep = 3 → s.linksKeyed p = true → imageAccepted img 1 = true → ∃ t, exec i s = .next t ∧ extended t 1 ∧
        (t.pkgAt p).bootStep = 5) ∧
      ((s.pkgAt p).bootStep = 5 → imageAccepted img 2 = true → ∃ t, exec i s = .next t ∧ extended t 2 ∧
        (t.pkgAt p).bootStep = 6))) ∧
    (∀ nonce, (s.pkgAt p).powered = true → ∃ (t : State) (r : List Byte), exec (.attestationRequest p ⟨nonce, none⟩) s = .next t ∧
      (∀ o < 3821, Memory.read (t.pkgAt p).mailbox (Config.reportOffset + o) = (r[o]?).getD 0) ∧ r.length = 3821 ∧
      r.take 448 = reportHead p s.podTime nonce (s.pkgAt p).mr ∧
      ∀ pa, s.mappable pa = true → s.mappable (pa + 3820) = true → s.calm = true →
        ∃ u, exec (.attestationRequest p ⟨nonce, some pa⟩) s = .next u ∧ ∀ o < 3821, u.byteAt (pa + o) = (r[o]?).getD 0) ∧
    (p < 128 → ∃ t, exec (.powerOff p) s = .next t ∧ (t.pkgAt p).powered = false ∧ (∀ n, (t.pkgAt p).mr.get n = 0) ∧
      (∀ tid h, t.thread? tid = some h → pkgOfCore (coreOfTid tid) ≠ p) ∧
      (∀ a, pkgOfPa a = p → t.byteAt a = Config.coldByte) ∧ ∀ a, pkgOfPa a ≠ p → t.byteAt a = s.byteAt a)

/-- Where the instructions of the ordering, vector and unit families complete, said of the state and the operands
alone: the fences, pegs and range maintenance of R154 to R162, with every store acknowledged and the words at homes of
the package. The reductions, scans and moves of the vector class (R340, R346 to R348, R350), with registers of the
allotment that are full, and no exception enabled. The scalar floating-point class, with no exception enabled (R289 to
R297), and the vector accesses of memory, with their addresses aligned and at homes of the package (R344, R345). The
units of a core, its quad and its package: matrix commands and their controls (R111, R119 to R121), tasks and events
(R175, R177), the grammar unit (R247, R248), collectives (R213, R215) and the copy channel (R137 to R144), with room
in the queues and the descriptors as their rules ask. What a thread does to its own registers, slots, ports, tags and
barriers (R35, R54, R66, R70, R71, R181, R185, R191). Every event answers a next state: what is not due changes
nothing (log 8). -/
def Obligations.InstructionsComplete : Prop :=
  (∀ (s : State) (sc : Option Scope) (k : Scope) (d a b c : Sc) (off : BitVec 27) (off2 : BitVec 32) (op : CmoOp) (lvl : CmoLvl)
     (p : Phys) (f : Nat × Nat → Phys),
     s.readable [a, b, c] = true → Sc.isI d = false → s.fresh = true → s.calm = true → s.visitors = [] →
     s.noCleans →
     let ends (i : Instr) : Prop := ∃ t, exec i s = .next t ∧ Completed i s t
     let va := s.sc a + BitVec.ofInt 64 off.toInt
     let va2 := s.sc a + BitVec.ofInt 64 off2.toInt
     ends (.fence k) ∧ ends .fbar ∧
     (va.toNat % 8 = 0 → s.reach { rd := true, fe := true } va = .ok p → s.homeAnswers p.pa = true →
       (s.tagAt p.pa = true → (s.sc b).toNat ≤ s.readN p.pa 8 → ends (.acq sc d a off b)) ∧ ends (.unbind a off)) ∧
     (va.toNat % 8 = 0 → s.reach { wr := true, fe := true } va = .ok p → s.homeAnswers p.pa = true →
       ends (.rel sc a off b)) ∧
     (va2.toNat % 8 = 0 → s.reach { rd := true, fe := true } va2 = .ok p → s.homeAnswers p.pa = true →
       (s.sc b).toNat % 64 = 0 → (s.sc c).toNat % 64 = 0 → s.sc c ≠ 0 → (s.sc c).toNat ≤ 2 ^ 36 →
       (s.pkgAt (pkgOfCore s.core)).pegs = [] → ends (.bind sc a off2 b c)) ∧
     ((s.sc b).toNat ≤ 2 ^ 36 →
       (∀ r ∈ rangeRuns va.toNat (s.sc b).toNat, s.reach loadA (BitVec.ofNat 64 (r.1 * 64)) = .ok (f r) ∧
         ∀ j < r.2, pkgOfPa (((f r).pa / 64 + j) * 64) = pkgOfCore s.core) → ends (.cmo op lvl a off b))) ∧
  (∀ (s : State) (op : RedOp) (z win : Bool) (t : ETy) (d a b : VReg) (k : KReg) (g x y w : Sc) (n : BitVec 6),
     let ends (i : Instr) : Prop := ∃ u, exec i s = .next u ∧ Completed i s u
     Sc.isI g = false →
     (s.vreadyFor [] [] [a] k = true → s.thr.fcsr.toNat / 128 = 0 → (Instr.vred op z win t g a k).wf = true →
       ends (.vred op z win t g a k)) ∧
     (s.vreadyFor [] [d] [a] k = true → s.thr.fcsr.toNat / 128 = 0 → (Instr.vscan op z win t d a k).wf = true →
       ends (.vscan op z win t d a k)) ∧
     (t.isVec = true → s.vreadyFor [x] [d] [a, b] k = true → ends (.vperm t d a b k) ∧ ends (.vslide t d a b x k)) ∧
     (t.isVec = true → s.vreadyFor [x] [d] [] k = true → ends (.vbcast t d x k) ∧ (t.isVecInt = true → ends (.vidx t d x k))) ∧
     (t.isVec = true → s.vreadyFor [x] [] [a] 0 = true → ends (.vext z t g a x)) ∧
     (t.isVec = true → s.readable [x, y] = true → s.vreadable [d] [d] = true → ends (.vins t d x y)) ∧
     (s.vreadyFor [x, y, w] [d] [] k = true → ends (.vrand d x y w k)) ∧
     ((Instr.vtopk t d a n x k).wf = true → s.vreadyFor [x] [d, d + 1] [a] k = true → ends (.vtopk t d a n x k))) ∧
  (∀ (s : State) (t dt st : ETy) (op : SgnOp) (cc : Cond) (z sat : Bool) (d a b c : Sc) (v w : VReg) (k : KReg)
     (off : BitVec 27) (pa : Nat) (f : Nat → Phys),
     let ends (i : Instr) : Prop := ∃ u, exec i s = .next u ∧ Completed i s u
     (s.readable [a, b, c] = true → Sc.isI d = false → t.isScalarFp = true → dt.isFcvt = true → st.isFcvt = true →
       s.thr.fcsr.toNat / 128 = 0 →
       ends (.fadd t d a b) ∧ ends (.fsub t d a b) ∧ ends (.fmul t d a b) ∧ ends (.ffma t d a b c) ∧ ends (.fdiv t d a b) ∧
       ends (.fsqrt t d a) ∧ ends (.fmin t d a b) ∧ ends (.fmax t d a b) ∧ ends (.fsetc cc t d a b) ∧
       ends (.fcvt dt st z sat d a) ∧ ends (.fclass t d a) ∧ ends (.fsgn op t d a b)) ∧
     (s.fresh = true → s.calm = true →
       let va := s.sc a + BitVec.ofInt 64 off.toInt
       let mb := max 1 (t.bits / 8)
       let on (j : Nat) : Bool := (s.thr.mask k).getLsbD (j / mb)
       (t.isVecAny = true → va.toNat % mb = 0 →
         (s.vreadyFor [a] [v] [] k = true → s.spans loadA va pa 256 on → ends (.vld t v a off k)) ∧
         (s.vreadyFor [a] [] [v] k = true → s.spans storeA va pa 256 on → ends (.vst t a off v k))) ∧
       (t.isLane32 = true →
         let at_ (j : Nat) : Word := va + BitVec.ofInt 64 (sgnOf 32 (lane 32 (s.thr.v.get w) j))
         (∀ j < 64, (s.thr.mask k).getLsbD j = true → (at_ j).toNat % 4 = 0 ∧ s.atHome (f j) = true) →
         (s.vreadyFor [a] [v] [w] k = true → (∀ j < 64, (s.thr.mask k).getLsbD j = true → s.reach loadA (at_ j) = .ok (f j)) →
           ends (.vgath t v a off w k)) ∧
         (s.vreadyFor [a] [] [v, w] k = true → (∀ j < 64, (s.thr.mask k).getLsbD j = true → s.reach storeA (at_ j) = .ok (f j)) →
           ends (.vscat t a off v w k))))) ∧
  (∀ (s : State) (d a b c : Sc) (n : AReg) (k kw ks : KReg) (v : VReg) (w : BitVec 4) (off : BitVec 32) (wait acq rel : Bool)
     (sc : Option Scope) (id : BitVec 10) (root : BitVec 7) (kind : CollKind) (tag : BitVec 16) (p : Phys) (pa : Nat),
     s.readable [d, a, b, c] = true → s.kreadable [k, kw, ks] = true → Sc.isI d = false → s.calm = true →
     let ends (i : Instr) : Prop := ∃ t, exec i s = .next t ∧ Completed i s t
     let core := s.coreAt s.core
     let quad := s.quadAt (quadOfCore s.core)
     let x (o l : Nat) : Nat := s.readN (pa + o) l
     (core.mxQ = [] → core.mxRun = none → core.mxWait = [] → s.fresh = true →
       ends (.mxzero n k) ∧ ends (.mxwait w) ∧ ((core.acc.get n).poison = false → ends (.mxflg k n)) ∧
       (s.thr.chain = false → ends .mxbeg) ∧ (s.thr.chain = true → ends .mxend)) ∧
     (s.fresh = true → ends (.evset k) ∧ ends (.evclr k) ∧
       (quad.later = [] → (∀ j, (s.thr.mask k).getLsbD j = true → quad.shown.getLsbD j = true) → ends (.evwait k)) ∧
       (quad.tasks = [] → quad.posts = [] → (s.sc a + BitVec.ofInt 64 off.toInt).toNat % 64 = 0 →
         s.spans loadA (s.sc a + BitVec.ofInt 64 off.toInt) pa 64 (fun _ => true) → x 0 8 % 4 = 0 → x 40 1 ≤ 3 → x 41 23 = 0 →
         ends (.task wait d a off kw ks))) ∧
     (s.fresh = true → quad.gmQ = [] →
       ((s.sc a).toNat % 64 = 0 → s.spans loadA (s.sc a) pa 64 (fun _ => true) →
         grammarOk (grammarOf (s.readN pa 64)) (s.readN pa 64) = true → ends (.gmload a)) ∧
       (∀ g, (s.sc a).toNat < 16 → quad.grammar = some g →
         ends (.gmstepRst d a) ∧
         (∀ m : Fin 16, (s.sc a).toNat = m.val → quad.gmCache = [] →
           let tok := (s.sc b).toNat
           let st := (quad.ctxs.get m).state
           let chunks := (g.vocab + 2047) / 2048
           let row (z : Nat) : Word := BitVec.ofNat 64 (g.masks + (st * (g.nsym + 1) * chunks + z) * 256)
           (quad.ctxs.get m).stack = [] →
           (∀ pb, tok < g.vocab → s.spans loadA (BitVec.ofNat 64 (g.cls + 2 * tok)) pa 2 (fun _ => true) → x 0 2 < g.nclass →
             s.spans loadA (BitVec.ofNat 64 (g.trans + 4 * (st * g.nclass + x 0 2))) pb 4 (fun _ => true) →
             s.readN pb 4 < g.nstate → g.nstate ≤ 2 ^ 12 → 0 < g.nsym → ends (.gmstep d a b)) ∧
           (tok < chunks → v.val < s.thr.alot → s.thr.port? v = none → s.spans loadA (row tok) pa 256 (fun _ => true) →
             ends (.gmmask v a b)) ∧
           (tok / 8 < chunks → k ≠ 0 → s.spans loadA (row (tok / 8)) pa 256 (fun _ => true) → ends (.gmmaskK k a b))))) ∧
     (∀ (cop : CbufOp) (ty : ETy) (q : Phys) (st : Nat), s.fresh = true → s.spans loadA (s.sc a) pa 64 (fun _ => true) →
       let pkg := pkgOfCore s.core
       let grp : BitVec 128 := BitVec.ofNat 128 (x 16 16)
       x 44 20 = 0 → x 8 8 = 256 → x 0 8 % 4096 = 0 → cop ≠ .smerge → x 40 4 = 0 → 2 ≤ (membersOf grp).length →
       (membersOf grp).length ≤ 64 → grp.getLsbD pkg = true → mapGet (s.pkgAt pkg).nbufs id.toNat = none →
       (∃ off, s.reach loadA (BitVec.ofNat 64 (x 0 8)) = .ok p ∧ placeOf p.pa = .hbm st off ∧ pkgOfPa p.pa = pkg ∧
         placeOf (p.pa + 255) = .hbm st (off + 255) ∧ p.va + 256 ≤ p.leaf.vbase + p.leaf.size) →
       x 32 8 % 8 = 0 → s.reach loadA (BitVec.ofNat 64 (x 32 8)) = .ok q → q.leaf.fe = true → pkgOfPa q.pa = pkg →
       ends (.cbuf cop ty id a)) ∧
     (s.thr.mail = [okMail collAccepted] → s.thr.stores = [] → ends (.coll kind acq rel sc id root c)) ∧
     (s.fresh = true → core.cpQ = [] → core.cpRun = none → core.cpWait = [] → (s.sc c).toNat % 32 = 0 →
       (s.reach { wr := true, fe := true } (s.sc c) = .ok p →
         (s.sc b ≠ 0 → (s.sc b).toNat ≤ 2 ^ 32 → ends (.cpy .copy none acq rel sc d a b c tag)) ∧
         (∀ g : Fin 16, ends (.cpyRfg acq sc (.g g) a c)) ∧
         (v.val < s.thr.alot → s.thr.port? v = none → (s.sc a).toNat % 64 = 0 → ends (.cpyRfv acq sc v a c)) ∧
         ((s.sc a).toNat % 32 = 0 → s.spans loadA (s.sc a) pa 32 (fun _ => true) →
           x 16 4 ≠ 0 → x 16 4 ≤ 2 ^ 20 → 6 ≤ x 20 1 → x 20 1 ≤ 26 → x 21 11 = 0 → ends (.cpgb acq rel sc d a c tag)) ∧
         ((s.sc a).toNat % 64 = 0 → s.spans loadA (s.sc a) pa 64 (fun _ => true) →
           x 36 4 ≠ 0 → x 36 4 ≤ 65535 → 6 ≤ x 40 1 → x 40 1 ≤ 26 → 6 ≤ x 41 1 → x 41 1 ≤ x 40 1 → x 42 22 = 0 →
           ends (.kvapp acq rel sc a b c))) ∧
       (s.reach { rd := true, fe := true } (s.sc c) = .ok p → s.homeAnswers p.pa = true → s.tagAt p.pa = true →
         ends (.cpwait d c)))) ∧
  (∀ (s : State) (d a b c : Sc) (v : VReg) (off : BitVec 27) (m : Fin 16) (wait : Bool) (sc : Scope) (id : BitVec 4) (key : Nat)
     (p : Phys),
     s.readable [a, b, c] = true → Sc.isI d = false → s.fresh = true → s.calm = true →
     let ends (i : Instr) : Prop := ∃ t, exec i s = .next t ∧ Completed i s t
     let x := (s.sc a).toNat
     let r := (s.sc b).toNat
     let w := s.readN p.pa 32
     (s.thr.mode = .super → (s.coreAt s.core).ovh < 8 → (s.sc b ++ s.sc a : BitVec 128) = defaultSlotTab → ends (.slotw a b)) ∧
     ends (.rfillArm (.g m)) ∧ ends (.rfillArm .zr) ∧
     (x = s.core → x < 2 ^ 20 → x % 2048 < 1152 → (s.pkgAt (x / 8192)).member = true → (s.partOfCore x).isSome = true →
       (s.dieAt (dieOfCore x)).forward = [] → r < 128 → (s.thread? (x * 8 + r % 8)).isSome = true →
       ends (.rfillSend false a b c)) ∧
     ((s.sc a + BitVec.ofInt 64 off.toInt).toNat % 32 = 0 → s.reach loadA (s.sc a + BitVec.ofInt 64 off.toInt) = .ok p →
       s.atHome p = true → v.val < s.thr.alot → s.thr.ports = [] → (streamDesc w).ok = true → (streamDesc w).kind ≤ 1 →
       ends (.sbind v a off)) ∧
     (∀ q, v.val < s.thr.alot → s.thr.port? v = some q → s.thr.vPend.getLsbD v.val = false → ends (.sfree v)) ∧
     ((s.pkgAt (pkgOfCore s.core)).member = true → s.cur < 2 ^ 23 → (s.entry (pkgOfCore s.core) 1).st = .free →
       ends (.exnew d a)) ∧
     (s.sc a = 0 → s.thr.mode = .super → ends (.exset a) ∧ ends (.exchk d a) ∧ ends (.exfree a) ∧
       (s.sc b = 0 → ends (.exjoin d a b))) ∧
     (s.barrierOf sc id.toNat = .ok (key, pkgOfCore s.core) →
       (s.barrierAt key = { members := [], arrived := [], count := none, since := [] } → r % 2 ^ 32 ≠ 0 → ends (.bjoin sc id b)) ∧
       (s.thr.uid ∈ (s.barrierAt key).members → ends (.bleave sc id))) ∧
     ((s.coreAt s.core).growQ = [] → s.thr.alot + 8 ≤ 64 → 8 ≤ s.poolFree s.core →
       ends (.grow wait d 8) ∧ (s.sc b = 8 → ends (.growReg wait d b))) ∧
     (8 ≤ s.thr.alot → s.thr.ports = [] → (s.coreAt s.core).growQ = [] → ends (.shrink d 8) ∧ (s.sc b = 8 → ends (.shrinkReg d b)))) ∧
  (∀ (s : State) (i : Instr), i.cls = .event → ∃ t, exec i s = .next t)

end Statements
end

