-- ==== Sys2Proof/Laws/State.lean ====
section
/-! SUPPORT. One lemma per field per update of the state and of a thread, each by `rfl`. -/
namespace Sys2Proof.Machine

/-! ## `setThread` -/

@[simp] theorem State.setThread_cycle (s : State) (t : Nat) (x : Thread) : (s.setThread t x).cycle = s.cycle := rfl
@[simp] theorem State.setThread_turns (s : State) (t : Nat) (x : Thread) : (s.setThread t x).turns = s.turns := rfl
@[simp] theorem State.setThread_cur (s : State) (t : Nat) (x : Thread) : (s.setThread t x).cur = s.cur := rfl
@[simp] theorem State.setThread_nextUid (s : State) (t : Nat) (x : Thread) : (s.setThread t x).nextUid = s.nextUid := rfl
@[simp] theorem State.setThread_nextSeq (s : State) (t : Nat) (x : Thread) : (s.setThread t x).nextSeq = s.nextSeq := rfl
@[simp] theorem State.setThread_threads (s : State) (t : Nat) (x : Thread) : (s.setThread t x).threads = mapPut s.threads t x := rfl
@[simp] theorem State.setThread_cores (s : State) (t : Nat) (x : Thread) : (s.setThread t x).cores = s.cores := rfl
@[simp] theorem State.setThread_quads (s : State) (t : Nat) (x : Thread) : (s.setThread t x).quads = s.quads := rfl
@[simp] theorem State.setThread_dies (s : State) (t : Nat) (x : Thread) : (s.setThread t x).dies = s.dies := rfl
@[simp] theorem State.setThread_pkgs (s : State) (t : Nat) (x : Thread) : (s.setThread t x).pkgs = s.pkgs := rfl
@[simp] theorem State.setThread_parts (s : State) (t : Nat) (x : Thread) : (s.setThread t x).parts = s.parts := rfl
@[simp] theorem State.setThread_barriers (s : State) (t : Nat) (x : Thread) : (s.setThread t x).barriers = s.barriers := rfl
@[simp] theorem State.setThread_chains (s : State) (t : Nat) (x : Thread) : (s.setThread t x).chains = s.chains := rfl
@[simp] theorem State.setThread_retry (s : State) (t : Nat) (x : Thread) : (s.setThread t x).retry = s.retry := rfl
@[simp] theorem State.setThread_mem (s : State) (t : Nat) (x : Thread) : (s.setThread t x).mem = s.mem := rfl
@[simp] theorem State.setThread_slice (s : State) (t : Nat) (x : Thread) : (s.setThread t x).slice = s.slice := rfl
@[simp] theorem State.setThread_visitors (s : State) (t : Nat) (x : Thread) : (s.setThread t x).visitors = s.visitors := rfl
@[simp] theorem State.setThread_dirs (s : State) (t : Nat) (x : Thread) : (s.setThread t x).dirs = s.dirs := rfl
@[simp] theorem State.setThread_tags (s : State) (t : Nat) (x : Thread) : (s.setThread t x).tags = s.tags := rfl
@[simp] theorem State.setThread_seams (s : State) (t : Nat) (x : Thread) : (s.setThread t x).seams = s.seams := rfl
@[simp] theorem State.setThread_poison (s : State) (t : Nat) (x : Thread) : (s.setThread t x).poison = s.poison := rfl

/-! ## `setCore` -/

@[simp] theorem State.setCore_cycle (s : State) (c : Nat) (x : Core) : (s.setCore c x).cycle = s.cycle := rfl
@[simp] theorem State.setCore_turns (s : State) (c : Nat) (x : Core) : (s.setCore c x).turns = s.turns := rfl
@[simp] theorem State.setCore_cur (s : State) (c : Nat) (x : Core) : (s.setCore c x).cur = s.cur := rfl
@[simp] theorem State.setCore_nextUid (s : State) (c : Nat) (x : Core) : (s.setCore c x).nextUid = s.nextUid := rfl
@[simp] theorem State.setCore_nextSeq (s : State) (c : Nat) (x : Core) : (s.setCore c x).nextSeq = s.nextSeq := rfl
@[simp] theorem State.setCore_threads (s : State) (c : Nat) (x : Core) : (s.setCore c x).threads = s.threads := rfl
@[simp] theorem State.setCore_cores (s : State) (c : Nat) (x : Core) : (s.setCore c x).cores = mapPut s.cores c x := rfl
@[simp] theorem State.setCore_quads (s : State) (c : Nat) (x : Core) : (s.setCore c x).quads = s.quads := rfl
@[simp] theorem State.setCore_dies (s : State) (c : Nat) (x : Core) : (s.setCore c x).dies = s.dies := rfl
@[simp] theorem State.setCore_pkgs (s : State) (c : Nat) (x : Core) : (s.setCore c x).pkgs = s.pkgs := rfl
@[simp] theorem State.setCore_parts (s : State) (c : Nat) (x : Core) : (s.setCore c x).parts = s.parts := rfl
@[simp] theorem State.setCore_barriers (s : State) (c : Nat) (x : Core) : (s.setCore c x).barriers = s.barriers := rfl
@[simp] theorem State.setCore_chains (s : State) (c : Nat) (x : Core) : (s.setCore c x).chains = s.chains := rfl
@[simp] theorem State.setCore_retry (s : State) (c : Nat) (x : Core) : (s.setCore c x).retry = s.retry := rfl
@[simp] theorem State.setCore_mem (s : State) (c : Nat) (x : Core) : (s.setCore c x).mem = s.mem := rfl
@[simp] theorem State.setCore_slice (s : State) (c : Nat) (x : Core) : (s.setCore c x).slice = s.slice := rfl
@[simp] theorem State.setCore_visitors (s : State) (c : Nat) (x : Core) : (s.setCore c x).visitors = s.visitors := rfl
@[simp] theorem State.setCore_dirs (s : State) (c : Nat) (x : Core) : (s.setCore c x).dirs = s.dirs := rfl
@[simp] theorem State.setCore_tags (s : State) (c : Nat) (x : Core) : (s.setCore c x).tags = s.tags := rfl
@[simp] theorem State.setCore_seams (s : State) (c : Nat) (x : Core) : (s.setCore c x).seams = s.seams := rfl
@[simp] theorem State.setCore_poison (s : State) (c : Nat) (x : Core) : (s.setCore c x).poison = s.poison := rfl

/-! ## `setQuad` -/

@[simp] theorem State.setQuad_cycle (s : State) (q : Nat) (x : Quad) : (s.setQuad q x).cycle = s.cycle := rfl
@[simp] theorem State.setQuad_turns (s : State) (q : Nat) (x : Quad) : (s.setQuad q x).turns = s.turns := rfl
@[simp] theorem State.setQuad_cur (s : State) (q : Nat) (x : Quad) : (s.setQuad q x).cur = s.cur := rfl
@[simp] theorem State.setQuad_nextUid (s : State) (q : Nat) (x : Quad) : (s.setQuad q x).nextUid = s.nextUid := rfl
@[simp] theorem State.setQuad_nextSeq (s : State) (q : Nat) (x : Quad) : (s.setQuad q x).nextSeq = s.nextSeq := rfl
@[simp] theorem State.setQuad_threads (s : State) (q : Nat) (x : Quad) : (s.setQuad q x).threads = s.threads := rfl
@[simp] theorem State.setQuad_cores (s : State) (q : Nat) (x : Quad) : (s.setQuad q x).cores = s.cores := rfl
@[simp] theorem State.setQuad_quads (s : State) (q : Nat) (x : Quad) : (s.setQuad q x).quads = mapPut s.quads q x := rfl
@[simp] theorem State.setQuad_dies (s : State) (q : Nat) (x : Quad) : (s.setQuad q x).dies = s.dies := rfl
@[simp] theorem State.setQuad_pkgs (s : State) (q : Nat) (x : Quad) : (s.setQuad q x).pkgs = s.pkgs := rfl
@[simp] theorem State.setQuad_parts (s : State) (q : Nat) (x : Quad) : (s.setQuad q x).parts = s.parts := rfl
@[simp] theorem State.setQuad_barriers (s : State) (q : Nat) (x : Quad) : (s.setQuad q x).barriers = s.barriers := rfl
@[simp] theorem State.setQuad_chains (s : State) (q : Nat) (x : Quad) : (s.setQuad q x).chains = s.chains := rfl
@[simp] theorem State.setQuad_retry (s : State) (q : Nat) (x : Quad) : (s.setQuad q x).retry = s.retry := rfl
@[simp] theorem State.setQuad_mem (s : State) (q : Nat) (x : Quad) : (s.setQuad q x).mem = s.mem := rfl
@[simp] theorem State.setQuad_slice (s : State) (q : Nat) (x : Quad) : (s.setQuad q x).slice = s.slice := rfl
@[simp] theorem State.setQuad_visitors (s : State) (q : Nat) (x : Quad) : (s.setQuad q x).visitors = s.visitors := rfl
@[simp] theorem State.setQuad_dirs (s : State) (q : Nat) (x : Quad) : (s.setQuad q x).dirs = s.dirs := rfl
@[simp] theorem State.setQuad_tags (s : State) (q : Nat) (x : Quad) : (s.setQuad q x).tags = s.tags := rfl
@[simp] theorem State.setQuad_seams (s : State) (q : Nat) (x : Quad) : (s.setQuad q x).seams = s.seams := rfl
@[simp] theorem State.setQuad_poison (s : State) (q : Nat) (x : Quad) : (s.setQuad q x).poison = s.poison := rfl

/-! ## `setDie` -/

@[simp] theorem State.setDie_cycle (s : State) (d : Nat) (x : Die) : (s.setDie d x).cycle = s.cycle := rfl
@[simp] theorem State.setDie_turns (s : State) (d : Nat) (x : Die) : (s.setDie d x).turns = s.turns := rfl
@[simp] theorem State.setDie_cur (s : State) (d : Nat) (x : Die) : (s.setDie d x).cur = s.cur := rfl
@[simp] theorem State.setDie_nextUid (s : State) (d : Nat) (x : Die) : (s.setDie d x).nextUid = s.nextUid := rfl
@[simp] theorem State.setDie_nextSeq (s : State) (d : Nat) (x : Die) : (s.setDie d x).nextSeq = s.nextSeq := rfl
@[simp] theorem State.setDie_threads (s : State) (d : Nat) (x : Die) : (s.setDie d x).threads = s.threads := rfl
@[simp] theorem State.setDie_cores (s : State) (d : Nat) (x : Die) : (s.setDie d x).cores = s.cores := rfl
@[simp] theorem State.setDie_quads (s : State) (d : Nat) (x : Die) : (s.setDie d x).quads = s.quads := rfl
@[simp] theorem State.setDie_dies (s : State) (d : Nat) (x : Die) : (s.setDie d x).dies = mapPut s.dies d x := rfl
@[simp] theorem State.setDie_pkgs (s : State) (d : Nat) (x : Die) : (s.setDie d x).pkgs = s.pkgs := rfl
@[simp] theorem State.setDie_parts (s : State) (d : Nat) (x : Die) : (s.setDie d x).parts = s.parts := rfl
@[simp] theorem State.setDie_barriers (s : State) (d : Nat) (x : Die) : (s.setDie d x).barriers = s.barriers := rfl
@[simp] theorem State.setDie_chains (s : State) (d : Nat) (x : Die) : (s.setDie d x).chains = s.chains := rfl
@[simp] theorem State.setDie_retry (s : State) (d : Nat) (x : Die) : (s.setDie d x).retry = s.retry := rfl
@[simp] theorem State.setDie_mem (s : State) (d : Nat) (x : Die) : (s.setDie d x).mem = s.mem := rfl
@[simp] theorem State.setDie_slice (s : State) (d : Nat) (x : Die) : (s.setDie d x).slice = s.slice := rfl
@[simp] theorem State.setDie_visitors (s : State) (d : Nat) (x : Die) : (s.setDie d x).visitors = s.visitors := rfl
@[simp] theorem State.setDie_dirs (s : State) (d : Nat) (x : Die) : (s.setDie d x).dirs = s.dirs := rfl
@[simp] theorem State.setDie_tags (s : State) (d : Nat) (x : Die) : (s.setDie d x).tags = s.tags := rfl
@[simp] theorem State.setDie_seams (s : State) (d : Nat) (x : Die) : (s.setDie d x).seams = s.seams := rfl
@[simp] theorem State.setDie_poison (s : State) (d : Nat) (x : Die) : (s.setDie d x).poison = s.poison := rfl

/-! ## `setPkg` -/

@[simp] theorem State.setPkg_cycle (s : State) (p : Nat) (x : Pkg) : (s.setPkg p x).cycle = s.cycle := rfl
@[simp] theorem State.setPkg_turns (s : State) (p : Nat) (x : Pkg) : (s.setPkg p x).turns = s.turns := rfl
@[simp] theorem State.setPkg_cur (s : State) (p : Nat) (x : Pkg) : (s.setPkg p x).cur = s.cur := rfl
@[simp] theorem State.setPkg_nextUid (s : State) (p : Nat) (x : Pkg) : (s.setPkg p x).nextUid = s.nextUid := rfl
@[simp] theorem State.setPkg_nextSeq (s : State) (p : Nat) (x : Pkg) : (s.setPkg p x).nextSeq = s.nextSeq := rfl
@[simp] theorem State.setPkg_threads (s : State) (p : Nat) (x : Pkg) : (s.setPkg p x).threads = s.threads := rfl
@[simp] theorem State.setPkg_cores (s : State) (p : Nat) (x : Pkg) : (s.setPkg p x).cores = s.cores := rfl
@[simp] theorem State.setPkg_quads (s : State) (p : Nat) (x : Pkg) : (s.setPkg p x).quads = s.quads := rfl
@[simp] theorem State.setPkg_dies (s : State) (p : Nat) (x : Pkg) : (s.setPkg p x).dies = s.dies := rfl
@[simp] theorem State.setPkg_pkgs (s : State) (p : Nat) (x : Pkg) : (s.setPkg p x).pkgs = mapPut s.pkgs p x := rfl
@[simp] theorem State.setPkg_parts (s : State) (p : Nat) (x : Pkg) : (s.setPkg p x).parts = s.parts := rfl
@[simp] theorem State.setPkg_barriers (s : State) (p : Nat) (x : Pkg) : (s.setPkg p x).barriers = s.barriers := rfl
@[simp] theorem State.setPkg_chains (s : State) (p : Nat) (x : Pkg) : (s.setPkg p x).chains = s.chains := rfl
@[simp] theorem State.setPkg_retry (s : State) (p : Nat) (x : Pkg) : (s.setPkg p x).retry = s.retry := rfl
@[simp] theorem State.setPkg_mem (s : State) (p : Nat) (x : Pkg) : (s.setPkg p x).mem = s.mem := rfl
@[simp] theorem State.setPkg_slice (s : State) (p : Nat) (x : Pkg) : (s.setPkg p x).slice = s.slice := rfl
@[simp] theorem State.setPkg_visitors (s : State) (p : Nat) (x : Pkg) : (s.setPkg p x).visitors = s.visitors := rfl
@[simp] theorem State.setPkg_dirs (s : State) (p : Nat) (x : Pkg) : (s.setPkg p x).dirs = s.dirs := rfl
@[simp] theorem State.setPkg_tags (s : State) (p : Nat) (x : Pkg) : (s.setPkg p x).tags = s.tags := rfl
@[simp] theorem State.setPkg_seams (s : State) (p : Nat) (x : Pkg) : (s.setPkg p x).seams = s.seams := rfl
@[simp] theorem State.setPkg_poison (s : State) (p : Nat) (x : Pkg) : (s.setPkg p x).poison = s.poison := rfl

/-! ## `setPart` -/

@[simp] theorem State.setPart_cycle (s : State) (p : Nat) (x : Partition) : (s.setPart p x).cycle = s.cycle := rfl
@[simp] theorem State.setPart_turns (s : State) (p : Nat) (x : Partition) : (s.setPart p x).turns = s.turns := rfl
@[simp] theorem State.setPart_cur (s : State) (p : Nat) (x : Partition) : (s.setPart p x).cur = s.cur := rfl
@[simp] theorem State.setPart_nextUid (s : State) (p : Nat) (x : Partition) : (s.setPart p x).nextUid = s.nextUid := rfl
@[simp] theorem State.setPart_nextSeq (s : State) (p : Nat) (x : Partition) : (s.setPart p x).nextSeq = s.nextSeq := rfl
@[simp] theorem State.setPart_threads (s : State) (p : Nat) (x : Partition) : (s.setPart p x).threads = s.threads := rfl
@[simp] theorem State.setPart_cores (s : State) (p : Nat) (x : Partition) : (s.setPart p x).cores = s.cores := rfl
@[simp] theorem State.setPart_quads (s : State) (p : Nat) (x : Partition) : (s.setPart p x).quads = s.quads := rfl
@[simp] theorem State.setPart_dies (s : State) (p : Nat) (x : Partition) : (s.setPart p x).dies = s.dies := rfl
@[simp] theorem State.setPart_pkgs (s : State) (p : Nat) (x : Partition) : (s.setPart p x).pkgs = s.pkgs := rfl
@[simp] theorem State.setPart_parts (s : State) (p : Nat) (x : Partition) : (s.setPart p x).parts = mapPut s.parts p x := rfl
@[simp] theorem State.setPart_barriers (s : State) (p : Nat) (x : Partition) : (s.setPart p x).barriers = s.barriers := rfl
@[simp] theorem State.setPart_chains (s : State) (p : Nat) (x : Partition) : (s.setPart p x).chains = s.chains := rfl
@[simp] theorem State.setPart_retry (s : State) (p : Nat) (x : Partition) : (s.setPart p x).retry = s.retry := rfl
@[simp] theorem State.setPart_mem (s : State) (p : Nat) (x : Partition) : (s.setPart p x).mem = s.mem := rfl
@[simp] theorem State.setPart_slice (s : State) (p : Nat) (x : Partition) : (s.setPart p x).slice = s.slice := rfl
@[simp] theorem State.setPart_visitors (s : State) (p : Nat) (x : Partition) : (s.setPart p x).visitors = s.visitors := rfl
@[simp] theorem State.setPart_dirs (s : State) (p : Nat) (x : Partition) : (s.setPart p x).dirs = s.dirs := rfl
@[simp] theorem State.setPart_tags (s : State) (p : Nat) (x : Partition) : (s.setPart p x).tags = s.tags := rfl
@[simp] theorem State.setPart_seams (s : State) (p : Nat) (x : Partition) : (s.setPart p x).seams = s.seams := rfl
@[simp] theorem State.setPart_poison (s : State) (p : Nat) (x : Partition) : (s.setPart p x).poison = s.poison := rfl

/-! ## `updCore` -/

@[simp] theorem State.updCore_cycle (s : State) (n : Nat) (f : Core → Core) : (s.updCore n f).cycle = s.cycle := rfl
@[simp] theorem State.updCore_turns (s : State) (n : Nat) (f : Core → Core) : (s.updCore n f).turns = s.turns := rfl
@[simp] theorem State.updCore_cur (s : State) (n : Nat) (f : Core → Core) : (s.updCore n f).cur = s.cur := rfl
@[simp] theorem State.updCore_nextUid (s : State) (n : Nat) (f : Core → Core) : (s.updCore n f).nextUid = s.nextUid := rfl
@[simp] theorem State.updCore_nextSeq (s : State) (n : Nat) (f : Core → Core) : (s.updCore n f).nextSeq = s.nextSeq := rfl
@[simp] theorem State.updCore_threads (s : State) (n : Nat) (f : Core → Core) : (s.updCore n f).threads = s.threads := rfl
@[simp] theorem State.updCore_cores (s : State) (n : Nat) (f : Core → Core) : (s.updCore n f).cores = mapPut s.cores n (f (s.coreAt n)) := rfl
@[simp] theorem State.updCore_quads (s : State) (n : Nat) (f : Core → Core) : (s.updCore n f).quads = s.quads := rfl
@[simp] theorem State.updCore_dies (s : State) (n : Nat) (f : Core → Core) : (s.updCore n f).dies = s.dies := rfl
@[simp] theorem State.updCore_pkgs (s : State) (n : Nat) (f : Core → Core) : (s.updCore n f).pkgs = s.pkgs := rfl
@[simp] theorem State.updCore_parts (s : State) (n : Nat) (f : Core → Core) : (s.updCore n f).parts = s.parts := rfl
@[simp] theorem State.updCore_barriers (s : State) (n : Nat) (f : Core → Core) : (s.updCore n f).barriers = s.barriers := rfl
@[simp] theorem State.updCore_chains (s : State) (n : Nat) (f : Core → Core) : (s.updCore n f).chains = s.chains := rfl
@[simp] theorem State.updCore_retry (s : State) (n : Nat) (f : Core → Core) : (s.updCore n f).retry = s.retry := rfl
@[simp] theorem State.updCore_mem (s : State) (n : Nat) (f : Core → Core) : (s.updCore n f).mem = s.mem := rfl
@[simp] theorem State.updCore_slice (s : State) (n : Nat) (f : Core → Core) : (s.updCore n f).slice = s.slice := rfl
@[simp] theorem State.updCore_visitors (s : State) (n : Nat) (f : Core → Core) : (s.updCore n f).visitors = s.visitors := rfl
@[simp] theorem State.updCore_dirs (s : State) (n : Nat) (f : Core → Core) : (s.updCore n f).dirs = s.dirs := rfl
@[simp] theorem State.updCore_tags (s : State) (n : Nat) (f : Core → Core) : (s.updCore n f).tags = s.tags := rfl
@[simp] theorem State.updCore_seams (s : State) (n : Nat) (f : Core → Core) : (s.updCore n f).seams = s.seams := rfl
@[simp] theorem State.updCore_poison (s : State) (n : Nat) (f : Core → Core) : (s.updCore n f).poison = s.poison := rfl

/-! ## `updQuad` -/

@[simp] theorem State.updQuad_cycle (s : State) (n : Nat) (f : Quad → Quad) : (s.updQuad n f).cycle = s.cycle := rfl
@[simp] theorem State.updQuad_turns (s : State) (n : Nat) (f : Quad → Quad) : (s.updQuad n f).turns = s.turns := rfl
@[simp] theorem State.updQuad_cur (s : State) (n : Nat) (f : Quad → Quad) : (s.updQuad n f).cur = s.cur := rfl
@[simp] theorem State.updQuad_nextUid (s : State) (n : Nat) (f : Quad → Quad) : (s.updQuad n f).nextUid = s.nextUid := rfl
@[simp] theorem State.updQuad_nextSeq (s : State) (n : Nat) (f : Quad → Quad) : (s.updQuad n f).nextSeq = s.nextSeq := rfl
@[simp] theorem State.updQuad_threads (s : State) (n : Nat) (f : Quad → Quad) : (s.updQuad n f).threads = s.threads := rfl
@[simp] theorem State.updQuad_cores (s : State) (n : Nat) (f : Quad → Quad) : (s.updQuad n f).cores = s.cores := rfl
@[simp] theorem State.updQuad_quads (s : State) (n : Nat) (f : Quad → Quad) : (s.updQuad n f).quads = mapPut s.quads n (f (s.quadAt n)) := rfl
@[simp] theorem State.updQuad_dies (s : State) (n : Nat) (f : Quad → Quad) : (s.updQuad n f).dies = s.dies := rfl
@[simp] theorem State.updQuad_pkgs (s : State) (n : Nat) (f : Quad → Quad) : (s.updQuad n f).pkgs = s.pkgs := rfl
@[simp] theorem State.updQuad_parts (s : State) (n : Nat) (f : Quad → Quad) : (s.updQuad n f).parts = s.parts := rfl
@[simp] theorem State.updQuad_barriers (s : State) (n : Nat) (f : Quad → Quad) : (s.updQuad n f).barriers = s.barriers := rfl
@[simp] theorem State.updQuad_chains (s : State) (n : Nat) (f : Quad → Quad) : (s.updQuad n f).chains = s.chains := rfl
@[simp] theorem State.updQuad_retry (s : State) (n : Nat) (f : Quad → Quad) : (s.updQuad n f).retry = s.retry := rfl
@[simp] theorem State.updQuad_mem (s : State) (n : Nat) (f : Quad → Quad) : (s.updQuad n f).mem = s.mem := rfl
@[simp] theorem State.updQuad_slice (s : State) (n : Nat) (f : Quad → Quad) : (s.updQuad n f).slice = s.slice := rfl
@[simp] theorem State.updQuad_visitors (s : State) (n : Nat) (f : Quad → Quad) : (s.updQuad n f).visitors = s.visitors := rfl
@[simp] theorem State.updQuad_dirs (s : State) (n : Nat) (f : Quad → Quad) : (s.updQuad n f).dirs = s.dirs := rfl
@[simp] theorem State.updQuad_tags (s : State) (n : Nat) (f : Quad → Quad) : (s.updQuad n f).tags = s.tags := rfl
@[simp] theorem State.updQuad_seams (s : State) (n : Nat) (f : Quad → Quad) : (s.updQuad n f).seams = s.seams := rfl
@[simp] theorem State.updQuad_poison (s : State) (n : Nat) (f : Quad → Quad) : (s.updQuad n f).poison = s.poison := rfl

/-! ## `updDie` -/

@[simp] theorem State.updDie_cycle (s : State) (n : Nat) (f : Die → Die) : (s.updDie n f).cycle = s.cycle := rfl
@[simp] theorem State.updDie_turns (s : State) (n : Nat) (f : Die → Die) : (s.updDie n f).turns = s.turns := rfl
@[simp] theorem State.updDie_cur (s : State) (n : Nat) (f : Die → Die) : (s.updDie n f).cur = s.cur := rfl
@[simp] theorem State.updDie_nextUid (s : State) (n : Nat) (f : Die → Die) : (s.updDie n f).nextUid = s.nextUid := rfl
@[simp] theorem State.updDie_nextSeq (s : State) (n : Nat) (f : Die → Die) : (s.updDie n f).nextSeq = s.nextSeq := rfl
@[simp] theorem State.updDie_threads (s : State) (n : Nat) (f : Die → Die) : (s.updDie n f).threads = s.threads := rfl
@[simp] theorem State.updDie_cores (s : State) (n : Nat) (f : Die → Die) : (s.updDie n f).cores = s.cores := rfl
@[simp] theorem State.updDie_quads (s : State) (n : Nat) (f : Die → Die) : (s.updDie n f).quads = s.quads := rfl
@[simp] theorem State.updDie_dies (s : State) (n : Nat) (f : Die → Die) : (s.updDie n f).dies = mapPut s.dies n (f (s.dieAt n)) := rfl
@[simp] theorem State.updDie_pkgs (s : State) (n : Nat) (f : Die → Die) : (s.updDie n f).pkgs = s.pkgs := rfl
@[simp] theorem State.updDie_parts (s : State) (n : Nat) (f : Die → Die) : (s.updDie n f).parts = s.parts := rfl
@[simp] theorem State.updDie_barriers (s : State) (n : Nat) (f : Die → Die) : (s.updDie n f).barriers = s.barriers := rfl
@[simp] theorem State.updDie_chains (s : State) (n : Nat) (f : Die → Die) : (s.updDie n f).chains = s.chains := rfl
@[simp] theorem State.updDie_retry (s : State) (n : Nat) (f : Die → Die) : (s.updDie n f).retry = s.retry := rfl
@[simp] theorem State.updDie_mem (s : State) (n : Nat) (f : Die → Die) : (s.updDie n f).mem = s.mem := rfl
@[simp] theorem State.updDie_slice (s : State) (n : Nat) (f : Die → Die) : (s.updDie n f).slice = s.slice := rfl
@[simp] theorem State.updDie_visitors (s : State) (n : Nat) (f : Die → Die) : (s.updDie n f).visitors = s.visitors := rfl
@[simp] theorem State.updDie_dirs (s : State) (n : Nat) (f : Die → Die) : (s.updDie n f).dirs = s.dirs := rfl
@[simp] theorem State.updDie_tags (s : State) (n : Nat) (f : Die → Die) : (s.updDie n f).tags = s.tags := rfl
@[simp] theorem State.updDie_seams (s : State) (n : Nat) (f : Die → Die) : (s.updDie n f).seams = s.seams := rfl
@[simp] theorem State.updDie_poison (s : State) (n : Nat) (f : Die → Die) : (s.updDie n f).poison = s.poison := rfl

/-! ## `updPkg` -/

@[simp] theorem State.updPkg_cycle (s : State) (n : Nat) (f : Pkg → Pkg) : (s.updPkg n f).cycle = s.cycle := rfl
@[simp] theorem State.updPkg_turns (s : State) (n : Nat) (f : Pkg → Pkg) : (s.updPkg n f).turns = s.turns := rfl
@[simp] theorem State.updPkg_cur (s : State) (n : Nat) (f : Pkg → Pkg) : (s.updPkg n f).cur = s.cur := rfl
@[simp] theorem State.updPkg_nextUid (s : State) (n : Nat) (f : Pkg → Pkg) : (s.updPkg n f).nextUid = s.nextUid := rfl
@[simp] theorem State.updPkg_nextSeq (s : State) (n : Nat) (f : Pkg → Pkg) : (s.updPkg n f).nextSeq = s.nextSeq := rfl
@[simp] theorem State.updPkg_threads (s : State) (n : Nat) (f : Pkg → Pkg) : (s.updPkg n f).threads = s.threads := rfl
@[simp] theorem State.updPkg_cores (s : State) (n : Nat) (f : Pkg → Pkg) : (s.updPkg n f).cores = s.cores := rfl
@[simp] theorem State.updPkg_quads (s : State) (n : Nat) (f : Pkg → Pkg) : (s.updPkg n f).quads = s.quads := rfl
@[simp] theorem State.updPkg_dies (s : State) (n : Nat) (f : Pkg → Pkg) : (s.updPkg n f).dies = s.dies := rfl
@[simp] theorem State.updPkg_pkgs (s : State) (n : Nat) (f : Pkg → Pkg) : (s.updPkg n f).pkgs = mapPut s.pkgs n (f (s.pkgAt n)) := rfl
@[simp] theorem State.updPkg_parts (s : State) (n : Nat) (f : Pkg → Pkg) : (s.updPkg n f).parts = s.parts := rfl
@[simp] theorem State.updPkg_barriers (s : State) (n : Nat) (f : Pkg → Pkg) : (s.updPkg n f).barriers = s.barriers := rfl
@[simp] theorem State.updPkg_chains (s : State) (n : Nat) (f : Pkg → Pkg) : (s.updPkg n f).chains = s.chains := rfl
@[simp] theorem State.updPkg_retry (s : State) (n : Nat) (f : Pkg → Pkg) : (s.updPkg n f).retry = s.retry := rfl
@[simp] theorem State.updPkg_mem (s : State) (n : Nat) (f : Pkg → Pkg) : (s.updPkg n f).mem = s.mem := rfl
@[simp] theorem State.updPkg_slice (s : State) (n : Nat) (f : Pkg → Pkg) : (s.updPkg n f).slice = s.slice := rfl
@[simp] theorem State.updPkg_visitors (s : State) (n : Nat) (f : Pkg → Pkg) : (s.updPkg n f).visitors = s.visitors := rfl
@[simp] theorem State.updPkg_dirs (s : State) (n : Nat) (f : Pkg → Pkg) : (s.updPkg n f).dirs = s.dirs := rfl
@[simp] theorem State.updPkg_tags (s : State) (n : Nat) (f : Pkg → Pkg) : (s.updPkg n f).tags = s.tags := rfl
@[simp] theorem State.updPkg_seams (s : State) (n : Nat) (f : Pkg → Pkg) : (s.updPkg n f).seams = s.seams := rfl
@[simp] theorem State.updPkg_poison (s : State) (n : Nat) (f : Pkg → Pkg) : (s.updPkg n f).poison = s.poison := rfl

/-! ## `updPart` -/

@[simp] theorem State.updPart_cycle (s : State) (n : Nat) (f : Partition → Partition) : (s.updPart n f).cycle = s.cycle := rfl
@[simp] theorem State.updPart_turns (s : State) (n : Nat) (f : Partition → Partition) : (s.updPart n f).turns = s.turns := rfl
@[simp] theorem State.updPart_cur (s : State) (n : Nat) (f : Partition → Partition) : (s.updPart n f).cur = s.cur := rfl
@[simp] theorem State.updPart_nextUid (s : State) (n : Nat) (f : Partition → Partition) : (s.updPart n f).nextUid = s.nextUid := rfl
@[simp] theorem State.updPart_nextSeq (s : State) (n : Nat) (f : Partition → Partition) : (s.updPart n f).nextSeq = s.nextSeq := rfl
@[simp] theorem State.updPart_threads (s : State) (n : Nat) (f : Partition → Partition) : (s.updPart n f).threads = s.threads := rfl
@[simp] theorem State.updPart_cores (s : State) (n : Nat) (f : Partition → Partition) : (s.updPart n f).cores = s.cores := rfl
@[simp] theorem State.updPart_quads (s : State) (n : Nat) (f : Partition → Partition) : (s.updPart n f).quads = s.quads := rfl
@[simp] theorem State.updPart_dies (s : State) (n : Nat) (f : Partition → Partition) : (s.updPart n f).dies = s.dies := rfl
@[simp] theorem State.updPart_pkgs (s : State) (n : Nat) (f : Partition → Partition) : (s.updPart n f).pkgs = s.pkgs := rfl
@[simp] theorem State.updPart_parts (s : State) (n : Nat) (f : Partition → Partition) : (s.updPart n f).parts = mapPut s.parts n (f (s.partAt n)) := rfl
@[simp] theorem State.updPart_barriers (s : State) (n : Nat) (f : Partition → Partition) : (s.updPart n f).barriers = s.barriers := rfl
@[simp] theorem State.updPart_chains (s : State) (n : Nat) (f : Partition → Partition) : (s.updPart n f).chains = s.chains := rfl
@[simp] theorem State.updPart_retry (s : State) (n : Nat) (f : Partition → Partition) : (s.updPart n f).retry = s.retry := rfl
@[simp] theorem State.updPart_mem (s : State) (n : Nat) (f : Partition → Partition) : (s.updPart n f).mem = s.mem := rfl
@[simp] theorem State.updPart_slice (s : State) (n : Nat) (f : Partition → Partition) : (s.updPart n f).slice = s.slice := rfl
@[simp] theorem State.updPart_visitors (s : State) (n : Nat) (f : Partition → Partition) : (s.updPart n f).visitors = s.visitors := rfl
@[simp] theorem State.updPart_dirs (s : State) (n : Nat) (f : Partition → Partition) : (s.updPart n f).dirs = s.dirs := rfl
@[simp] theorem State.updPart_tags (s : State) (n : Nat) (f : Partition → Partition) : (s.updPart n f).tags = s.tags := rfl
@[simp] theorem State.updPart_seams (s : State) (n : Nat) (f : Partition → Partition) : (s.updPart n f).seams = s.seams := rfl
@[simp] theorem State.updPart_poison (s : State) (n : Nat) (f : Partition → Partition) : (s.updPart n f).poison = s.poison := rfl

/-! ## The thread in `cur` -/

@[simp] theorem State.setThr_cycle (s : State) (x : Thread) : (s.setThr x).cycle = s.cycle := rfl
@[simp] theorem State.setThr_turns (s : State) (x : Thread) : (s.setThr x).turns = s.turns := rfl
@[simp] theorem State.setThr_cur (s : State) (x : Thread) : (s.setThr x).cur = s.cur := rfl
@[simp] theorem State.setThr_nextUid (s : State) (x : Thread) : (s.setThr x).nextUid = s.nextUid := rfl
@[simp] theorem State.setThr_nextSeq (s : State) (x : Thread) : (s.setThr x).nextSeq = s.nextSeq := rfl
@[simp] theorem State.setThr_threads (s : State) (x : Thread) : (s.setThr x).threads = mapPut s.threads s.cur x := rfl
@[simp] theorem State.setThr_cores (s : State) (x : Thread) : (s.setThr x).cores = s.cores := rfl
@[simp] theorem State.setThr_quads (s : State) (x : Thread) : (s.setThr x).quads = s.quads := rfl
@[simp] theorem State.setThr_dies (s : State) (x : Thread) : (s.setThr x).dies = s.dies := rfl
@[simp] theorem State.setThr_pkgs (s : State) (x : Thread) : (s.setThr x).pkgs = s.pkgs := rfl
@[simp] theorem State.setThr_parts (s : State) (x : Thread) : (s.setThr x).parts = s.parts := rfl
@[simp] theorem State.setThr_barriers (s : State) (x : Thread) : (s.setThr x).barriers = s.barriers := rfl
@[simp] theorem State.setThr_chains (s : State) (x : Thread) : (s.setThr x).chains = s.chains := rfl
@[simp] theorem State.setThr_retry (s : State) (x : Thread) : (s.setThr x).retry = s.retry := rfl
@[simp] theorem State.setThr_mem (s : State) (x : Thread) : (s.setThr x).mem = s.mem := rfl
@[simp] theorem State.setThr_slice (s : State) (x : Thread) : (s.setThr x).slice = s.slice := rfl
@[simp] theorem State.setThr_visitors (s : State) (x : Thread) : (s.setThr x).visitors = s.visitors := rfl
@[simp] theorem State.setThr_dirs (s : State) (x : Thread) : (s.setThr x).dirs = s.dirs := rfl
@[simp] theorem State.setThr_tags (s : State) (x : Thread) : (s.setThr x).tags = s.tags := rfl
@[simp] theorem State.setThr_seams (s : State) (x : Thread) : (s.setThr x).seams = s.seams := rfl
@[simp] theorem State.setThr_poison (s : State) (x : Thread) : (s.setThr x).poison = s.poison := rfl

/-! ## `setTag` -/

@[simp] theorem State.setTag_cycle (s : State) (pa : Nat) (b : Bool) : (s.setTag pa b).cycle = s.cycle := rfl
@[simp] theorem State.setTag_turns (s : State) (pa : Nat) (b : Bool) : (s.setTag pa b).turns = s.turns := rfl
@[simp] theorem State.setTag_cur (s : State) (pa : Nat) (b : Bool) : (s.setTag pa b).cur = s.cur := rfl
@[simp] theorem State.setTag_nextUid (s : State) (pa : Nat) (b : Bool) : (s.setTag pa b).nextUid = s.nextUid := rfl
@[simp] theorem State.setTag_nextSeq (s : State) (pa : Nat) (b : Bool) : (s.setTag pa b).nextSeq = s.nextSeq := rfl
@[simp] theorem State.setTag_threads (s : State) (pa : Nat) (b : Bool) : (s.setTag pa b).threads = s.threads := rfl
@[simp] theorem State.setTag_cores (s : State) (pa : Nat) (b : Bool) : (s.setTag pa b).cores = s.cores := rfl
@[simp] theorem State.setTag_quads (s : State) (pa : Nat) (b : Bool) : (s.setTag pa b).quads = s.quads := rfl
@[simp] theorem State.setTag_dies (s : State) (pa : Nat) (b : Bool) : (s.setTag pa b).dies = s.dies := rfl
@[simp] theorem State.setTag_pkgs (s : State) (pa : Nat) (b : Bool) : (s.setTag pa b).pkgs = s.pkgs := rfl
@[simp] theorem State.setTag_parts (s : State) (pa : Nat) (b : Bool) : (s.setTag pa b).parts = s.parts := rfl
@[simp] theorem State.setTag_barriers (s : State) (pa : Nat) (b : Bool) : (s.setTag pa b).barriers = s.barriers := rfl
@[simp] theorem State.setTag_chains (s : State) (pa : Nat) (b : Bool) : (s.setTag pa b).chains = s.chains := rfl
@[simp] theorem State.setTag_retry (s : State) (pa : Nat) (b : Bool) : (s.setTag pa b).retry = s.retry := rfl
@[simp] theorem State.setTag_mem (s : State) (pa : Nat) (b : Bool) : (s.setTag pa b).mem = s.mem := rfl
@[simp] theorem State.setTag_slice (s : State) (pa : Nat) (b : Bool) : (s.setTag pa b).slice = s.slice := rfl
@[simp] theorem State.setTag_visitors (s : State) (pa : Nat) (b : Bool) : (s.setTag pa b).visitors = s.visitors := rfl
@[simp] theorem State.setTag_dirs (s : State) (pa : Nat) (b : Bool) : (s.setTag pa b).dirs = s.dirs := rfl
@[simp] theorem State.setTag_seams (s : State) (pa : Nat) (b : Bool) : (s.setTag pa b).seams = s.seams := rfl
@[simp] theorem State.setTag_poison (s : State) (pa : Nat) (b : Bool) : (s.setTag pa b).poison = s.poison := rfl

/-! ## Registers of a thread -/

@[simp] theorem Thread.putG_uid (t : Thread) (n : Fin 16) (v : Word) : (t.putG n v).uid = t.uid := rfl
@[simp] theorem Thread.putG_g (t : Thread) (n : Fin 16) (v : Word) : (t.putG n v).g = t.g.set n v := rfl
@[simp] theorem Thread.putG_gFull (t : Thread) (n : Fin 16) (v : Word) : (t.putG n v).gFull = setBit t.gFull n.val := rfl
@[simp] theorem Thread.putG_gPend (t : Thread) (n : Fin 16) (v : Word) : (t.putG n v).gPend = t.gPend := rfl
@[simp] theorem Thread.putG_gPoison (t : Thread) (n : Fin 16) (v : Word) : (t.putG n v).gPoison = clrBit t.gPoison n.val := rfl
@[simp] theorem Thread.putG_k (t : Thread) (n : Fin 16) (v : Word) : (t.putG n v).k = t.k := rfl
@[simp] theorem Thread.putG_v (t : Thread) (n : Fin 16) (v : Word) : (t.putG n v).v = t.v := rfl
@[simp] theorem Thread.putG_vFull (t : Thread) (n : Fin 16) (v : Word) : (t.putG n v).vFull = t.vFull := rfl
@[simp] theorem Thread.putG_vPend (t : Thread) (n : Fin 16) (v : Word) : (t.putG n v).vPend = t.vPend := rfl
@[simp] theorem Thread.putG_vPoison (t : Thread) (n : Fin 16) (v : Word) : (t.putG n v).vPoison = t.vPoison := rfl
@[simp] theorem Thread.putG_kPoison (t : Thread) (n : Fin 16) (v : Word) : (t.putG n v).kPoison = t.kPoison := rfl
@[simp] theorem Thread.putG_pc (t : Thread) (n : Fin 16) (v : Word) : (t.putG n v).pc = t.pc := rfl
@[simp] theorem Thread.putG_mode (t : Thread) (n : Fin 16) (v : Word) : (t.putG n v).mode = t.mode := rfl
@[simp] theorem Thread.putG_trapent (t : Thread) (n : Fin 16) (v : Word) : (t.putG n v).trapent = t.trapent := rfl
@[simp] theorem Thread.putG_pmode (t : Thread) (n : Fin 16) (v : Word) : (t.putG n v).pmode = t.pmode := rfl
@[simp] theorem Thread.putG_idepth (t : Thread) (n : Fin 16) (v : Word) : (t.putG n v).idepth = t.idepth := rfl
@[simp] theorem Thread.putG_df (t : Thread) (n : Fin 16) (v : Word) : (t.putG n v).df = t.df := rfl
@[simp] theorem Thread.putG_ex (t : Thread) (n : Fin 16) (v : Word) : (t.putG n v).ex = t.ex := rfl
@[simp] theorem Thread.putG_fcsr (t : Thread) (n : Fin 16) (v : Word) : (t.putG n v).fcsr = t.fcsr := rfl
@[simp] theorem Thread.putG_mxctl (t : Thread) (n : Fin 16) (v : Word) : (t.putG n v).mxctl = t.mxctl := rfl
@[simp] theorem Thread.putG_alot (t : Thread) (n : Fin 16) (v : Word) : (t.putG n v).alot = t.alot := rfl
@[simp] theorem Thread.putG_syncl (t : Thread) (n : Fin 16) (v : Word) : (t.putG n v).syncl = t.syncl := rfl
@[simp] theorem Thread.putG_tcause (t : Thread) (n : Fin 16) (v : Word) : (t.putG n v).tcause = t.tcause := rfl
@[simp] theorem Thread.putG_tcause2 (t : Thread) (n : Fin 16) (v : Word) : (t.putG n v).tcause2 = t.tcause2 := rfl
@[simp] theorem Thread.putG_taddr (t : Thread) (n : Fin 16) (v : Word) : (t.putG n v).taddr = t.taddr := rfl
@[simp] theorem Thread.putG_tpc (t : Thread) (n : Fin 16) (v : Word) : (t.putG n v).tpc = t.tpc := rfl
@[simp] theorem Thread.putG_tinfo (t : Thread) (n : Fin 16) (v : Word) : (t.putG n v).tinfo = t.tinfo := rfl
@[simp] theorem Thread.putG_latch (t : Thread) (n : Fin 16) (v : Word) : (t.putG n v).latch = t.latch := rfl
@[simp] theorem Thread.putG_hold (t : Thread) (n : Fin 16) (v : Word) : (t.putG n v).hold = t.hold := rfl
@[simp] theorem Thread.putG_park (t : Thread) (n : Fin 16) (v : Word) : (t.putG n v).park = t.park := rfl
@[simp] theorem Thread.putG_mail (t : Thread) (n : Fin 16) (v : Word) : (t.putG n v).mail = t.mail := rfl
@[simp] theorem Thread.putG_stores (t : Thread) (n : Fin 16) (v : Word) : (t.putG n v).stores = t.stores := rfl
@[simp] theorem Thread.putG_chain (t : Thread) (n : Fin 16) (v : Word) : (t.putG n v).chain = t.chain := rfl
@[simp] theorem Thread.putG_ports (t : Thread) (n : Fin 16) (v : Word) : (t.putG n v).ports = t.ports := rfl
@[simp] theorem Thread.putG_task (t : Thread) (n : Fin 16) (v : Word) : (t.putG n v).task = t.task := rfl
@[simp] theorem Thread.putG_doomed (t : Thread) (n : Fin 16) (v : Word) : (t.putG n v).doomed = t.doomed := rfl
@[simp] theorem Thread.putG_lastIssue (t : Thread) (n : Fin 16) (v : Word) : (t.putG n v).lastIssue = t.lastIssue := rfl
@[simp] theorem Thread.putG_yieldTo (t : Thread) (n : Fin 16) (v : Word) : (t.putG n v).yieldTo = t.yieldTo := rfl
@[simp] theorem Thread.putG_fbuf (t : Thread) (n : Fin 16) (v : Word) : (t.putG n v).fbuf = t.fbuf := rfl
@[simp] theorem Thread.putG_kept (t : Thread) (n : Fin 16) (v : Word) : (t.putG n v).kept = t.kept := rfl
@[simp] theorem Thread.putG_ahead (t : Thread) (n : Fin 16) (v : Word) : (t.putG n v).ahead = t.ahead := rfl
@[simp] theorem Thread.putG_fresh (t : Thread) (n : Fin 16) (v : Word) : (t.putG n v).fresh = t.fresh := rfl
@[simp] theorem Thread.putG_stale (t : Thread) (n : Fin 16) (v : Word) : (t.putG n v).stale = t.stale := rfl

@[simp] theorem Thread.putV_uid (t : Thread) (n : VReg) (v : Vec) : (t.putV n v).uid = t.uid := rfl
@[simp] theorem Thread.putV_g (t : Thread) (n : VReg) (v : Vec) : (t.putV n v).g = t.g := rfl
@[simp] theorem Thread.putV_gFull (t : Thread) (n : VReg) (v : Vec) : (t.putV n v).gFull = t.gFull := rfl
@[simp] theorem Thread.putV_gPend (t : Thread) (n : VReg) (v : Vec) : (t.putV n v).gPend = t.gPend := rfl
@[simp] theorem Thread.putV_gPoison (t : Thread) (n : VReg) (v : Vec) : (t.putV n v).gPoison = t.gPoison := rfl
@[simp] theorem Thread.putV_k (t : Thread) (n : VReg) (v : Vec) : (t.putV n v).k = t.k := rfl
@[simp] theorem Thread.putV_v (t : Thread) (n : VReg) (v : Vec) : (t.putV n v).v = t.v.set n v := rfl
@[simp] theorem Thread.putV_vFull (t : Thread) (n : VReg) (v : Vec) : (t.putV n v).vFull = setBit t.vFull n.val := rfl
@[simp] theorem Thread.putV_vPend (t : Thread) (n : VReg) (v : Vec) : (t.putV n v).vPend = t.vPend := rfl
@[simp] theorem Thread.putV_vPoison (t : Thread) (n : VReg) (v : Vec) : (t.putV n v).vPoison = clrBit t.vPoison n.val := rfl
@[simp] theorem Thread.putV_kPoison (t : Thread) (n : VReg) (v : Vec) : (t.putV n v).kPoison = t.kPoison := rfl
@[simp] theorem Thread.putV_pc (t : Thread) (n : VReg) (v : Vec) : (t.putV n v).pc = t.pc := rfl
@[simp] theorem Thread.putV_mode (t : Thread) (n : VReg) (v : Vec) : (t.putV n v).mode = t.mode := rfl
@[simp] theorem Thread.putV_trapent (t : Thread) (n : VReg) (v : Vec) : (t.putV n v).trapent = t.trapent := rfl
@[simp] theorem Thread.putV_pmode (t : Thread) (n : VReg) (v : Vec) : (t.putV n v).pmode = t.pmode := rfl
@[simp] theorem Thread.putV_idepth (t : Thread) (n : VReg) (v : Vec) : (t.putV n v).idepth = t.idepth := rfl
@[simp] theorem Thread.putV_df (t : Thread) (n : VReg) (v : Vec) : (t.putV n v).df = t.df := rfl
@[simp] theorem Thread.putV_ex (t : Thread) (n : VReg) (v : Vec) : (t.putV n v).ex = t.ex := rfl
@[simp] theorem Thread.putV_fcsr (t : Thread) (n : VReg) (v : Vec) : (t.putV n v).fcsr = t.fcsr := rfl
@[simp] theorem Thread.putV_mxctl (t : Thread) (n : VReg) (v : Vec) : (t.putV n v).mxctl = t.mxctl := rfl
@[simp] theorem Thread.putV_alot (t : Thread) (n : VReg) (v : Vec) : (t.putV n v).alot = t.alot := rfl
@[simp] theorem Thread.putV_syncl (t : Thread) (n : VReg) (v : Vec) : (t.putV n v).syncl = t.syncl := rfl
@[simp] theorem Thread.putV_tcause (t : Thread) (n : VReg) (v : Vec) : (t.putV n v).tcause = t.tcause := rfl
@[simp] theorem Thread.putV_tcause2 (t : Thread) (n : VReg) (v : Vec) : (t.putV n v).tcause2 = t.tcause2 := rfl
@[simp] theorem Thread.putV_taddr (t : Thread) (n : VReg) (v : Vec) : (t.putV n v).taddr = t.taddr := rfl
@[simp] theorem Thread.putV_tpc (t : Thread) (n : VReg) (v : Vec) : (t.putV n v).tpc = t.tpc := rfl
@[simp] theorem Thread.putV_tinfo (t : Thread) (n : VReg) (v : Vec) : (t.putV n v).tinfo = t.tinfo := rfl
@[simp] theorem Thread.putV_latch (t : Thread) (n : VReg) (v : Vec) : (t.putV n v).latch = t.latch := rfl
@[simp] theorem Thread.putV_hold (t : Thread) (n : VReg) (v : Vec) : (t.putV n v).hold = t.hold := rfl
@[simp] theorem Thread.putV_park (t : Thread) (n : VReg) (v : Vec) : (t.putV n v).park = t.park := rfl
@[simp] theorem Thread.putV_mail (t : Thread) (n : VReg) (v : Vec) : (t.putV n v).mail = t.mail := rfl
@[simp] theorem Thread.putV_stores (t : Thread) (n : VReg) (v : Vec) : (t.putV n v).stores = t.stores := rfl
@[simp] theorem Thread.putV_chain (t : Thread) (n : VReg) (v : Vec) : (t.putV n v).chain = t.chain := rfl
@[simp] theorem Thread.putV_ports (t : Thread) (n : VReg) (v : Vec) : (t.putV n v).ports = t.ports := rfl
@[simp] theorem Thread.putV_task (t : Thread) (n : VReg) (v : Vec) : (t.putV n v).task = t.task := rfl
@[simp] theorem Thread.putV_doomed (t : Thread) (n : VReg) (v : Vec) : (t.putV n v).doomed = t.doomed := rfl
@[simp] theorem Thread.putV_lastIssue (t : Thread) (n : VReg) (v : Vec) : (t.putV n v).lastIssue = t.lastIssue := rfl
@[simp] theorem Thread.putV_yieldTo (t : Thread) (n : VReg) (v : Vec) : (t.putV n v).yieldTo = t.yieldTo := rfl
@[simp] theorem Thread.putV_fbuf (t : Thread) (n : VReg) (v : Vec) : (t.putV n v).fbuf = t.fbuf := rfl
@[simp] theorem Thread.putV_kept (t : Thread) (n : VReg) (v : Vec) : (t.putV n v).kept = t.kept := rfl
@[simp] theorem Thread.putV_ahead (t : Thread) (n : VReg) (v : Vec) : (t.putV n v).ahead = t.ahead := rfl
@[simp] theorem Thread.putV_fresh (t : Thread) (n : VReg) (v : Vec) : (t.putV n v).fresh = t.fresh := rfl
@[simp] theorem Thread.putV_stale (t : Thread) (n : VReg) (v : Vec) : (t.putV n v).stale = t.stale := rfl

/-! A mask register written: every other part of the thread stays. -/

@[simp] theorem Thread.putK_uid (t : Thread) (n : KReg) (x : Mask) : (t.putK n x).uid = t.uid := by
  unfold Thread.putK; split <;> rfl
@[simp] theorem Thread.putK_g (t : Thread) (n : KReg) (x : Mask) : (t.putK n x).g = t.g := by
  unfold Thread.putK; split <;> rfl
@[simp] theorem Thread.putK_gFull (t : Thread) (n : KReg) (x : Mask) : (t.putK n x).gFull = t.gFull := by
  unfold Thread.putK; split <;> rfl
@[simp] theorem Thread.putK_gPend (t : Thread) (n : KReg) (x : Mask) : (t.putK n x).gPend = t.gPend := by
  unfold Thread.putK; split <;> rfl
@[simp] theorem Thread.putK_gPoison (t : Thread) (n : KReg) (x : Mask) : (t.putK n x).gPoison = t.gPoison := by
  unfold Thread.putK; split <;> rfl
@[simp] theorem Thread.putK_v (t : Thread) (n : KReg) (x : Mask) : (t.putK n x).v = t.v := by
  unfold Thread.putK; split <;> rfl
@[simp] theorem Thread.putK_vFull (t : Thread) (n : KReg) (x : Mask) : (t.putK n x).vFull = t.vFull := by
  unfold Thread.putK; split <;> rfl
@[simp] theorem Thread.putK_vPend (t : Thread) (n : KReg) (x : Mask) : (t.putK n x).vPend = t.vPend := by
  unfold Thread.putK; split <;> rfl
@[simp] theorem Thread.putK_vPoison (t : Thread) (n : KReg) (x : Mask) : (t.putK n x).vPoison = t.vPoison := by
  unfold Thread.putK; split <;> rfl
@[simp] theorem Thread.putK_pc (t : Thread) (n : KReg) (x : Mask) : (t.putK n x).pc = t.pc := by
  unfold Thread.putK; split <;> rfl
@[simp] theorem Thread.putK_mode (t : Thread) (n : KReg) (x : Mask) : (t.putK n x).mode = t.mode := by
  unfold Thread.putK; split <;> rfl
@[simp] theorem Thread.putK_trapent (t : Thread) (n : KReg) (x : Mask) : (t.putK n x).trapent = t.trapent := by
  unfold Thread.putK; split <;> rfl
@[simp] theorem Thread.putK_pmode (t : Thread) (n : KReg) (x : Mask) : (t.putK n x).pmode = t.pmode := by
  unfold Thread.putK; split <;> rfl
@[simp] theorem Thread.putK_idepth (t : Thread) (n : KReg) (x : Mask) : (t.putK n x).idepth = t.idepth := by
  unfold Thread.putK; split <;> rfl
@[simp] theorem Thread.putK_df (t : Thread) (n : KReg) (x : Mask) : (t.putK n x).df = t.df := by
  unfold Thread.putK; split <;> rfl
@[simp] theorem Thread.putK_ex (t : Thread) (n : KReg) (x : Mask) : (t.putK n x).ex = t.ex := by
  unfold Thread.putK; split <;> rfl
@[simp] theorem Thread.putK_fcsr (t : Thread) (n : KReg) (x : Mask) : (t.putK n x).fcsr = t.fcsr := by
  unfold Thread.putK; split <;> rfl
@[simp] theorem Thread.putK_mxctl (t : Thread) (n : KReg) (x : Mask) : (t.putK n x).mxctl = t.mxctl := by
  unfold Thread.putK; split <;> rfl
@[simp] theorem Thread.putK_alot (t : Thread) (n : KReg) (x : Mask) : (t.putK n x).alot = t.alot := by
  unfold Thread.putK; split <;> rfl
@[simp] theorem Thread.putK_syncl (t : Thread) (n : KReg) (x : Mask) : (t.putK n x).syncl = t.syncl := by
  unfold Thread.putK; split <;> rfl
@[simp] theorem Thread.putK_tcause (t : Thread) (n : KReg) (x : Mask) : (t.putK n x).tcause = t.tcause := by
  unfold Thread.putK; split <;> rfl
@[simp] theorem Thread.putK_tcause2 (t : Thread) (n : KReg) (x : Mask) : (t.putK n x).tcause2 = t.tcause2 := by
  unfold Thread.putK; split <;> rfl
@[simp] theorem Thread.putK_taddr (t : Thread) (n : KReg) (x : Mask) : (t.putK n x).taddr = t.taddr := by
  unfold Thread.putK; split <;> rfl
@[simp] theorem Thread.putK_tpc (t : Thread) (n : KReg) (x : Mask) : (t.putK n x).tpc = t.tpc := by
  unfold Thread.putK; split <;> rfl
@[simp] theorem Thread.putK_tinfo (t : Thread) (n : KReg) (x : Mask) : (t.putK n x).tinfo = t.tinfo := by
  unfold Thread.putK; split <;> rfl
@[simp] theorem Thread.putK_latch (t : Thread) (n : KReg) (x : Mask) : (t.putK n x).latch = t.latch := by
  unfold Thread.putK; split <;> rfl
@[simp] theorem Thread.putK_hold (t : Thread) (n : KReg) (x : Mask) : (t.putK n x).hold = t.hold := by
  unfold Thread.putK; split <;> rfl
@[simp] theorem Thread.putK_park (t : Thread) (n : KReg) (x : Mask) : (t.putK n x).park = t.park := by
  unfold Thread.putK; split <;> rfl
@[simp] theorem Thread.putK_mail (t : Thread) (n : KReg) (x : Mask) : (t.putK n x).mail = t.mail := by
  unfold Thread.putK; split <;> rfl
@[simp] theorem Thread.putK_stores (t : Thread) (n : KReg) (x : Mask) : (t.putK n x).stores = t.stores := by
  unfold Thread.putK; split <;> rfl
@[simp] theorem Thread.putK_chain (t : Thread) (n : KReg) (x : Mask) : (t.putK n x).chain = t.chain := by
  unfold Thread.putK; split <;> rfl
@[simp] theorem Thread.putK_ports (t : Thread) (n : KReg) (x : Mask) : (t.putK n x).ports = t.ports := by
  unfold Thread.putK; split <;> rfl
@[simp] theorem Thread.putK_task (t : Thread) (n : KReg) (x : Mask) : (t.putK n x).task = t.task := by
  unfold Thread.putK; split <;> rfl
@[simp] theorem Thread.putK_doomed (t : Thread) (n : KReg) (x : Mask) : (t.putK n x).doomed = t.doomed := by
  unfold Thread.putK; split <;> rfl
@[simp] theorem Thread.putK_lastIssue (t : Thread) (n : KReg) (x : Mask) : (t.putK n x).lastIssue = t.lastIssue := by
  unfold Thread.putK; split <;> rfl
@[simp] theorem Thread.putK_yieldTo (t : Thread) (n : KReg) (x : Mask) : (t.putK n x).yieldTo = t.yieldTo := by
  unfold Thread.putK; split <;> rfl
@[simp] theorem Thread.putK_fbuf (t : Thread) (n : KReg) (x : Mask) : (t.putK n x).fbuf = t.fbuf := by
  unfold Thread.putK; split <;> rfl
@[simp] theorem Thread.putK_kept (t : Thread) (n : KReg) (x : Mask) : (t.putK n x).kept = t.kept := by
  unfold Thread.putK; split <;> rfl
@[simp] theorem Thread.putK_ahead (t : Thread) (n : KReg) (x : Mask) : (t.putK n x).ahead = t.ahead := by
  unfold Thread.putK; split <;> rfl
@[simp] theorem Thread.putK_fresh (t : Thread) (n : KReg) (x : Mask) : (t.putK n x).fresh = t.fresh := by
  unfold Thread.putK; split <;> rfl
@[simp] theorem Thread.putK_stale (t : Thread) (n : KReg) (x : Mask) : (t.putK n x).stale = t.stale := by
  unfold Thread.putK; split <;> rfl
@[simp] theorem Thread.putK_mask (t : Thread) (n : KReg) (x : Mask) (h : n ≠ 0) : (t.putK n x).mask n = x := by
  simp only [Thread.putK, Thread.mask, beq_iff_eq, h, if_false]
  exact Vector.getElem_set_self n.isLt
@[simp] theorem Thread.putK_maskBad (t : Thread) (n : KReg) (x : Mask) : (t.putK n x).maskBad n = false := by
  by_cases h : n = 0 <;> simp [Thread.putK, Thread.maskBad, h, clrBit]

@[simp] theorem Thread.retire_uid (t : Thread) (n : Nat) (nx : Next) (c : Nat) : (t.retire n nx c).uid = t.uid := rfl
@[simp] theorem Thread.retire_g (t : Thread) (n : Nat) (nx : Next) (c : Nat) : (t.retire n nx c).g = t.g := rfl
@[simp] theorem Thread.retire_gFull (t : Thread) (n : Nat) (nx : Next) (c : Nat) : (t.retire n nx c).gFull = t.gFull := rfl
@[simp] theorem Thread.retire_gPend (t : Thread) (n : Nat) (nx : Next) (c : Nat) : (t.retire n nx c).gPend = t.gPend := rfl
@[simp] theorem Thread.retire_gPoison (t : Thread) (n : Nat) (nx : Next) (c : Nat) : (t.retire n nx c).gPoison = t.gPoison := rfl
@[simp] theorem Thread.retire_k (t : Thread) (n : Nat) (nx : Next) (c : Nat) : (t.retire n nx c).k = t.k := rfl
@[simp] theorem Thread.retire_v (t : Thread) (n : Nat) (nx : Next) (c : Nat) : (t.retire n nx c).v = t.v := rfl
@[simp] theorem Thread.retire_vFull (t : Thread) (n : Nat) (nx : Next) (c : Nat) : (t.retire n nx c).vFull = t.vFull := rfl
@[simp] theorem Thread.retire_vPend (t : Thread) (n : Nat) (nx : Next) (c : Nat) : (t.retire n nx c).vPend = t.vPend := rfl
@[simp] theorem Thread.retire_vPoison (t : Thread) (n : Nat) (nx : Next) (c : Nat) : (t.retire n nx c).vPoison = t.vPoison := rfl
@[simp] theorem Thread.retire_kPoison (t : Thread) (n : Nat) (nx : Next) (c : Nat) : (t.retire n nx c).kPoison = t.kPoison := rfl
@[simp] theorem Thread.retire_mode (t : Thread) (n : Nat) (nx : Next) (c : Nat) : (t.retire n nx c).mode = t.mode := rfl
@[simp] theorem Thread.retire_trapent (t : Thread) (n : Nat) (nx : Next) (c : Nat) : (t.retire n nx c).trapent = t.trapent := rfl
@[simp] theorem Thread.retire_pmode (t : Thread) (n : Nat) (nx : Next) (c : Nat) : (t.retire n nx c).pmode = t.pmode := rfl
@[simp] theorem Thread.retire_idepth (t : Thread) (n : Nat) (nx : Next) (c : Nat) : (t.retire n nx c).idepth = t.idepth := rfl
@[simp] theorem Thread.retire_df (t : Thread) (n : Nat) (nx : Next) (c : Nat) : (t.retire n nx c).df = t.df := rfl
@[simp] theorem Thread.retire_ex (t : Thread) (n : Nat) (nx : Next) (c : Nat) : (t.retire n nx c).ex = t.ex := rfl
@[simp] theorem Thread.retire_fcsr (t : Thread) (n : Nat) (nx : Next) (c : Nat) : (t.retire n nx c).fcsr = t.fcsr := rfl
@[simp] theorem Thread.retire_mxctl (t : Thread) (n : Nat) (nx : Next) (c : Nat) : (t.retire n nx c).mxctl = t.mxctl := rfl
@[simp] theorem Thread.retire_alot (t : Thread) (n : Nat) (nx : Next) (c : Nat) : (t.retire n nx c).alot = t.alot := rfl
@[simp] theorem Thread.retire_syncl (t : Thread) (n : Nat) (nx : Next) (c : Nat) : (t.retire n nx c).syncl = t.syncl := rfl
@[simp] theorem Thread.retire_tcause (t : Thread) (n : Nat) (nx : Next) (c : Nat) : (t.retire n nx c).tcause = t.tcause := rfl
@[simp] theorem Thread.retire_tcause2 (t : Thread) (n : Nat) (nx : Next) (c : Nat) : (t.retire n nx c).tcause2 = t.tcause2 := rfl
@[simp] theorem Thread.retire_taddr (t : Thread) (n : Nat) (nx : Next) (c : Nat) : (t.retire n nx c).taddr = t.taddr := rfl
@[simp] theorem Thread.retire_tpc (t : Thread) (n : Nat) (nx : Next) (c : Nat) : (t.retire n nx c).tpc = t.tpc := rfl
@[simp] theorem Thread.retire_tinfo (t : Thread) (n : Nat) (nx : Next) (c : Nat) : (t.retire n nx c).tinfo = t.tinfo := rfl
@[simp] theorem Thread.retire_latch (t : Thread) (n : Nat) (nx : Next) (c : Nat) : (t.retire n nx c).latch = t.latch := rfl
@[simp] theorem Thread.retire_stores (t : Thread) (n : Nat) (nx : Next) (c : Nat) : (t.retire n nx c).stores = t.stores := rfl
@[simp] theorem Thread.retire_chain (t : Thread) (n : Nat) (nx : Next) (c : Nat) : (t.retire n nx c).chain = t.chain := rfl
@[simp] theorem Thread.retire_ports (t : Thread) (n : Nat) (nx : Next) (c : Nat) : (t.retire n nx c).ports = t.ports := rfl
@[simp] theorem Thread.retire_task (t : Thread) (n : Nat) (nx : Next) (c : Nat) : (t.retire n nx c).task = t.task := rfl
@[simp] theorem Thread.retire_doomed (t : Thread) (n : Nat) (nx : Next) (c : Nat) : (t.retire n nx c).doomed = t.doomed := rfl
@[simp] theorem Thread.retire_fbuf (t : Thread) (n : Nat) (nx : Next) (c : Nat) : (t.retire n nx c).fbuf = t.fbuf := rfl
@[simp] theorem Thread.retire_ahead (t : Thread) (n : Nat) (nx : Next) (c : Nat) : (t.retire n nx c).ahead = t.ahead := rfl
@[simp] theorem Thread.retire_fresh (t : Thread) (n : Nat) (nx : Next) (c : Nat) : (t.retire n nx c).fresh = t.fresh := rfl
@[simp] theorem Thread.retire_stale (t : Thread) (n : Nat) (nx : Next) (c : Nat) : (t.retire n nx c).stale = t.stale := rfl
@[simp] theorem Thread.retire_kept (t : Thread) (n : Nat) (nx : Next) (c : Nat) : (t.retire n nx c).kept = [] := rfl
@[simp] theorem Thread.retire_pc_seq (t : Thread) (n c : Nat) : (t.retire n .seq c).pc = t.pc + BitVec.ofNat 64 n := rfl
@[simp] theorem Thread.retire_pc_jump (t : Thread) (n c : Nat) (pc : Word) : (t.retire n (.jump pc) c).pc = pc := rfl
@[simp] theorem Thread.retire_hold (t : Thread) (n : Nat) (nx : Next) (c : Nat) : (t.retire n nx c).hold = none := rfl
@[simp] theorem Thread.retire_park (t : Thread) (n : Nat) (nx : Next) (c : Nat) : (t.retire n nx c).park = none := rfl
@[simp] theorem Thread.retire_mail (t : Thread) (n : Nat) (nx : Next) (c : Nat) : (t.retire n nx c).mail = [] := rfl
@[simp] theorem Thread.retire_lastIssue (t : Thread) (n : Nat) (nx : Next) (c : Nat) : (t.retire n nx c).lastIssue = some c := rfl

end Sys2Proof.Machine
end

