-- ==== Sys2Proof/Laws/Memory.lean ====
section
/-! SUPPORT. The laws of tables and of memory: reading after writing, and that every operation on memory keeps its
canonical form. -/
namespace Sys2Proof.Machine

/-! ## Tables -/

@[simp] theorem mapGet_nil {α : Type} (n : Nat) : mapGet ([] : List (Nat × α)) n = none := rfl

theorem mapGet_cons {α : Type} (k : Nat) (v : α) (r : List (Nat × α)) (n : Nat) :
    mapGet ((k, v) :: r) n = if k = n then some v else mapGet r n := by
  simp [mapGet]

@[simp] theorem mapGet_put_self {α : Type} (m : List (Nat × α)) (n : Nat) (v : α) : mapGet (mapPut m n v) n = some v := by
  induction m with
  | nil => simp [mapPut, mapGet]
  | cons h t ih =>
    obtain ⟨k, w⟩ := h
    simp only [mapPut]
    split
    · simp [mapGet]
    · split
      · simp [mapGet]
      · simp_all [mapGet]

theorem mapGet_put_ne {α : Type} (m : List (Nat × α)) {n k : Nat} (v : α) (h : n ≠ k) :
    mapGet (mapPut m n v) k = mapGet m k := by
  induction m with
  | nil => simp [mapPut, mapGet, h]
  | cons a t ih =>
    obtain ⟨j, w⟩ := a
    simp only [mapPut]
    split
    · simp [mapGet, h]
    · split
      · rename_i hj
        have : j = n := by simpa using hj
        simp [mapGet, h, this]
      · simp [mapGet, ih]

theorem mapGet_put {α : Type} (m : List (Nat × α)) (n k : Nat) (v : α) :
    mapGet (mapPut m n v) k = if n = k then some v else mapGet m k := by
  split
  · next h => subst h; simp
  · next h => exact mapGet_put_ne m v h

theorem mapGet_del_ne {α : Type} (m : List (Nat × α)) {n k : Nat} (h : n ≠ k) : mapGet (mapDel m n) k = mapGet m k := by
  induction m with
  | nil => rfl
  | cons a t ih =>
    obtain ⟨j, w⟩ := a
    simp only [mapDel]
    split
    · rename_i hj
      have : j = n := by simpa using hj
      simp [mapGet, this, h, ih]
    · simp [mapGet, ih]

/-- Rising numbers, as Mathlib's pairwise order. -/
theorem mapRising_iff {α : Type} (m : List (Nat × α)) : mapRising m = true ↔ (m.map Prod.fst).Pairwise (· < ·) := by
  induction m with
  | nil => simp [mapRising]
  | cons a t ih =>
    cases t with
    | nil => simp [mapRising]
    | cons b r =>
      obtain ⟨i, x⟩ := a
      obtain ⟨j, y⟩ := b
      simp only [mapRising, Bool.and_eq_true, decide_eq_true_eq, ih, List.map_cons, List.pairwise_cons,
        List.mem_cons, forall_eq_or_imp]
      constructor
      · rintro ⟨h, h1, h2⟩
        exact ⟨⟨h, fun k hk => h.trans (h1 k hk)⟩, h1, h2⟩
      · rintro ⟨⟨h, _⟩, h1, h2⟩
        exact ⟨h, h1, h2⟩

theorem mem_mapPut {α : Type} {m : List (Nat × α)} {n : Nat} {v : α} {c : Nat × α} (h : c ∈ mapPut m n v) :
    c = (n, v) ∨ c ∈ m := by
  induction m with
  | nil => simpa [mapPut] using h
  | cons a t ih =>
    obtain ⟨k, w⟩ := a
    simp only [mapPut] at h
    split at h
    · exact List.mem_cons.mp h
    · split at h
      · rcases List.mem_cons.mp h with h | h
        · exact .inl h
        · exact .inr (List.mem_cons_of_mem _ h)
      · rcases List.mem_cons.mp h with h | h
        · exact .inr (h ▸ List.mem_cons_self)
        · exact (ih h).imp id (List.mem_cons_of_mem _)

theorem mem_mapDel {α : Type} {m : List (Nat × α)} {n : Nat} {c : Nat × α} (h : c ∈ mapDel m n) : c ∈ m := by
  induction m with
  | nil => simp [mapDel] at h
  | cons a t ih =>
    obtain ⟨k, w⟩ := a
    simp only [mapDel] at h
    split at h
    · exact List.mem_cons_of_mem _ (ih h)
    · rcases List.mem_cons.mp h with h | h
      · exact h ▸ List.mem_cons_self
      · exact List.mem_cons_of_mem _ (ih h)

theorem mapRising_put {α : Type} {m : List (Nat × α)} (h : mapRising m = true) (n : Nat) (v : α) :
    mapRising (mapPut m n v) = true := by
  rw [mapRising_iff] at *
  induction m with
  | nil => simp [mapPut]
  | cons a t ih =>
    obtain ⟨k, w⟩ := a
    simp only [List.map_cons, List.pairwise_cons, List.mem_map, forall_exists_index, and_imp] at h
    simp only [mapPut]
    split
    · rename_i hn
      simp only [List.map_cons, List.pairwise_cons, List.mem_cons, List.mem_map, forall_eq_or_imp,
        forall_exists_index, and_imp]
      exact ⟨⟨hn, fun j c hc e => hn.trans (h.1 j c hc e)⟩, h.1, h.2⟩
    · split
      · rename_i hk
        have : k = n := by simpa using hk
        subst this
        simp only [List.map_cons, List.pairwise_cons, List.mem_map, forall_exists_index, and_imp]
        exact h
      · rename_i hn hk
        simp only [List.map_cons, List.pairwise_cons, List.mem_map, forall_exists_index, and_imp]
        refine ⟨?_, ih h.2⟩
        rintro j c hc rfl
        rcases mem_mapPut hc with rfl | hc
        · have : k ≠ n := by simpa using hk
          show k < n
          omega
        · exact h.1 _ c hc rfl

theorem mapRising_del {α : Type} {m : List (Nat × α)} (h : mapRising m = true) (n : Nat) :
    mapRising (mapDel m n) = true := by
  rw [mapRising_iff] at *
  induction m with
  | nil => simp [mapDel]
  | cons a t ih =>
    obtain ⟨k, w⟩ := a
    simp only [List.map_cons, List.pairwise_cons, List.mem_map, forall_exists_index, and_imp] at h
    simp only [mapDel]
    split
    · exact ih h.2
    · simp only [List.map_cons, List.pairwise_cons, List.mem_map, forall_exists_index, and_imp]
      exact ⟨fun j c hc e => h.1 j c (mem_mapDel hc) e, ih h.2⟩

theorem mapRising_filter {α : Type} {m : List (Nat × α)} (h : mapRising m = true) (p : Nat × α → Bool) :
    mapRising (m.filter p) = true := by
  rw [mapRising_iff] at *
  exact h.sublist ((List.filter_sublist).map _)

theorem mapGet_del_self {α : Type} (m : List (Nat × α)) (n : Nat) : mapGet (mapDel m n) n = none := by
  induction m with
  | nil => rfl
  | cons a t ih =>
    obtain ⟨k, w⟩ := a
    simp only [mapDel]
    split
    · exact ih
    · rename_i hk
      have : ¬ k = n := by simpa using hk
      simp [mapGet, this, ih]

/-! ## Memory -/

theorem Memory.wf_iff (m : List Host.Cell) :
    Memory.wf m = true ↔ mapRising m = true ∧ ∀ c ∈ m, c.2 ≠ Config.coldByte := by
  simp [Memory.wf]

theorem Memory.wf_nil : Memory.wf [] = true := rfl

theorem Memory.wf_write {m : List Host.Cell} (h : Memory.wf m = true) (a : Nat) (b : Byte) :
    Memory.wf (Memory.write m a b) = true := by
  rw [Memory.wf_iff] at *
  unfold Memory.write
  split
  · exact ⟨mapRising_del h.1 a, fun c hc => h.2 c (mem_mapDel hc)⟩
  · rename_i hb
    refine ⟨mapRising_put h.1 a b, fun c hc => ?_⟩
    rcases mem_mapPut hc with rfl | hc
    · simpa using hb
    · exact h.2 c hc

theorem Memory.wf_filter {m : List Host.Cell} (h : Memory.wf m = true) (p : Host.Cell → Bool) :
    Memory.wf (m.filter p) = true := by
  rw [Memory.wf_iff] at *
  exact ⟨mapRising_filter h.1 p, fun c hc => h.2 c (List.mem_of_mem_filter hc)⟩

theorem Memory.wf_clear {m : List Host.Cell} (h : Memory.wf m = true) (lo hi : Nat) :
    Memory.wf (Memory.clear m lo hi) = true := Memory.wf_filter h _

theorem Memory.wf_writes {m : List Host.Cell} (h : Memory.wf m = true) (l : List Host.Cell) :
    Memory.wf (l.foldl (fun m c => Memory.write m c.1 c.2) m) = true := by
  induction l generalizing m with
  | nil => exact h
  | cons c t ih => exact ih (Memory.wf_write h c.1 c.2)

theorem Memory.wf_writeBack {m : List Host.Cell} (h : Memory.wf m = true) (l : List Host.Cell) :
    Memory.wf (writeBack m l) = true := by
  induction l with
  | nil => exact h
  | cons c t ih => exact Memory.wf_write ih c.1 c.2

theorem Memory.read_write_ne {m : List Host.Cell} {a k : Nat} (b : Byte) (h : a ≠ k) :
    Memory.read (Memory.write m a b) k = Memory.read m k := by
  unfold Memory.read Memory.write
  split
  · rw [mapGet_del_ne m h]
  · rw [mapGet_put_ne m b h]

theorem Memory.read_write_self (m : List Host.Cell) (a : Nat) (b : Byte) : Memory.read (Memory.write m a b) a = b := by
  unfold Memory.read Memory.write
  split
  · rename_i hb
    rw [mapGet_del_self]
    have : b = Config.coldByte := by simpa using hb
    simp [this]
  · simp

theorem State.reset_mem_wf : Memory.wf State.reset.mem = true := rfl

/-! ## Entries of the pod -/

@[simp] theorem State.coreAt_setCore_self (s : State) (c : Nat) (x : Core) : (s.setCore c x).coreAt c = x := by
  simp [State.coreAt]

theorem State.coreAt_setCore_ne (s : State) {c d : Nat} (x : Core) (h : c ≠ d) : (s.setCore c x).coreAt d = s.coreAt d := by
  simp [State.coreAt, mapGet_put_ne _ _ h]

@[simp] theorem State.quadAt_setQuad_self (s : State) (c : Nat) (x : Quad) : (s.setQuad c x).quadAt c = x := by
  simp [State.quadAt]

@[simp] theorem State.dieAt_setDie_self (s : State) (c : Nat) (x : Die) : (s.setDie c x).dieAt c = x := by
  simp [State.dieAt]

@[simp] theorem State.pkgAt_setPkg_self (s : State) (c : Nat) (x : Pkg) : (s.setPkg c x).pkgAt c = x := by
  simp [State.pkgAt]

@[simp] theorem State.partAt_setPart_self (s : State) (c : Nat) (x : Partition) : (s.setPart c x).partAt c = x := by
  simp [State.partAt]

@[simp] theorem State.coreAt_updCore_self (s : State) (c : Nat) (f : Core → Core) :
    (s.updCore c f).coreAt c = f (s.coreAt c) := by
  simp [State.updCore]

@[simp] theorem State.quadAt_updQuad_self (s : State) (c : Nat) (f : Quad → Quad) :
    (s.updQuad c f).quadAt c = f (s.quadAt c) := by
  simp [State.updQuad]

@[simp] theorem State.dieAt_updDie_self (s : State) (c : Nat) (f : Die → Die) :
    (s.updDie c f).dieAt c = f (s.dieAt c) := by
  simp [State.updDie]

@[simp] theorem State.pkgAt_updPkg_self (s : State) (c : Nat) (f : Pkg → Pkg) :
    (s.updPkg c f).pkgAt c = f (s.pkgAt c) := by
  simp [State.updPkg]

@[simp] theorem State.partAt_updPart_self (s : State) (c : Nat) (f : Partition → Partition) :
    (s.updPart c f).partAt c = f (s.partAt c) := by
  simp [State.updPart]

@[simp] theorem State.thread_setThread_self (s : State) (t : Nat) (x : Thread) : (s.setThread t x).thread? t = some x := by
  simp [State.thread?]

theorem State.thread_setThread_ne (s : State) {t k : Nat} (x : Thread) (h : t ≠ k) :
    (s.setThread t x).thread? k = s.thread? k := by
  simp [State.thread?, mapGet_put_ne _ _ h]

@[simp] theorem State.thr_setThr (s : State) (x : Thread) : (s.setThr x).thr = x := by
  simp [State.thr, State.thread?]

@[simp] theorem State.thread_setThr (s : State) (x : Thread) : (s.setThr x).thread? s.cur = some x := by
  simp [State.thread?]

end Sys2Proof.Machine
end

