-- ==== Sys2Proof/Laws/Run.lean ====
section
/-! SUPPORT. What the execution of one instruction can do: the monad of the meanings, the checks before an
instruction's own operation, and its end. -/
namespace Sys2Proof.Machine

/-! ## The monad of the meanings -/

@[simp] theorem M.pure_apply {α : Type} (a : α) (s : State) : (pure a : M α) s = .ok a s := rfl

@[simp] theorem M.get_apply (s : State) : (get : M State) s = .ok s s := rfl

@[simp] theorem M.set_apply (x s : State) : (set x : M PUnit) s = .ok ⟨⟩ x := rfl

@[simp] theorem M.modify_apply (f : State → State) (s : State) : (modify f : M PUnit) s = .ok ⟨⟩ (f s) := rfl

theorem M.bind_apply {α β : Type} (x : M α) (f : α → M β) (s : State) :
    (x >>= f) s = match x s with
      | .ok a s1 => f a s1
      | .error e s1 => .error e s1 := by
  show EStateM.bind x f s = _
  unfold EStateM.bind
  cases x s <;> rfl

theorem M.map_apply {α β : Type} (f : α → β) (x : M α) (s : State) :
    (f <$> x) s = match x s with
      | .ok a s1 => .ok (f a) s1
      | .error e s1 => .error e s1 := by
  show EStateM.map f x s = _
  unfold EStateM.map
  cases x s <;> rfl

@[simp] theorem M.bind_ok {α β : Type} {x : M α} {f : α → M β} {s s1 : State} {a : α} (h : x s = .ok a s1) :
    (x >>= f) s = f a s1 := by
  simp [M.bind_apply, h]

@[simp] theorem M.bind_error {α β : Type} {x : M α} {f : α → M β} {s s1 : State} {e : Stop} (h : x s = .error e s1) :
    (x >>= f) s = .error e s1 := by
  simp [M.bind_apply, h]

@[simp] theorem M.throw_apply {α : Type} (e : Stop) (s : State) : (throw e : M α) s = .error e s := rfl

@[simp] theorem raise_apply {α : Type} (c : Nat) (s : State) : (raise c : M α) s = .error (.trap (mkTrap c 0 0) false) s := rfl

@[simp] theorem raiseAt_apply {α : Type} (c a i : Nat) (s : State) :
    (raiseAt c a i : M α) s = .error (.trap (mkTrap c a i) false) s := rfl

@[simp] theorem raiseT_apply {α : Type} (t : Trap) (s : State) : (raiseT t : M α) s = .error (.trap t false) s := rfl

@[simp] theorem park_apply {α : Type} (p : Park) (s : State) : (park p : M α) s = .error (.park p) s := rfl

@[simp] theorem rdS_apply (r : Sc) (s : State) : rdS r s = .ok (s.operand r) s := rfl

/-- A register that no earlier issue has read is read now. -/
theorem State.operand_eq {s : State} {r : Sc} (h : s.isKept r = false) : s.operand r = s.sc r := by
  have hf : s.thr.kept.find? (fun e => e.1 == r) = none := by
    rw [List.find?_eq_none]
    intro e he heq
    have : s.isKept r = true := List.any_eq_true.mpr ⟨e, he, heq⟩
    simp [h] at this
  simp [State.operand, hf]

theorem State.operand_thread {s t : State} (h : t.thr.kept = s.thr.kept) (r : Sc) (hs : t.sc r = s.sc r) :
    t.operand r = s.operand r := by
  simp [State.operand, h, hs]

@[simp] theorem wrS_apply (r : Sc) (v : Word) (s : State) : wrS r v s = .ok () (s.putSc r v) := rfl

@[simp] theorem rdK_apply (k : KReg) (s : State) : rdK k s = .ok (s.thr.mask k) s := rfl

@[simp] theorem wrK_apply (k : KReg) (x : Mask) (s : State) : wrK k x s = .ok () (s.setThr (s.thr.putK k x)) := rfl

@[simp] theorem getThr_apply (s : State) : getThr s = .ok s.thr s := rfl

@[simp] theorem setThrM_apply (t : Thread) (s : State) : setThrM t s = .ok () (s.setThr t) := rfl

@[simp] theorem updThr_apply (f : Thread → Thread) (s : State) : updThr f s = .ok () (s.setThr (f s.thr)) := rfl

@[simp] theorem trans_ok {x : Access} {va : Word} {s : State} {p : Phys} (h : s.translate s.core s.thr.mode x va = .ok p) :
    trans x va s = .ok p s := by
  simp [trans, h]

@[simp] theorem trans_error {x : Access} {va : Word} {s : State} {t : Trap}
    (h : s.translate s.core s.thr.mode x va = .error t) : trans x va s = .error (.trap t false) s := by
  simp [trans, h]

/-! ## The checks before an instruction's own operation -/

/-- A thread stands in `cur`, and every scalar register of the list is full and not poisoned. -/
theorem checkUses_scalar {s : State} {l : List Sc} {d : Option Sc} {p : Bool}
    (hl : ∀ r ∈ l, s.scFull r = true ∧ s.scPois r = false ∧ s.isKept r = false) (hd : ∀ r, d = some r → Sc.isI r = false)
    (hp : p = true → s.thr.mode = .super) :
    checkUses { dst := d, rd := l, priv := p } s = none := by
  have hpriv : (p && s.thr.mode == .user) = false := by
    cases p
    · rfl
    · simp [hp rfl]
  have hfull : l.any (fun r => !s.isKept r && !s.scFull r) = false := by
    simp only [List.any_eq_false]
    exact fun r hr => by simp [(hl r hr).1]
  have hpois : l.find? (fun r => !s.isKept r && s.scPois r) = none := by
    simp only [List.find?_eq_none]
    exact fun r hr => by simp [(hl r hr).2.1]
  unfold checkUses
  simp only [hpriv, hfull, hpois, List.any_nil, Bool.or_false, List.find?_nil]
  cases d with
  | none => simp
  | some r => simp [hd r rfl]

/-! ## The end of an instruction -/

theorem run_ok {i : Instr} {u : Uses} {body : M Next} {s s1 : State} {nx : Next} (ht : (s.thread? s.cur).isSome = true)
    (hu : checkUses u s = none) (hb : body s = .ok nx s1) : run i u body s = .next (s1.retire (instrLen i) nx) := by
  obtain ⟨t, ht⟩ := Option.isSome_iff_exists.mp ht
  simp [run, ht, hu, hb]

theorem run_trap {i : Instr} {u : Uses} {body : M Next} {s s1 : State} {t : Trap}
    (ht : (s.thread? s.cur).isSome = true) (hu : checkUses u s = none) (hb : body s = .error (.trap t false) s1) :
    run i u body s = .next (s.takeTrap s.cur (some (.instr i)) t) := by
  obtain ⟨x, ht⟩ := Option.isSome_iff_exists.mp ht
  simp [run, ht, hu, hb]

theorem run_park {i : Instr} {u : Uses} {body : M Next} {s s1 : State} {p : Park}
    (ht : (s.thread? s.cur).isSome = true) (hu : checkUses u s = none) (hb : body s = .error (.park p) s1) :
    run i u body s = .next (s1.parkBegun i p (u.rd.map (fun r => (r, s.operand r)))) := by
  obtain ⟨x, ht⟩ := Option.isSome_iff_exists.mp ht
  simp [run, ht, hu, hb]

/-- A failed check takes its fault. -/
theorem run_checked {i : Instr} {u : Uses} {body : M Next} {s : State} {t : Trap} {b : Bool}
    (ht : (s.thread? s.cur).isSome = true) (hu : checkUses u s = some (.trap t b)) :
    run i u body s = .next (s.takeTrap s.cur (some (.instr i)) t) := by
  obtain ⟨x, ht⟩ := Option.isSome_iff_exists.mp ht
  simp [run, ht, hu]

/-- Everything an execution can end in. -/
theorem run_cases {i : Instr} {u : Uses} {body : M Next} {s t : State} (h : run i u body s = .next t) :
    (∃ tr b, checkUses u s = some (.trap tr b) ∧ t = s.takeTrap s.cur (some (.instr i)) tr) ∨
    (∃ p, checkUses u s = some (.park p) ∧ t = s.parkHere i p) ∨
    (∃ nx s1, checkUses u s = none ∧ body s = .ok nx s1 ∧ t = s1.retire (instrLen i) nx) ∨
    (∃ tr k s1, checkUses u s = none ∧ body s = .error (.trap tr k) s1 ∧
      t = (if k then s1.undrawSince s else s).takeTrap s.cur (some (.instr i)) tr) ∨
    (∃ p s1, checkUses u s = none ∧ body s = .error (.park p) s1 ∧
      t = s1.parkBegun i p (u.rd.map (fun r => (r, s.operand r)))) := by
  unfold run at h
  split at h
  · cases h
  · split at h
    · rename_i tr b hc
      injection h with h
      exact .inl ⟨tr, b, hc, h.symm⟩
    · rename_i p hc
      injection h with h
      exact .inr (.inl ⟨p, hc, h.symm⟩)
    · cases h
    · rename_i hc
      split at h
      · rename_i nx s1 hb
        injection h with h
        exact .inr (.inr (.inl ⟨nx, s1, hc, hb, h.symm⟩))
      · rename_i tr k s1 hb
        injection h with h
        exact .inr (.inr (.inr (.inl ⟨tr, k, s1, hc, hb, h.symm⟩)))
      · rename_i p s1 hb
        injection h with h
        exact .inr (.inr (.inr (.inr ⟨p, s1, hc, hb, h.symm⟩)))
      · cases h

/-! ## Second sources -/

/-- The value of a second source. -/
theorem rdSrc2_apply (b : Src2) (s : State) :
    rdSrc2 b s = .ok (match b with | .reg r => s.operand r | .imm v => immVal v) s := by
  cases b <;> rfl

/-- The flags of an operation none of whose enabled flags is raised. -/
theorem raiseFlags_ok {fl : Nat} {s : State} (h : enabledFlags s.thr.fcsr fl = 0) :
    raiseFlags fl s = .ok () (s.setThr { s.thr with fcsr := s.thr.fcsr ||| BitVec.ofNat 10 fl }) := by
  simp [raiseFlags, h]

end Sys2Proof.Machine
end

