-- ==== Sys2Proof/Laws/Scalar.lean ====
section
/-! SUPPORT. What each shared operation of the scalar classes does when its thread can run. -/
namespace Sys2Proof.Machine

theorem State.readable_iff (s : State) (l : List Sc) :
    s.readable l = true ↔ (s.thread? s.cur).isSome = true ∧
      ∀ r ∈ l, s.scFull r = true ∧ s.scPois r = false ∧ s.isKept r = false := by
  simp [State.readable, and_assoc]

/-- The checks pass for a thread that can read its sources. -/
theorem State.readable_checks {s : State} {l : List Sc} (h : s.readable l = true) {d : Option Sc}
    (hd : ∀ r, d = some r → Sc.isI r = false) : checkUses { dst := d, rd := l } s = none :=
  checkUses_scalar ((s.readable_iff l).mp h).2 hd (by simp)

theorem State.readable_thread {s : State} {l : List Sc} (h : s.readable l = true) : (s.thread? s.cur).isSome = true :=
  ((s.readable_iff l).mp h).1

/-- A register of the list reads as it stands. -/
theorem State.readable_operand {s : State} {l : List Sc} (h : s.readable l = true) {r : Sc} (hr : r ∈ l) :
    s.operand r = s.sc r :=
  State.operand_eq (((s.readable_iff l).mp h).2 r hr).2.2

theorem rdSrc2_eq {b : Src2} {s : State} {l : List Sc} (h : s.readable l = true) (hb : ∀ r ∈ src2Regs b, r ∈ l) :
    rdSrc2 b s = .ok (s.src2 b) s := by
  cases b with
  | reg r => simp [rdSrc2, State.src2, State.readable_operand h (hb r (by simp [src2Regs]))]
  | imm v => rfl

theorem alu_done {s : State} {d a : Sc} {b : Src2} (h : s.readable (a :: src2Regs b) = true) (hd : Sc.isI d = false)
    (i : Instr) (f : Word → Word → Word) : alu i d a b f s = .next (s.done i d (f (s.sc a) (s.src2 b))) := by
  unfold alu
  refine run_ok (State.readable_thread h) (State.readable_checks h (by simp [hd])) ?_
  simp [M.bind_apply, M.map_apply, rdSrc2_eq (b := b) h (by simp +contextual), State.readable_operand h (List.mem_cons_self ..)]

theorem alu1_done {s : State} {d a : Sc} (h : s.readable [a] = true) (hd : Sc.isI d = false)
    (i : Instr) (f : Word → Word) : alu1 i d a f s = .next (s.done i d (f (s.sc a))) := by
  unfold alu1
  refine run_ok (State.readable_thread h) (State.readable_checks h (by simp [hd])) ?_
  simp [M.bind_apply, M.map_apply, State.readable_operand h (List.mem_cons_self ..)]

theorem divide_done {s : State} {d a : Sc} {b : Src2} (h : s.readable (a :: src2Regs b) = true) (hd : Sc.isI d = false)
    (hb : s.src2 b ≠ 0) (i : Instr) (f : Word → Word → Word) :
    divide i d a b f s = .next (s.done i d (f (s.sc a) (s.src2 b))) := by
  unfold divide
  refine run_ok (State.readable_thread h) (State.readable_checks h (by simp [hd])) ?_
  have hb' : ¬ s.src2 b = 0#64 := hb
  simp [M.bind_apply, M.map_apply, rdSrc2_eq (b := b) h (by simp +contextual), State.readable_operand h (List.mem_cons_self ..), hb']

theorem divide_zero {s : State} {d a : Sc} {b : Src2} (h : s.readable (a :: src2Regs b) = true) (hd : Sc.isI d = false)
    (hb : s.src2 b = 0) (i : Instr) (f : Word → Word → Word) : divide i d a b f s = .next (s.trapped i 0x1B 0 0) := by
  unfold divide
  refine run_trap (s1 := s) (State.readable_thread h) (State.readable_checks h (by simp [hd])) ?_
  have hb' : s.src2 b = 0#64 := hb
  simp [M.bind_apply, rdSrc2_eq (b := b) h (by simp +contextual), State.readable_operand h (List.mem_cons_self ..), hb']

theorem loadConst_done {s : State} {d : Sc} (h : s.readable [] = true) (hd : Sc.isI d = false) (i : Instr) (v : Word) :
    loadConst i d v s = .next (s.done i d v) := by
  unfold loadConst
  refine run_ok (State.readable_thread h) (State.readable_checks h (by simp [hd])) ?_
  simp [M.bind_apply]

end Sys2Proof.Machine
end

