-- ==== Sys2Proof/Tests/Slice0.lean ====
section
/-! SUPPORT. Tests: words written out from the spec's encodings decode to the instructions they stand for; the premises of
each statement are met by a small pod; ill-formed terms and refused words; results that the reference works out. A
statement without premises needs no witness. -/
namespace Sys2Proof

set_option Elab.async false

/-! ## Words written out from the spec's examples and field tables (R81 to R93) -/

theorem test_decode_integer1 :
    decodeTableWord 64 0x62003F1404 = some (.add (.g 5) .zr (.imm (.i27 3))) ∧
    decodeTableWord 64 0x1451804 = some (.add (.g 6) (.g 5) (.reg (.g 5))) ∧
    decodeTableWord 64 0x8D20408 = some (.sub (.g 1) (.c 2) (.reg (.i 3))) ∧
    decodeTableWord 64 0x145180C = some (.mul (.g 6) (.g 5) (.reg (.g 5))) ∧
    decodeTableWord 128 0x80000000000000010000000300020412 = some (.mulh true (.g 1) (.g 2) (.imm (.i64 0x8000000000000001))) ∧
    decodeTableWord 64 0x810C14 = some (.div false (.g 3) (.g 1) (.reg (.g 2))) ∧
    decodeTableWord 96 0xFFFFFFFE0000000300010C19 = some (.rem true (.g 3) (.g 1) (.imm (.i32 0xFFFFFFFE))) ∧
    decodeTableWord 64 0xFFFFFFE20001041C = some (.and (.g 1) (.g 1) (.imm (.i27 0x7FFFFFF))) ∧
    decodeTableWord 64 0xBDF3C20 = some (.or (.g 15) (.c 15) (.reg (.i 15))) ∧
    decodeTableWord 64 0xFC20424 = some (.xor (.g 1) (.g 2) (.reg .zr)) ∧
    decodeTableWord 64 0x1440C28 = some (.andn (.g 3) (.g 4) (.reg (.g 5))) ∧
    decodeTableWord 64 0x7E20002042C = some (.shl (.g 1) (.g 2) (.imm (.i27 63))) ∧
    decodeTableWord 64 0xC20430 = some (.shr (.g 1) (.g 2) (.reg (.g 3))) ∧
    decodeTableWord 64 0xC24034 = some (.sar (.c 0) (.g 2) (.reg (.g 3))) := by
  decide +kernel

theorem test_decode_integer2 :
    decodeTableWord 64 0x100C20438 = some (.min true (.g 1) (.g 2) (.reg (.g 3))) ∧
    decodeTableWord 64 0xC2FC3C = some (.max false .zr (.g 2) (.reg (.g 3))) ∧
    decodeTableWord 64 0x220010840 = some (.setc .lt false (.g 2) (.g 1) (.imm (.i27 0))) ∧
    decodeTableWord 64 0x20444 = some (.clz (.g 1) (.g 2)) ∧
    decodeTableWord 64 0x20448 = some (.ctz (.g 1) (.g 2)) ∧
    decodeTableWord 64 0x2044C = some (.popc (.g 1) (.g 2)) ∧
    decodeTableWord 64 0x1C11050 = some (.bfx false (.g 4) (.g 1) (.g 7)) ∧
    decodeTableWord 64 0x210300011050 = some (.bfxImm true (.g 4) (.g 1) 8 4) ∧
    decodeTableWord 64 0x8000C20454 = some (.bfi (.g 1) (.g 2) (.g 3) (.g 4)) ∧
    decodeTableWord 64 0x8000C20458 = some (.sel (.g 1) (.g 2) (.reg (.g 3)) (.g 4)) ∧
    decodeTableWord 64 0x2020000205C = some (.li (.g 8) 16) ∧
    decodeTableWord 96 0x80000000000000020000045D = some (.li96 (.g 1) 0x80000000) ∧
    decodeTableWord 128 0xFF800000000000020000185E = some (.li128 (.g 6) 0xFF800000) ∧
    decodeTableWord 64 0x1F80200000460 = some (.lea (.g 1) (.imm (.i27 0xFC0))) := by
  decide +kernel

theorem test_decode_integer3 :
    decodeTableWord 64 0x264064 = some (.mov (.c 0) (.i 6)) := by
  decide +kernel

theorem test_decode_float :
    decodeTableWord 64 0x10810C80 = some (.fadd .f32 (.g 3) (.g 1) (.g 2)) ∧
    decodeTableWord 64 0x810C84 = some (.fsub .f64 (.g 3) (.g 1) (.g 2)) ∧
    decodeTableWord 64 0x20810C88 = some (.fmul .bf16 (.g 3) (.g 1) (.g 2)) ∧
    decodeTableWord 64 0x601081108C = some (.ffma .f32 (.g 4) (.g 1) (.g 2) (.g 3)) ∧
    decodeTableWord 64 0x30810C90 = some (.fdiv .f16 (.g 3) (.g 1) (.g 2)) ∧
    decodeTableWord 64 0x10010C94 = some (.fsqrt .f32 (.g 3) (.g 1)) ∧
    decodeTableWord 64 0x10810C98 = some (.fmin .f32 (.g 3) (.g 1) (.g 2)) ∧
    decodeTableWord 64 0x1146189C = some (.fmax .f32 (.g 6) (.g 6) (.g 5)) ∧
    decodeTableWord 64 0x4010C108A0 = some (.fsetc .lt .f32 (.g 2) (.g 1) (.g 3)) ∧
    decodeTableWord 64 0x8800900114A4 = some (.fcvt .i32 .f32 false true (.g 5) (.g 1)) ∧
    decodeTableWord 64 0x300108A8 = some (.fclass .f16 (.g 2) (.g 1)) ∧
    decodeTableWord 64 0x20104108AC = some (.fsgn .ncp .f32 (.g 2) (.g 1) (.g 1)) := by
  decide +kernel

theorem test_decode_control :
    decodeTableWord 64 0xFFFFF601520700C0 = some (.br .ge true (.g 7) (.g 8) (BitVec.ofInt 27 (-80))) ∧
    decodeTableWord 64 0xFFFFF200000000C4 = some (.j (BitVec.ofInt 27 (-112))) ∧
    decodeTableWord 96 0x400000000000000000000C5 = some (.j96 0x04000000) ∧
    decodeTableWord 64 0x10000003CC8 = some (.jl (.g 15) 8) ∧
    decodeTableWord 96 0x40000000000000000003CC9 = some (.jl96 (.g 15) 0x04000000) ∧
    decodeTableWord 64 0xFFCCC = some (.jr .zr (.g 15)) ∧
    decodeTableWord 64 0xD0 = some (.nop) ∧
    decodeTableWord 96 0xD1 = some (.nop96) ∧
    decodeTableWord 128 0xD2 = some (.nop128) ∧
    decodeTableWord 64 0xD4 = some (.halt) ∧
    decodeTableWord 64 0x100300D4 = some (.haltKeep (.g 3)) ∧
    decodeTableWord 64 0xD8 = some (.yield) := by
  decide +kernel

theorem test_decode_memory1 :
    decodeTableWord 64 0xFFFFFF14E0040D00 = some (.ld true true .w (some .pod) (.g 3) (.g 4) (BitVec.ofInt 27 (-8))) ∧
    decodeTableWord 64 0x1520440104 = some (.st true .w (some .pod) (.g 4) 0 (.g 1)) ∧
    decodeTableWord 64 0x201530011508 = some (.lds .wfe false .d (some .pod) (.g 5) (.g 1) 256) ∧
    decodeTableWord 64 0x14B081010C = some (.sts .wef .d (some .pod) (.g 1) 0 (.g 2)) ∧
    decodeTableWord 64 0x8760C20510 = some (.amo .swap true .w (some .core) (.g 1) (.g 2) 4 (.g 3)) ∧
    decodeTableWord 96 0x80000009430C21515 = some (.cas .d (some .pod) (.g 5) (.g 2) 8 (.g 3) (.g 4)) ∧
    decodeTableWord 64 0x1400000118 = some (.fence .pod) ∧
    decodeTableWord 64 0x140FCD391C = some (.acq (some .pod) (.g 14) (.g 13) 0 .zr) ∧
    decodeTableWord 64 0xC038D0120 = some (.rel (some .die) (.g 13) 0 (.g 14)) ∧
    decodeTableWord 96 0x100000006800810125 = some (.bind (some .quad) (.g 1) 16 (.g 2) (.g 3)) ∧
    decodeTableWord 64 0xD0128 = some (.unbind (.g 13) 0) ∧
    decodeTableWord 64 0x7201012C = some (.cmo .inv .ipath (.g 1) 0 (.g 8)) ∧
    decodeTableWord 64 0x130 = some (.fbar) ∧
    decodeTableWord 96 0x9400810D35 = some (.mcast (some .pod) 3 (.g 1) 0 (.g 2) (.g 4)) := by
  decide +kernel

theorem test_decode_memory2 :
    decodeTableWord 128 0x1000000000000008000810D36 = some (.mcast128 none 3 (.g 1) 0x100000000 (.g 2) (.g 4)) := by
  decide +kernel

theorem test_decode_vectorMemory :
    decodeTableWord 64 0x200F0180 = some (.vld .bf16 0 (.g 15) 0 0) ∧
    decodeTableWord 64 0x200F0184 = some (.vst .bf16 (.g 15) 0 0 0) ∧
    decodeTableWord 64 0x11010C20588 = some (.vgath .f32 1 (.g 2) 8 3 4) ∧
    decodeTableWord 64 0x11090C2058C = some (.vscat .i32 (.g 2) 8 1 3 4) ∧
    decodeTableWord 64 0x80001012190 = some (.vspill (.g 1) 64 8 4) ∧
    decodeTableWord 64 0x1012194 = some (.vfill 8 (.g 1) 0 4) := by
  decide +kernel

theorem test_decode_vector1 :
    decodeTableWord 64 0x10C20598 = some (.vadd .f32 1 2 (.reg 3) 0) ∧
    decodeTableWord 96 0x3F80000000002002059D = some (.vsub .bf16 1 2 (.imm 0x3F80) 0) ∧
    decodeTableWord 64 0x1C30C205A0 = some (.vmul .f16 1 2 (.reg 3) 7) ∧
    decodeTableWord 64 0x1008010C205A4 = some (.vfma true .f32 1 2 (.reg 3) 4 0) ∧
    decodeTableWord 64 0x1A0C205A8 = some (.vmin true .i16 1 2 (.reg 3) 0) ∧
    decodeTableWord 64 0x10C205AC = some (.vmax false .f32 1 2 (.reg 3) 0) ∧
    decodeTableWord 64 0x4010C205B0 = some (.vsgn .xor .f32 1 2 3 0) ∧
    decodeTableWord 64 0x10C205B4 = some (.vdiv .f32 1 2 (.reg 3) 0) ∧
    decodeTableWord 64 0x10030DB8 = some (.vexp2 .f32 3 3 0) ∧
    decodeTableWord 64 0xC200205BC = some (.vlog2 .bf16 1 2 3) ∧
    decodeTableWord 64 0xC200205C0 = some (.vrcp .bf16 1 2 3) ∧
    decodeTableWord 64 0xC200205C4 = some (.vrsq .bf16 1 2 3) ∧
    decodeTableWord 64 0xC200205C8 = some (.vtanh .bf16 1 2 3) ∧
    decodeTableWord 64 0x8001B0C205CC = some (.viadd true true .i8 1 2 (.reg 3) 0) := by
  decide +kernel

theorem test_decode_vector2 :
    decodeTableWord 64 0x800090C205D0 = some (.visub false true .i32 1 2 (.reg 3) 0) ∧
    decodeTableWord 64 0x90C205D4 = some (.vimul .i32 1 2 (.reg 3) 0) ∧
    decodeTableWord 64 0xA0C205D8 = some (.vand .i16 1 2 (.reg 3) 0) ∧
    decodeTableWord 64 0x70C205DC = some (.vor .tw8 1 2 (.reg 3) 0) ∧
    decodeTableWord 64 0x10C205E0 = some (.vxor .f32 1 2 (.reg 3) 0) ∧
    decodeTableWord 96 0x700000000B00205E5 = some (.vshl .i8 1 2 (.imm 7) 0) ∧
    decodeTableWord 96 0x700000000B00205E9 = some (.vshr .i8 1 2 (.imm 7) 0) ∧
    decodeTableWord 96 0x700000000B00205ED = some (.vsar .i8 1 2 (.imm 7) 0) ∧
    decodeTableWord 64 0x820200115F0 = some (.vcvt .bf16 .f32 false false 5 1 1 0) ∧
    decodeTableWord 64 0x84A10309F4 = some (.vsetc .gt false .i16 2 3 (.reg 4) 1) ∧
    decodeTableWord 64 0x94A0C205F8 = some (.vsel .i16 1 2 3 4 5) ∧
    decodeTableWord 64 0x20100015FC = some (.vred .max false false .f32 (.g 5) 0 0) ∧
    decodeTableWord 64 0x4D90020600 = some (.vscan .min true false .i32 1 2 3) ∧
    decodeTableWord 64 0x10C20604 = some (.vperm .f32 1 2 3 0) := by
  decide +kernel

theorem test_decode_vector3 :
    decodeTableWord 64 0x20050A08 = some (.vbcast .bf16 2 (.g 5) 0) ∧
    decodeTableWord 64 0x8010C2060C = some (.vslide .f32 1 2 3 (.g 4) 0) ∧
    decodeTableWord 64 0x1B0C20610 = some (.vext true .i8 (.g 1) 2 (.g 3)) ∧
    decodeTableWord 64 0x13CE1A14 = some (.vins .f32 6 (.g 14) (.g 15)) ∧
    decodeTableWord 64 0x6010C01218 = some (.vtopk .f32 4 0 3 (.g 3) 0) ∧
    decodeTableWord 64 0x8903F061C = some (.vidx .i32 1 .zr 2) ∧
    decodeTableWord 64 0xA091010A20 = some (.vrand 2 (.g 1) (.g 4) (.g 5) 0) := by
  decide +kernel

theorem test_decode_mask :
    decodeTableWord 64 0x810E80 = some (.kand 3 1 2) ∧
    decodeTableWord 64 0x810E84 = some (.kor 3 1 2) ∧
    decodeTableWord 64 0x810E88 = some (.kxor 3 1 2) ∧
    decodeTableWord 64 0xA8C = some (.knot 2 0) ∧
    decodeTableWord 64 0x11290 = some (.kpopc (.g 4) 1) ∧
    decodeTableWord 64 0x10A94 = some (.kfirst (.g 2) 1) ∧
    decodeTableWord 64 0x61E98 = some (.kmov 7 6) := by
  decide +kernel

theorem test_decode_matrix :
    decodeTableWord 96 0x4000003800408102C1 = some (.mma .e4m3 .tw8 false 0 (.g 1) (.g 2) 64 0 0) ∧
    decodeTableWord 64 0x2C4 = some (.mxbeg) ∧
    decodeTableWord 64 0x2C8 = some (.mxend) ∧
    decodeTableWord 64 0x2CC = some (.mxzero 0 0) ∧
    decodeTableWord 64 0x100306D0 = some (.mxld 1 (.g 3) 0) ∧
    decodeTableWord 64 0x4100902D4 = some (.mxst .f32 false (.g 9) 0 1) ∧
    decodeTableWord 64 0xED8 = some (.mxflg 3 0) ∧
    decodeTableWord 64 0x2DC = some (.mxwait 0) ∧
    decodeTableWord 64 0x1E0000002DC = some (.mxwait 15) := by
  decide +kernel

theorem test_decode_thread1 :
    decodeTableWord 64 0x2480300 = some (.spawn (.g 8) (.g 9)) ∧
    decodeTableWord 96 0x4100421705 = some (.task true (.g 5) (.g 2) 0 1 2) ∧
    decodeTableWord 64 0x30308 = some (.evset 3) ∧
    decodeTableWord 64 0x3030C = some (.evclr 3) ∧
    decodeTableWord 64 0x30310 = some (.evwait 3) ∧
    decodeTableWord 64 0x40314 = some (.migr (.g 4)) ∧
    decodeTableWord 64 0x10300001B18 = some (.grow true (.g 6) 8) ∧
    decodeTableWord 64 0x801B18 = some (.growReg false (.g 6) (.g 2)) ∧
    decodeTableWord 64 0x10200001B1C = some (.shrink (.g 6) 8) ∧
    decodeTableWord 64 0x801B1C = some (.shrinkReg (.g 6) (.g 2)) ∧
    decodeTableWord 64 0xC00020320 = some (.bar .die 2) ∧
    decodeTableWord 64 0x1400CF0324 = some (.bjoin .pod 15 (.g 3)) ∧
    decodeTableWord 64 0x400010324 = some (.bjoin .core 1 (.g 0)) ∧
    decodeTableWord 64 0x800010328 = some (.bleave .quad 1) := by
  decide +kernel

theorem test_decode_thread2 :
    decodeTableWord 64 0x81032C = some (.slotw (.g 1) (.g 2)) ∧
    decodeTableWord 64 0x1730 = some (.rfillArm (.g 5)) ∧
    decodeTableWord 64 0x610081FF30 = some (.rfillSend true (.g 1) (.g 2) (.g 3)) ∧
    decodeTableWord 64 0x20334 = some (.sbind 0 (.g 2) 0) ∧
    decodeTableWord 64 0x738 = some (.sfree 1) := by
  decide +kernel

theorem test_decode_expiry :
    decodeTableWord 64 0x40F40 = some (.exnew (.g 3) (.g 4)) ∧
    decodeTableWord 64 0x811744 = some (.exjoin (.g 5) (.g 1) (.g 2)) ∧
    decodeTableWord 64 0x10348 = some (.exset (.g 1)) ∧
    decodeTableWord 64 0x10B4C = some (.exchk (.g 2) (.g 1)) ∧
    decodeTableWord 64 0x10350 = some (.exfree (.g 1)) := by
  decide +kernel

theorem test_decode_engine1 :
    decodeTableWord 96 0x10000000000EC61851361 = some (.cpy .add (some .f32) false true (some .die) (.g 4) (.g 5) (.g 6) (.g 7) 0) ∧
    decodeTableWord 96 0x30000000000E041851361 = some (.cpy .add (some .f16) false false none (.g 4) (.g 5) (.g 6) (.g 7) 0) ∧
    decodeTableWord 96 0xE510054761 = some (.cpyRfg true (some .core) (.c 1) (.g 5) (.g 7)) ∧
    decodeTableWord 96 0xE14005A361 = some (.cpyRfv false none 40 (.g 5) (.g 7)) ∧
    decodeTableWord 96 0x1234000000F020051365 = some (.cpgb false true (some .pkg) (.g 4) (.g 5) (.g 7) 0x1234) ∧
    decodeTableWord 96 0x9420C20369 = some (.kvapp false true (some .pod) (.g 2) (.g 3) (.g 4)) ∧
    decodeTableWord 64 0x2076C = some (.cpwait (.g 1) (.g 2)) ∧
    decodeTableWord 96 0x11000000F420000371 = some (.coll .ar false true (some .pod) 17 0 (.g 7)) ∧
    decodeTableWord 128 0x110000080000030376 = some (.cbuf .sum .f32 17 (.g 3)) ∧
    decodeTableWord 128 0x900000800C0050376 = some (.cbuf .smerge .f32 9 (.g 5)) ∧
    decodeTableWord 64 0xC0378 = some (.gmload (.g 12)) ∧
    decodeTableWord 64 0x810F7C = some (.gmstep (.g 3) (.g 1) (.g 2)) ∧
    decodeTableWord 64 0x40010F7C = some (.gmstepRst (.g 3) (.g 1)) ∧
    decodeTableWord 64 0xFC10380 = some (.gmmask 0 (.g 1) .zr) := by
  decide +kernel

theorem test_decode_engine2 :
    decodeTableWord 64 0x41010B80 = some (.gmmaskK 2 (.g 1) (.g 4)) ∧
    decodeTableWord 64 0x10384 = some (.launch (.g 1)) := by
  decide +kernel

theorem test_decode_system1 :
    decodeTableWord 64 0x20000003C0 = some (.trap 1) ∧
    decodeTableWord 64 0x3D8 = some (.brk 0) ∧
    decodeTableWord 64 0x3C4 = some (.tret) ∧
    decodeTableWord 64 0x100003C4 = some (.tretSkip) ∧
    decodeTableWord 64 0x3C8 = some (.track) ∧
    decodeTableWord 64 0x13D4 = some (.rdtime (.g 4)) ∧
    decodeTableWord 64 0x22000000BCC = some (.srd (.g 2) 0x011) ∧
    decodeTableWord 64 0x80003F03D0 = some (.swr 0x004 .zr) ∧
    decodeTableWord 64 0x40003F03D0 = some (.swr 0x002 .zr) ∧
    decodeTableWord 64 0x103D0 = some (.swrEx (.g 1)) ∧
    decodeTableWord 64 0x400000103D0 = some (.swrCsplit (.g 1)) ∧
    decodeTableWord 64 0x420000103D0 = some (.swrOvh (.g 1)) ∧
    decodeTableWord 64 0x460000103D0 = some (.swrHvec (.g 1)) ∧
    decodeTableWord 64 0x480000103D0 = some (.swrMq (.g 1)) := by
  decide +kernel

theorem test_decode_system2 :
    decodeTableWord 64 0x440000103D0 = some (.swrWdog (.g 1)) := by
  decide +kernel


end Sys2Proof

namespace Sys2Proof.Machine

set_option Elab.async false

/-! ## A small pod -/

/-- A page of 2^30 bytes at virtual `va`, with the frame and the attribute bits of `leaf` (R130, R133). -/
def tPage (va leaf : Nat) : TlbEnt :=
  { root := 0x1000, base := va, size := 2 ^ 30, leaf := BitVec.ofNat 64 leaf, level := 2 }

/-- Pages by number of GiB: 0 HBM of the own die, full/empty-tagged; 1 HBM of die 1; 2 the core's own local store; 3 HBM
of package 1; 4 for the supervisor; 5 read-only; 6 copy-on-write; 7 not full/empty-tagged. -/
def tTlb : List TlbEnt :=
  [tPage 0 (2 ^ 63 + 0x1F), tPage (2 ^ 30) (4 * 2 ^ 36 + 0x1F), tPage (2 * 2 ^ 30) (2 ^ 44 + 2 ^ 54 + 2 ^ 63 + 0x1F),
   tPage (3 * 2 ^ 30) (2 ^ 45 + 2 ^ 53 + 0x1F), tPage (4 * 2 ^ 30) 0x0F, tPage (5 * 2 ^ 30) 0x13,
   tPage (6 * 2 ^ 30) (2 ^ 62 + 0x1F), tPage (7 * 2 ^ 30) 0x1F]

def tG : Vector Word 16 :=
  #v[0, 0x2000, 5, 0xFFFFFFFFFFFFFFFF, 0x2001, 0x8000000000000000, 0x40000040, 0xC0000080, 64, 0x80000000, 0x100000000,
    0x140000000, 0x180000000, 0, 8, 0x9000]

def tThread : Thread := { Thread.new 1 0x10000 0 with g := tG, alot := 16, k := (Vector.replicate 8 0).set 1 0xF }

/-- Two packages, a partition of dies 0 and 1 of package 0, and a user thread in slot 0 of core 0. -/
def tState : State :=
  { State.reset with
    nextUid := 3, threads := [(0, tThread)],
    cores := [(0, { Core.reset with tlb := tTlb, tvec := 0x8000 })],
    dies := [(0, { Die.reset with part := some 0 }), (1, { Die.reset with part := some 0 })],
    pkgs := [(0, { Pkg.reset with member := true, powered := true, bootStep := 6 }),
             (1, { Pkg.reset with member := true, powered := true, bootStep := 6 })],
    parts := [(0, { Partition.reset with dies := [0, 1], root := 0x1000 })],
    mem := [(0x2000, 0x11), (0x2001, 0x22), (0x2008, 7)], tags := [0x400] }

/-- The pod with its thread, its core or its package changed. -/
def tT (f : Thread → Thread) : State := tState.setThr (f tState.thr)
def tC (f : Core → Core) : State := tState.updCore 0 f
def tP (f : Pkg → Pkg) : State := tState.updPkg 0 f

/-- What the pod is after an instruction or event that goes on. -/
def after (i : Instr) (s : State) : State :=
  match exec i s with
  | .next t => t
  | _ => State.reset

/-! ## Reading a check as the premise of a statement -/

theorem ok_meets {e : Except Trap Phys} {f : Phys → Bool}
    (h : (match e with | .ok p => f p | .error _ => false) = true) : ∃ p, e = .ok p ∧ f p = true := by
  cases e with
  | ok p => exact ⟨p, rfl, h⟩
  | error t => cases h

theorem error_meets {e : Except Trap Phys} (h : (match e with | .ok _ => false | .error _ => true) = true) :
    ∃ t, e = .error t := by
  cases e with
  | ok p => cases h
  | error t => exact ⟨t, rfl⟩

theorem fault_meets {e : Except Trap Phys} (h : (match e with | .ok _ => false | .error t => t.cause != 0x12) = true) :
    ∃ t, e = .error t ∧ t.cause ≠ 0x12 := by
  cases e with
  | ok p => cases h
  | error t => exact ⟨t, rfl, by simpa using h⟩

theorem noCleans_meets {s : State} (h : (s.cores.all (fun e => e.2.reqs.isEmpty && e.2.mqIn.isEmpty && e.2.mqOut.isEmpty) &&
    (s.dieAt (dieOfCore s.core)).cleans.isEmpty) = true) : s.noCleans := by
  simp only [Bool.and_eq_true, List.all_eq_true, List.isEmpty_iff] at h
  exact ⟨fun e he => ⟨(h.1 e he).1.1, (h.1 e he).1.2, (h.1 e he).2⟩, h.2⟩

theorem all_meets {e : Nat → Except Trap Phys} {f : Nat → Phys → Bool} {n : Nat}
    (h : (List.range n).all (fun j => match e j with | .ok p => f j p | .error _ => false) = true) :
    ∃ g : Nat → Phys, ∀ j < n, e j = .ok (g j) ∧ f j (g j) = true := by
  refine ⟨fun j => match e j with | .ok p => p | .error _ => { va := 0, pa := 0, leaf := ⟨0, 0, 0, 0⟩ }, ?_⟩
  intro j hj
  have h1 := (List.all_eq_true.mp h) j (List.mem_range.mpr hj)
  dsimp only
  cases he : e j with
  | ok p => rw [he] at h1; exact ⟨rfl, h1⟩
  | error t => rw [he] at h1; cases h1

theorem some_meets {e : Nat → Except Trap Phys} {f : Nat → Phys → Bool} {on : Nat → Bool} {n : Nat}
    (h : (List.range n).all (fun j => !on j || (match e j with | .ok p => f j p | .error _ => false)) = true) :
    ∃ g : Nat → Phys, ∀ j < n, on j = true → e j = .ok (g j) ∧ f j (g j) = true := by
  refine ⟨fun j => match e j with | .ok p => p | .error _ => { va := 0, pa := 0, leaf := ⟨0, 0, 0, 0⟩ }, ?_⟩
  intro j hj ho
  have h1 := (List.all_eq_true.mp h) j (List.mem_range.mpr hj)
  simp only [ho, Bool.not_true, Bool.false_or] at h1
  dsimp only
  cases he : e j with
  | ok p => rw [he] at h1; exact ⟨rfl, h1⟩
  | error t => rw [he] at h1; cases h1

theorem spans_meets {s : State} {x : Access} {va : Word} {pa n : Nat} {on : Nat → Bool}
    (h : (va.toNat % 4096 == pa % 4096 && (List.range n).all (fun j => !on j ||
      (match s.reach x (va + BitVec.ofNat 64 j) with | .ok p => p.pa == pa + j && s.atHome p | .error _ => false))) = true) :
    s.spans x va pa n on := by
  simp only [Bool.and_eq_true, beq_iff_eq] at h
  refine ⟨h.1, fun j hj ho => ?_⟩
  have h1 := (List.all_eq_true.mp h.2) j (List.mem_range.mpr hj)
  simp only [ho, Bool.not_true, Bool.false_or] at h1
  obtain ⟨p, hp, hf⟩ := ok_meets h1
  simp only [Bool.and_eq_true, beq_iff_eq] at hf
  exact ⟨p, hp, hf.1, hf.2⟩

theorem unitSpans_meets {s : State} {core : Nat} {m : Mode} {x : Access} {va pa n : Nat}
    (h : (va % 4096 == pa % 4096 && decide (va + n ≤ 2 ^ 48) && (List.range n).all (fun j =>
      match s.translate core m x (BitVec.ofNat 64 (va + j)) with
      | .ok p => p.pa == pa + j && !p.visits core && pkgOfPa p.pa == pkgOfCore core && !s.refuses core p.pa
      | .error _ => false)) = true) : s.unitSpans core m x va pa n := by
  simp only [Bool.and_eq_true, beq_iff_eq, decide_eq_true_eq] at h
  refine ⟨h.1.1, h.1.2, fun j hj => ?_⟩
  have h1 := (List.all_eq_true.mp h.2) j (List.mem_range.mpr hj)
  obtain ⟨p, hp, hf⟩ := ok_meets h1
  simp only [Bool.and_eq_true, beq_iff_eq, Bool.not_eq_true'] at hf
  exact ⟨p, hp, hf.1.1.1, hf.1.1.2, hf.1.2, hf.2⟩

/-- A TLB hit does not depend on memory. -/
theorem hit_meets {s : State} {core : Nat} {m : Mode} {x : Access} {va : Word} {f : Phys → Bool}
    (h : (decide (va.toNat < 2 ^ 48) && (match tlbFind (s.coreAt core).tlb (s.rootOf core) va.toNat with
      | some l => (match s.checkLeaf m x va.toNat l with
        | .ok p => f p
        | .error _ => false)
      | none => false)) = true) (mem slice : List Host.Cell) :
    ∃ p, ({ s with mem := mem, slice := slice } : State).translate core m x va = .ok p ∧ f p = true := by
  simp only [Bool.and_eq_true, decide_eq_true_eq] at h
  obtain ⟨hlt, h2⟩ := h
  have hn : ¬ 2 ^ 48 ≤ va.toNat := Nat.not_le.mpr hlt
  cases hl : tlbFind (s.coreAt core).tlb (s.rootOf core) va.toNat with
  | none => rw [hl] at h2; cases h2
  | some l =>
    rw [hl] at h2
    obtain ⟨p, hp, hf⟩ := ok_meets h2
    refine ⟨p, ?_, hf⟩
    have hl' : tlbFind (({ s with mem := mem, slice := slice } : State).coreAt core).tlb
        (({ s with mem := mem, slice := slice } : State).rootOf core) va.toNat = some l := hl
    have hleaf : ({ s with mem := mem, slice := slice } : State).leafFor core va.toNat = .ok l := by
      unfold State.leafFor
      simp only [hl']
    unfold State.translate
    simp only [hn, if_false, hleaf]
    exact hp

/-- So the frame of a trap stands where it says, whatever the stores before it wrote. -/
theorem frameAt_meets {s : State} {core : Nat} {f : Word} {pa : Nat}
    (h : ∀ j < 16, (decide ((f + BitVec.ofNat 64 j).toNat < 2 ^ 48) &&
      (match tlbFind (s.coreAt core).tlb (s.rootOf core) (f + BitVec.ofNat 64 j).toNat with
       | some l => (match s.checkLeaf .super storeA (f + BitVec.ofNat 64 j).toNat l with
         | .ok p => p.pa == pa + j && !p.visits core
         | .error _ => false)
       | none => false)) = true) : s.frameAt core f pa := by
  intro mem slice j hj
  obtain ⟨p, hp, hf⟩ := hit_meets (h j hj) mem slice
  simp only [Bool.and_eq_true, beq_iff_eq, Bool.not_eq_true'] at hf
  exact ⟨p, hp, hf.1, hf.2⟩

/-- The same of a span. -/
theorem spansAll_meets {s : State} {x : Access} {va : Word} {pa n : Nat} (h0 : va.toNat % 4096 = pa % 4096)
    (h : ∀ j < n, (decide ((va + BitVec.ofNat 64 j).toNat < 2 ^ 48) &&
      (match tlbFind (s.coreAt s.core).tlb (s.rootOf s.core) (va + BitVec.ofNat 64 j).toNat with
       | some l => (match s.checkLeaf s.thr.mode x (va + BitVec.ofNat 64 j).toNat l with
         | .ok p => p.pa == pa + j && s.atHome p
         | .error _ => false)
       | none => false)) = true) (mem slice : List Host.Cell) :
    ({ s with mem := mem, slice := slice } : State).spans x va pa n (fun _ => true) := by
  refine ⟨h0, fun j hj _ => ?_⟩
  obtain ⟨p, hp, hf⟩ := hit_meets (h j hj) mem slice
  simp only [Bool.and_eq_true, beq_iff_eq] at hf
  exact ⟨p, hp, hf.1, hf.2⟩

theorem runs_meets {i : Instr} {s : State}
    (h : (match exec i s with
      | .next t => t.cur == s.cur && (t.thread? s.cur).isSome && t.thr.park.isNone && t.thr.trapent == s.thr.trapent
      | _ => false) = true) : ∃ t, exec i s = .next t ∧ Ran s t := by
  cases he : exec i s with
  | next t =>
    rw [he] at h
    simp only [Bool.and_eq_true, beq_iff_eq, Option.isNone_iff_eq_none] at h
    exact ⟨t, rfl, h.1.1.1, h.1.1.2, h.1.2, h.2⟩
  | _ => rw [he] at h; cases h

theorem waits_meets {s : State} {tid : Nat} {who : Who} {p : Park}
    (h : (match s.thread? tid with
      | some u => u.park == some p && who == .thread u.uid && s.tidOf u.uid == some tid
      | none => false) = true) : s.waits tid who p := by
  cases hu : s.thread? tid with
  | none => rw [hu] at h; cases h
  | some u =>
    rw [hu] at h
    simp only [Bool.and_eq_true, beq_iff_eq] at h
    exact ⟨u, hu, h.1.1, h.1.2, h.2⟩

theorem enabledFlags_zero (fl : Nat) : enabledFlags 0 fl = 0 := by simp [enabledFlags]

/-! ## Premises of the statements: scalar and control -/

theorem test_meets_decodeOfEncode : encode (.div false (.g 3) (.g 1) (.reg (.g 2))) = some 0x0000000000810C14#128 ∧
    Instr.wf (.bfxImm true (.g 4) (.g 1) 63 1) = true ∧ Instr.cls (.bfxImm true (.g 4) (.g 1) 63 1) ≠ .event := by
  decide +kernel

theorem test_meets_encodeOfDecode : decodeTableWord 64 0x810C14 = some (.div false (.g 3) (.g 1) (.reg (.g 2))) := by
  decide +kernel

/-- A block of 32 bytes that ends in a 64-bit and a 96-bit length code, with illegal length at its first byte. -/
theorem test_meets_fetchBounds :
    let b : BitVec 256 := (0xD1 : BitVec 256) <<< 224 ||| (0xD0 : BitVec 256) <<< 192 ||| 3
    ((b >>> (8 * ((0 : Word).toNat % 32))).setWidth 128).extractLsb' 0 2 = 3#2 ∧
    (((b >>> (8 * ((24 : Word).toNat % 32))).setWidth 128).extractLsb' 0 2 = 0#2 ∧ (24 : Word).toNat % 32 + 8 ≤ 32) ∧
    (((b >>> (8 * ((28 : Word).toNat % 32))).setWidth 128).extractLsb' 0 2 = 1#2 ∧ 32 < (28 : Word).toNat % 32 + 12) := by
  decide +kernel

theorem test_meets_integerResults : tState.readable (.g 1 :: src2Regs (.reg (.i 0))) = true ∧ Sc.isI .zr = false ∧
    tState.readable (.c 15 :: src2Regs (.imm (.i64 0))) = true ∧ Sc.isI (.c 0) = false := by decide +kernel

theorem test_meets_divisionResults : tState.readable (.g 5 :: src2Regs (.reg (.g 3))) = true ∧ Sc.isI (.g 5) = false ∧
    tState.src2 (.reg (.g 3)) ≠ 0 ∧ tState.src2 (.imm (.i27 0)) = 0 ∧ (tState.sc (.g 5)).toInt = -2 ^ 63 ∧
    (tState.src2 (.reg (.g 3))).toInt = -1 := by decide +kernel

theorem test_meets_fieldOperations : tState.readable [.g 1, .g 2] = true ∧ tState.readable [.g 3] = true ∧
    tState.readable [.g 1, .g 2, .g 3] = true ∧ 1 ≤ (64 : BitVec 7).toNat ∧ (0 : BitVec 6).toNat + (64 : BitVec 7).toNat ≤ 64 ∧
    (∀ j, 64 - 0 ≤ j → (tState.sc (.g 3)).getLsbD j = false) := by
  refine ⟨by decide +kernel, by decide +kernel, by decide +kernel, by decide, by decide, fun j hj => ?_⟩
  exact BitVec.getLsbD_of_ge _ _ hj

theorem test_meets_moveResults : tState.readable [] = true ∧ tState.readable [.i 0] = true ∧
    tState.readable (src2Regs (.reg (.g 2))) = true ∧ tState.readable (.g 1 :: .g 13 :: src2Regs (.imm (.i32 1))) = true ∧
    (tState.thread? tState.cur).isSome = true ∧ Sc.isI .zr = false := by decide +kernel

theorem test_meets_integerFrame : Instr.cls (.add .zr (.g 3) (.reg (.g 3))) = .int ∧
    ∃ t, exec (.add .zr (.g 3) (.reg (.g 3))) tState = .next t ∧ Ran tState t :=
  ⟨by decide +kernel, runs_meets (by decide +kernel)⟩

theorem test_meets_floatFrame : Instr.cls (.fadd .f32 (.c 1) (.g 3) (.g 3)) = .fp ∧
    ∃ t, exec (.fadd .f32 (.c 1) (.g 3) (.g 3)) tState = .next t ∧ Ran tState t :=
  ⟨by decide +kernel, runs_meets (by decide +kernel)⟩

theorem test_meets_maskFrame : Instr.cls (.kpopc (.g 1) 1) = .mask ∧
    ∃ t, exec (.kpopc (.g 1) 1) tState = .next t ∧ Ran tState t := ⟨by decide +kernel, runs_meets (by decide +kernel)⟩

theorem test_meets_controlFrame : (Instr.cls (.jl (.g 15) 8) = .control ∧ Instr.jl (.g 15) 8 ≠ .halt) ∧
    ∃ t, exec (.jl (.g 15) 8) tState = .next t ∧ Ran tState t :=
  ⟨by decide +kernel, runs_meets (by decide +kernel)⟩

theorem test_meets_matrixFrame : Instr.cls (.mxzero 3 0) = .matrix ∧
    ∃ t, exec (.mxzero 3 0) tState = .next t ∧ Ran tState t := ⟨by decide +kernel, runs_meets (by decide +kernel)⟩

theorem test_meets_expiryFrame : Instr.cls (.exnew (.g 1) (.g 3)) = .expiry ∧
    ∃ t, exec (.exnew (.g 1) (.g 3)) tState = .next t ∧ Ran tState t := ⟨by decide +kernel, runs_meets (by decide +kernel)⟩

theorem test_meets_systemFrame : (∃ t, exec (.srd (.g 1) 0x001) tState = .next t ∧ Ran tState t) ∧
    (∃ t, exec (.rdtime .zr) tState = .next t ∧ Ran tState t) ∧
    Instr.swrDest (.swr 0x001 (.g 3)) = some 0x001 ∧ Instr.swrDest (.swrEx .zr) = some 0x000 ∧
    (∃ t, exec (.swr 0x001 (.g 3)) tState = .next t ∧ Ran tState t) ∧
    (∃ t, exec (.swrEx .zr) (tT (fun t => { t with mode := .super })) = .next t ∧
      Ran (tT (fun t => { t with mode := .super })) t) :=
  ⟨runs_meets (by decide +kernel), runs_meets (by decide +kernel), rfl, rfl, runs_meets (by decide +kernel),
    runs_meets (by decide +kernel)⟩

/-- Every operand a signalling NaN, and every flag that may trap enabled (R75). -/
def tNan : State := tT (fun t => { t with g := Vector.replicate 16 0x7FA00000, fcsr := 0x380 })

theorem test_meets_floatResults : tNan.readable [.g 1, .g 2, .g 3] = true ∧ Sc.isI .zr = false ∧ ETy.isScalarFp .f32 = true ∧
    enabledFlags tNan.thr.fcsr (fAdd .f32 tNan.thr.rm 0x7FA00000 0x7FA00000).fl ≠ 0 ∧
    enabledFlags tNan.thr.fcsr (fSub .f32 tNan.thr.rm 0x7FA00000 0x7FA00000).fl ≠ 0 ∧
    enabledFlags tNan.thr.fcsr (fMul .f32 tNan.thr.rm 0x7FA00000 0x7FA00000).fl ≠ 0 ∧
    enabledFlags tNan.thr.fcsr (fFma .f32 tNan.thr.rm 0x7FA00000 0x7FA00000 0x7FA00000).fl ≠ 0 ∧
    enabledFlags tNan.thr.fcsr (fDiv .f32 tNan.thr.rm 0x7FA00000 0x7FA00000).fl ≠ 0 ∧
    enabledFlags tNan.thr.fcsr (finishEx .f32 tNan.thr.rm (sqrtEx (valOf .f32 false 0x7FA00000))).fl ≠ 0 := by decide +kernel

theorem test_meets_floatResults_quiet : tState.readable [.g 1, .g 2, .g 3] = true ∧ ∀ fl, enabledFlags tState.thr.fcsr fl = 0 :=
  ⟨by decide +kernel, enabledFlags_zero⟩

theorem test_meets_floatSelections : tNan.readable [.g 1, .g 2] = true ∧ ETy.isFcvt .i64 = true ∧ ETy.isFcvt .f32 = true ∧
    enabledFlags tNan.thr.fcsr (fMaxMin .f32 false 0x7FA00000 0x7FA00000).fl ≠ 0 ∧
    enabledFlags tNan.thr.fcsr (fCompare .f32 .lt 0x7FA00000 0x7FA00000).2 ≠ 0 ∧
    enabledFlags tNan.thr.fcsr (convert .i64 false false tNan.thr.rm (valOf .f32 false 0x7FA00000)).fl ≠ 0 := by decide +kernel

/-- A code of each row of R292's table, with the bit that the table gives. -/
theorem test_meets_classBits : ETy.isScalarFp .f16 = true ∧
    ∀ e ∈ [((0xFC00, 1) : Nat × Nat), (0xBC00, 2), (0x83FF, 4), (0x8000, 8), (0, 0x10), (1, 0x20), (0x0400, 0x40), (0x7C00, 0x80),
      (0x7D00, 0x100), (0xFE00, 0x200)], e.1 < 2 ^ ETy.bits .f16 ∧ fClass .f16 e.1 = e.2 := by decide +kernel

/-- Operands of each kind: NaNs, infinities, zeros of either sign, a tie between integers, a value below the range, one of FP32
that FP16 holds, and the largest mode. -/
theorem test_meets_selectionMeaning : (∀ c ∈ [0x7D00, 0x7E00, 0xFC00, 0x8000, 0, 0x3C00], c < 2 ^ ETy.bits .f16) ∧ 3 < 4 ∧
    (valOf .f16 false 0x7D00).isSig = true ∧ (valOf .f16 false 0x7E00).isNan = true ∧ (valOf .f16 false 0x3C00).isNan = false ∧
    valOf .f16 false 0xFC00 = .inf true ∧ ((valOf .f16 false 0x8000).isZero = true ∧ (valOf .f16 false 0x8000).neg = true) ∧
    ((valOf .f16 false 0).isZero = true ∧ (valOf .f16 false 0).neg = false) ∧ ETy.isInt .i8 = true ∧ ETy.isScalarFp .f16 = true ∧
    valOf .f32 false 0x40200000 = .fin false 10485760 (-22) ∧ valOf .f32 false 0xC3010000 = .fin true 8454144 (-16) ∧
    valOf .f16 false 0x4100 = .fin false 1280 (-9) := by decide +kernel

theorem test_meets_selectionMeaning_order : (FVal.inf true).Below (.fin false 0 0) ∧ (FVal.fin true 1 0).Below (.fin false 1 0) ∧
    (FVal.fin true 0 0).Same (.fin false 0 0) ∧ (FVal.fin false 10485760 (-22)).real = (FVal.fin false 1280 (-9)).real := by
  norm_num [FVal.Below, FVal.Same, FVal.real]

/-- A tie: 1 + 2^−24 lies halfway between 1 and the next value of FP32. -/
theorem test_meets_rounding : (roundEx .f32 0 false (.num false (2 ^ 24 + 1) (-24) false)).fl / 16 % 2 = 0 ∧
    (roundEx .f32 0 false (.num false (2 ^ 24 + 1) (-24) false)).bits = 0x3F800000 ∧
    valOf .f32 false 0x3F800000 = .fin false (2 ^ 23) (-23) ∧ valOf .f32 false 0x3F800001 = .fin false (2 ^ 23 + 1) (-23) := by
  decide +kernel

theorem test_meets_rounding_tie :
    |(FVal.fin false (2 ^ 24 + 1) (-24)).real - (FVal.fin false (2 ^ 23) (-23)).real| =
      |(FVal.fin false (2 ^ 24 + 1) (-24)).real - (FVal.fin false (2 ^ 23 + 1) (-23)).real| ∧
    (FVal.fin false (2 ^ 23) (-23)).real ≠ (FVal.fin false (2 ^ 23 + 1) (-23)).real := by
  norm_num [FVal.real]

/-- An exact number, and a negative one with bits already dropped; one at the overflow of FP16. -/
theorem test_meets_rounding_stands : (Ex.num false (2 ^ 24 + 1) (-24) false).Stands (1 + 2⁻¹ ^ 24) ∧
    (Ex.num true (2 ^ 63) (-63) true).Stands (-(1 + 2⁻¹ ^ 64)) ∧ (Ex.num false 1 16 false).Stands 65536 ∧
    (2 : ℝ) ^ ((fmtOf .f16).bias + 1) ≤ |65536| := by
  refine ⟨?_, ?_, ?_, ?_⟩ <;> norm_num [Ex.Stands, fmtOf]

/-- Rounded up and down, the number with bits dropped is short of overflow and one of the values between which it lies
is delivered. -/
theorem test_meets_rounding_directed : (roundEx .f32 2 false (.num true (2 ^ 63) (-63) true)) = { bits := 0xBF800000, fl := 64 } ∧
    (roundEx .f32 3 false (.num true (2 ^ 63) (-63) true)) = { bits := 0xBF800001, fl := 64 } ∧
    (roundEx .f16 0 false (.num false 1 16 false)).fl / 16 % 2 = 1 ∧ 3 < 4 := by decide +kernel

/-- Exact operands: 1 and −1, whose sum is zero; zeros; infinities and NaNs; a zero divisor and a negative radicand. -/
theorem test_meets_exactArithmetic : ((FVal.fin false 1 0).real : ℝ) + ((FVal.fin true 1 0).real : ℝ) = 0 ∧
    ((FVal.fin false 1 0).real : ℝ) - ((FVal.fin false 1 0).real : ℝ) = 0 ∧
    ((FVal.fin false 1 0).real : ℝ) * ((FVal.fin true 1 0).real : ℝ) + ((FVal.fin false 1 0).real : ℝ) = 0 := by
  norm_num [FVal.real]

theorem test_meets_exactArithmetic_special : (FVal.fin true 0 0).isZero = true ∧ (FVal.inf true).isInf = true ∧
    (FVal.nan true).isNan = true ∧ zeroTimesInf (.nan true) (.inf true) = false ∧ (FVal.fin false 1 0).isNan = false ∧
    zeroTimesInf (.inf false) (.fin false 1 0) = false ∧ (FVal.fin false 1 0).isInf = false := by decide

/-- An operand of each row of R105's table, and integers, powers of two and values far out of range among the finite ones. -/
theorem test_meets_specialFunctions : (∀ c ∈ [0x7FA00000, 0xFF800000, 0x80000000, 0x40400000, 0x3E800000, 0x46000000, 0xC6000000],
    c < 2 ^ ETy.bits .f32) ∧ valOf .f32 false 0x7FA00000 = .nan true ∧ valOf .f32 false 0xFF800000 = .inf true ∧
    valOf .f32 false 0x80000000 = .fin true 0 (-149) ∧ valOf .f32 false 0x40400000 = .fin false 12582912 (-22) ∧
    valOf .f32 false 0x3E800000 = .fin false 8388608 (-25) ∧ valOf .f32 false 0x46000000 = .fin false 8388608 (-10) ∧
    valOf .f32 false 0xC6000000 = .fin true 8388608 (-10) := by decide +kernel

theorem test_meets_specialFunctions_values : ((FVal.fin false 12582912 (-22)).real : ℝ) = ((3 : Int) : ℝ) ∧
    |((FVal.fin false 12582912 (-22)).real : ℝ)| < 2 ^ 13 ∧ ((FVal.fin false 8388608 (-25)).real : ℝ) = (2 : ℝ) ^ (-2 : Int) ∧
    (2 : ℝ) ^ 13 ≤ ((FVal.fin false 8388608 (-10)).real : ℝ) ∧ ((FVal.fin true 8388608 (-10)).real : ℝ) ≤ -2 ^ 13 ∧
    ((FVal.fin false 12582912 (-22)).real : ℝ) ≠ 1 := by
  norm_num [FVal.real]

/-- A window of 24 bits below 1, and a term that lies below it; lists of special terms. -/
theorem test_meets_windowedSums :
    let ts : List FVal := [.fin false 1 0, .fin true 1 (-30)]
    0 < 24 ∧ (∀ q ∈ ts, ∃ n m e, q = .fin n m e) ∧ (∃ q ∈ ts, q.real ≠ 0 ∧ Int.log 2 |q.real| = 0) ∧
    (∀ q ∈ ts, q.real ≠ 0 → Int.log 2 |q.real| ≤ 0) := by
  intro ts
  have h1 : (FVal.fin false 1 0).real = 1 := by norm_num [FVal.real]
  have h2 : |(FVal.fin true 1 (-30)).real| = ((2 : Nat) : ℚ) ^ (-30 : Int) := by norm_num [FVal.real]
  refine ⟨by decide, ?_, ⟨.fin false 1 0, by simp [ts], by rw [h1]; exact one_ne_zero, by rw [h1]; simp⟩, ?_⟩
  · intro q hq
    simp only [ts, List.mem_cons, List.not_mem_nil, or_false] at hq
    rcases hq with rfl | rfl <;> exact ⟨_, _, _, rfl⟩
  · intro q hq _
    simp only [ts, List.mem_cons, List.not_mem_nil, or_false] at hq
    rcases hq with rfl | rfl
    · rw [h1]; simp
    · rw [h2, Int.log_zpow (by norm_num)]; norm_num

theorem test_meets_windowedSums_special : (∃ q ∈ [FVal.nan true], q.isNan = true) ∧
    (FVal.inf false ∈ [FVal.inf false, .inf true] ∧ FVal.inf true ∈ [FVal.inf false, .inf true]) ∧
    (∀ q ∈ [FVal.fin true 0 0], q.isZero = true) ∧ zeroTimesInf (valOf .f32 false 0) (valOf .f32 false 0x7F800000) = true ∧
    (valOf .f32 false 0x3F800000).isNan = false ∧ (ETy.f32 ≠ .tw8) ∧ valOf .f32 false 0x3F800000 = .fin false 8388608 (-23) := by
  decide +kernel

theorem test_meets_controlResults : tState.readable [.g 1, .g 2] = true ∧ tState.readable [] = true ∧
    tState.readable [.g 4] = true ∧ (tState.sc (.g 1)).toNat % 4 = 0 ∧ (tState.sc (.g 4)).toNat % 4 ≠ 0 ∧
    Sc.isI .zr = false ∧ (tState.thread? tState.cur).isSome = true := by decide +kernel

theorem test_meets_haltResults : tState.readable [.g 1, .g 15] = true ∧
    (let s := tT (fun t => { t with idepth := 4 })
     s.readable [.g 1, .g 15] = true ∧ s.thr.trapent = false ∧ s.thr.idepth ≠ 0 ∧ (s.thr.g.get 15).toNat % 4 = 0) ∧
    tState.thr.idepth = 0 ∧ tState.thr.stores = [] ∧ tState.thr.vPend = 0 ∧
    (tT (fun t => { t with idepth := 4, trapent := true })).thr.trapent = true := by
  decide +kernel

theorem test_meets_maskResults : tState.readable [] = true ∧ tState.kreadable [5, 6] = true ∧ (7 : KReg) ≠ 0 ∧ Sc.isI .zr = false ∧
    (0 : Nat) < 256 ∧ (tState.thr.mask 1).getLsbD 0 = true := by decide +kernel

/-! ## Premises of the statements: vectors -/

theorem test_meets_vectorFloatResults : (tState.vreadyFor [] [15] (1 :: 2 :: vsrcRegs (.reg 1)) 1 = true ∧
    VSrc.fits .bf16 (.imm 0xFFFF) = true ∧ ETy.isVecFp .bf16 = true) ∧ ∀ fl, enabledFlags tState.thr.fcsr fl = 0 :=
  ⟨by decide +kernel, enabledFlags_zero⟩

/-- Every lane of `v1` a signalling NaN of BF16, and every flag that may trap enabled. -/
def tVNan : State := tT (fun t =>
  { t with v := t.v.set 1 (((BitVec.allOnes 2048).toNat / 0xFFFF * 0x7FA0 : Nat) : Vec), fcsr := 0x380 })

theorem test_meets_vectorFloatResults_traps :
    let s := tVNan
    let x (j : Nat) := lane 16 (s.thr.v.get 1) j
    let traps (f : Nat → FRes) : Prop := enabledFlags s.thr.fcsr (flagsOf .bf16 (s.thr.mask 1) f) ≠ 0
    s.vreadyFor [] [15] [1, 1, 1] 1 = true ∧ traps (fun j => fAdd .bf16 s.thr.rm (x j) (x j)) ∧
    traps (fun j => fSub .bf16 s.thr.rm (x j) (x j)) ∧ traps (fun j => fMul .bf16 s.thr.rm (x j) (x j)) ∧
    traps (fun j => fDiv .bf16 s.thr.rm (x j) (x j)) ∧ traps (fun j => fFma .bf16 s.thr.rm (x j) (x j) (x j)) ∧
    traps (fun j => fmaWin .bf16 s.thr.rm s.thr.window (x j) (x j) (x j)) ∧
    traps (fun j => fMaxMin .bf16 false (x j) (x j)) ∧ traps (fun j => fMaxMin .bf16 true (x j) (x j)) ∧
    traps (fun j => fSpecial .exp2 .bf16 (x j)) ∧ traps (fun j => fSpecial .log2 .bf16 (x j)) ∧
    traps (fun j => fSpecial .rcp .bf16 (x j)) ∧ traps (fun j => fSpecial .rsq .bf16 (x j)) ∧
    traps (fun j => fSpecial .tanh .bf16 (x j)) := by decide +kernel

theorem test_meets_vectorIntegerResults : ETy.isVec .i8 = true ∧ ETy.isVecInt .i8 = true ∧ ETy.isVec .f32 = true ∧
    ETy.isVecFp .f32 = true ∧ tState.vreadyFor [] [0] (15 :: 0 :: vsrcRegs (.reg 0)) 0 = true ∧
    VSrc.fits .i8 (.imm 255) = true := by decide +kernel

theorem test_meets_vectorConversions : ((Instr.vcvt .e2m1 .f32 false true 0 1 7 0).wf = true ∧
    tState.vreadyFor [] [0] [1] 0 = true) ∧ (∀ fl, enabledFlags tState.thr.fcsr fl = 0) ∧
    ((Instr.vcvt .i16 .bf16 false false 0 1 0 1).wf = true ∧ tVNan.vreadyFor [] [0] [1] 1 = true ∧
    enabledFlags tVNan.thr.fcsr ((List.range 128).foldl (fun acc j =>
      if (1 : KReg) == 0 || (tVNan.thr.mask 1).getLsbD j then
        acc ||| (convert .i16 false false tVNan.thr.rm (valOf .bf16 false (lane 16 (tVNan.thr.v.get 1) j))).fl else acc) 0) ≠ 0) :=
  ⟨by decide +kernel, enabledFlags_zero, by decide +kernel⟩

theorem test_meets_vectorComparisons : (tState.readable [] = true ∧ tState.kreadable [7] = true ∧ VSrc.fits .i16 (.reg 1) = true ∧
    (Instr.vsetc .lt true .i16 7 1 (.reg 1) 1).wf = true ∧ tState.vreadyFor [] [] (1 :: vsrcRegs (.reg 1)) 1 = true ∧
    tState.vreadyFor [] [15] [1, 2] 1 = true) ∧ (∀ fl, enabledFlags tState.thr.fcsr fl = 0) ∧
    ((Instr.vsetc .lt false .bf16 7 1 (.reg 1) 1).wf = true ∧ tVNan.vreadyFor [] [] [1, 1] 1 = true ∧
    enabledFlags tVNan.thr.fcsr (flagsOf .bf16 (tVNan.thr.mask 1) (fun j => { bits := 0, fl := (fCompare .bf16 .lt
      (lane 16 (tVNan.thr.v.get 1) j) (lane 16 (tVNan.thr.v.get 1) j)).2 })) ≠ 0) :=
  ⟨by decide +kernel, enabledFlags_zero, by decide +kernel⟩

theorem test_meets_vectorReductions : ((Instr.vred .max true false .i8 .zr 1 1).wf = true ∧ Sc.isI .zr = false ∧
    tState.vreadyFor [] [] [1] 1 = true ∧ (Instr.vscan .add false false .i32 15 1 1).wf = true ∧
    tState.vreadyFor [] [15] [1] 1 = true ∧ (Instr.vscan .add false true .f32 15 1 1).wf = true) ∧
    (∀ fl, enabledFlags tState.thr.fcsr fl = 0) ∧ (ETy.isVecInt .i8 = true ∧ (∀ x ∈ [0, 127, 128, 255], x < 2 ^ ETy.bits .i8) ∧
    ETy.isVecFp .bf16 = true ∧ (valOf .bf16 false 0x8000).isNan = false) :=
  ⟨by decide +kernel, enabledFlags_zero, by decide +kernel⟩

theorem test_meets_vectorReductions_traps : (Instr.vred .add false false .bf16 (.g 1) 1 1).wf = true ∧
    tVNan.vreadyFor [] [] [1] 1 = true ∧
    enabledFlags tVNan.thr.fcsr (redList .add false false .bf16 tVNan.thr.rm tVNan.thr.window
      (((List.range 128).filter (fun j => (tVNan.thr.mask 1).getLsbD j)).map (fun j => lane 16 (tVNan.thr.v.get 1) j))).fl ≠ 0 ∧
    (Instr.vscan .add false false .bf16 15 1 1).wf = true ∧ tVNan.vreadyFor [] [15] [1] 1 = true ∧
    enabledFlags tVNan.thr.fcsr (flagsOf .bf16 (tVNan.thr.mask 1) (fun i =>
      redList .add false false .bf16 tVNan.thr.rm tVNan.thr.window
        (((List.range (i + 1)).filter (fun j => (tVNan.thr.mask 1).getLsbD j)).map (fun j => lane 16 (tVNan.thr.v.get 1) j)))) ≠ 0 := by
  decide +kernel

theorem test_meets_vectorMoves : ETy.isVec .i16 = true ∧ ETy.isVecInt .i16 = true ∧ tState.vreadyFor [] [0] [1, 2] 1 = true ∧
    tState.vreadyFor [.g 8] [0] [1, 2] 1 = true ∧ tState.vreadyFor [.g 8] [0] [] 1 = true ∧
    tState.vreadyFor [.g 8] [] [1] 0 = true ∧ Sc.isI .zr = false ∧ tState.readable [.g 1, .g 2] = true ∧
    tState.vreadable [0] [0] = true ∧ tState.vreadyFor [.g 1, .g 2, .g 3] [0] [] 1 = true ∧
    (Instr.vtopk .f32 14 0 63 (.g 1) 1).wf = true ∧ tState.vreadyFor [.g 1] [14, 14 + 1] [0] 1 = true := by decide +kernel

theorem test_meets_vectorFrame : (Instr.cls (.vtopk .f32 14 0 3 (.g 1) 1) = .vec ∧ tState.thr.ports = []) ∧
    (∃ t, exec (.vtopk .f32 14 0 3 (.g 1) 1) tState = .next t ∧ Ran tState t) ∧
    (encodeF (.vtopk .f32 14 0 3 (.g 1) 1)).isSome = true :=
  ⟨by decide +kernel, runs_meets (by decide +kernel), by decide +kernel⟩

def tPort (kind : Nat) : Port :=
  { kind := kind, base := 0, stride := 0, count := 0, ty := .f32, kreg := 0, m := 0, h := 0, ahead := [], drawn := none }

/-- `v1` a port of kind `kind`, and the queues of the chains to and from the core filled. -/
def tChain (v kind : Nat) : State :=
  { (tT (fun t => { t with ports := [(v, tPort kind)] })) with
    cur := 0, chains := [(chainKey 0 true, [5, 6, 7]), (chainKey 2 true, [1])] }

/-- A thread of core 2, which stands below core 0 on the launch grid, with a port from above. -/
def tBelow : State :=
  { tState with
    cur := 16, threads := [(16, { tThread with ports := [(1, tPort 6)] })], chains := [(chainKey 0 true, [3, 4])] }

theorem completed_meets {i : Instr} {s : State}
    (h : (match exec i s with
      | .next t => t.cur == s.cur && (t.thread? s.cur).isSome && t.thr.park.isNone && t.thr.trapent == s.thr.trapent &&
          t.thr.hold.isNone && t.thr.pc == s.thr.pc + BitVec.ofNat 64 (instrLen i)
      | _ => false) = true) : ∃ t, exec i s = .next t ∧ Completed i s t := by
  cases he : exec i s with
  | next t =>
    rw [he] at h
    simp only [Bool.and_eq_true, beq_iff_eq, Option.isNone_iff_eq_none] at h
    exact ⟨t, rfl, ⟨h.1.1.1.1.1, h.1.1.1.1.2, h.1.1.1.2, h.1.1.2⟩, h.1.2, h.2⟩
  | _ => rw [he] at h; cases h

/-- The names of `VADD.f32 v2, v1, v1` under `k1` and of `VADD.f32 v1, v2, v3`. -/
def tReads : VNames := { src := [1, 1], dst := [2], k := 1 }
def tWrites : VNames := { src := [2, 3], dst := [1], k := 1 }

/-- The conditions on the registers that the statement of the chain ports asks for. -/
def tNamed (s : State) (n : VNames) (v : VReg) (p : Port) : Bool :=
  s.readable n.rd && (n.src ++ n.dst).all (fun u => decide (u.val < s.thr.alot)) &&
    n.full.all (fun u => u == v || (s.thr.vFull.getLsbD u.val && !s.thr.vPoison.getLsbD u.val)) && s.kreadable n.masks &&
    s.thr.ports == [(v.val, p)] && p.drawn.isNone

theorem test_meets_chainPorts_receive : Instr.cls (.vadd .f32 2 1 (.reg 1) 1) = .vec ∧
    Instr.vnames (.vadd .f32 2 1 (.reg 1) 1) = some tReads ∧ (1 : VReg) ∈ tReads.src ∧ (1 : VReg) ∉ tReads.dst ∧
    tNamed tBelow tReads 1 (tPort 6) = true ∧ (tPort 6).kind = 6 ∧ chainIn tBelow.core 6 = some (chainKey 0 true) ∧
    mapGet tBelow.chains (chainKey 0 true) = some (3 :: [4]) ∧
    (let s : State := { tBelow with chains := [] }
     tNamed s tReads 1 (tPort 6) = true ∧ (mapGet s.chains (chainKey 0 true)).getD [] = []) ∧
    (tNamed (tChain 1 4) tReads 1 (tPort 4) = true ∧ (tPort 4).receives = false) := by decide +kernel

theorem test_meets_chainPorts_received : ∃ t,
    exec (.vadd .f32 2 1 (.reg 1) 1) (tBelow.setThr { tBelow.thr.putV 1 3 with ports := [] }) = .next t ∧
    Completed (.vadd .f32 2 1 (.reg 1) 1) (tBelow.setThr { tBelow.thr.putV 1 3 with ports := [] }) t :=
  completed_meets (by decide +kernel)

theorem test_meets_chainPorts_send : Instr.cls (.vadd .f32 1 2 (.reg 3) 1) = .vec ∧
    Instr.vnames (.vadd .f32 1 2 (.reg 3) 1) = some tWrites ∧ (1 : VReg) ∈ tWrites.dst ∧ (1 : VReg) ∉ tWrites.src ∧
    tWrites.dst = [1] ∧ tNamed (tChain 1 4) tWrites 1 (tPort 4) = true ∧ (tPort 4).kind = 4 ∧
    ((mapGet (tChain 1 4).chains (chainKey (tChain 1 4).core (decide ((tPort 4).kind = 4)))).getD []).length < 4 ∧
    (let s : State := { tChain 1 4 with chains := [(chainKey 0 true, [5, 6, 7, 8])] }
     tNamed s tWrites 1 (tPort 4) = true ∧
     ((mapGet s.chains (chainKey s.core (decide ((tPort 4).kind = 4)))).getD []).length = 4) ∧
    (tNamed (tChain 1 0) tWrites 1 (tPort 0) = true ∧ (tPort 0).receives = true ∧ (tPort 0).kind < 6) := by decide +kernel

theorem test_meets_chainPorts_sent : ∃ t,
    exec (.vadd .f32 1 2 (.reg 3) 1) ((tChain 1 4).setThr { (tChain 1 4).thr.putV 1 0 with ports := [] }) = .next t ∧
    Completed (.vadd .f32 1 2 (.reg 3) 1) ((tChain 1 4).setThr { (tChain 1 4).thr.putV 1 0 with ports := [] }) t :=
  completed_meets (by decide +kernel)

theorem test_meets_vectorSourceChecks :
    let n : VNames := { src := [1, 15, 1], dst := [2], k := 7 }
    Instr.vnames (.vfma false .f32 2 1 (.reg 1) 15 7) = some n ∧ tState.readable n.rd = true ∧ n.sd = none ∧ tState.thr.ports = [] ∧
    Instr.vnames (.vbcast .f32 16 (.g 1) 0) = some { rd := [.g 1], dst := [16] } ∧ tState.thr.alot ≤ (16 : VReg).val ∧
    (∀ v ∈ n.src ++ n.dst, v.val < tState.thr.alot) ∧
    (let s := tT (fun t => { t with vFull := clrBit t.vFull 1 })
     (1 : VReg) ∈ n.full ∧ s.thr.vFull.getLsbD (1 : VReg).val = false) ∧
    (let s := tT (fun t => { t with vPoison := setBit t.vPoison 2 })
     (2 : VReg) ∈ n.full ∧ (∀ v ∈ n.full, s.thr.vFull.getLsbD v.val = true) ∧ s.thr.vPoison.getLsbD (2 : VReg).val = true) ∧
    (let s := tT (fun t => { t with kPoison := setBit t.kPoison 7 })
     (∀ v ∈ n.full, s.thr.vFull.getLsbD v.val = true ∧ s.thr.vPoison.getLsbD v.val = false) ∧ s.kreadable n.masks = false) := by
  decide +kernel
/-! ## Premises of the statements: memory -/

theorem test_meets_loads : (tState.readable [.g 1] = true ∧ Sc.isI .zr = false ∧ tState.fresh = true ∧
    (tState.sc (.g 1) + BitVec.ofInt 64 (0 : BitVec 27).toInt).toNat % widthBytes .d = 0) ∧
    (∃ p, tState.reach loadA (tState.sc (.g 1) + BitVec.ofInt 64 (0 : BitVec 27).toInt) = .ok p ∧
      (tState.atHome p && !tState.poisoned p.pa 8) = true) ∧
    ∃ p, tState.reach loadA (tState.sc (.g 9) + BitVec.ofInt 64 (0x3FFFF : BitVec 27).toInt) = .ok p ∧
      (tState.atHome p && !tState.poisoned p.pa 1) = true :=
  ⟨by decide +kernel, ok_meets (by decide +kernel), ok_meets (by decide +kernel)⟩

/-- A misaligned address whose bytes stand on two pages. -/
theorem test_meets_loads_misaligned : (tState.readable [.g 4] = true ∧
    (tState.sc (.g 4) + BitVec.ofInt 64 (-4 : BitVec 27).toInt).toNat % widthBytes .d ≠ 0) ∧
    ∃ f : Nat → Phys, ∀ j < 8,
      tState.reach loadA (tState.sc (.g 4) + BitVec.ofInt 64 (-4 : BitVec 27).toInt + BitVec.ofNat 64 j) = .ok (f j) ∧
      (tState.atHome (f j) && !tState.poisoned (f j).pa 1) = true :=
  ⟨by decide +kernel, all_meets (f := fun _ p => tState.atHome p && !tState.poisoned p.pa 1) (by decide +kernel)⟩

/-- The visitor line of address 4 × 2^36 + 0x40 in die 0. -/
def tVisit : State := { tState with visitors := [(visitorKey 0 (2 ^ 32 + 1), { data := 0x1234, dirty := 2 })] }

theorem test_meets_loads_visitor : (tVisit.readable [.g 6] = true ∧ tVisit.fresh = true ∧ tVisit.poison = [] ∧
    (tVisit.sc (.g 6) + BitVec.ofInt 64 (0 : BitVec 27).toInt).toNat % widthBytes .d = 0 ∧ tVisit.calm = true) ∧
    (∃ p, tVisit.reach loadA (tVisit.sc (.g 6) + BitVec.ofInt 64 (0 : BitVec 27).toInt) = .ok p ∧ (p.visits tVisit.core &&
      mapGet tVisit.visitors (visitorKey (dieOfCore tVisit.core) (p.pa / 64)) == some { data := 0x1234, dirty := 2 }) = true) ∧
    ∃ p, tVisit.reach storeA (tVisit.sc (.g 6) + BitVec.ofInt 64 (0 : BitVec 27).toInt) = .ok p ∧ (p.visits tVisit.core &&
      mapGet tVisit.visitors (visitorKey (dieOfCore tVisit.core) (p.pa / 64)) == some { data := 0x1234, dirty := 2 }) = true :=
  ⟨by decide +kernel, ok_meets (by decide +kernel), ok_meets (by decide +kernel)⟩

theorem test_meets_stores : (tState.readable [.g 1, .g 2] = true ∧ tState.readable [.g 4, .g 2] = true ∧ tState.fresh = true ∧
    tState.calm = true) ∧
    (∃ p, tState.reach storeA (tState.sc (.g 1) + BitVec.ofInt 64 (8 : BitVec 27).toInt) = .ok p ∧ tState.atHome p = true) ∧
    (tState.sc (.g 4) + BitVec.ofInt 64 (-4 : BitVec 27).toInt).toNat % widthBytes .d ≠ 0 ∧
    tState.spans storeA (tState.sc (.g 4) + BitVec.ofInt 64 (-4 : BitVec 27).toInt) 0x1FFD 8 (fun _ => true) :=
  ⟨by decide +kernel, ok_meets (by decide +kernel), by decide +kernel, spans_meets (by decide +kernel)⟩

theorem test_meets_fullEmpty : (tState.readable [.g 1, .g 2] = true ∧ Sc.isI .zr = false ∧ tState.fresh = true ∧
    tState.calm = true ∧ (tState.sc (.g 1) + BitVec.ofInt 64 (0 : BitVec 27).toInt).toNat % widthBytes .b = 0 ∧
    LdMode.wfe ≠ .ig ∧ StMode.wef ≠ .ig) ∧
    (∃ p, tState.reach { rd := true, fe := true } (tState.sc (.g 1) + BitVec.ofInt 64 (0 : BitVec 27).toInt) = .ok p ∧
      (tState.homeAnswers p.pa && tState.tagAt p.pa) = true) ∧
    (∃ p, tState.reach { rd := true, fe := true } (tState.sc (.g 1) + BitVec.ofInt 64 (8 : BitVec 27).toInt) = .ok p ∧
      (tState.homeAnswers p.pa && !tState.tagAt p.pa) = true) ∧
    (∃ p, tState.reach { wr := true, fe := true } (tState.sc (.g 1) + BitVec.ofInt 64 (0 : BitVec 27).toInt) = .ok p ∧
      (tState.homeAnswers p.pa && tState.tagAt p.pa) = true) ∧
    (∃ p, tState.reach { wr := true, fe := true } (tState.sc (.g 1) + BitVec.ofInt 64 (8 : BitVec 27).toInt) = .ok p ∧
      (tState.homeAnswers p.pa && !tState.tagAt p.pa) = true) :=
  ⟨by decide +kernel, ok_meets (by decide +kernel), ok_meets (by decide +kernel), ok_meets (by decide +kernel),
    ok_meets (by decide +kernel)⟩

theorem test_meets_atomics : (Width.isAmo .d = true ∧ tState.readable [.g 1, .g 2, .g 3] = true ∧ Sc.isI .zr = false ∧
    tState.fresh = true ∧ tState.calm = true ∧
    (tState.sc (.g 1) + BitVec.ofInt 64 (0 : BitVec 27).toInt).toNat % widthBytes .d = 0) ∧
    (∃ p, tState.reach amoA (tState.sc (.g 1) + BitVec.ofInt 64 (0 : BitVec 27).toInt) = .ok p ∧ tState.homeAnswers p.pa = true) ∧
    (∃ p, tState.reach amoA (tState.sc (.g 1) + BitVec.ofInt 64 (0 : BitVec 32).toInt) = .ok p ∧ (tState.homeAnswers p.pa &&
      tState.readN p.pa 8 != (tState.sc (.g 2)).toNat % 2 ^ 64) = true) ∧
    (∃ p, tState.reach amoA (tState.sc (.g 1) + BitVec.ofInt 64 (16 : BitVec 32).toInt) = .ok p ∧ (tState.homeAnswers p.pa &&
      tState.readN p.pa 8 == (tState.sc (.g 13)).toNat % 2 ^ 64) = true) :=
  ⟨by decide +kernel, ok_meets (by decide +kernel), ok_meets (by decide +kernel), ok_meets (by decide +kernel)⟩

theorem test_meets_memoryFaults : (tState.readable [.g 4, .g 2, .g 3] = true ∧ Sc.isI .zr = false ∧ LdMode.wf ≠ .ig ∧
    StMode.sf ≠ .ig ∧ (tState.sc (.g 4) + BitVec.ofInt 64 (0 : BitVec 27).toInt).toNat % widthBytes .h ≠ 0 ∧
    (tState.sc (.g 4) + BitVec.ofInt 64 (0 : BitVec 32).toInt).toNat % widthBytes .w ≠ 0 ∧
    (tState.sc (.g 4) + BitVec.ofInt 64 (0 : BitVec 27).toInt).toNat % 8 ≠ 0 ∧
    (tState.sc (.g 4) + BitVec.ofInt 64 (0 : BitVec 32).toInt).toNat % 8 ≠ 0 ∧ tState.readable [.g 10, .g 2, .g 3] = true ∧
    (tState.sc (.g 10) + BitVec.ofInt 64 (0 : BitVec 27).toInt).toNat % widthBytes .d = 0) ∧
    (∃ t, tState.reach loadA (tState.sc (.g 10) + BitVec.ofInt 64 (0 : BitVec 27).toInt) = .error t) ∧
    (∃ t, tState.reach storeA (tState.sc (.g 10) + BitVec.ofInt 64 (0 : BitVec 27).toInt) = .error t) ∧
    (∃ t, tState.reach amoA (tState.sc (.g 10) + BitVec.ofInt 64 (0 : BitVec 27).toInt) = .error t) :=
  ⟨by decide +kernel, error_meets (by decide +kernel), error_meets (by decide +kernel),
    error_meets (by decide +kernel)⟩

theorem test_meets_remoteAccesses : (tState.readable [.g 7, .g 2] = true ∧ Sc.isI .zr = false ∧ tState.fresh = true ∧
    (tState.sc (.g 7) + BitVec.ofInt 64 (0 : BitVec 27).toInt).toNat % widthBytes .d = 0 ∧
    (tState.coreAt tState.core).freeTag = some (0, 0)) ∧
    (∃ p, tState.reach loadA (tState.sc (.g 7) + BitVec.ofInt 64 (0 : BitVec 27).toInt) = .ok p ∧
      (!p.visits tState.core && pkgOfPa p.pa != pkgOfCore tState.core) = true) ∧
    (∃ p, tState.reach storeA (tState.sc (.g 7) + BitVec.ofInt 64 (0 : BitVec 27).toInt) = .ok p ∧
      (!p.visits tState.core && pkgOfPa p.pa != pkgOfCore tState.core) = true) :=
  ⟨by decide +kernel, ok_meets (by decide +kernel), ok_meets (by decide +kernel)⟩

/-- Fan-out entries 0 and 63: with two deliveries, and with none. -/
def tFan : State := tP (fun p => { p with fan := [(0, { out := 0, shift := 3, total := 2, valid := true }),
  (63, { out := 0, shift := 1, total := 0, valid := true })] })

theorem test_meets_multicast : (tFan.readable [.g 1, .g 1, .g 14] = true ∧ tFan.calm = true ∧ tFan.thr.stores = [] ∧
    (tFan.coreAt tFan.core).reqs = [] ∧ (tFan.coreAt tFan.core).freeTag = some (0, 0) ∧
    ((mapGet (tFan.pkgAt (pkgOfCore tFan.core)).fan (0 : BitVec 6).toNat).map (fun f => (f.valid, f.total)) = some (true, 2)) ∧
    ((mapGet (tFan.pkgAt (pkgOfCore tFan.core)).fan (63 : BitVec 6).toNat).map (fun f => (f.valid, f.total)) = some (true, 0)) ∧
    tFan.sc (.g 14) = 8 ∧ (tFan.sc (.g 1) + 0).toNat % 8 = 0 ∧ (0 : Word) = BitVec.ofInt 64 (0 : BitVec 32).toInt) ∧
    (∃ p, tFan.reach storeA (tFan.sc (.g 1) + 0) = .ok p ∧ isHbm p.pa = true) ∧
    tFan.spans loadA (tFan.sc (.g 1)) 0x2000 8 (fun _ => true) ∧ tFan.thr.mail = [] ∧
    (tFan.readable [.g 1, .g 1, .g 8] = true ∧ (tFan.sc (.g 8)).toNat = 64) ∧
    tFan.spans loadA (tFan.sc (.g 1)) 0x2000 64 (fun _ => true) :=
  ⟨by decide +kernel, ok_meets (by decide +kernel), spans_meets (by decide +kernel), by decide +kernel, by decide +kernel,
    spans_meets (by decide +kernel)⟩

def tMcastMail : Mail := { k := mcastK true false, epoch := 0, req := .rd 0 0, rep := .ok }

theorem test_meets_multicast_answered :
    (let s := tFan.setThr { tFan.thr with mail := [tMcastMail] }
     (s.thr.mail = [tMcastMail] ∧ s.readable [.g 1, .g 1, .g 14] = true ∧ s.calm = true ∧
     (s.coreAt s.core).freeTag = some (0, 0) ∧ (s.coreAt s.core).reqs = [] ∧ tMcastMail.rep = .ok) ∧
     ∃ p, s.reach storeA (s.sc (.g 1) + 0) = .ok p ∧ (tMcastMail.k == mcastK p.leaf.fe (p.leaf.home == 3)) = true) :=
  ⟨by decide +kernel, ok_meets (by decide +kernel)⟩

theorem test_meets_ordering : (tState.thread? tState.cur).isSome = true ∧ tState.thr.stores = [] ∧
    (tT (fun t => { t with stores := [(0x2000, 8, 0, 0x2000)] })).thr.stores ≠ [] ∧
    ((tT (fun t => { t with stores := [(0x2000, 8, 0, 0x2000)] })).thread? 0).isSome = true := by decide +kernel

theorem test_meets_pegs : (tState.readable [.g 1, .g 2, .g 8] = true ∧ Sc.isI .zr = false ∧ tState.fresh = true ∧ tState.calm = true ∧
    (tState.sc (.g 1) + BitVec.ofInt 64 (0 : BitVec 27).toInt).toNat % 8 = 0) ∧
    (∃ p, tState.reach { rd := true, fe := true } (tState.sc (.g 1) + BitVec.ofInt 64 (0 : BitVec 27).toInt) = .ok p ∧
      (tState.homeAnswers p.pa && tState.tagAt p.pa && decide ((tState.sc (.g 2)).toNat ≤ tState.readN p.pa 8)) = true) ∧
    (∃ p, tState.reach { rd := true, fe := true } (tState.sc (.g 1) + BitVec.ofInt 64 (8 : BitVec 27).toInt) = .ok p ∧
      (tState.homeAnswers p.pa && !tState.tagAt p.pa) = true) ∧
    (∃ p, tState.reach { rd := true, fe := true } (tState.sc (.g 1) + BitVec.ofInt 64 (0 : BitVec 27).toInt) = .ok p ∧
      (tState.homeAnswers p.pa && decide (tState.readN p.pa 8 < (tState.sc .zr - 1).toNat)) = true) ∧
    (∃ p, tState.reach { wr := true, fe := true } (tState.sc (.g 1) + BitVec.ofInt 64 (8 : BitVec 27).toInt) = .ok p ∧
      tState.homeAnswers p.pa = true) ∧ tState.visitors = [] ∧ tState.noCleans :=
  ⟨by decide +kernel, ok_meets (by decide +kernel), ok_meets (by decide +kernel), ok_meets (by decide +kernel),
    ok_meets (by decide +kernel), by decide +kernel, noCleans_meets (by decide +kernel)⟩

/-- A full peg, with a visitor line of the issuing die that holds dirty bytes of the package. -/
theorem test_meets_pegs_visitor : tVisit.noCleans ∧ tVisit.readable [.g 1, .g 2] = true ∧ tVisit.fresh = true ∧ tVisit.calm = true ∧
    (∀ e ∈ tVisit.visitors, isHbm (e.1 % 2 ^ 46 * 64) = true ∧
      (e.2.dirty = 0 ∨ pkgOfPa (e.1 % 2 ^ 46 * 64) = pkgOfCore tVisit.core)) ∧
    tVisit.visitors.all (fun e => e.1 / 2 ^ 46 == dieOfCore tVisit.core) = true :=
  ⟨noCleans_meets (by decide +kernel), by decide +kernel⟩

/-- A peg with seven ranges, in a table of 4,095 entries at most; a range of 2^36 bytes. -/
def tPegs : State :=
  tP (fun p => { p with pegs := [{ pa := 0x2000, sc := .pod, ranges := List.replicate 7 (0, 64) }] })

theorem test_meets_bind :
    (let s := tPegs.setThr { tPegs.thr with g := (tG.set 2 0).set 3 0x1000000000 }
     (s.readable [.g 1, .g 2, .g 3] = true ∧ s.fresh = true ∧ s.calm = true ∧
     (s.sc (.g 1) + BitVec.ofInt 64 (0 : BitVec 32).toInt).toNat % 8 = 0) ∧
     (∃ p, s.reach { rd := true, fe := true } (s.sc (.g 1) + BitVec.ofInt 64 (0 : BitVec 32).toInt) = .ok p ∧
       (pkgOfPa p.pa == pkgOfCore s.core && (s.pkgAt (pkgOfCore s.core)).pegs.all (fun e => decide (e.ranges.length < 8))) = true) ∧
     ((s.sc (.g 2)).toNat % 64 = 0 ∧ (s.sc (.g 3)).toNat % 64 = 0 ∧ s.sc (.g 3) ≠ 0 ∧ (s.sc (.g 3)).toNat ≤ 2 ^ 36 ∧
     (s.pkgAt (pkgOfCore s.core)).pegs.length < 4096)) :=
  ⟨by decide +kernel, ok_meets (by decide +kernel), by decide +kernel⟩

theorem test_meets_rangeMaintenance : (tState.readable [.g 1, .g 8] = true ∧ tState.fresh = true ∧ tState.calm = true ∧
    2 ^ 36 < (tState.sc (.g 3)).toNat ∧ (tState.sc (.g 8)).toNat ≤ 2 ^ 36 ∧
    tState.visitors = [] ∧
    rangeRuns (tState.sc (.g 1) + BitVec.ofInt 64 (0 : BitVec 27).toInt).toNat (tState.sc (.g 8)).toNat = [(0x80, 1)]) ∧
    ∃ p, tState.reach loadA (BitVec.ofNat 64 (0x80 * 64)) = .ok p ∧
      ((List.range 1).all (fun j => pkgOfPa ((p.pa / 64 + j) * 64) == pkgOfCore tState.core)) = true ∧ tState.noCleans := by
  obtain ⟨p, h1, h2⟩ := ok_meets (e := tState.reach loadA (BitVec.ofNat 64 (0x80 * 64)))
    (f := fun p => (List.range 1).all (fun j => pkgOfPa ((p.pa / 64 + j) * 64) == pkgOfCore tState.core)) (by decide +kernel)
  exact ⟨by decide +kernel, p, h1, h2, noCleans_meets (by decide +kernel)⟩

/-- A dirty visitor line in the range: a clean leaves its byte at the home and nothing dirty (R162). -/
theorem test_meets_rangeMaintenance_visitor : tVisit.noCleans ∧ (tVisit.readable [.g 6, .g 8] = true ∧ tVisit.fresh = true ∧ tVisit.calm = true ∧
    (tVisit.sc (.g 8)).toNat ≤ 2 ^ 36 ∧
    (∀ v ∈ tVisit.visitors, isHbm (v.1 % 2 ^ 46 * 64) = true) ∧
    rangeRuns (tVisit.sc (.g 6) + BitVec.ofInt 64 (0 : BitVec 27).toInt).toNat (tVisit.sc (.g 8)).toNat =
      [((tVisit.sc (.g 6)).toNat / 64, 1)]) ∧
    (match exec (.cmo .cl .l2 (.g 6) 0 (.g 8)) tVisit with
      | .next t => t.byteAt ((2 ^ 32 + 1) * 64 + 1) == 0x12 &&
        (mapGet t.visitors (visitorKey 0 (2 ^ 32 + 1))).all (fun l => l.dirty == 0)
      | _ => false) = true := ⟨noCleans_meets (by decide +kernel), by decide +kernel, by decide +kernel⟩

theorem test_meets_vectorMemory : (ETy.isVecAny .e2m1 = true ∧ tState.fresh = true ∧ tState.calm = true ∧
    (tState.sc (.g 1) + BitVec.ofInt 64 (0 : BitVec 27).toInt).toNat % max 1 (ETy.bits .e2m1 / 8) = 0 ∧
    tState.vreadyFor [.g 1] [15] [] 1 = true ∧ tState.vreadyFor [.g 1] [] [15] 0 = true) ∧
    tState.spans loadA (tState.sc (.g 1) + BitVec.ofInt 64 (0 : BitVec 27).toInt) 0x2000 256
      (fun j => (tState.thr.mask 1).getLsbD (j / max 1 (ETy.bits .e2m1 / 8))) ∧
    tState.spans storeA (tState.sc (.g 1) + BitVec.ofInt 64 (0 : BitVec 27).toInt) 0x2000 256
      (fun j => (tState.thr.mask 0).getLsbD (j / max 1 (ETy.bits .e2m1 / 8))) :=
  ⟨by decide +kernel, spans_meets (by decide +kernel), spans_meets (by decide +kernel)⟩

/-- Lanes 0 and 1 at offsets −4 and 2^12 of the base; their words do not overlap. -/
def tIndex : State := tT (fun t =>
  { t with v := t.v.set 2 0x00001000FFFFFFFC, k := t.k.set 1 3, g := tG.set 1 0x2000 })

def tLaneVa (j : Nat) : Word := tIndex.sc (.g 1) + BitVec.ofInt 64 (0 : BitVec 27).toInt +
  BitVec.ofInt 64 (sgnOf 32 (lane 32 (tIndex.thr.v.get 2) j))

theorem test_meets_gathers : (ETy.isLane32 .i32 = true ∧ tIndex.fresh = true ∧ tIndex.calm = true ∧
    (∀ j < 64, (tIndex.thr.mask 1).getLsbD j = true → (tLaneVa j).toNat % 4 = 0) ∧
    tIndex.vreadyFor [.g 1] [3] [2] 1 = true ∧ tIndex.vreadyFor [.g 1] [] [3, 2] 1 = true) ∧
    (∃ f : Nat → Phys, ∀ j < 64, (tIndex.thr.mask 1).getLsbD j = true →
      tIndex.reach loadA (tLaneVa j) = .ok (f j) ∧ tIndex.atHome (f j) = true) ∧
    (∃ f : Nat → Phys, ∀ j < 64, (tIndex.thr.mask 1).getLsbD j = true →
      tIndex.reach storeA (tLaneVa j) = .ok (f j) ∧ tIndex.atHome (f j) = true) :=
  ⟨by decide +kernel,
    some_meets (e := fun j => tIndex.reach loadA (tLaneVa j)) (f := fun _ p => tIndex.atHome p) (by decide +kernel),
    some_meets (e := fun j => tIndex.reach storeA (tLaneVa j)) (f := fun _ p => tIndex.atHome p) (by decide +kernel)⟩

/-- The page at 4 GiB is the supervisor's: each kind of access faults there, an entry of the fan-out table and registers
that name lengths of 64 bytes and 0 given. -/
theorem test_meets_translationFaults : (tFan.readable [.g 10, .g 13, .g 8] = true ∧ tFan.readable [.g 10, .g 8, .g 8] = true ∧
    tFan.readable [.g 1, .g 10, .g 8] = true ∧ Sc.isI .zr = false ∧
    (tFan.sc (.g 10) + BitVec.ofInt 64 (0 : BitVec 27).toInt).toNat % 64 = 0 ∧
    (tFan.sc (.g 10) + BitVec.ofInt 64 (1 : BitVec 27).toInt).toNat % widthBytes .d ≠ 0 ∧ (tFan.sc (.g 13)).toNat = 0 ∧
    (tFan.sc (.g 8)).toNat = 64 ∧
    rangeRuns (tFan.sc (.g 10) + BitVec.ofInt 64 (0 : BitVec 27).toInt).toNat (tFan.sc (.g 8)).toNat = [(0x4000000, 1)] ∧
    ((mapGet (tFan.pkgAt (pkgOfCore tFan.core)).fan (0 : BitVec 6).toNat).map (fun f => f.valid) = some true) ∧
    (tFan.thr.mask 0).getLsbD (0 / max 1 (ETy.bits .bf16 / 8)) = true ∧ tFan.vreadyFor [.g 10] [1] [] 0 = true ∧
    tFan.vreadyFor [.g 10] [] [1] 0 = true ∧ tFan.vreadyFor [.g 10] [1] [2] 0 = true ∧ tFan.vreadyFor [.g 10] [] [1, 2] 0 = true ∧
    (∀ j < 64, lane 32 (tFan.thr.v.get 2) j = 0) ∧ tFan.thr.ports = [] ∧ tFan.thr.vPend = 0 ∧ tFan.fresh = true ∧
    (1 : VReg).val + (2 : BitVec 6).toNat ≤ tFan.thr.alot) ∧
    (∀ x ∈ [loadA, storeA, amoA, storeFirst, { rd := true, fe := true }, { wr := true, fe := true }],
      ∃ t, tFan.reach x (tFan.sc (.g 10) + BitVec.ofInt 64 (0 : BitVec 27).toInt) = .error t ∧ t.cause ≠ 0x12) ∧
    (∀ x ∈ [loadA, storeFirst], ∃ t, tFan.reach x (tFan.sc (.g 10) + BitVec.ofInt 64 (1 : BitVec 27).toInt) = .error t ∧
      t.cause ≠ 0x12) ∧
    (∃ p, tFan.reach storeA (tFan.sc (.g 1) + BitVec.ofInt 64 (0 : BitVec 32).toInt) = .ok p ∧ isHbm p.pa = true) := by
  refine ⟨by decide +kernel, ?_, ?_, ok_meets (by decide +kernel)⟩ <;> intro x hx <;> apply fault_meets <;> revert x <;>
    decide +kernel

/-- A misaligned vector access, and lanes 0 and 1 at −4 and −3 beside the base, of which lane 1 is the lowest misaligned. -/
theorem test_meets_vectorMemory_misaligned : ETy.isVecAny .f32 = true ∧
    (tState.sc (.g 4) + BitVec.ofInt 64 (0 : BitVec 27).toInt).toNat % max 1 (ETy.bits .f32 / 8) ≠ 0 ∧
    tState.vreadyFor [.g 4] [15] [] 1 = true ∧ tState.vreadyFor [.g 4] [] [15] 1 = true ∧
    (let s := tT (fun t => { t with v := t.v.set 2 0xFFFFFFFDFFFFFFFC, k := t.k.set 1 3, g := tG.set 1 0x2000 })
     let va (j : Nat) : Word := s.sc (.g 1) + BitVec.ofInt 64 (0 : BitVec 27).toInt + BitVec.ofInt 64 (sgnOf 32 (lane 32 (s.thr.v.get 2) j))
     s.fresh = true ∧ s.calm = true ∧ (s.thr.mask 1).getLsbD 1 = true ∧ (va 1).toNat % 4 ≠ 0 ∧
     (∀ l < 1, (s.thr.mask 1).getLsbD l = true → (va l).toNat % 4 = 0) ∧ s.vreadyFor [.g 1] [3] [2] 1 = true ∧
     s.vreadyFor [.g 1] [] [3, 2] 1 = true) := by decide +kernel

theorem test_meets_spillFill : (tState.readable [.g 1] = true ∧ tState.readable [.g 4] = true ∧ tState.fresh = true ∧
    tState.calm = true ∧ (3 : BitVec 6) ≠ 0 ∧ tState.thr.ports = [] ∧ tState.thr.vPend = 0 ∧
    tState.thr.alot < (14 : VReg).val + (3 : BitVec 6).toNat ∧ (13 : VReg).val + (3 : BitVec 6).toNat ≤ tState.thr.alot ∧
    tState.thr.alot ≤ 64 ∧ (tState.sc (.g 4) + BitVec.ofInt 64 (0 : BitVec 27).toInt).toNat % 64 ≠ 0 ∧
    (tState.sc (.g 1) + BitVec.ofInt 64 (0 : BitVec 27).toInt).toNat % 64 = 0 ∧ tState.thr.vPoison = 0) ∧
    tState.spans loadA (tState.sc (.g 1) + BitVec.ofInt 64 (0 : BitVec 27).toInt) 0x2000 (256 * (3 : BitVec 6).toNat) (fun _ => true) ∧
    (∀ mem slice : List Host.Cell, ({ tState with mem := mem, slice := slice } : State).spans storeA
      (tState.sc (.g 1) + BitVec.ofInt 64 (0 : BitVec 27).toInt) 0x2000 (256 * (3 : BitVec 6).toNat) (fun _ => true)) :=
  ⟨by decide +kernel, spans_meets (by decide +kernel), spansAll_meets (by decide +kernel) (by decide +kernel)⟩

theorem test_meets_memoryFrames : (∃ t, exec (.ld true false .b none .zr (.g 4) 0) tState = .next t ∧ Ran tState t) ∧
    (∃ t, exec (.lds .ig true .h none (.g 1) (.g 4) 0) tState = .next t ∧ Ran tState t) ∧
    (∃ t, exec (.st false .d none (.g 4) 0 (.g 3)) tState = .next t ∧ Ran tState t) ∧ tState.retry = [] ∧
    (∃ t, exec (.st true .d (some .pod) (.g 1) 0 (.g 3)) tState = .next t ∧ Ran tState t) :=
  ⟨runs_meets (by decide +kernel), runs_meets (by decide +kernel), runs_meets (by decide +kernel), by decide +kernel,
    runs_meets (by decide +kernel)⟩

/-! ## Premises of the statements: units, threads and tasks -/

theorem test_meets_matrixCommands : (tState.readable [.g 1, .g 8] = true ∧ tState.kreadable [1] = true ∧ tState.thr.mail = [] ∧
    (tState.coreAt tState.core).mxWait = [] ∧
    (tState.coreAt tState.core).mxQ.length + (if (tState.coreAt tState.core).mxRun.isSome then 1 else 0) < 16 ∧
    0 < (8 : BitVec 9).toNat ∧ (tState.sc (.g 1)).toNat % 64 = 0 ∧ (tState.sc (.g 8)).toNat % 64 = 0 ∧
    (tState.sc (.g 4)).toNat % 64 ≠ 0 ∧ tState.readable [.g 4, .g 8] = true ∧
    fmtAccepted .e4m3 0 = true ∧ fmtAccepted .tw8 0 = true ∧ ((tState.coreAt tState.core).acc.get 3).poison = false) ∧
    (∃ f : Nat → Phys, ∀ j < (16 * (8 : BitVec 9).toNat * (fmtType 0 .e4m3).bits / 8 + 63) / 64,
      tState.reach loadA (tState.sc (.g 1) + BitVec.ofNat 64 (64 * j)) = .ok (f j) ∧
      (!(f j).inBlock && (f j).leaf.fmt == 0 && (f j).leaf.blk == 0 && tState.seamAt (f j).pa == 0) = true) ∧
    (∃ f : Nat → Phys, ∀ j < (16 * (8 : BitVec 9).toNat * (fmtType 0 .tw8).bits / 8 + 63) / 64,
      tState.reach loadA (tState.sc (.g 8) + BitVec.ofNat 64 (64 * j)) = .ok (f j) ∧
      (!(f j).inBlock && (f j).leaf.fmt == 0 && (f j).leaf.blk == 0 && tState.seamAt (f j).pa == 0) = true) ∧
    (∃ f : Nat → Phys, ∀ j < 16, tState.reach loadA (tState.sc (.g 1) + BitVec.ofNat 64 (64 * j)) = .ok (f j) ∧
      (!(f j).inBlock && (f j).leaf.fmt == 0) = true) ∧
    (∃ f : Nat → Phys, ∀ j < 256 * ETy.bits .f32 / 512,
      tState.reach storeA (tState.sc (.g 1) + BitVec.ofNat 64 (64 * j)) = .ok (f j) ∧ (!(f j).inBlock && (f j).leaf.fmt == 0) = true) :=
  ⟨by decide +kernel,
    all_meets (f := fun _ p => !p.inBlock && p.leaf.fmt == 0 && p.leaf.blk == 0 && tState.seamAt p.pa == 0) (by decide +kernel),
    all_meets (f := fun _ p => !p.inBlock && p.leaf.fmt == 0 && p.leaf.blk == 0 && tState.seamAt p.pa == 0) (by decide +kernel),
    all_meets (f := fun _ p => !p.inBlock && p.leaf.fmt == 0) (by decide +kernel),
    all_meets (f := fun _ p => !p.inBlock && p.leaf.fmt == 0) (by decide +kernel)⟩

def tMx (op : MxOp) : MxCmd := { uid := 1, slot := 0, at_ := 0, exp := 0, mode := .user, inChain := false, op := op, early := [] }

theorem test_meets_matrixCommands_full :
    (let s := tC (fun c => { c with mxQ := List.replicate 16 (tMx (.zero 0 0)) })
     s.readable [.g 1, .g 8] = true ∧ s.thr.mail = [] ∧ (s.coreAt s.core).mxWait = [] ∧
     (s.coreAt s.core).mxQ.length + (if (s.coreAt s.core).mxRun.isSome then 1 else 0) = 16) := by decide +kernel

theorem test_meets_matrixRegisters : tState.readable [] = true ∧ (tState.coreAt 0).mxQ = [] ∧ (tState.coreAt 0).mxRun = none ∧
    ((tState.coreAt 0).acc.get 3).poison = false ∧ tState.thr.chain = false ∧
    (let s := tC (fun c => { c with acc := c.acc.set 3 { Tile.reset with poison := true } })
     s.readable [] = true ∧ (s.coreAt s.core).mxQ = [] ∧ (s.coreAt s.core).mxRun = none ∧
     ((s.coreAt s.core).acc.get 3).poison = true) ∧
    (let s := tC (fun c => { c with mxQ := [tMx (.zero 0 0)] })
     (s.coreAt s.core).mxQ = [tMx (.zero 0 0)] ∧ (s.coreAt s.core).mxRun = none ∧ s.thr.mail = [] ∧
     (0 : BitVec 4).toNat < ((s.coreAt s.core).mxQ.filter (fun q => q.uid == s.thr.uid)).length) ∧
    ((tState.coreAt 0).mxQ.filter (fun q => q.uid == tState.thr.uid)).length ≤ (0 : BitVec 4).toNat ∧
    (tT (fun t => { t with chain := true })).thr.chain = true := by decide +kernel

/-- A spawn to the last core of the die, and one to a core that does not exist. -/
def tSpawn : State := tT (fun t => { t with g := (tG.set 8 1151).set 9 1152 })

theorem test_meets_spawn : tSpawn.readable [.g 8, .g 14, .g 0, .g 1, .g 2, .g 3] = true ∧ tSpawn.thr.stores = [] ∧ tSpawn.thr.mail = [] ∧
    (tSpawn.sc (.g 8)).toNat < 2 ^ 20 ∧ (tSpawn.sc (.g 8)).toNat % 2048 < 1152 ∧
    (tSpawn.pkgAt ((tSpawn.sc (.g 8)).toNat / 8192)).member = true ∧ (tSpawn.sc (.g 14)).toNat % 4 = 0 ∧
    (tSpawn.partOfCore (tSpawn.sc (.g 8)).toNat).isSome = true ∧
    tSpawn.partOfCore (tSpawn.sc (.g 8)).toNat = tSpawn.partOfCore tSpawn.core ∧ tSpawn.fresh = true ∧
    pkgOfCore (tSpawn.sc (.g 8)).toNat = pkgOfCore tSpawn.core ∧
    (tSpawn.dieAt (dieOfCore (tSpawn.sc (.g 8)).toNat)).forward = [] ∧ (tSpawn.coreAt (tSpawn.sc (.g 8)).toNat).mqIn = [] ∧
    (tSpawn.coreAt (tSpawn.sc (.g 8)).toNat).mqOut = [] ∧ (tSpawn.coreAt (tSpawn.sc (.g 8)).toNat).parked = [] ∧
    tSpawn.readable [.g 9, .g 14, .g 0, .g 1, .g 2, .g 3] = true ∧ ¬ (tSpawn.sc (.g 9)).toNat % 2048 < 1152 := by decide +kernel

theorem test_meets_spawn_accepted :
    let req : Req := .spawn 1151 0 8 tSpawn.newTag [tG.get 0, tG.get 1, tG.get 2, tG.get 3]
    let s := tSpawn.setThr { tSpawn.thr with mail := [{ k := 0, epoch := 0, req := req, rep := .ok }] }
    s.readable [.g 8, .g 14, .g 0, .g 1, .g 2, .g 3] = true ∧ s.thr.stores = [] ∧
    req = .spawn (s.sc (.g 8)).toNat s.core (s.sc (.g 14)) s.newTag [s.thr.g.get 0, s.thr.g.get 1, s.thr.g.get 2, s.thr.g.get 3] ∧
    s.thr.mail = [{ k := 0, epoch := 0, req := req, rep := .ok }] := by decide +kernel

/-- A thread without vector registers, which may migrate. -/
def tBare : State := tT (fun t => { t with alot := 0 })

theorem test_meets_migr : (tState.readable [.g 1] = true ∧ tState.thr.alot ≠ 0 ∧ tBare.readable [.g 1] = true ∧
    tBare.thr.alot = 0 ∧ tBare.fresh = true ∧ tBare.thr.trapent = false) ∧
    (∃ p, tBare.reach loadA (tBare.sc (.g 9)) = .ok p ∧ (homeCore p.pa == some tBare.core &&
      (tBare.partOfCore tBare.core).isSome) = true) ∧
    (∃ p, tBare.reach loadA (tBare.sc (.g 1)) = .ok p ∧ (homeCore p.pa == some 2) = true) ∧
    ((tBare.partOfCore 2).isSome = true ∧ tBare.partOfCore 2 = tBare.partOfCore tBare.core ∧ (2 : Nat) ≠ tBare.core ∧
    pkgOfCore 2 = pkgOfCore tBare.core ∧ (tBare.dieAt (dieOfCore 2)).forward = [] ∧ tBare.thr.gPend = 0 ∧
    tBare.thr.vPend = 0 ∧ tBare.mxOutstanding tBare.core tBare.thr.uid = 0 ∧ (tBare.coreAt 2).mqIn = [] ∧
    (tBare.coreAt 2).mqOut = [] ∧ (tBare.coreAt 2).parked = []) :=
  ⟨by decide +kernel, ok_meets (by decide +kernel), ok_meets (by decide +kernel), by decide +kernel⟩

def tTask (n : Nat) : Task := { serial := n, pc := 0x40, args := [1, 2, 3, 4], pri := 0, kw := 0, ks := 0, exp := 0, run := none, since := 0 }

/-- A quad whose task queue is full. -/
def tFull : State := tState.updQuad 0 (fun q => { q with tasks := (List.range 64).map tTask, nextTask := 64 })

theorem test_meets_tasks : (tState.readable [.g 1] = true ∧ tState.kreadable [1, 2] = true ∧ tState.readable [.g 4] = true ∧ Sc.isI .zr = false ∧
    tState.fresh = true ∧ tState.calm = true ∧
    (tState.sc (.g 4) + BitVec.ofInt 64 (0 : BitVec 32).toInt).toNat % 64 ≠ 0 ∧
    (tState.sc (.g 1) + BitVec.ofInt 64 (64 : BitVec 32).toInt).toNat % 64 = 0) ∧
    tState.spans loadA (tState.sc (.g 1) + BitVec.ofInt 64 (0 : BitVec 32).toInt) 0x2000 64 (fun _ => true) ∧
    tState.readN (0x2000 + 0) 8 % 4 ≠ 0 ∧
    tState.spans loadA (tState.sc (.g 1) + BitVec.ofInt 64 (64 : BitVec 32).toInt) 0x2040 64 (fun _ => true) ∧
    ((tState.readN (0x2040 + 0) 8 % 4 = 0 ∧ tState.readN (0x2040 + 40) 1 ≤ 3 ∧ tState.readN (0x2040 + 41) 23 = 0) ∧
    (tState.quadAt (quadOfCore tState.core)).tasks.length < 64 ∧ (tState.quadAt (quadOfCore tState.core)).posts = [] ∧
    tFull.readable [.g 1] = true ∧ tFull.fresh = true ∧ tFull.calm = true) ∧
    tFull.spans loadA (tFull.sc (.g 1) + BitVec.ofInt 64 (64 : BitVec 32).toInt) 0x2040 64 (fun _ => true) ∧
    ((tFull.readN (0x2040 + 0) 8 % 4 = 0 ∧ tFull.readN (0x2040 + 40) 1 ≤ 3 ∧ tFull.readN (0x2040 + 41) 23 = 0) ∧
    (tFull.quadAt (quadOfCore tFull.core)).tasks.length = 64 ∧ tFull.thr.park = none ∧
    (tFull.quadAt (quadOfCore tFull.core)).posts = []) :=
  ⟨by decide +kernel, spans_meets (by decide +kernel), by decide +kernel, spans_meets (by decide +kernel),
    by decide +kernel, spans_meets (by decide +kernel), by decide +kernel⟩

theorem test_meets_events : tState.readable [] = true ∧ tState.kreadable [1] = true ∧ tState.thr.stores = [] ∧ tState.thr.mail = [] ∧
    (tState.quadAt (quadOfCore tState.core)).later = [] ∧
    ((tState.thr.mask 1).getLsbD 0 = true ∧ (tState.quadAt (quadOfCore tState.core)).shown.getLsbD 0 = false) ∧
    (let s := tState.updQuad 0 (fun q => { q with events := 0xF, shown := 0xF })
     s.readable [] = true ∧ s.thr.mask 1 = (s.quadAt (quadOfCore s.core)).shown) ∧
    (tT (fun t => { t with stores := [(0x2000, 8, 0, 0x2000)] })).thr.stores ≠ [] ∧
    (let st := [(0x2000, 8, 0, 0x2000)]
     let s : State := { tState with threads := [(0, tThread), (1, { Thread.new 2 0 0 with stores := st })] }.updQuad 0 (fun q =>
       { q with shown := 0xF, later := [{ uid := 2, mask := 1, stores := st }] })
     s.readable [] = true ∧ (∀ j < 256, (s.thr.mask 1).getLsbD j = true → (s.quadAt (quadOfCore s.core)).shown.getLsbD j = true) ∧
     (s.quadAt (quadOfCore s.core)).later = [{ uid := 2, mask := 1, stores := st }] ∧ 2 ≠ s.thr.uid ∧ 1 &&& s.thr.mask 1 ≠ 0 ∧
     s.tidOf 2 = some 1 ∧ (s.thread? 1).map (fun u => u.stores) = some st) := by decide +kernel

/-- A core whose register pool is given out to three other threads. -/
def tPool : State :=
  { tState with threads := [(0, tThread), (1, { Thread.new 2 0 0 with alot := 64 }), (2, { Thread.new 4 0 0 with alot := 64 }),
      (3, { Thread.new 5 0 0 with alot := 64 }), (4, { Thread.new 6 0 0 with alot := 48 })] }

theorem test_meets_allotments : tState.readable [.g 14] = true ∧ Sc.isI .zr = false ∧ tState.readable [.g 13] = true ∧
    (BitVec.ofInt 64 (48 : BitVec 27).toInt).toNat % 8 = 0 ∧ tState.thr.alot + (BitVec.ofInt 64 (48 : BitVec 27).toInt).toNat ≤ 64 ∧
    (BitVec.ofInt 64 (48 : BitVec 27).toInt).toNat ≤ tState.poolFree tState.core ∧ (tState.coreAt tState.core).growQ = [] ∧
    64 < tState.thr.alot + (BitVec.ofInt 64 (56 : BitVec 27).toInt).toNat ∧ (tState.sc (.g 13)).toNat = 0 ∧
    (tState.sc (.g 14)).toNat ≤ tState.poolFree tState.core ∧
    tPool.readable [.g 14] = true ∧ tPool.poolFree tPool.core < (tPool.sc (.g 14)).toNat ∧ (tPool.sc (.g 14)).toNat % 8 = 0 ∧
    tPool.thr.alot + (tPool.sc (.g 14)).toNat ≤ 64 ∧ (tPool.coreAt tPool.core).growQ = [] ∧
    (tState.sc (.g 14)).toNat ≤ tState.thr.alot ∧ tState.thr.ports = [] ∧ tState.thr.mail = [] ∧
    tState.thr.alot < (BitVec.ofInt 64 (24 : BitVec 27).toInt).toNat := by decide +kernel

/-- Another thread stands at the head of the queue for 56 registers, which the pool holds once 8 come back. -/
theorem test_meets_allotments_granted :
    let s : State := { tState with threads := [(0, tThread), (1, { Thread.new 2 0 0 with alot := 0, park := some (.grow 56) }),
      (2, { Thread.new 4 0 0 with alot := 64 })] }.updCore 0 (fun c => { c with growQ := [2] })
    s.readable [.g 14] = true ∧ s.thr.mail = [] ∧ (s.sc (.g 14)).toNat = 8 ∧ 8 ≤ s.thr.alot ∧ s.thr.ports = [] ∧
    (s.coreAt s.core).growQ = [2] ∧ s.tidOf 2 = some 1 ∧ 1 ≠ s.cur ∧ (s.thread? 1).map (fun u => u.park) = some (some (.grow 56)) ∧
    s.poolFree s.core < 56 ∧ 56 ≤ (s.setThr { s.thr with alot := s.thr.alot - 8 }).poolFree s.core := by decide +kernel

/-- Die barrier 15 with the members given, of which those given have arrived. -/
def tBar (sc : Scope) (count : Option Nat) (members arrived : List Nat) : State :=
  { tState with barriers := [(barKey sc 0 15, { count := count, members := members, arrived := arrived, since := [] })] }

theorem test_meets_barriers : (tState.readable [.g 2] = true ∧ tState.fresh = true ∧ tState.retry = []) ∧
    tState.barrierOf .die (15 : BitVec 4).toNat = .ok (barKey .die 0 15, pkgOfCore tState.core) ∧
    (tState.thr.uid ∉ (tState.barrierAt (barKey .die 0 15)).members ∧ (tState.sc (.g 2)).toNat % 2 ^ 32 ≠ 0 ∧
    (tState.barrierAt (barKey .die 0 15)).count = none ∧
    (let s := tBar .die (some 4) [1] []
     s.readable [.g 2] = true ∧ s.thr.uid ∈ (s.barrierAt (barKey .die 0 15)).members ∧ 2 < keyScope (barKey .die 0 15) ∧
     s.thr.uid ∉ (s.barrierAt (barKey .die 0 15)).arrived ∧
     (s.barrierAt (barKey .die 0 15)).count ≠ some ((s.barrierAt (barKey .die 0 15)).arrived.length + 1)) ∧
    (let s := tBar .die (some 2) [1, 2] [2]
     s.thr.uid ∈ (s.barrierAt (barKey .die 0 15)).members ∧ s.thr.uid ∉ (s.barrierAt (barKey .die 0 15)).arrived ∧
     (s.barrierAt (barKey .die 0 15)).count = some ((s.barrierAt (barKey .die 0 15)).arrived.length + 1)) ∧
    (let s := tBar .core none [1, 2] [2]
     s.thr.uid ∈ (s.barrierAt (barKey .core 0 15)).members ∧ keyScope (barKey .core 0 15) ≤ 2 ∧
     ∀ u ∈ (s.barrierAt (barKey .core 0 15)).members, u = s.thr.uid ∨ u ∈ (s.barrierAt (barKey .core 0 15)).arrived) ∧
    (let s := tBar .core none [1, 2] []
     s.thr.uid ∈ (s.barrierAt (barKey .core 0 15)).members ∧
     ∃ u ∈ (s.barrierAt (barKey .core 0 15)).members, u ≠ s.thr.uid ∧ u ∉ (s.barrierAt (barKey .core 0 15)).arrived)) :=
  ⟨by decide +kernel, rfl, by decide +kernel⟩

/-- A thread that joined barrier 15 of another core leaves it here (R60, R272). -/
theorem test_meets_barriers_elsewhere :
    let s : State := { tState with
      barriers := [(barKey .core 1 15, { count := none, members := [1], arrived := [], since := [] })] }
    s.readable [.g 2] = true ∧ s.fresh = true ∧ s.retry = [] ∧ s.barrierOf .core (15 : BitVec 4).toNat = .ok (barKey .core 0 15, 0) ∧
    s.thr.uid ∉ (s.barrierAt (barKey .core 0 15)).members ∧ keyScope (barKey .core 1 15) = scopeCode .core ∧
    barKey .core 1 15 % 16 = (15 : BitVec 4).toNat ∧ s.thr.uid ∈ (s.barrierAt (barKey .core 1 15)).members :=
  ⟨by decide +kernel, by decide +kernel, by decide +kernel, rfl, by decide +kernel, by decide +kernel, by decide +kernel,
    by decide +kernel⟩

theorem test_meets_barriers_misuse :
    (let s := tBar .die (some 4) [2] []
     (s.barrierAt (barKey .die 0 15)).count = some 4 ∧ 4 ≠ (s.sc (.g 2)).toNat % 2 ^ 32 ∧ s.readable [.g 2] = true) := by
  decide +kernel

/-- The default slot table as an image, in supervisor mode (R35). -/
def tSuper : State := tT (fun t => { t with mode := .super, g := (tG.set 5 0xFEDCBA98FEDCBA98).set 6 0xFEDCBA98FEDCBA98 })

theorem test_meets_slotw : tSuper.readable [.g 5, .g 6] = true ∧ tSuper.thr.mode = .super ∧ (tSuper.coreAt tSuper.core).ovh < 8 ∧
    (let v (e : Nat) : Nat := (tSuper.sc (.g 6) ++ tSuper.sc (.g 5)).toNat / 16 ^ e % 16
     (∀ f < 32, ∀ e < f, 8 ≤ v e → v e = v f → 8 ≤ f - e ∧ f - e ≤ 24) ∧ ∃ e < 32, v e = 8 + (tSuper.coreAt tSuper.core).ovh) ∧
    (tSuper.barrierAt (barKey .core tSuper.core 0)).members = [] ∧
    (let v (e : Nat) : Nat := (tSuper.sc (.g 13) ++ tSuper.sc (.g 13)).toNat / 16 ^ e % 16
     ¬ ∃ e < 32, v e = 8 + (tSuper.coreAt tSuper.core).ovh) ∧
    (({ tSuper with barriers := [(barKey .core 0 0, { count := none, members := [2], arrived := [], since := [] })] } :
      State).barrierAt (barKey .core 0 0)).members ≠ [] := by decide +kernel

/-- The sender's core holds a second thread in slot 1, whose `g15` is full and whose `g0` is empty. -/
def tPair : State :=
  { tState with threads := [(0, tThread), (1, { Thread.new 2 0x20000 0 with gFull := 0xFFFE })] }

theorem test_meets_fills : tPair.readable [.g 13, .g 14, .g 2] = true ∧ tPair.calm = true ∧ tPair.fresh = true ∧
    (tPair.sc (.g 13)).toNat < 2 ^ 20 ∧ (tPair.sc (.g 13)).toNat % 2048 < 1152 ∧
    (tPair.pkgAt ((tPair.sc (.g 13)).toNat / 8192)).member = true ∧ (tPair.partOfCore (tPair.sc (.g 13)).toNat).isSome = true ∧
    tPair.partOfCore (tPair.sc (.g 13)).toNat = tPair.partOfCore tPair.core ∧
    (tPair.dieAt (dieOfCore (tPair.sc (.g 13)).toNat)).forward = [] ∧
    (let r := (120 + 1 : Nat)
     r < 128 ∧ ((tPair.thread? (0 * 8 + r % 8)).map (fun u => u.gFull.getLsbD (r / 8))) = some true) ∧
    (let r := (0 + 1 : Nat)
     r < 128 ∧ ((tPair.thread? (0 * 8 + r % 8)).map (fun u => u.gFull.getLsbD (r / 8))) = some false) ∧
    tPair.thread? (0 * 8 + 2 % 8) = none ∧ (248 : Nat) = 128 + 8 * (15 : Fin 16).val ∧
    ¬ (tPair.sc (.g 3)).toNat < 2 ^ 20 ∧ 256 ≤ (tPair.sc (.g 1)).toNat ∧ (129 : Nat) % 8 ≠ 0 := by decide +kernel

/-- Descriptors of streams at 0x2040: a linear one, and one with a reserved field. -/
def tStream (kind : Nat) : State :=
  { tState with mem := [(0x2050, 1), (0x2054, BitVec.ofNat 8 kind), (0x2055, 1)] }

theorem test_meets_streams : ((tStream 0).readable [.g 1] = true ∧ (0 : VReg).val < (tStream 0).thr.alot ∧
    ((tStream 0).sc (.g 1) + BitVec.ofInt 64 (64 : BitVec 27).toInt).toNat % 32 = 0 ∧ (tStream 0).calm = true ∧
    (tStream 0).fresh = true ∧ (tStream 0).thr.ports.length < 4 ∧ (tStream 0).thr.port? 0 = none) ∧
    (∃ p, (tStream 0).reach loadA ((tStream 0).sc (.g 1) + BitVec.ofInt 64 (64 : BitVec 27).toInt) = .ok p ∧
      ((tStream 0).atHome p && (streamDesc ((tStream 0).readN p.pa 32)).ok) = true) ∧
    (∃ p, (tStream 8).reach loadA ((tStream 8).sc (.g 1) + BitVec.ofInt 64 (64 : BitVec 27).toInt) = .ok p ∧
      ((tStream 8).atHome p && decide (8 ≤ (tStream 8).readN p.pa 32 / 2 ^ (8 * 20) % 2 ^ (8 * 1))) = true) ∧
    (tState.sc (.g 4) + BitVec.ofInt 64 (0 : BitVec 27).toInt).toNat % 32 ≠ 0 :=
  ⟨by decide +kernel, ok_meets (by decide +kernel), ok_meets (by decide +kernel), by decide +kernel⟩

theorem test_meets_streams_bound :
    (let s := tT (fun t => { t with ports := [(0, tPort 0), (1, tPort 0), (2, tPort 0), (15, tPort 0)] })
     s.readable [.g 1] = true ∧ 4 ≤ s.thr.ports.length ∧ (s.thr.port? 0).isSome = true ∧ s.thr.stores = [] ∧
     s.thr.port? 3 = none ∧ s.thr.vPend.getLsbD (0 : VReg).val = false ∧ (tPort 0).receives = true) ∧
    (tT (fun t => { t with ports := [(0, tPort 0)] })).thr.ports.length < 4 ∧
    ((tT (fun t => { t with ports := [(0, tPort 0)] })).thr.port? 0).isSome = true ∧
    (neighbour 0 false = none ∧ (streamDesc (5 * 2 ^ 160)).ok = true) ∧ (neighbour 0 true).isSome = true := by decide +kernel

/-! ## Premises of the statements: expiry, engines, traps and the system -/

def tEnt (st : ExSt) : ExEnt := { ExEnt.reset with st := st, instant := 2 ^ 40 }

/-- Entry 1 of package 0 in a state, and the thread's `g1`, `g2` naming it. -/
def tExp (st : ExSt) : State :=
  (tP (fun p => { p with exTab := [(1, tEnt st)] })).setThr { tThread with g := (tG.set 1 1).set 2 0 }

/-- A table of `n` live entries from number `k` on. -/
def tTab : Nat → Nat → List (Nat × ExEnt)
  | 0, _ => []
  | n + 1, k => (k, tEnt .live) :: tTab n (k + 1)

theorem tTab_get : ∀ n k l, k ≤ l → l < k + n → mapGet (tTab n k) l = some (tEnt .live)
  | 0, k, l, h1, h2 => absurd h2 (by omega)
  | n + 1, k, l, h1, h2 => by
    unfold tTab mapGet
    by_cases h : k = l
    · simp [h]
    · have hk : (k == l) = false := by simpa using h
      simp only [hk]
      exact tTab_get n (k + 1) l (by omega) (by omega)

theorem test_meets_expiry : tState.readable [.g 13, .g 14] = true ∧ Sc.isI .zr = false ∧ tState.fresh = true ∧
    tState.cur < 2 ^ 23 ∧ (tState.pkgAt (pkgOfCore tState.core)).member = true ∧ (tState.entry 0 1).st = .free ∧
    joinBits (tState.sc (.g 3)) = true ∧ joinBits (tState.sc (.g 13)) = false ∧
    presentTags (joinTags (tState.sc (.g 13)) (tState.sc (.g 13))) = [] ∧
    2 ^ 19 ≤ (tState.sc (.g 7)).toNat ∧ (tState.sc (.g 13)).toNat < 2 ^ 19 ∧ (tState.sc (.g 13)).toNat % 4096 = 0 ∧
    tState.thr.mode = .user ∧ tState.thr.ex.toNat % 4096 = 0 ∧ (tT (fun t => { t with ex := 1 })).thr.ex.toNat % 4096 ≠ 0 ∧
    (tT (fun t => { t with mode := .super })).thr.mode = .super := by decide +kernel

theorem test_meets_expiry_full (l : Nat) (h1 : 1 ≤ l) (h2 : l < 4096) :
    ¬ ((tP (fun p => { p with exTab := tTab 4095 1 })).entry 0 l).st = .free := by
  have h : mapGet (tTab 4095 1) l = some (tEnt .live) := tTab_get 4095 1 l h1 (by omega)
  show ((mapGet (tTab 4095 1) l).getD ExEnt.reset).st ≠ .free
  rw [h]
  decide

theorem test_meets_expiry_gusset : (tExp .live).readable [.g 1, .g 2] = true ∧ (tExp .live).fresh = true ∧
    joinBits ((tExp .live).sc (.g 1)) = false ∧ joinBits ((tExp .live).sc (.g 2)) = false ∧
    presentTags (joinTags ((tExp .live).sc (.g 1)) ((tExp .live).sc (.g 2))) = [1] ∧ ((tExp .live).entry 0 2).st = .free ∧
    (∀ l, 1 ≤ l → l < 2 → ¬ ((tExp .live).entry 0 l).st = .free) ∧ (∀ c ∈ ((tExp .live).pkgAt 0).exTab, c.2.forming = none) ∧
    (tagPkg 1 = 0 ∧ if ((tExp .live).exAt 1).st = .free then tagIndex 1 ≠ 2 else ((tExp .live).exAt 1).part = (tExp .live).partNum) := by
  refine ⟨by decide +kernel, by decide +kernel, by decide +kernel, by decide +kernel, by decide +kernel, by decide +kernel,
    fun l h1 h2 => ?_, by decide +kernel, by decide +kernel⟩
  obtain rfl : l = 1 := by omega
  decide +kernel

theorem test_meets_expiry_own : ((tExp .live).sc (.g 1)).toNat < 2 ^ 19 ∧ ((tExp .live).sc (.g 1)).toNat / 4096 = pkgOfCore (tExp .live).core ∧
    ((tExp .live).sc (.g 1)).toNat % 4096 ≠ 0 ∧ ((tExp .live).entry 0 1).part = (tExp .live).partNum ∧
    ((tExp .lapsing).entry 0 1).st = .lapsing ∧ ((tExp .lapsed).entry 0 1).st = .lapsed ∧
    ((tExp .quarantine).entry 0 1).st = .quarantine ∧ ((tExp .free).entry 0 1).st = .free ∧
    (let s := (tExp .live).updPkg 0 (fun p => { p with exTab := [(1, { tEnt .live with part := 7 })] })
     (s.entry 0 1).part ≠ s.partNum ∧ s.readable [.g 1, .g 2] = true) ∧
    (let s := tT (fun t => { t with g := tG.set 1 0x2001 })
     (s.sc (.g 1)).toNat < 2 ^ 19 ∧ (s.sc (.g 1)).toNat % 4096 ≠ 0 ∧ (s.pkgAt ((s.sc (.g 1)).toNat / 4096)).member = false) := by
  decide +kernel

/-- Descriptors at 0x2040: a `CPGB` of one block of 64 bytes, a `KVAPP` at 0x2080 with one new entry. -/
def tCopy : State := { tState with mem := [(0x2050, 1), (0x2054, 6), (0x20A4, 1), (0x20A8, 26), (0x20A9, 6)] }

theorem test_meets_copyCommands : (tCopy.readable [.g 8, .g 8, .g 8, .g 1] = true ∧ tCopy.calm = true ∧ tCopy.fresh = true ∧
    (tCopy.coreAt tCopy.core).cpWait = [] ∧
    (tCopy.coreAt tCopy.core).cpQ.length + (if (tCopy.coreAt tCopy.core).cpRun.isSome then 1 else 0) < 8 ∧
    (tCopy.sc (.g 4)).toNat % 32 ≠ 0 ∧ (tCopy.sc (.g 1)).toNat % 32 = 0) ∧
    (∃ p, tCopy.reach { wr := true, fe := true } (tCopy.sc (.g 1)) = .ok p ∧ tCopy.atHome p = true) ∧
    ((tCopy.sc (.g 8)).toNat % 64 = 0 ∧ (tCopy.sc (.g 8)).toNat ≠ 0 ∧ (tCopy.sc (.g 8)).toNat ≤ 2 ^ 32 ∧
    (tCopy.sc (.g 13)).toNat = 0 ∧ 2 ^ 32 < (tCopy.sc (.g 3)).toNat ∧ (tCopy.sc (.g 2)).toNat % 64 ≠ 0 ∧
    (15 : VReg).val < tCopy.thr.alot ∧ tCopy.thr.port? 15 = none) :=
  ⟨by decide +kernel, ok_meets (by decide +kernel), by decide +kernel⟩

theorem test_meets_copyDescriptors :
    let s := tCopy.setThr { tCopy.thr with g := (tG.set 5 0x2040).set 6 0x2080 }
    (s.readable [.g 8, .g 5, .g 8, .g 1] = true ∧ (s.sc (.g 5)).toNat % 32 = 0 ∧ (s.sc (.g 6)).toNat % 64 = 0) ∧
    s.spans loadA (s.sc (.g 5)) 0x2040 32 (fun _ => true) ∧
    (s.readN (0x2040 + 16) 4 = 1 ∧ s.readN (0x2040 + 20) 1 = 6 ∧ s.readN (0x2040 + 21) 11 = 0) ∧
    s.spans loadA (s.sc (.g 6)) 0x2080 64 (fun _ => true) ∧
    (s.readN (0x2080 + 36) 4 = 1 ∧ s.readN (0x2080 + 40) 1 = 26 ∧ s.readN (0x2080 + 41) 1 = 6 ∧ s.readN (0x2080 + 42) 22 = 0) :=
  ⟨by decide +kernel, spans_meets (by decide +kernel), by decide +kernel, spans_meets (by decide +kernel),
    by decide +kernel⟩

def tCp (op : CpOp) : CpCmd :=
  { uid := 1, slot := 0, at_ := 0, exp := 0, mode := .user, record := 0x3000, recUnc := false, acq := false, rel := false, sc := none, limit := 0,
    drop := false, op := op }

theorem test_meets_copyCommands_full :
    (let s := tC (fun c => { c with cpQ := List.replicate 8 (tCp (.rfg (.g 1) 0x2000)) })
     s.readable [.g 8, .g 8, .g 8, .g 1] = true ∧ s.calm = true ∧ s.fresh = true ∧ (s.coreAt s.core).cpWait = [] ∧
     ¬ (s.coreAt s.core).cpQ.length + (if (s.coreAt s.core).cpRun.isSome then 1 else 0) < 8) := by decide +kernel

theorem test_meets_cpwait : (tState.readable [.g 1] = true ∧ Sc.isI .zr = false ∧ (tState.sc (.g 4)).toNat % 32 ≠ 0) ∧
    (∃ p, tState.reach { rd := true, fe := true } (tState.sc (.g 1)) = .ok p ∧
      (tState.homeAnswers p.pa && tState.tagAt p.pa) = true) ∧
    (∃ p, tState.reach { rd := true, fe := true } (tState.sc (.g 8)) = .ok p ∧
      (tState.homeAnswers p.pa && !tState.tagAt p.pa) = true) ∧ (tState.sc (.g 8)).toNat % 32 = 0 :=
  ⟨by decide +kernel, ok_meets (by decide +kernel), ok_meets (by decide +kernel), by decide +kernel⟩

/-- A buffer descriptor at 0x2040: 256 bytes at 0x5000, packages 0 and 1, the peg at 0x2000. -/
def tBuf : State := { tState with mem := [(0x2041, 0x50), (0x2049, 1), (0x2050, 3), (0x2061, 0x20)] }

theorem test_meets_buffers :
    let s := tBuf.setThr { tBuf.thr with g := tG.set 5 0x2040 }
    let x (o l : Nat) : Nat := s.readN (0x2040 + o) l
    (s.readable [.g 5, .g 1] = true ∧ s.calm = true ∧ s.fresh = true) ∧
    s.spans loadA (s.sc (.g 5)) 0x2040 64 (fun _ => true) ∧ (x 44 20 = 0 ∧ x 8 8 % 256 = 0 ∧ x 8 8 ≤ 2 ^ 30 ∧ x 0 8 % 4096 = 0 ∧
    x 40 4 = 0 ∧ 2 ≤ (membersOf (BitVec.ofNat 128 (x 16 16))).length ∧ (membersOf (BitVec.ofNat 128 (x 16 16))).length ≤ 64 ∧
    (BitVec.ofNat 128 (x 16 16)).getLsbD 0 = true ∧ mapGet (s.pkgAt 0).nbufs (1023 : BitVec 10).toNat = none ∧ x 8 8 ≠ 0) ∧
    (∃ f : Nat → Phys, ∀ o < x 8 8, s.reach loadA (BitVec.ofNat 64 (x 0 8 + o)) = .ok (f o) ∧
      ((List.range (min (x 8 8 - o) ((f o).leaf.vbase + (f o).leaf.size - (f o).va))).all (fun z =>
        pkgOfPa ((f o).pa + z) == 0 && (match placeOf ((f o).pa + z) with | .hbm st _ => st == 0 | _ => false))) = true) ∧
    x 32 8 % 8 = 0 ∧ (∃ q, s.reach loadA (BitVec.ofNat 64 (x 32 8)) = .ok q ∧ (q.leaf.fe && pkgOfPa q.pa == 0) = true) ∧
    (let s0 : State := { s with mem := [(0x2041, 0x50), (0x2050, 3), (0x2061, 0x20)] }
     s0.readN (0x2040 + 8) 8 = 0 ∧ s0.readN 0x2040 8 = 0x5000 ∧ s0.readN (0x2040 + 16) 16 = 3 ∧ s0.readN (0x2040 + 32) 8 = 0x2000) :=
  ⟨by decide +kernel, spans_meets (by decide +kernel), by decide +kernel,
    all_meets (f := fun o p =>
      (List.range (min (tBuf.readN (0x2040 + 8) 8 - o) (p.leaf.vbase + p.leaf.size - p.va))).all (fun z =>
        pkgOfPa (p.pa + z) == 0 && (match placeOf (p.pa + z) with | .hbm st _ => st == 0 | _ => false))) (by decide +kernel),
    by decide +kernel, ok_meets (by decide +kernel), by decide +kernel⟩

def tInfo : RegInfo := { size := 256, ty := .f32, op := .sum, group := 3, l := 0, stack := 0 }
def tRun (accepted : Bool) : CollRun :=
  { inst := 0, kind := .ar, root := 0, exp := 0, uid := 1, core := 0, record := 0x3000, recUnc := false, acq := false, rel := false,
    sc := none, accepted := accepted, staged := [] }
def tNBuf (r : Option CollRun) : NBuf :=
  { part := 0, segs := [(0, 0x5000, 256)], peg := 0x2000, pegUnc := false, serial := 4, info := tInfo, tag := 0, started := 1, run := r,
    ended := false }

/-- Buffer 7 of package 0 with the run given, and what package 1 has registered. -/
def tColl (r : Option CollRun) (peer : RegInfo) : State :=
  tP (fun p => { p with nbufs := [(7, tNBuf r)], peers := [((1, 7), { cur := some (9, peer), next := none })] })

theorem test_meets_collectives : ((tColl none tInfo).readable [.g 1, .g 1] = true ∧ (tColl none tInfo).calm = true ∧
    (tColl none tInfo).fresh = true ∧ ((tColl none tInfo).sc (.g 1)).toNat % 32 = 0) ∧
    (∃ p, (tColl none tInfo).reach { wr := true, fe := true } ((tColl none tInfo).sc (.g 1)) = .ok p ∧
      (tColl none tInfo).atHome p = true) ∧
    (mapGet ((tColl none tInfo).pkgAt 0).nbufs (8 : BitVec 10).toNat = none ∧
    mapGet ((tColl none tInfo).pkgAt 0).nbufs (7 : BitVec 10).toNat = some (tNBuf none) ∧ (tNBuf none).ended = false ∧
    (tNBuf none).part = (tColl none tInfo).partNum ∧ collReason (tNBuf none) .ar (0 : BitVec 7).toNat = none ∧
    (tNBuf (some (tRun false))).run.isSome = true) :=
  ⟨by decide +kernel, ok_meets (by decide +kernel), by decide +kernel⟩

theorem test_meets_collectives_runs :
    (let s := tColl (some (tRun false)) tInfo
     mapGet (s.pkgAt 0).nbufs (7 : BitVec 10).toNat = some (tNBuf (some (tRun false))) ∧ (tRun false).accepted = false ∧
     (s.partAt (tNBuf none).part).st = .run ∧
     (let s := s.setThr { tThread with park := some .engine }
      s.thr.park = some .engine ∧ (tRun false).uid = s.thr.uid ∧ s.tidOf s.thr.uid = some 0)) ∧
    (let s := tColl (some (tRun true)) tInfo
     mapGet (s.pkgAt 0).nbufs (7 : BitVec 10).toNat = some (tNBuf (some (tRun true))) ∧ (tRun true).accepted = true ∧
     s.mismatch 0 7 (tNBuf (some (tRun true))) = false ∧ (s.pkgAt 0).agreed 0 7 tInfo = true ∧ tInfo.group.getLsbD 0 = true ∧
     (let s := s.updPkg 1 (fun p => { p with left := [(9, 0)] })
      ∀ k ∈ membersOf tInfo.group, k = 0 ∨ (s.contributed 0 k 7 0 = none ∧ s.memberLeft 0 k 7 0 = true))) ∧
    (tColl (some (tRun true)) { tInfo with size := 512 }).mismatch 0 7 (tNBuf (some (tRun true))) = true := by decide +kernel

/-- Member `q` of the pod's two, with its buffer, peg and record in its own package. -/
def tMember (q : Nat) : NBuf :=
  { tNBuf (some { tRun true with core := q * 8192, record := q * 2 ^ 45 + 0x3000 }) with
    segs := [(0, q * 2 ^ 45 + 0x5000, 256)], peg := q * 2 ^ 45 + 0x2000, serial := 4 + q }

/-- Both have contributed to instance 0 of buffer 7: 1.0 and 2.0 in the first element, of which the engine of package 0
has read its own. -/
def tTwo : State :=
  let pkg (q : Nat) (n : NBuf) : Pkg :=
    { Pkg.reset with member := true, powered := true, nbufs := [(7, n)],
                     peers := [((1 - q, 7), { cur := some (5 - q, tInfo), next := none })] }
  { tState with
    pkgs := [(0, pkg 0 { tMember 0 with run := (tMember 0).run.map (fun r => { r with staged := [(0x5000 / 8, 0x3F800000)] }) }),
      (1, pkg 1 (tMember 1))]
    mem := [(2 ^ 45 + 0x5003, 0x40)] }

theorem test_meets_collectiveResults :
    let ms := membersOf tInfo.group
    let cs := ms.filterMap (fun q => (tTwo.contributed 0 q 7 0).map (fun c => (q, c)))
    tTwo.calm = true ∧ (mapGet (tTwo.pkgAt 0).nbufs 7).map (fun n => (n.info, n.run.map (fun r => (r.accepted, r.inst)))) =
      some (tInfo, some (true, 0)) ∧
    (∀ n, mapGet (tTwo.pkgAt 0).nbufs 7 = some n → tTwo.mismatch 0 7 n = false) ∧ tInfo.group.getLsbD 0 = true ∧
    ms.length ≤ 64 ∧ tInfo.ty ∈ [ETy.f32, .bf16, .f16, .i32] ∧ tInfo.op ≠ .smerge ∧
    (∀ q ∈ ms, (tTwo.contributed 0 q 7 0).isSome = true) ∧
    (∀ c ∈ cs, c.2.1.info = tInfo ∧ (tTwo.pkgAt c.1).agreed c.1 7 tInfo = true ∧ (c.2.2.staged.map Prod.fst).Nodup ∧
      c.2.1.peg % 8 = 0 ∧ c.2.2.record % 32 = 0 ∧ collReason { c.2.1 with run := none } c.2.2.kind c.2.2.root = none) ∧
    (cs.flatMap (fun c => c.2.1.segs.map (fun e => (e.2.1, e.2.2)) ++ [(c.2.1.peg, 8), (c.2.2.record, 32)])).Pairwise
      (fun x y => x.1 + x.2 ≤ y.1 ∨ y.1 + y.2 ≤ x.1) ∧ cs.length = 2 := by
  refine ⟨?_, ?_, ?_, ?_⟩
  · decide +kernel
  · decide +kernel
  · intro n hn
    obtain rfl : _ = n := Option.some.inj hn
    decide +kernel
  · decide +kernel

theorem test_meets_collectiveResults_laid : ∀ q ∈ [0, 1], (tMember q).laid := by
  intro q hq
  refine ⟨?_, ?_, by simp [tMember], ?_, ?_⟩
  · simp [tMember, tNBuf, tInfo]
  · simp [tMember, tNBuf, tInfo]
  · revert q; decide
  · intro o ho
    exact ⟨(0, q * 2 ^ 45 + 0x5000, 256), by simp [tMember], Nat.zero_le _, by simpa [tMember, tNBuf, tInfo] using ho⟩

/-- Its end: the sum 3.0 in both buffers, both pegs full with the ranks, and the record of package 1. -/
theorem test_collectiveEnd : (match exec (.collComplete 0 7) tTwo with
    | .next t => t.readN 0x5000 4 == 0x40400000 && t.readN (2 ^ 45 + 0x5000) 4 == 0x40400000 && t.readN 0x2000 8 == 3 &&
        t.tagAt (2 ^ 45 + 0x2000) && t.readN (2 ^ 45 + 0x3000) 8 == 1 + 2 ^ 16 * 4 && t.readN (2 ^ 45 + 0x3010) 16 == 3 &&
        (t.pkgAt 1).nbufs.all (fun e => e.2.run.isNone)
    | _ => false) = true := by decide +kernel

/-- Elements of each kind: integers of either sign, zeros of either sign, a NaN, and records of a merge with the lowest
maximum. -/
theorem test_meets_reducedElements : (∀ x ∈ [0x80000000, 0x7FFFFFFF], x < 2 ^ 32) ∧
    (∀ x ∈ [0x8000, 0, 0x7E00], x < 2 ^ ETy.bits .f16) ∧ (valOf .f16 false 0x7E00).isNan = true ∧
    (∀ x ∈ [0x8000, 0], (valOf .f16 false x).isNan = false) ∧ (valOf .f32 false 0x3F800000).isNan = false ∧
    2 ≤ 3 ∧ (0xFF800000 : Nat) < 2 ^ (32 * 3) ∧ (0x3F80000040000000FF800000 : Nat) < 2 ^ (32 * 3) ∧
    (valOf .f32 false 0xFF800000).isNan = false ∧ (∀ j ∈ [1, 2], 0 < j ∧ j < 3) := by decide +kernel

def tMsg (src core : Nat) (body : Body) : Msg :=
  { dst := 0, src := src, cls := 0, core := core, rtag := 3, gen := 0, exp := 0, resend := false, body := body }

/-- A message alone in the inbox of package 0. -/
def tIn (m : Msg) : State := tP (fun p => { p with inbox := [m] })

theorem test_meets_registration : (tIn (tMsg 1 0 (.reg 7 9 tInfo))).onlyMsg 0 (tMsg 1 0 (.reg 7 9 tInfo)) ∧
    ((tMsg 1 0 (.reg 7 9 tInfo)).body = .reg 7 9 tInfo ∧ (tMsg 1 0 (.reg 7 9 tInfo)).src = 1) :=
  ⟨⟨by decide +kernel, by decide +kernel⟩, by decide⟩

/-- A grammar with 16 tokens, 2 states, 3 classes and 2 symbols; CLASS at 0x5000, TRANS at 0x5100, masks at 0x5200. -/
def tGram : Grammar :=
  { cls := 0x5000, trans := 0x5100, masks := 0x5200, vocab := 16, nstate := 2, nclass := 3, nsym := 2, depth := 1, start := 0 }

/-- The classes 0 to 2 of tokens 0 to 2 and the entries push 1, pop 1 and move to state 1; context 15 as given. -/
def tGm (stack : List Nat) : State :=
  { (tState.updQuad 0 (fun q => { q with grammar := some tGram, ctxs := q.ctxs.set 15 { state := 0, stack := stack } })) with
    mem := [(0x5002, 1), (0x5004, 2), (0x5006, 2), (0x5007, 1), (0x5100, 0x01), (0x5101, 0x50), (0x5104, 0x01), (0x5105, 0x60),
      (0x5108, 0x01)] }

theorem test_meets_grammarLoad :
    let s := { tState with mem := [(0x2058, 16), (0x205C, 2), (0x205E, 3), (0x2060, 2), (0x2062, 64)] }.setThr
      { tThread with g := tG.set 5 0x2040 }
    (s.readable [.g 5, .g 5] = true ∧ Sc.isI .zr = false ∧ s.calm = true ∧ s.fresh = true ∧ (s.sc (.g 4)).toNat % 64 ≠ 0 ∧
    (s.sc (.g 5)).toNat % 64 = 0 ∧
    (s.quadAt (quadOfCore s.core)).gmQ = []) ∧
    s.spans loadA (s.sc (.g 5)) 0x2040 64 (fun _ => true) ∧ grammarOk (grammarOf (s.readN 0x2040 64)) (s.readN 0x2040 64) = true ∧
    s.spans loadA (s.sc (.g 1)) 0x2000 64 (fun _ => true) ∧ s.readN (0x2000 + 24) 4 = 0 :=
  ⟨by decide +kernel, spans_meets (by decide +kernel), by decide +kernel, spans_meets (by decide +kernel),
    by decide +kernel⟩

/-- Another thread of the quad waits with a grammar instruction that took its place before. -/
theorem test_meets_grammarOrder :
    let t : Thread := { Thread.new 2 0 0 with hold := some { what := .instr (.gmstepRst (.g 1) (.g 2)), fromLatch := false } }
    let s : State := { tState with threads := [(0, tThread), (8, t)] }.updQuad 0 (fun q => { q with gmQ := [2] })
    s.readable [.g 1, .g 2] = true ∧ s.calm = true ∧ s.fresh = true ∧ s.thr.uid ∉ (s.quadAt (quadOfCore s.core)).gmQ ∧
    ∃ u ∈ (s.quadAt (quadOfCore s.core)).gmQ, s.inUnit (quadOfCore s.core) u = true := by decide +kernel

/-- Context 15 with a symbol on its stack, and registers that name it and tokens 0, 1 and 16. -/
def tGmTok : State := (tGm [1]).setThr { tThread with g := ((((tG.set 5 15).set 6 0).set 7 1).set 8 16).set 9 2 }

theorem test_meets_grammarSteps :
    tGmTok.readable [.g 5, .g 6] = true ∧ tGmTok.calm = true ∧ tGmTok.fresh = true ∧
    (tGmTok.sc (.g 5)).toNat = (15 : Fin 16).val ∧ (tGmTok.quadAt (quadOfCore tGmTok.core)).grammar = some tGram ∧
    (tGmTok.quadAt (quadOfCore tGmTok.core)).gmQ = [] ∧ (tGmTok.quadAt (quadOfCore tGmTok.core)).gmCache = [] ∧
    tGram.vocab ≤ (tGmTok.sc (.g 8)).toNat ∧ (tGmTok.sc (.g 7)).toNat < tGram.vocab ∧ 16 ≤ (tGmTok.sc (.g 8)).toNat ∧
    (tState.quadAt 0).grammar = none := by decide +kernel

/-- Its three entries: a push with the stack full and empty, a pop of the symbol on top and of none, a plain move. -/
theorem test_meets_grammarEntries :
    let e (n : Nat) : Nat := tGmTok.readN (0x5100 + 4 * n) 4
    let ctx (s : State) : GCtx := (s.quadAt (quadOfCore s.core)).ctxs.get 15
    tGmTok.spans loadA (BitVec.ofNat 64 (0x5000 + 2 * 1)) 0x5002 2 (fun _ => true) ∧ tGmTok.readN 0x5002 2 = 1 ∧
    tGmTok.spans loadA (BitVec.ofNat 64 (0x5100 + 4 * (0 * 3 + 1))) 0x5104 4 (fun _ => true) ∧
    ((e 0 / 2 ^ 12 % 4 = 1 ∧ e 0 / 2 ^ 14 % 256 < 2) ∧ (ctx tGmTok).stack.length = tGram.depth ∧ ctx (tGm []) = ⟨0, []⟩) ∧
    ((e 1 / 2 ^ 12 % 4 = 2 ∧ e 1 / 2 ^ 14 % 256 = 1) ∧ (ctx tGmTok).stack = 1 :: []) ∧
    (e 2 / 2 ^ 12 % 4 = 0 ∧ e 2 % 2 ^ 12 < 2 ∧ e 2 / 2 ^ 22 = 0) := by
  refine ⟨spans_meets ?_, ?_, spans_meets ?_, ?_, ?_, ?_⟩ <;> decide +kernel

theorem test_meets_grammarMasks :
    (let s := (tGm []).setThr { tThread with g := ((tG.set 5 15).set 6 0).set 7 8 }
     (s.readable [.g 5, .g 6] = true ∧ (s.sc (.g 6)).toNat < (tGram.vocab + 2047) / 2048 ∧ (15 : VReg).val < s.thr.alot ∧
     s.thr.port? 15 = none ∧ (s.sc (.g 6)).toNat / 8 < (tGram.vocab + 2047) / 2048 ∧ (7 : KReg) ≠ 0 ∧
     (tGram.vocab + 2047) / 2048 ≤ (s.sc (.g 7)).toNat / 8) ∧
     s.spans loadA (BitVec.ofNat 64 (0x5200 + ((0 * 3 + 0) * 1 + 0) * 256)) 0x5200 256 (fun _ => true)) :=
  ⟨by decide +kernel, spans_meets (by decide +kernel)⟩

/-- A launch descriptor at 0x2040: X0 = 95, Y0 = 23, one core with a tile of 1 × 1; and one at 0x2080 with W = 2. -/
def tLaunch : State :=
  { tState with mem := [(0x2050, 95), (0x2052, 23), (0x2054, 1), (0x2056, 1), (0x2058, 1), (0x205C, 1), (0x2060, 1), (0x2064, 1),
      (0x2090, 95), (0x2092, 23), (0x2094, 2), (0x2096, 1), (0x2098, 1), (0x209C, 1), (0x20A0, 1), (0x20A4, 1)] }

theorem test_meets_launch :
    let s := tLaunch.setThr { tThread with g := (tG.set 5 0x2040).set 6 0x2080 }
    let core := coreAtPos (pkgOfCore s.core) (95 + 0 % 1) (23 + 0 / 1)
    let f (o n : Nat) : Nat := s.readN (0x2040 + o) n
    s.readable [.g 5] = true ∧ s.calm = true ∧ s.fresh = true ∧ (s.sc (.g 4)).toNat % 64 ≠ 0 ∧ (s.sc (.g 5)).toNat % 64 = 0 ∧
    s.spans loadA (s.sc (.g 5)) 0x2040 64 (fun _ => true) ∧
    (f 44 20 = 0 ∧ f 0 8 % 4 = 0 ∧ f 16 2 = 95 ∧ f 18 2 = 23 ∧ f 20 2 = 1 ∧ f 22 2 = 1 ∧ f 24 4 = 1 ∧ f 28 4 = 1 ∧ f 32 4 = 1 ∧
      f 36 4 = 1) ∧
    (s.partOfCore core).isSome = true ∧ s.partOfCore core = s.partOfCore s.core ∧ s.thread? (core * 8) = none ∧
    (s.coreAt core).disabled.getLsbD 0 = false ∧ (s.coreAt core).ovh ≠ 0 ∧
    mapGet (s.dieAt (dieOfCore core)).forward core = none ∧
    s.spans loadA (s.sc (.g 6)) 0x2080 64 (fun _ => true) ∧ 96 < s.readN (0x2080 + 16) 2 + s.readN (0x2080 + 20) 2 := by
  refine ⟨?_, ?_, ?_, ?_, ?_, spans_meets ?_, ?_, ?_, ?_, ?_, ?_, ?_, ?_, spans_meets ?_, ?_⟩ <;> decide +kernel

theorem test_meets_trapEntry : ((tState.thread? tState.cur).isSome = true ∧ tState.calm = true ∧ tState.thr.df = false ∧
    128 ≤ (tState.coreAt tState.core).tvec.toNat ∧ tState.thr.gPoison.getLsbD 15 = false) ∧
    tState.frameAt tState.core ((tState.coreAt tState.core).tvec - 128 + BitVec.ofNat 64 (16 * slotOfTid tState.cur)) 0x7F80 ∧
    (tState.thr.trapent = false ∧ tState.thr.gPend.getLsbD 15 = false ∧
    (tT (fun t => { t with gPend := 0x8000 })).thr.gPend.getLsbD 15 = true ∧
    (tT (fun t => { t with trapent := true })).thr.trapent = true ∧ (tState.dieAt (dieOfCore tState.core)).log.length < 4096 ∧
    (tT (fun t => { t with park := some (.trap (mkTrap 0xFF 0 0) none) })).thr.park = some (.trap (mkTrap 0xFF 0 0) none)) :=
  ⟨by decide +kernel, frameAt_meets (by decide +kernel), by decide +kernel⟩

theorem test_meets_trapEntry_parked :
    (let s := tT (fun t => { t with park := some (.trap (mkTrap 0x06 1 0) none) })
     s.calm = true ∧ s.frameAt s.core ((s.coreAt s.core).tvec - 128 + BitVec.ofNat 64 (16 * slotOfTid s.cur)) 0x7F80 ∧
     (s.thr.trapent = false ∧ s.thr.gPend.getLsbD 15 = false)) :=
  ⟨by decide +kernel, frameAt_meets (by decide +kernel), by decide +kernel⟩

theorem test_meets_trapReturn : tSuper.readable [] = true ∧ tSuper.thr.mode = .super ∧ tSuper.thr.doomed = false ∧
    tSuper.thr.trapent = false ∧ tSuper.thr.latch = none ∧
    (let s := tT (fun t => { t with mode := .super, trapent := true, doomed := true })
     s.readable [] = true ∧ s.thr.mode = .super ∧ s.thr.trapent = true ∧ s.thr.doomed = true) ∧
    (let s := tT (fun t => { t with mode := .super, trapent := true, latch := some (.instr .nop128) })
     s.thr.latch = some (.instr .nop128) ∧ s.thr.doomed = false) := by decide +kernel

theorem test_meets_systemRegisters : tState.readable [.g 3] = true ∧ Sc.isI .zr = false ∧ tState.thr.mode = .user ∧
    (0x016 : BitVec 12) ∈ [0x010#12, 0x011#12, 0x012#12, 0x013#12, 0x014#12, 0x015#12, 0x016#12] ∧
    (5 < (6 : BitVec 12).toNat ∧ (15 : BitVec 12).toNat < 16) ∧ (0x16 < (0x17 : BitVec 12).toNat ∧ (0x1F : BitVec 12).toNat < 0x20) ∧
    0x24 < (0x25 : BitVec 12).toNat ∧ tSuper.readable [.g 8] = true ∧ tSuper.thr.mode = .super ∧
    (tSuper.sc (.g 10)).toNat / 4 % 8 ≤ 4 ∧ 4 < (tSuper.sc (.g 3)).toNat / 4 % 8 ∧ (tSuper.sc (.g 1)).toNat % 4096 = 0 ∧
    (tSuper.sc (.g 13)).toNat % 8 ≤ 6 ∧ (tSuper.coreAt tSuper.core).csplit ≤ 6 ∧ tSuper.retry = [] ∧ tSuper.slice = [] ∧ tSuper.visitors = [] ∧
    (tSuper.sc (.g 3)).toNat % 8 = 7 ∧
    (∃ e < 32, (tSuper.coreAt tSuper.core).slotTab.toNat / 16 ^ e % 16 = 8 + (tSuper.sc (.g 3)).toNat % 8) ∧
    (∀ e < 32, ((tSuper.updCore 0 (fun c => { c with slotTab := 0 })).coreAt 0).slotTab.toNat / 16 ^ e % 16 ≠
      8 + (tSuper.sc (.g 3)).toNat % 8) ∧
    ((4 <<< 28 : Word).toNat / 2 ^ 28 % 16 = 4 ∧ (10 <<< 28 : Word).toNat / 2 ^ 28 % 16 = 10 ∧
      (tSuper.sc (.g 13)).toNat / 2 ^ 28 % 16 = 0) ∧
    (1 ≤ (60000 : Word).toNat % 65536 ∧ (60000 : Word).toNat % 65536 ≤ 60000) ∧ (tSuper.sc (.g 13)).toNat % 65536 = 0 ∧
    60000 < (tSuper.sc (.g 3)).toNat % 65536 := by decide +kernel

theorem test_meets_accessChecks : (tState.thread? tState.cur).isSome = true ∧
    Instr.scalarDest (.jr (.i 15) (.g 1)) = some (.i 15) ∧ Instr.otherDest (.cpwait (.i 0) (.g 1)) = some (.i 0) ∧ tState.thr.mode = .user ∧
    Instr.tret ∈ [Instr.track, .tret, .tretSkip, .slotw (.g 1) (.g 2), .swrEx (.g 1), .swrCsplit (.g 1), .swrOvh (.g 1),
      .swrHvec (.g 1), .swrMq (.g 1), .swrWdog (.g 1)] ∧
    2 ^ 48 ≤ (0x1000000000000 : Word).toNat ∧ (0xFFFFFFFFFFFF : Word).toNat < 2 ^ 48 := by
  refine ⟨by decide +kernel, by decide, by decide +kernel, by decide +kernel, by decide, by decide⟩

/-- The leaves of pages 0, 4, 5, 6 and 7 of the small pod (R134). -/
theorem test_meets_accessChecks_leaves :
    let e (n : Nat) : Word := match tState.leafFor 0 (n * 2 ^ 30) with
      | .ok l => l.entry
      | .error _ => 0
    isHbm 0 = true ∧ (tState.pkgAt (pkgOfPa 0)).member = true ∧ (e 0).toNat / 2 ^ 53 % 4 ≠ 2 ∧ (e 4).getLsbD 4 = false ∧
    (e 0).getLsbD 4 = true ∧ ((storeA.wr = true ∧ (e 5).getLsbD 2 = false) ∧ (e 5).getLsbD 1 = true) ∧ (e 7).getLsbD 63 = false ∧
    ((e 6).getLsbD 62 = true ∧ storeA.laterCow = false) ∧ ((e 0).getLsbD 63 = true ∧ (e 0).getLsbD 62 = false) ∧
    e 0 = BitVec.ofNat 64 (2 ^ 63 + 0x1F) := by decide +kernel

/-- The issue cycle of core 0, whose thread holds an instruction, or reads one at 0x10000; a cycle that passes. -/
theorem test_meets_step :
    let played (s : State) : State :=
      (lowerCores 0 ++ [0]).foldl (fun s c => s.updCore c (fun x => { x with playedAt := some s.cycle })) { s with turns := [] }
    let holds : State := { tT (fun t => { t with hold := some { what := .instr .nop, fromLatch := true } }) with turns := [.issue 0] }
    let reads : State := { tState with turns := [.issue 0], mem := [(0x10000, 0xD0)] }
    (∀ s ∈ [holds, reads], s.turns = .issue 0 :: [] ∧ (s.coreAt 0).playedAt ≠ some s.cycle ∧ (played s).pick 0 = some 0 ∧
      (∀ c ∈ lowerCores 0, State.mayIssue { s with turns := [] } c = false) ∧
      s.thr.ex.toNat % 4096 = 0) ∧
    holds.thr.hold = some { what := .instr .nop, fromLatch := true } ∧ reads.thr.hold = none ∧ reads.thr.fbuf = [] ∧
    reads.thr.ahead = [] ∧ coreOfTid 0 = 0 ∧ mapGet (reads.coreAt 0).icache (0x10000 / 64) = none ∧
    (match reads.translate 0 .user fetchA 0x10000 with
     | .ok p => p.pa == 0x10000
     | .error _ => false) = true ∧ (0x10000 : Nat) % 32 = reads.thr.pc.toNat % 32 ∧ reads.poisoned 0x10000 16 = false ∧
    reads.thr.pc.toNat % 32 + 16 ≤ 32 ∧ decodeTableWord 128 (reads.readN 0x10000 16) = some .nop := by decide +kernel

theorem test_meets_step_turns : Instr.cls (.taskDispatch 0) = .event ∧
    (let s : State := { tState with threads := [], turns := [.tick (2 + 1)] }
     s.turns = .tick (2 + 1) :: [] ∧ State.timedEvent { s with turns := [] } = none ∧ State.nextCore { s with turns := [] } = none) ∧
    (State.timedEvent (tP (fun p => { p with exTab := [(1, { ExEnt.reset with st := .live })] }))).isSome = true := by
  decide +kernel

theorem test_meets_canonical : State.reset.canonical ∧ tState.canonical := by
  refine ⟨⟨by decide, ?_, ?_⟩, ⟨by decide +kernel, ?_, ?_⟩⟩ <;> simp [State.reset, tState, Partition.reset]


/-! ## Events -/

def tCtx : MigrCtx :=
  { uid := 1, g := tG, gFull := 0xFFFF, pc := 0x20000, mode := .user, trapent := false, pmode := .user, idepth := 0, ex := 0,
    fcsr := 0, task := none }

/-- A message for core 0 of kind `k`, for the thread in slot 0. -/
def tMq (k : Nat) (req : Req) : MqMsg :=
  { kind := k, who := .thread 1, core := 0, rtag := 0, gen := 0, remote := false, k := 0, req := req, line := 0x2000, peer := 1,
    exp := 0, limit := 0, born := 0, va := 0 }

def tSpawnReq : Req := .spawn 0 0 0x20000 0 [1, 2]

/-- Core 0 with a thread that waits, a queue of 16 entries at the start of its local store, and a directory entry. -/
def tQueue (park : Option Park) (handler : Bool) (inn : List MqMsg) (out : List MqEnt) : State :=
  { tState with
    cycle := 200000
    threads := (0, { tThread with park := park }) :: (if handler then [(7, Thread.new 2 0x9000 0)] else [])
    cores := [(0, { Core.reset with mq := 4 <<< 28, mqIn := inn, mqOut := out })]
    dirs := [(0x80, { sharers := [0], overflowed := false, more := [], bcast := false })] }

theorem test_meets_coreEvents_handler :
    let s := { tC (fun c => { c with hvec := 0x9000 }) with cycle := 1750 }
    (s.coreAt 0).hvec ≠ 0 ∧ s.hasHandler 0 = false ∧ s.coreRuns 0 = true ∧
    Nat.max (((s.coreAt 0).emptied[(s.coreAt 0).ovh]?).getD 0) (s.coreAt 0).hvecAt + Config.nsToCycles 1000 ≤ s.cycle := by
  decide +kernel

/-- The kinds 1 and 4 at their ends, with the queue and without. -/
theorem test_meets_coreEvents_messages :
    (∀ k ∈ [1, 4], let s := tQueue (some .spawn) true [tMq k tSpawnReq] []
      let a := (s.coreAt 0).mqAddr 0 (s.coreAt 0).mqIndex
      (s.coreAt 0).mqIn = [tMq k tSpawnReq] ∧ (tMq k tSpawnReq).kind = k ∧ s.coreActs 0 = true ∧ s.calm = true ∧
      s.hasHandler 0 = true ∧ (s.coreAt 0).mqEntries ≠ 0 ∧ s.tagAt a = false ∧ (s.coreAt 0).mqOut = []) ∧
    (∀ k ∈ [3, 4], let s := tQueue none false [tMq k (.rd 0 8)] []
      s.hasHandler 0 = false ∧ s.coreActs 0 = true ∧ s.calm = true ∧ (s.coreAt 0).mqIn = [tMq k (.rd 0 8)] ∧
      (mapGet s.dirs ((tMq k (.rd 0 8)).line / 64)).isSome = true) := by decide +kernel

theorem test_meets_coreEvents_refusals :
    (let s := tQueue (some .spawn) false [tMq 1 tSpawnReq] []
     s.hasHandler 0 = false ∧ (tMq 1 tSpawnReq).remote = false ∧ s.waits 0 (tMq 1 tSpawnReq).who .spawn) ∧
    (let s := tQueue (some (.migr false)) false [tMq 2 (.migr 0 0 tCtx)] []
     s.hasHandler 0 = false ∧ s.calm = true ∧ s.waits 0 (tMq 2 (.migr 0 0 tCtx)).who (.migr false)) :=
  ⟨⟨by decide +kernel, by decide, waits_meets (by decide +kernel)⟩, ⟨by decide +kernel, by decide +kernel, waits_meets (by decide +kernel)⟩⟩

/-- An entry written at cycle 0, whose reply is `v`, or empty. -/
def tReply (k : Nat) (req : Req) (park : Park) (v : Option Nat) : State :=
  { tQueue (some park) true [] [{ idx := lsBase 0, msg := tMq k req, since := 0 }] with
    cycle := 175000
    tags := if v.isSome then [(lsBase 0 + 8) / 8] else [], mem := [(lsBase 0 + 8, BitVec.ofNat 8 (v.getD 0))] }

theorem test_meets_coreEvents_replies :
    (∀ s ∈ [tReply 1 tSpawnReq .spawn (some 1), tReply 2 (.migr 0 0 tCtx) (.migr false) (some 1)],
      s.coreActs 0 = true ∧ s.tagAt (lsBase 0 + 8) = true ∧ s.cycle ≤ 0 + Config.nsToCycles 100000 ∧ s.readN (lsBase 0 + 8) 8 = 1 ∧ s.freeSlot 0 = some 1 ∧
      s.tidOf tCtx.uid = some 0 ∧ (s.thread? 0).isSome = true) ∧
    (let s := tReply 1 tSpawnReq .spawn (some 2)
     s.tagAt (lsBase 0 + 8) = true ∧ s.cycle ≤ 0 + Config.nsToCycles 100000 ∧ s.readN (lsBase 0 + 8) 8 ≠ 1 ∧ s.waits 0 (tMq 1 tSpawnReq).who .spawn) ∧
    (let s := tReply 1 tSpawnReq .spawn none
     s.tagAt (lsBase 0 + 8) = false ∧ 0 + Config.nsToCycles 100000 ≤ s.cycle ∧ s.waits 0 (tMq 1 tSpawnReq).who .spawn) ∧
    ((let s := tReply 4 tSpawnReq .spawn none
     s.tagAt (lsBase 0 + 8) = false ∧ s.coreActs 0 = true ∧ (tMq 4 tSpawnReq).kind = 4) ∧
    (let s := tReply 4 tSpawnReq .spawn (some 13)
     s.tagAt (lsBase 0 + 8) = true ∧ s.cycle ≤ 0 + Config.nsToCycles 100000 ∧
     s.namedSharers (lsBase 0) (s.readN (lsBase 0 + 8) 8) = none ∧ s.coreActs 0 = true)) :=
  ⟨by decide +kernel, ⟨by decide +kernel, by decide +kernel, by decide +kernel, waits_meets (by decide +kernel)⟩,
    ⟨by decide +kernel, by decide +kernel, waits_meets (by decide +kernel)⟩, by decide +kernel⟩

theorem test_meets_coreEvents_threads :
    (let m : Mail := { k := 0, epoch := 0, req := tSpawnReq, rep := .refused }
     let t : Thread := { tThread with park := some .refused, mail := [m] }
     t.refusedReq = some tSpawnReq ∧ ({ t with idepth := 3 } : Thread).idepth < 4 ∧ t.trapent = false ∧
     4 ≤ ({ t with idepth := 4 } : Thread).idepth) ∧
    (let m : Mail := { k := 0, epoch := 0, req := .migr 0 0 tCtx, rep := .refused }
     let s := (tQueue none true [] []).setThread 0 { tThread with park := some (.migr true), mail := [m] }
     s.thr.refusedReq = some (.migr 0 0 tCtx) ∧ s.thr.park = some (.migr true) ∧ (s.freeSlot (s.forwardCore 0)).isSome = true ∧
     s.hasHandler (s.forwardCore 0) = true ∧ (s.coreAt (s.forwardCore 0)).mqEntries ≠ 0) ∧
    (let p : Port := { kind := 0, base := 0x2000, stride := 256, count := 65, ty := .i32, kreg := 0, m := 0, h := 0,
                       ahead := [], drawn := none }
     let s := tT (fun t => { t with ports := [(2, p)] })
     let n := Nat.min p.ty.lanes (p.count - 0 * p.ty.lanes) * p.ty.bits / 8
     s.thr.port? 2 = some p ∧ p.ahead.length < 4 ∧ 0 * p.ty.lanes < p.count ∧
     (s.peekSpan 0 s.thr (pieces (linearAddr p) (n + 1) n)).isSome = true) ∧
    (tT (fun t => { t with df := true })).thr.df = true ∧ tState.thr.df = false := by decide +kernel

theorem test_meets_coreEvents_task :
    let k (n pri : Nat) : Task :=
      { serial := n, pc := 0x20000, args := [7], pri := pri, kw := 1, ks := 0, exp := 0, run := none, since := 0 }
    let q : Quad := { Quad.reset with events := 1, shown := 1, tasks := [k 0 3, k 1 0], streak := 14 }
    let s := { tState.setQuad 0 q with cycle := 1 }
    (s.quadAt 0).dispatchedAt ≠ some s.cycle ∧ (s.quadAt 0).nextTask? s.cycle = some (k 1 0, 15) ∧ s.quadSlot 0 = some (0, 1) ∧
    ({ q with streak := 15 } : Quad).nextTask? 1 = some (k 0 3, 0) := by decide +kernel

theorem test_meets_powerEvents_grants :
    let s := (tC (fun c => { c with disabled := 0x02 })).updPkg 0 (fun p => { p with grantAt := some 0 })
    [350, 350, 350, 350].foldl (· + ·) 2800 ≤ 4200 ∧ ¬ [350, 350, 350, 350].foldl (· + ·) 2801 ≤ 4200 ∧
    0 + Config.nsToCycles 10000 ≤ ({ s with cycle := 17500 } : State).cycle ∧
    100 * 332 ≤ 95 * (s.dieAt 0).grant ∧ 95 * (s.dieAt 0).grant < 100 * 333 ∧ s.enableNext 0 [0, 5] = some (0, 1) := by
  decide +kernel

theorem test_meets_powerEvents_slots : (tState.dieAt 0).grant < 351 ∧ microPassed tState.cycle (tState.dieAt 0).disableAt = true ∧
    0 ∈ dieCores 0 ∧ (tState.coreAt 0).shedSlot = some 6 ∧ 350 ≤ (tState.dieAt 0).grant ∧
    microPassed tState.cycle (tState.coreAt 0).heatAt = true ∧
    ((tC (fun c => { c with disabled := 0x7E })).coreAt 0).shedSlot = none ∧
    (let s := (tC (fun c => { c with disabled := 0x01 })).updDie 0 (fun d => { d with ranking := [0, 1151] })
     (s.coreAt (coreOfTid 0)).disabled.getLsbD (slotOfTid 0) = true ∧ s.coreRuns (coreOfTid 0) = true ∧
     s.mayLeave (coreOfTid 0) s.thr = true ∧ s.coolCore (dieOfCore (coreOfTid 0)) s.thr.alot = some (0, 1)) := by
  decide +kernel

theorem test_meets_powerEvents_move : ((tState.coreAt 0).moving = none ∧ tState.mayMove 0 1151 = true ∧
    tState.mayMove 0 2048 = false ∧ (tState.coreAt 0).drained = true) ∧ tState.canonical ∧ (tState.visitors = [] ∧
    (tState.coreAt 0).csplit ≤ 6 ∧ (tState.coreAt 1151).csplit ≤ 6 ∧
    (let s := tC (fun c => { c with mxQ := [tMx (.zero 0 0)] })
     (s.coreAt 0).moving = none ∧ s.mayMove 0 1151 = true ∧ (s.coreAt 0).drained = false)) :=
  ⟨by decide +kernel, test_meets_canonical.2, by decide +kernel⟩

def tLine : MxLine := { va := 0x2000, pa := 0x2000, visits := false, unc := false, base := 0, size := 2 ^ 30, fmt := 0, blk := 0, soff := 0 }

theorem test_meets_matrixEvents :
    (let s := tC (fun c => { c with mxWait := [(0, tMx (.zero 3 1))], mxQ := List.replicate 15 (tMx (.zero 0 0)) })
     (s.coreAt 0).mxWait = [(0, tMx (.zero 3 1))] ∧
     (s.coreAt 0).mxQ.length + (if (s.coreAt 0).mxRun.isSome then 1 else 0) < 16) ∧
    (∀ o ∈ [.zero 3 1, .load 3 (List.replicate 16 tLine) 1, .mma 3 .e5m2 .e4m3 (List.replicate 8 tLine) (List.replicate 8 tLine) 32 1 2 true],
      let s := tC (fun c => { c with mxQ := [tMx o] })
      (s.coreAt 0).mxRun = none ∧ (s.coreAt 0).mxQ = tMx o :: [] ∧ ((tMx o).early.map (fun e => e.1)).Nodup) ∧
    (tLine.visits = false ∧ tLine.fmt = 0 ∧ tLine.pa % 64 = 0 ∧ pkgOfPa tLine.pa = pkgOfCore 0 ∧
      tState.refuses 0 tLine.pa = false ∧ tState.poisoned tLine.pa 64 = false) ∧
    (let cmd := tMx (.load 3 (List.replicate 16 tLine) 1)
     let r : MxRun := { cmd := cmd, tile := none, cells := [], done := false }
     let s (n : Nat) : State :=
       { tC (fun c => { c with mxRun := some r, mxQ := [tMx (.zero 0 0), cmd] }) with turns := [.matrixRead 0 n (tLine.pa + 8 * 7)] }
     (∀ n ∈ [0, 2], (s n).turns = .matrixRead 0 n (tLine.pa + 8 * 7) :: [] ∧ ((s n).coreAt 0).mxRun = some r ∧
       ((s n).coreAt 0).mxQ = [tMx (.zero 0 0)] ++ cmd :: []) ∧ 2 = [tMx (.zero 0 0)].length + 1 ∧ r.done = false ∧
     tLine ∈ cmd.op.reads ∧ (tLine.pa + 8 * 7) / 8 ∉ cmd.early.map (fun e => e.1) ∧ ∀ m ∈ cmd.op.reads, m = tLine) ∧
    (let r : MxRun := { cmd := tMx (.load 3 (List.replicate 16 tLine) 1), tile := some (3, Tile.reset), cells := [], done := true }
     let s := tC (fun c => { c with mxRun := some r })
     (s.coreAt 0).mxRun = some r ∧ r.done = true ∧ r.tile = some (3, Tile.reset)) ∧
    (let r : MxRun := { cmd := tMx (.store 3 .i8 true [tLine] 1 false), tile := none, cells := [(0, [(0x2000, 5), (0x2001, 6)])], done := true }
     let s := tC (fun c => { c with mxRun := some r })
     r.tile = none ∧ ((s.coreAt 0).acc.get 3).poison = false ∧ s.calm = true ∧ (s.coreAt 0).mxMail = [] ∧ (s.coreAt 0).reqs = [] ∧
     ((r.cells.flatMap (fun e => e.2)).map (fun x => x.1)).Nodup ∧
     ∀ e ∈ r.cells, [tLine][e.1]? = some tLine ∧ ∀ x ∈ e.2, s.refuses 0 x.1 = false) := by decide +kernel

def tCpCmd (op : CpOp) : CpCmd :=
  { uid := 1, slot := 0, at_ := 0, exp := 0, mode := .user, record := 0x2040, recUnc := false, acq := false, rel := false, sc := none,
    limit := 0, drop := false, op := op }

/-- Core 0 with a running command. -/
def tCpRun (r : CpRun) : State := tC (fun c => { c with cpRun := some r })

theorem test_meets_copyEvents_queue : tState.calm = true ∧ mapRising tState.threads = true ∧
    (let s := tC (fun c => { c with cpWait := [(0, tCpCmd (.rfg (.g 5) 0x2000))], cpQ := List.replicate 7 (tCpCmd (.rfg (.g 4) 0)) })
     (s.coreAt 0).cpWait = [(0, tCpCmd (.rfg (.g 5) 0x2000))] ∧ (s.coreAt 0).cpRoom = true) ∧
    (let s := tC (fun c => { c with cpQ := [tCpCmd (.rfg (.g 5) 0x2000)] })
     s.coreRuns 0 = true ∧ (s.coreAt 0).cpRun = none ∧ (s.coreAt 0).cpQ = tCpCmd (.rfg (.g 5) 0x2000) :: []) := by decide +kernel

/-- A copy across a line, fills, a gathered block and its end mark, and the last step of an append. -/
theorem test_meets_copyEvents_steps :
    (let s := tCpRun (newRun (tCpCmd (.cpy 0x2038 0x2000 32 0)))
     s.coreRuns 0 = true ∧ (s.coreAt 0).cpMail = [] ∧ (s.coreAt 0).reqs = [] ∧ 0 < 32 ∧ lineLen 0x2038 0 32 = 8 ∧
     s.unitSpans 0 .user loadA (0x2000 + 0) 0x2000 8 ∧ s.unitSpans 0 .user storeA (0x2038 + 0) 0x2038 8) ∧
    (tCpRun (newRun (tCpCmd (.rfg (.g 5) 0x2000)))).unitSpans 0 .user loadA 0x2000 0x2000 8 ∧
    (tCpRun (newRun (tCpCmd (.rfv 63 0x2000)))).unitSpans 0 .user loadA 0x2000 0x2000 256 ∧
    tState.fillPort (tCpCmd (.rfv 63 0x2000)) 63 = none ∧
    (let r : CpRun := { newRun (tCpCmd (.cpgb 0x3000 0x4000 0x5000 1 6 0)) with entry := 1, tmp := some 2 }
     let n := lineLen 0x3000 0 (1 * 2 ^ 6)
     n ≤ 2 ^ 6 - 0 % 2 ^ 6 ∧ r.entry = r.pos / 2 ^ 6 + 1 ∧ 2 % 2 ^ 31 ≠ 0x7FFFFFFF ∧ 0xFFFFFFFF % 2 ^ 31 = 0x7FFFFFFF ∧
     (tCpRun r).unitSpans 0 .user storeA (0x3000 + 0) 0x3000 n ∧
     (tCpRun r).unitSpans 0 .user loadA (0x5000 + 2 % 2 ^ 31 * 2 ^ 6 + 0 % 2 ^ 6) 0x5080 n) ∧
    (let r : CpRun := { newRun (tCpCmd (.kvapp 0x2040 0x3000 0x4000 0x5000 0 10 3 6 6 0x6000)) with entry := 3 }
     r.phase = 0 ∧ r.entry = 3 ∧ 0x2040 % 64 = 0 ∧ (tCpRun r).unitSpans 0 .user storeA (0x2040 + 32) 0x2060 4) := by
  refine ⟨⟨by decide +kernel, by decide +kernel, by decide +kernel, by decide, by decide +kernel, unitSpans_meets (by decide +kernel),
    unitSpans_meets (by decide +kernel)⟩, unitSpans_meets (by decide +kernel), unitSpans_meets (by decide +kernel),
    by decide +kernel, ⟨by decide +kernel, by decide +kernel, by decide, by decide, unitSpans_meets (by decide +kernel), unitSpans_meets (by decide +kernel)⟩,
    ⟨by decide +kernel, by decide +kernel, by decide, unitSpans_meets (by decide +kernel)⟩⟩

/-- An atomic line, and a gather that begins in the middle of a block and ends in the next, both entries read. -/
theorem test_meets_copyEvents_lines :
    (let s := tCpRun (newRun (tCpCmd (.atomic .add .f32 0x3000 0x2000 64 0)))
     CpyOp.add ≠ .copy ∧ ETy.f32 ∈ [ETy.f32, .bf16, .f16, .i32] ∧ 0x3000 % 64 = 0 ∧ 0x2000 % 64 = 0 ∧ 0 + 64 ≤ 64 ∧
     s.unitSpans 0 .user loadA (0x2000 + 0) 0x2000 64 ∧ s.unitSpans 0 .user amoA (0x3000 + 0) 0x3000 64) ∧
    (let r : CpRun := { newRun (tCpCmd (.cpgb 0x3020 0x4000 0x5000 2 6 0)) with pos := 32 }
     let s := tCpRun r
     lineLen 0x3020 32 (2 * 2 ^ 6) = 64 ∧ min 64 (2 ^ 6 - 32 % 2 ^ 6) = 32 ∧ r.entry ≠ 32 / 2 ^ 6 + 1 ∧
     s.unitSpans 0 .user loadA (0x4000 + 4 * 0) 0x4000 4 ∧ s.readN 0x4000 4 = 0 ∧
     s.unitSpans 0 .user loadA (0x5000 + 0 % 2 ^ 31 * 2 ^ 6 + 32) 0x5020 32 ∧
     s.unitSpans 0 .user loadA (0x4000 + 4 * 1) 0x4004 4 ∧ s.readN 0x4004 4 = 0 ∧
     s.unitSpans 0 .user loadA (0x5000 + 0 % 2 ^ 31 * 2 ^ 6 + 0) 0x5000 32 ∧
     s.unitSpans 0 .user storeA (0x3020 + 32) 0x3040 64) := by
  refine ⟨⟨by decide, by decide, by decide, by decide, by decide, unitSpans_meets (by decide +kernel),
    unitSpans_meets (by decide +kernel)⟩, by decide +kernel, by decide, by decide, unitSpans_meets (by decide +kernel), by decide +kernel,
    unitSpans_meets (by decide +kernel), unitSpans_meets (by decide +kernel), by decide +kernel, unitSpans_meets (by decide +kernel),
    unitSpans_meets (by decide +kernel)⟩

/-- An append of the entries 11 to 13 into blocks of two, at a part of its work, its free ring holding one block. -/
def tApp (phase entry pos : Nat) (tmp popped : Option Nat) : State :=
  { tCpRun { newRun (tCpCmd (.kvapp 0x2040 0x3000 0x4000 0x5000 0x6000 11 3 7 6 0x7000)) with
      phase := phase, entry := entry, pos := pos, tmp := tmp, popped := popped } with
    mem := [(0x3017, 0x80), (0x5004, 1), (0x5008, 1)] }

theorem test_meets_appendEvents :
    let at_ (s : State) (x : Access) (a n : Nat) : Prop := s.unitSpans 0 .user x a a n
    (let s := tApp 0 0 0 none none
     s.calm = true ∧ mapRising s.threads = true ∧ s.coreRuns 0 = true ∧ (s.coreAt 0).cpMail = [] ∧ (s.coreAt 0).reqs = [] ∧
     (11 + 0) % 2 ^ (7 - 6) = 1 ∧ 0x3000 + 4 * ((11 + 0) / 2 ^ (7 - 6)) = 0x3014 ∧ s.readN 0x3014 4 / 2 ^ 31 = 1 ∧
     (tApp 0 2 0 none none).readN (0x3000 + 4 * ((11 + 2) / 2 ^ (7 - 6))) 4 / 2 ^ 31 = 0) ∧
    at_ (tApp 0 0 0 none none) loadA 0x3014 4 ∧
    ((tApp 1 0 0 (some 0x80000000) none).readN 0x5000 4 ≠ (tApp 1 0 0 (some 0x80000000) none).readN (0x5000 + 4) 4 ∧
      (tApp 1 0 0 (some 0x80000000) none).readN (0x5000 + 8) 4 ≠ 0 ∧
      (let s : State := { tApp 1 0 0 (some 0x80000000) none with mem := [] }
       s.readN 0x5000 4 = s.readN (0x5000 + 4) 4)) ∧
    at_ (tApp 1 0 0 (some 0x80000000) none) amoA 0x5000 16 ∧
    at_ (tApp 1 0 0 (some 0x80000000) none) loadA (0x5000 + 16 + 4 * (0 % 1)) 4 ∧
    at_ (tApp 2 0 0 (some 0x80000000) (some 3)) storeA (0x6000 + 4 * 3) 4 ∧
    ((0 : Nat) < 1 * 2 ^ 6 ∧ lineLen (0x4000 + 3 * 2 ^ 7) 0 (1 * 2 ^ 6) = 64) ∧
    at_ (tApp 3 0 0 (some 0x80000000) (some 3)) loadA (0x4000 + 0x80000000 % 2 ^ 31 * 2 ^ 7 + 0) 64 ∧
    at_ (tApp 3 0 0 (some 0x80000000) (some 3)) storeA (0x4000 + 3 * 2 ^ 7 + 0) 64 ∧
    at_ (tApp 4 0 64 (some 0x80000000) (some 3)) storeA 0x3014 4 ∧ (0x6000 + 4 * (0x80000000 % 2 ^ 31)) % 4 = 0 ∧
    at_ (tApp 5 0 64 (some 0x80000000) (some 3)) amoA (0x6000 + 4 * (0x80000000 % 2 ^ 31)) 4 ∧
    at_ (tApp 9 0 64 (some 0x80000000) none) loadA 0x3014 4 ∧ lineLen (0x4000 + 3 * 2 ^ 7 + 1 * 2 ^ 6) 0 (2 ^ 6) = 64 ∧
    at_ (tApp 10 0 0 (some 3) none) loadA (0x7000 + 0 * 2 ^ 6 + 0) 64 ∧
    at_ (tApp 10 0 0 (some 3) none) storeA (0x4000 + 3 * 2 ^ 7 + 1 * 2 ^ 6 + 0) 64 ∧
    at_ (tApp 0 3 0 none none) storeA (0x2040 + 32) 4 := by
  refine ⟨?_, unitSpans_meets ?_, ?_, unitSpans_meets ?_, unitSpans_meets ?_, unitSpans_meets ?_, ?_, unitSpans_meets ?_,
    unitSpans_meets ?_, unitSpans_meets ?_, ?_, unitSpans_meets ?_, unitSpans_meets ?_, ?_, unitSpans_meets ?_, unitSpans_meets ?_,
    unitSpans_meets ?_⟩ <;> decide +kernel

/-- The own die's partition runs and the next die's is halted; page 2 maps the local stores of both. -/
def tHalted (deferred : Bool) (pst : PSt) : State :=
  { tCpRun { newRun (tCpCmd (.cpy (3 * 2 ^ 30) 0x2000 32 0)) with deferred := deferred } with
    dies := [(0, { Die.reset with part := some 0 }), (1, { Die.reset with part := some 1 })]
    parts := [(0, { Partition.reset with dies := [0], root := 0x1000 }), (1, { Partition.reset with dies := [1], st := pst })] }

def tHalt (deferred : Bool) (pst : PSt) : State :=
  (tHalted deferred pst).updCore 0 (fun c =>
    { c with tlb := [tPage (3 * 2 ^ 30) (2 ^ 44 + 2 ^ 30 + 2 ^ 54 + 2 ^ 63 + 0x1F)] })

theorem test_meets_copyEvents_ends :
    (let r : CpRun := { newRun (tCpCmd (.rfg (.g 5) 0x2000)) with status := some (1, 0, 0), fill := 9 }
     let s := tCpRun r
     s.coreRuns 0 = true ∧ (s.coreAt 0).cpRun = some r ∧ s.tidOf r.cmd.uid = some 0 ∧ (s.thread? 0).isSome = true ∧
     r.cmd.drop = false ∧ s.thr.port? 15 = none ∧ (15 : VReg).val < s.thr.alot) ∧
    (let r := newRun (tCpCmd (.cpy (3 * 2 ^ 30) 0x2000 32 0))
     r.status = none ∧ (tHalt false .halting).coreRuns 0 = true ∧ (tHalt false .halting).cpRefused 0 r = true ∧
     (tHalt true .run).cpRefused 0 { r with deferred := true } = false ∧ (tHalt false .halting).calm = true) := by decide +kernel

/-- The pod that `withFetchWord` leaves has its tables in memory and empty TLBs. -/
theorem test_meets_translationEvents :
    (let s := State.reset.withFetchWord 64 0x00000062003F1404
     let root := s.rootOf 0
     s.calm = true ∧ (0x10000 : Word).toNat < 2 ^ 48 ∧ s.mappable root = true ∧ (s.partOfCore 0).isSome = true ∧
     tlbFind (s.coreAt 0).tlb root 0x10000 = none ∧ tlbFind (s.quadAt (quadOfCore 0)).tlb root 0x10000 = none ∧
     (s.quadAt (quadOfCore 0)).tlb.length < 2048 ∧ (match s.walk 0 0x10000 root with
      | .ok _ => true
      | .error _ => false) = true ∧
     (match s.walk 0 (2 ^ 48 - 1) root with
      | .ok _ => false
      | .error _ => true) = true) ∧
    (let s := { tState with tags := [(tmbBase 0 + 16) / 8] }
     s.partOfDie 0 = some 0 ∧ s.tagAt (tmbBase 0 + 16) = true ∧ (s.dieAt 0).shoot = none) ∧
    (let s := tState.updDie 0 (fun d => { d with shoot := some ([(0, 4096)], 0) })
     s.partOfDie 0 = some 0 ∧ (s.dieAt 0).shoot = some ([(0, 4096)], 0) ∧ s.accessRuns 0 [(0, 4096)] 0 = false) := by decide +kernel

def tReqMsg (req : Req) (gen : Nat) (resend : Bool) : Msg := { tMsg 1 8192 (.req req 0 none) with gen := gen, resend := resend }

theorem test_meets_requestEvents_home : tState.poison = [] ∧
    (tIn (tReqMsg (.rd 0x2000 8) 0 false)).onlyMsg 0 (tReqMsg (.rd 0x2000 8) 0 false) ∧
    (tIn (tReqMsg (.rd 0x2000 8) 0 false)).calm = true ∧ tState.forwardPa 0x2000 = 0x2000 ∧ tState.refuses 8192 0x2000 = false ∧
    (let s := (tIn (tReqMsg (.rd (lsBase 0) 8) 0 false)).updPart 0 (fun x => { x with st := .halting })
     s.onlyMsg 0 (tReqMsg (.rd (lsBase 0) 8) 0 false) ∧ s.calm = true ∧ s.forwardPa (lsBase 0) = lsBase 0 ∧
     s.refuses 8192 (lsBase 0) = true) ∧
    ([((0x2000 : Nat), (1 : Byte)), (0x2001, 2)].map (fun x => x.1)).Nodup ∧
    (let m := tReqMsg (.wr [(0x2000, 1), (0x2001, 2)]) 0 true
     let e : Replay := { src := 1, core := 8192, rtag := 3, gen := 15, rep := .ok, since := 0 }
     let s := (tIn m).updPkg 0 (fun p => { p with replay := [e] })
     s.onlyMsg 0 m ∧ ((tIn m).pkgAt 0).replay.find? (fun e => e.core == m.core && e.rtag == m.rtag) = none ∧
     (s.pkgAt 0).replay.find? (fun e => e.core == m.core && e.rtag == m.rtag) = some e ∧ (e.gen + 1) % 16 = m.gen) := by
  unfold State.onlyMsg
  decide +kernel

/-- Core 0 with a request of its thread outstanding, which waits. -/
def tOut (o : OutReq) (p : Park) : State :=
  { tC (fun c => { c with reqs := [o] }) with cycle := 100000, threads := [(0, { tThread with park := some p })] }

def tOutReq : OutReq :=
  { rtag := 3, gen := 0, dst := 1, who := .thread 1, k := 0, epoch := 0, req := .rd (2 ^ 45) 8, exp := 0, sentAt := some 0,
    resent := false, busyAt := none, pc := 0, ins := none, limit := 0, va := 0, born := 0, fullAt := none }

/-- A replay table without room for another entry (R205). -/
theorem test_meets_requestEvents_room :
    let m := tReqMsg (.wr [(0x2000, 1), (0x2001, 2)]) 0 false
    let e : Replay := { src := 1, core := 8193, rtag := 3, gen := 15, rep := .ok, since := 0 }
    let s := (tIn m).updPkg 0 (fun p => { p with replay := List.replicate 4096 e })
    (s.pkgAt 0).inbox = [m] ∧ s.mustNote 0 m.exp = false ∧ (tIn m).replayRoom 0 = true ∧ s.replayRoom 0 = false ∧
    (s.pkgAt 0).replay.find? (fun e => e.core == m.core && e.rtag == m.rtag) = none ∧
    (∀ a ∈ [0x2000, 0x2001], s.forwardPa a = a ∧ s.refuses m.core a = false) := by decide +kernel

theorem test_meets_requestEvents_replies :
    ((Reply.val 5).goesOn = false ∧ (∀ rep ∈ [Reply.val 5, .listed, .busy], let m := tMsg 1 0 (.reply rep)
      let s := (tOut tOutReq .reply).updPkg 0 (fun p => { p with inbox := [m] })
      ((s.pkgAt 0).inbox = [m] ∧ s.mustNote 0 m.exp = false) ∧ s.answers m = some tOutReq ∧ tOutReq.req.isNote = false ∧
      s.storeOf m.core tOutReq = none ∧ tState.answers m = none)) ∧
    (tOut tOutReq .reply).waits 0 tOutReq.who .reply :=
  ⟨by decide +kernel, waits_meets (by decide +kernel)⟩

theorem test_meets_requestEvents_timers :
    (let o := { tOutReq with busyAt := some 98250 }
     let s := tOut o .reply
     s.outReq 0 3 = some o ∧ o.isMcast = false ∧ s.passed 98250 1000 = true ∧ s.fullOver o = false) ∧
    (let o := { tOutReq with req := .feLd .wf (2 ^ 45) 8, busyAt := some 98250, fullAt := some 0, limit := 1 }
     let s := tOut o .listed
     s.outReq 0 3 = some o ∧ o.isMcast = false ∧ o.limit ≠ 0 ∧ o.req.limited = true ∧ s.passed 0 (1000 * 1) = true ∧
     s.storeOf 0 o = none ∧ s.waits 0 o.who .listed) ∧
    (let o := { tOutReq with sentAt := some 12500 }
     let s := tOut o .reply
     s.outReq 0 3 = some o ∧ o.busyAt = none ∧ s.passed 12500 50000 = true ∧ o.resent = false ∧ s.cpGivesUp 0 o = false) ∧
    (let o := { tOutReq with resent := true }
     let s := tOut o .reply
     s.outReq 0 3 = some o ∧ o.req.neverTimesOut = false ∧ s.storeOf 0 o = none ∧ s.waits 0 o.who .reply) :=
  ⟨by decide +kernel, ⟨by decide +kernel, by decide, by decide, by decide, by decide +kernel, by decide +kernel,
    waits_meets (by decide +kernel)⟩, by decide +kernel, by decide +kernel, by decide, by decide +kernel, waits_meets (by decide +kernel)⟩

/-- A waiter of the thread in slot 0 for the word at 0x2000. -/
def tWaiter (home limit : Nat) (refusedAt : Option Nat) : Waiter :=
  { seq := 9, home := home, who := .thread 1, core := 0, rtag := 0, gen := 0, remote := false, k := 0, epoch := 0,
    req := .feLd .wfe 0x2000 8, exp := 0, since := 0, limit := limit, va := 0x2000, refusedAt := refusedAt }

def tListed (w : Waiter) (full : Bool) : State :=
  { tState with cycle := 1750, retry := [w], threads := [(0, { tThread with park := some .listed })], tags := if full then [0x400] else [] }

theorem test_meets_requestEvents_lists :
    (let s := tListed (tWaiter 0 0 none) false
     ∀ w ∈ s.retry, w.refusedAt = none → s.satisfied w.req = false) ∧
    (let s := tListed (tWaiter 0 0 none) true
     s.retry = [tWaiter 0 0 none] ∧ s.tagAt 0x2000 = true ∧ s.waits 0 (tWaiter 0 0 none).who .listed) ∧
    (let w := tWaiter 0 0 (some 0)
     let s := tListed w false
     s.retry.find? (fun w => w.seq == 9) = some w ∧ s.passed 0 1000 = true ∧ w.home ≠ 2 ^ 25 ∧ s.tagAt 0x2000 = false ∧
     s.refuses 0 0x2000 = false ∧ s.retry.length < 64 ∧ w.limit = 0) ∧
    (let w := tWaiter 0 1 none
     let s := tListed w false
     w.limit ≠ 0 ∧ w.req.limited = true ∧ s.passed w.since (1000 * w.limit) = true ∧ s.waits 0 w.who .listed) :=
  ⟨by decide +kernel, ⟨by decide +kernel, by decide +kernel, waits_meets (by decide +kernel)⟩, by decide +kernel,
    by decide +kernel, by decide +kernel, by decide +kernel, waits_meets (by decide +kernel)⟩

/-- Package 0 with the expiry entry 4095. -/
def tEntry (e : ExEnt) : State := { tP (fun p => { p with exTab := [(4095, e)] }) with cycle := 350000 }

theorem test_meets_expiryEvents_entries :
    let e : ExEnt := { ExEnt.reset with st := .live, instant := 200000, reach := 2 ^ 127 + 1 }
    let l : ExEnt := { e with st := .lapsing, done := 1 }
    ((tEntry e).entry 0 4095).st = .live ∧ ((tEntry e).entry 0 4095).gusset = false ∧ e.instant ≤ (tEntry e).podTime ∧
    (tEntry { e with instant := 200001 }).podTime < 200001 ∧ l.reach &&& ~~~l.done ≠ 0 ∧
    ({ l with done := 2 ^ 127 + 1 } : ExEnt).reach &&& ~~~(2 ^ 127 + 1) = 0 ∧ ((tEntry l).pkgAt 0).inbox = [] ∧
    (let m := tMsg 127 0 (.waveDone (mkTag 0 4095))
     let s := (tEntry l).updPkg 0 (fun p => { p with inbox := [m] })
     (s.pkgAt 0).inbox = [m] ∧ (s.entry 0 4095).st = .lapsing ∧ l.reach &&& ~~~(setBit l.done m.src) = 0) ∧
    (let q : ExEnt := { e with st := .quarantine }
     q.since + Config.nsToCycles 200000 ≤ (tEntry q).cycle ∧
     (tEntry { q with since := 1 }).cycle < 1 + Config.nsToCycles 200000) := by decide +kernel

theorem test_meets_expiryEvents_wave :
    (let g := mkTag 1 5
     let m := tMsg 1 0 (.wave g)
     let s := { tIn m with threads := [(0, { tThread with ex := g })] }
     (s.onlyMsg 0 m ∧ s.unreached (coreOfTid 0) = false ∧ s.thr.ex = g ∧ s.thr.trapent = false ∧ s.thr.df = false)) ∧
    (let g := mkTag 0 4095
     let m := tMsg 1 8192 (.req (.note g 1) 0 none)
     ∀ st ∈ [ExSt.live, .lapsing], let s := (tEntry { ExEnt.reset with st := st }).updPkg 0 (fun p => { p with inbox := [m] })
       ((s.pkgAt 0).inbox = [m] ∧ s.mustNote 0 m.exp = false) ∧ tagPkg g = 0 ∧ s.calm = true ∧ (s.exAt g).st = st) ∧
    (let g := mkTag 1 5
     let o : OutReq := { tOutReq with req := .note g 0 }
     ∀ v ∈ [1, 0], let m := tMsg 1 0 (.reply (.val v))
       let s := (tOut o .reply).updPkg 0 (fun p => { p with inbox := [m] })
       ((s.pkgAt 0).inbox = [m] ∧ s.mustNote 0 m.exp = false) ∧ s.answers m = some o) := by
  unfold State.onlyMsg
  decide +kernel

/-- A message from package 0 to package `dst`, as one flit. -/
def tFlit (dst : Nat) : Flit := { msg := { tMsg 0 0 (.wave 5) with dst := dst }, idx := 0, since := 0, via := none }

/-- A host's reply at edge port 27 of package 0, as one flit. -/
def tHostFlit : Flit := { msg := { tMsg 0 1155 (.reply (.val 5)) with cls := 1 }, idx := 0, since := 0, via := none }

/-- Port `port` of package 0 with a key, whose slot 0 serves queue 0 of the package; torus port 0 leads to package 1. -/
def tLink (port : Nat) (f : Flit) (l : Link) : State :=
  tP (fun p => { p with links := [(port, { l with txKey := some 7 })], patterns := [(port * 64, 0xC0)], queues := [(queueKey 28 0, [f])] })

theorem test_meets_fabricEvents_sends :
    (let s := tLink 0 (tFlit 1) Link.reset
     let l := (s.pkgAt 0).link 0
     l.txKey = some 7 ∧ (s.nextFrame 0 0).2 = [tFlit 1] ∧ l.switchDue [tFlit 1].length = false ∧
     patternOwner ((mapGet (s.pkgAt 0).patterns (0 * 64)).getD 0) = some (28, some 0) ∧
     (mapGet (s.pkgAt 0).queues (queueKey 28 0)).getD [] = tFlit 1 :: [] ∧ (tFlit 1).port s 0 = some 0 ∧
     (s.pkgAt 0).filtered (tFlit 1).msg.exp = false ∧ peerPort s 0 0 = (1, 4) ∧ l.counter < 2 ^ 48 - 1 ∧
     ((mapGet (s.pkgAt 1).queues (queueKey 4 (0 % 4))).getD []).length + (l.wire.map (fun f => f.flits.length)).sum < 64) ∧
    (let s := tLink 27 tHostFlit Link.reset
     ((s.pkgAt 0).link 27).txKey = some 7 ∧ (s.nextFrame 0 27).2 = [tHostFlit] ∧ ((s.pkgAt 0).link 27).switchDue 1 = false ∧
     [tHostFlit].filterMap Flit.toHost = [.val 5]) ∧
    (let s := tLink 0 (tFlit 1) { Link.reset with staged := some 8, counter := 2 ^ 20 }
     ((s.pkgAt 0).link 0).switchDue (s.nextFrame 0 0).2.length = true ∧ ((s.pkgAt 0).link 0).txKey ≠ some 8) ∧
    (let s := tLink 0 (tFlit 1) { Link.reset with counter := 2 ^ 48 - 1 }
     ((s.pkgAt 0).link 0).counter = 2 ^ 48 - 1 ∧ ((s.pkgAt 0).link 0).exhausted = false ∧ (s.dieAt (0 * 4)).log.length < 4096) ∧
    ((0x9C : BitVec 8).getLsbD 7 = true ∧ patternOwner 0x9C = none) := by decide +kernel

theorem test_meets_fabricEvents_receives :
    (let f : Frame := { flits := [tFlit 1], key := 7, counter := 0, switch := false }
     let s := tLink 0 (tFlit 1) { Link.reset with wire := [f], rxKey := some 7 }
     ((s.pkgAt 0).link 0).wire = f :: [] ∧ ((s.pkgAt 0).link 0).rxKey = some f.key ∧ (tFlit 1).msg.dst = (peerPort s 0 0).1 ∧
     (s.pkgAt 1).filtered (tFlit 1).msg.exp = false ∧ (tFlit 1).msg.toHost = false ∧
     flitCount (tFlit 1).msg = 1 ∧ (s.pkgAt 1).partial_ = [] ∧ (tFlit 0).msg.dst ≠ (peerPort s 0 0).1) ∧
    ((Pkg.reset.filtered 5 = false) ∧ ({ Pkg.reset with filter := [(5, 0)] } : Pkg).filtered 5 = true) ∧
    (let f : Frame := { flits := [], key := 8, counter := 0, switch := true }
     let s := tLink 0 (tFlit 1) { Link.reset with wire := [f], staged := some 8 }
     ((s.pkgAt 0).link 0).staged = some f.key) := by decide +kernel

theorem test_meets_fabricEvents_multicast :
    (let data : List Byte := [1, 2, 3, 4, 5, 6, 7, 8]
     let m := tMsg 1 8192 (.mcast 63 0x3000 data none true false 1)
     let f : Fan := { out := 0, shift := 0x8000, total := 1, valid := true }
     let s := (tIn m).updPkg 0 (fun p => { p with fan := [(63, f)] })
     ((s.pkgAt 0).inbox = [m] ∧ s.mustNote 0 m.exp = false) ∧ mapGet (s.pkgAt 0).fan 63 = some f ∧ s.calm = true ∧
     (∀ j < 16, f.shift.getLsbD j = decide (j = 15)) ∧ 8 ≤ data.length ∧ data.length % 8 = 0 ∧
     (s.pkgAt 0).replay = [] ∧ s.replayRoom 0 = true ∧ m.resend = false) ∧
    (let o : OutReq := { tOutReq with req := .wr [], k := mcastK true false, ins := some (.mcast none 63 (.g 1) 0 (.g 2) (.g 8)) }
     ∀ total ∈ [(1 : BitVec 12), 2], let m := tMsg 1 0 (.mcastAck 1)
       let s := (tOut o .reply).updPkg 0 (fun p =>
         { p with inbox := [m], fan := [(63, { out := 0, shift := 1, total := total, valid := true })] })
       ((s.pkgAt 0).inbox = [m] ∧ s.mustNote 0 m.exp = false) ∧ s.answers m = some o ∧ mcastOf o = some (63, none) ∧
       mapGet (s.pkgAt 0).mcasts (m.core * 64 + m.rtag) = none ∧ s.storeOf m.core o = none) := by decide +kernel

/-- A host's access of 8 bytes as it stands in a flit of its direction. -/
def tHostMsg (op : HostOp) (addr : Nat) : Msg :=
  { dst := 0, src := 0, cls := 0, core := 1155, rtag := 0, gen := 0, exp := 0, resend := false, body := .host op addr 8 0x55 }

/-- Edge port 27 with a window, its host's direction with a key and with an access on its way. -/
def tHost (w : List Frame) : State :=
  tP (fun p => { p with windows := [(27 * 16 + 15, { base := 0x2000, size := 8, rd := true, wr := true })],
                        links := [(32 + 27, { Link.reset with txKey := some 7, rxKey := some 7, wire := w })] })

theorem test_meets_fabricEvents_host :
    let f (op : HostOp) (addr : Nat) : Frame :=
      { flits := [{ msg := tHostMsg op addr, idx := 0, since := 0, via := none }], key := 7, counter := 0, switch := false }
    (∀ op ∈ [HostOp.ld, .st], ∀ addr ∈ [0x2000, 0x2008, 0xB2C000000], let s := tHost [f op addr]
      ((s.pkgAt 0).link (32 + 27)).wire = f op addr :: [] ∧ ((s.pkgAt 0).link (32 + 27)).rxKey = some (f op addr).key ∧
      (tHostMsg op addr).dst = pkgOfPa addr ∧ (s.pkgAt 0).filtered (tHostMsg op addr).exp = false ∧
      (s.pkgAt 0).partial_ = [] ∧ s.mappable (s.forwardPa 0x2000) = true ∧ s.mappable (s.forwardPa (0x2000 + 7)) = true ∧
      (s.pkgAt 0).allows 27 0x2000 8 op = true ∧ (s.pkgAt 0).allows 27 0x2008 8 op = false) ∧
    (let s := tHost []
     (s.pkgAt 0).powered = true ∧ ((s.pkgAt 0).link (32 + 27)).txKey = some 7 ∧
     ((s.pkgAt 0).link (32 + 27)).switchDue 1 = false ∧ 0 < s.hostCredits 0 27 ∧
     ((s.pkgAt 0).link (32 + 27)).counter < 2 ^ 48 - 1) ∧
    ((tState.pkgAt 0).link (32 + 27)).txKey = none ∧ (tState.pkgAt 0).powered = true ∧
    (pkgOfPa 0xB2C000000 = 0 ∧ inFirmware (0xB2C000000 % 2 ^ 45) = true) ∧ inFirmware 0x2000 = false ∧ pkgOfPa (2 ^ 45) ≠ 0 ∧
    (State.reset.pkgAt 0).bootStep < 5 ∧ 5 ≤ (tState.pkgAt 0).bootStep := by decide +kernel

/-- The partition with its fields changed. -/
def tPart (f : Partition → Partition) : State := { tState.updPart 0 f with cycle := 3500000 }

def tImage : Image :=
  { threads := [(0, tThread)], cores := [], quads := [], chains := [], barriers := [], mem := [], tags := [], seams := [],
    poison := [] }

theorem test_meets_partitionEvents_states : (tState.partAt 0).st = .run ∧ (mapGet tState.parts 0).isSome = true ∧
    (let s := tPart (fun x => { x with st := .halting })
     (s.partAt 0).st = .halting ∧ (s.partAt 0).quiesced = false ∧ s.retry = [] ∧ s.atRest 0 = true ∧ (s.partAt 0).saveReq = none) ∧
    (let s := tPart (fun x => { x with st := .saving, saveReq := some 0 })
     (s.partAt 0).st = .saving ∧ s.visitors = [] ∧ s.retry = [] ∧ s.passed 0 2000000 = true) ∧
    ((tPart (fun x => { x with st := .saved, imageValid := true })).partAt 0).imageValid = true ∧
    ((tPart (fun x => { x with st := .saved })).partAt 0).imageValid = false ∧
    (let s := tPart (fun x => { x with st := .restoring, image := some tImage })
     (s.partAt 0).image = some tImage ∧ mapRising tImage.threads = true ∧ (∀ e ∈ tImage.threads, s.tagLive e.2.ex = true) ∧
     (∀ e ∈ tImage.cores ++ s.cores, e.2.cpQ = [] ∧ e.2.cpWait = [] ∧ e.2.cpRun = none) ∧
     s.passed (s.partAt 0).restoreAt 2000000 = true) := by decide +kernel

theorem test_meets_partitionEvents_watchdog :
    (let s := tPart (fun x => { x with wdEn := true, wdPeriod := 1 })
     (s.partAt 0).st = .run ∧ s.stalled 0 = none ∧ s.partThreads 0 ≠ [] ∧ s.passed (s.partAt 0).wdAt (1 * 1000000) = true ∧
     s.hang 0 = some (1, 0)) ∧
    (tState.partAt 0).wdEn = false := by decide +kernel

theorem test_meets_partitionEvents_bringUp : State.reset.canonical ∧ (mapGet tState.parts 1 = none ∧ (0x1000 : Nat) % 4096 = 0 ∧
    (∀ d ∈ [2, 3], (tState.pkgAt (d / 4)).bootStep = 6 ∧ (tState.dieAt d).part = none) ∧
    (State.reset.pkgAt 127).powered = false ∧
    (let s := tP (fun p => { p with bootStep := 1 })
     (s.pkgAt 0).powered = true ∧ (s.pkgAt 0).bootStep = 1 ∧ (s.dieAt 0).fwRuns = false ∧ (s.dieAt (0 * 4 + 0)).log.length < 4096) ∧
    (let s := tP (fun p => { p with bootStep := 3 })
     (s.pkgAt 0).bootStep = 3 ∧ s.linksKeyed 0 = false) ∧
    (let links := trainedPorts.map (fun j => (j, { Link.reset with txKey := some 7 }))
     let s := (tP (fun p => { p with bootStep := 3, links := links })).updPkg 1 (fun p => { p with links := links })
     (s.pkgAt 0).bootStep = 3 ∧ s.linksKeyed 0 = true) ∧ (tState.mappable 0x2000 = true ∧ tState.mappable (0x2000 + 3820) = true ∧
      tState.calm = true) ∧
    ((tP (fun p => { p with bootStep := 5 })).pkgAt 0).bootStep = 5) :=
  ⟨test_meets_canonical.1, by decide +kernel⟩

/-- An image of zeros stands in an empty staging area; one with a body does not. -/
theorem test_meets_partitionEvents_staged :
    (tState.pkgAt 0).stages { kind := 0, svn := 0, size := 0, digest := 0, sige := 0, sigm := 0, body := [] } = true ∧
    (tState.pkgAt 0).stages { kind := 0, svn := 0, size := 1, digest := 0, sige := 0, sigm := 0, body := [1] } = false := by
  decide +kernel

/-- An image of another kind is not accepted, whatever its digest and signatures are. -/
theorem test_meets_partitionEvents_image :
    imageAccepted { kind := 1, svn := 0, size := 0, digest := 0, sige := 0, sigm := 0, body := [] } 0 = false := by
  simp [imageAccepted]

/-! ## Ill-formed terms and refused words -/

/-- Terms that no encoding gives (R84 to R93): each fails its check, and has no word. -/
theorem test_illFormed1 : ∀ i ∈ ([
    .bfxImm true (.g 1) (.g 2) 0 0, .bfxImm true (.g 1) (.g 2) 63 2,
    .sel (.g 1) (.g 2) (.imm (.i27 0)) (.g 4), .fadd .i32 (.g 1) (.g 2) (.g 3),
    .fclass .tw8 (.g 1) (.g 2), .fcvt .i64 .i32 false false (.g 1) (.g 2),
    .fcvt .f32 .f64 true false (.g 1) (.g 2), .fcvt .e4m3 .f32 false false (.g 1) (.g 2),
    .br .eq false (.g 1) (.g 2) 2, .j96 1,
    .ld false true .d none (.g 1) (.g 2) 0, .ld false false .d (some .core) (.g 1) (.g 2) 0,
    .st false .b (some .die) (.g 1) 0 (.g 2), .lds .ig false .w (some .core) (.g 1) (.g 2) 0,
    .sts .ig .w (some .core) (.g 1) 0 (.g 2), .amo .add false .h none (.g 1) (.g 2) 0 (.g 3),
    .amo .add true .d none (.g 1) (.g 2) 0 (.g 3), .cas .b none (.g 1) (.g 2) 0 (.g 3) (.g 4),
    .cmo .cl .ipath (.g 1) 0 (.g 2), .vld .f64 0 (.g 1) 0 0,
    .vgath .i16 0 (.g 1) 0 1 0, .vspill (.g 1) 0 0 0,
    .vadd .i32 0 1 (.reg 2) 0, .vadd .bf16 0 1 (.imm 0x10000) 0,
    .vmin true .f32 0 1 (.reg 2) 0, .vsgn .cpy .i8 0 1 2 0,
    .vexp2 .e5m2 0 1 0, .viadd true false .i32 0 1 (.reg 2) 0,
    .vimul .f32 0 1 (.reg 2) 0, .vand .i4 0 1 (.reg 2) 0] : List Instr), i.wf = false ∧ encode i = none := by
  decide +kernel

theorem test_illFormed2 : ∀ i ∈ ([
    .vcvt .i8 .i16 false false 0 1 0 0, .vcvt .f32 .i8 false false 0 1 4 0,
    .vcvt .f32 .f16 true false 0 1 0 0, .vsetc .eq false .i32 0 1 (.reg 2) 0,
    .vsel .f64 0 1 2 0 0, .vred .max false true .f32 (.g 1) 0 0,
    .vscan .add true false .i32 0 1 0, .vperm .e2m1 0 1 2 0,
    .vext true .f32 (.g 1) 0 (.g 2), .vidx .f32 0 .zr 0,
    .vtopk .f32 63 0 1 (.g 1) 0, .vtopk .i32 0 1 0 (.g 1) 0,
    .kand 0 1 2, .kmov 0 1,
    .mma .f32 .f32 false 0 (.g 1) (.g 2) 8 0 0, .mma .e4m3 .e4m3 false 0 (.g 1) (.g 2) 4 0 0,
    .mma .bf16 .bf16 false 0 (.g 1) (.g 2) 260 0 0, .mma .bf16 .bf16 false 0 (.g 1) (.g 2) 4 1 0,
    .mxst .i8 true (.g 1) 0 0, .mxflg 0 0,
    .bjoin .core 0 (.g 1), .rfillArm .zr,
    .cpy .copy none false false (some .core) (.g 1) (.g 2) (.g 3) (.g 4) 0, .cpy .copy (some .f32) false false none (.g 1) (.g 2) (.g 3) (.g 4) 0,
    .cpy .add (some .i8) false false none (.g 1) (.g 2) (.g 3) (.g 4) 1, .cpyRfg false (some .pod) (.g 1) (.g 2) (.g 3),
    .kvapp false false (some .pod) (.g 1) (.g 2) (.g 3), .coll .ar false false none 0 1 (.g 1),
    .cbuf .sum .i8 0 (.g 1), .gmmaskK 0 (.g 1) (.g 2),
    .swr 0x020 (.g 1)] : List Instr), i.wf = false ∧ encode i = none := by
  decide +kernel

/-- Why a word is refused. -/
def tWhy (w : IWord) : Option Bad := match decode w with
  | .ok _ => none
  | .error b => some b

/-- A word of each kind that R93 refuses, and LEN 0b11 (R81). -/
theorem test_refusals :
    tWhy 0x00000000000000000000000000000000 = some (.illegal .reservedMajor) ∧
    tWhy 0x00000000000000000000000000C20468 = some (.illegal .reservedMajor) ∧
    tWhy 0x00000000000000000000000000020445 = some (.illegal .lengthNotPermitted) ∧
    tWhy 0x00000000000000000000000100C20404 = some (.illegal .reservedSub) ∧
    tWhy 0x000000000000000000000000D0C20480 = some (.illegal .reservedType) ∧
    tWhy 0x00000000000000000000000090C20480 = some (.illegal .limits) ∧
    tWhy 0x0000000000000000000000A200C20404 = some (.illegal .nonzeroField) ∧
    tWhy 0x0000000000000000000000A000C20404 = some (.illegal .nonzeroField) ∧
    tWhy 0x00000000000000000000000000F00404 = some (.illegal .scalarOperand) ∧
    tWhy 0x00000000000000000000000000812280 = some (.illegal .maskOperand) ∧
    tWhy 0x00000000000000000000000000810280 = some (.illegal .limits) ∧
    tWhy 0x000000000000000000000000000012CC = some (.illegal .accumulatorOperand) ∧
    tWhy 0x00000000000000000000001800000118 = some (.illegal .scopeCode) ∧
    tWhy 0x000000000000000000000040008100C0 = some (.illegal .limits) ∧
    tWhy 0x00000000000000000000000000000003 = some .illegalLength := by decide +kernel

/-! ## Results of one instruction, from the reference's own examples -/

/-- `g5` and `fcsr` after an instruction on `g1`, `g2` and `g3`. -/
def tRes (i : Instr) (fcsr : BitVec 10) (a b c : Word) : Word × BitVec 10 :=
  let t := (after i (tT (fun t => { t with g := ((tG.set 1 a).set 2 b).set 3 c, fcsr := fcsr }))).thr
  (t.g.get 5, t.fcsr)

/-- The examples of `FADD`, `FSUB`, `FDIV`, `FMUL` and `FSQRT` (R290). -/
theorem test_floatExamples :
    tRes (.fadd .bf16 (.g 5) (.g 1) (.g 2)) 0 0x3F80 0x3B80 0x0 = (0x3F80, 0x40) ∧
    tRes (.fadd .bf16 (.g 5) (.g 1) (.g 2)) 2 0x3F80 0x3B80 0x0 = (0x3F81, 0x42) ∧
    tRes (.fsub .f32 (.g 5) (.g 1) (.g 2)) 3 0x3F800000 0x3F800000 0x0 = (0x80000000, 0x3) ∧
    tRes (.fdiv .f32 (.g 5) (.g 1) (.g 2)) 0 0x3F800000 0x80000000 0x0 = (0xFF800000, 0x8) ∧
    tRes (.fmul .f16 (.g 5) (.g 1) (.g 2)) 0 0x7C00 0x0 0x0 = (0x7E00, 0x4) ∧
    tRes (.fsqrt .f16 (.g 5) (.g 1)) 1 0x8000 0x0 0x0 = (0x8000, 0x1) := by decide +kernel

/-- The examples of `FCVT` (R293, R294). -/
theorem test_conversionExamples :
    tRes (.fcvt .i32 .f32 false false (.g 5) (.g 1)) 0 0x40200000 0x0 0x0 = (0x2, 0x40) ∧
    tRes (.fcvt .i32 .f32 false false (.g 5) (.g 1)) 2 0x40200000 0x0 0x0 = (0x3, 0x42) ∧
    tRes (.fcvt .i32 .f32 false false (.g 5) (.g 1)) 3 0xC0200000 0x0 0x0 = (0xFFFFFFFFFFFFFFFD, 0x43) ∧
    tRes (.fcvt .i32 .f32 false false (.g 5) (.g 1)) 0 0x4F800000 0x0 0x0 = (0x7FFFFFFF, 0x4) ∧
    tRes (.fcvt .i32 .f32 true true (.g 5) (.g 1)) 0 0x4F800000 0x0 0x0 = (0xFFFFFFFF, 0x0) ∧
    tRes (.fcvt .f16 .f32 false false (.g 5) (.g 1)) 0 0x477FF000 0x0 0x0 = (0x7C00, 0x50) ∧
    tRes (.fcvt .f16 .f32 false true (.g 5) (.g 1)) 0 0x477FF000 0x0 0x0 = (0x7BFF, 0x50) := by decide +kernel

/-- The examples of `FMAX` and `FMIN` (R295). -/
theorem test_selectionExamples :
    tRes (.fmax .f32 (.g 5) (.g 1) (.g 2)) 0 0x80000000 0x0 0x0 = (0x0, 0x0) ∧
    tRes (.fmin .f32 (.g 5) (.g 1) (.g 2)) 0 0x80000000 0x0 0x0 = (0x80000000, 0x0) ∧
    tRes (.fmax .f32 (.g 5) (.g 1) (.g 2)) 0 0x7FC00000 0x3F800000 0x0 = (0x3F800000, 0x0) ∧
    tRes (.fmax .f32 (.g 5) (.g 1) (.g 2)) 0 0x7FA00000 0x3F800000 0x0 = (0x3F800000, 0x4) ∧
    tRes (.fmin .f32 (.g 5) (.g 1) (.g 2)) 0 0x7FA00000 0xFFC00001 0x0 = (0x7FC00000, 0x4) := by decide +kernel

/-- Field operations (R276), and corners of R267, R281 and R285 by hand. -/
theorem test_integerExamples :
    tRes (.bfxImm true (.g 5) (.g 1) 8 4) 0 0xA5F0 0x0 0x0 = (0x5, 0x0) ∧
    tRes (.bfxImm false (.g 5) (.g 1) 4 4) 0 0xA5F0 0x0 0x0 = (0xFFFFFFFFFFFFFFFF, 0x0) ∧
    tRes (.add (.g 5) (.g 1) (.reg (.g 2))) 0 0xFFFFFFFFFFFFFFFF 0x2 0x0 = (0x1, 0x0) ∧
    tRes (.mulh false (.g 5) (.g 1) (.reg (.g 2))) 0 0xFFFFFFFFFFFFFFFF 0xFFFFFFFFFFFFFFFF 0x0 = (0x0, 0x0) ∧
    tRes (.mulh true (.g 5) (.g 1) (.reg (.g 2))) 0 0xFFFFFFFFFFFFFFFF 0xFFFFFFFFFFFFFFFF 0x0 = (0xFFFFFFFFFFFFFFFE, 0x0) ∧
    tRes (.sar (.g 5) (.g 1) (.reg (.g 2))) 0 0x8000000000000000 0x41 0x0 = (0xC000000000000000, 0x0) ∧
    tRes (.div false (.g 5) (.g 1) (.reg (.g 2))) 0 0x8000000000000000 0xFFFFFFFFFFFFFFFF 0x0 = (0x8000000000000000, 0x0) ∧
    tRes (.rem false (.g 5) (.g 1) (.reg (.g 2))) 0 0xFFFFFFFFFFFFFFF9 0x3 0x0 = (0xFFFFFFFFFFFFFFFF, 0x0) ∧
    tRes (.min false (.g 5) (.g 1) (.reg (.g 2))) 0 0xFFFFFFFFFFFFFFFF 0x0 0x0 = (0xFFFFFFFFFFFFFFFF, 0x0) ∧
    tRes (.min true (.g 5) (.g 1) (.reg (.g 2))) 0 0xFFFFFFFFFFFFFFFF 0x0 0x0 = (0x0, 0x0) ∧
    tRes (.clz (.g 5) (.g 1)) 0 0x1 0x0 0x0 = (0x3F, 0x0) ∧
    tRes (.ctz (.g 5) (.g 1)) 0 0x0 0x0 0x0 = (0x40, 0x0) ∧
    tRes (.bfi (.g 5) (.g 1) (.g 2) (.g 3)) 0 0xFFFFFFFFFFFFFFFF 0x0 0x204 = (0xFFFFFFFFFFFFF00F, 0x0) ∧
    tRes (.setc .lt true (.g 5) (.g 1) (.reg (.g 2))) 0 0xFFFFFFFFFFFFFFFF 0x0 0x0 = (0x0, 0x0) ∧
    tRes (.setc .lt false (.g 5) (.g 1) (.reg (.g 2))) 0 0xFFFFFFFFFFFFFFFF 0x0 0x0 = (0x1, 0x0) := by decide +kernel

/-- `v2` and `k2` after an instruction on `v0` and `v1`, all lanes of 32 bits. -/
def tVec (i : Instr) (a b : Nat → Nat) : Vec × Mask :=
  let v (f : Nat → Nat) : Vec := BitVec.ofNat 2048 (((List.range 64).map (fun j => f j * 2 ^ (32 * j))).sum)
  let t := (after i (tT (fun t => { t with v := (t.v.set 0 (v a)).set 1 (v b), g := tG.set 4 1 }))).thr
  (t.v.get 2, t.k.get 2)

/-- `VSLIDE` with 1 in `g4`: lane 0 receives lane 1 of the low part, lane 63 lane 0 of the high part (R346). -/
theorem test_vslide : lane 32 (tVec (.vslide .f32 2 0 1 (.g 4) 0) (fun j => j) (fun j => 100 + j)).1 0 = 1 ∧
    lane 32 (tVec (.vslide .f32 2 0 1 (.g 4) 0) (fun j => j) (fun j => 100 + j)).1 63 = 100 := by decide +kernel

/-- `VADD.f32` with the immediate 2.0 (R337), and only in the lanes of `k1` = 0xF. -/
theorem test_vadd : lane 32 (tVec (.vadd .f32 2 0 (.imm 0x40000000) 1) (fun _ => 0x3F800000) (fun _ => 0)).1 3 = 0x40400000 ∧
    lane 32 (tVec (.vadd .f32 2 0 (.imm 0x40000000) 1) (fun _ => 0x3F800000) (fun _ => 0)).1 4 = 0 := by decide +kernel

/-- The index is taken modulo 64 in `VPERM` (R346). -/
theorem test_vperm : lane 32 (tVec (.vperm .i32 2 0 1 0) (fun j => j + 7) (fun j => j + 65)).1 0 = 8 := by decide +kernel

/-- `VSETC` compares signed, unsigned under `.z` (R349). -/
theorem test_vsetc : ((tVec (.vsetc .lt false .i32 2 0 (.reg 1) 0) (fun _ => 0xFFFFFFFF) (fun j => j)).2).getLsbD 0 = true ∧
    ((tVec (.vsetc .lt true .i32 2 0 (.reg 1) 0) (fun _ => 0xFFFFFFFF) (fun j => j)).2).getLsbD 0 = false := by decide +kernel

/-- Philox-4x32-10 with key and counter 0, as its authors publish it (R347 gives the rounds). -/
theorem test_vrand : let x := (after (.vrand 2 .zr .zr .zr 0) tState).thr.v.get 2
    (lane 32 x 0, lane 32 x 1, lane 32 x 2, lane 32 x 3) = (0x6627E8D5, 0xE169C58D, 0xBC57AC4C, 0x9B00DBD8) := by decide +kernel

/-- `TRAP 5` enters the handler: cause, argument, pc and mode (R222, R225). -/
theorem test_trap : let t := (after (.trap 5) tState).thr
    t.pc = 0x8000 ∧ t.mode = .super ∧ t.pmode = .user ∧ t.trapent = true ∧ t.tcause = 0x19 ∧ t.tinfo = 5 ∧ t.tpc = 0x10000 := by
  decide +kernel

/-- The first step after reset with `ADD g5, zr, 3` of the annotated listing placed runs it. -/
theorem test_step : (match step (State.reset.withFetchWord 64 0x00000062003F1404) with
    | .next t => t.thr.g.get 5
    | _ => 0) = 3 := by decide +kernel

/-! ## Premises and conclusions of the statement of completion -/

/-- The instruction completes, and the thread goes on after it. -/
def tEnds (s : State) (i : Instr) : Bool :=
  match exec i s with
  | .next t => t.cur == s.cur && (t.thread? s.cur).isSome && t.thr.park.isNone && t.thr.trapent == s.thr.trapent &&
      t.thr.hold.isNone && t.thr.pc == s.thr.pc + BitVec.ofNat 64 (instrLen i)
  | _ => false

theorem test_meets_orderingCompletes : tState.readable [.g 1, .g 2, .g 8] = true ∧ Sc.isI (.g 3) = false ∧ tState.fresh = true ∧
    tState.calm = true ∧ tState.visitors = [] ∧ tState.noCleans ∧
    (∃ p, tState.reach { rd := true, fe := true } (tState.sc (.g 1) + BitVec.ofInt 64 (0 : BitVec 27).toInt) = .ok p ∧
      (tState.homeAnswers p.pa && tState.tagAt p.pa && decide ((tState.sc (.g 2)).toNat ≤ tState.readN p.pa 8)) = true) ∧
    (∃ p, tState.reach { wr := true, fe := true } (tState.sc (.g 1) + BitVec.ofInt 64 (0 : BitVec 27).toInt) = .ok p ∧
      tState.homeAnswers p.pa = true) ∧
    ((tState.sc (.g 1) + 0).toNat % 8 = 0 ∧ (tState.sc (.g 8)).toNat % 64 = 0 ∧ tState.sc (.g 8) ≠ 0 ∧ (tState.pkgAt 0).pegs = []) ∧
    ([.fence .pod, .fbar, .acq none (.g 3) (.g 1) 0 (.g 2), .unbind (.g 1) 0, .rel none (.g 1) 0 (.g 2),
      .bind none (.g 1) 0 (.g 8) (.g 8), .cmo .cl .hbm (.g 1) 0 (.g 8)] : List Instr).all (tEnds tState) = true := by
  refine ⟨?_, ?_, ?_, ?_, ?_, noCleans_meets ?_, ok_meets ?_, ok_meets ?_, ?_, ?_⟩ <;> decide +kernel

theorem test_meets_vectorCompletes : (Instr.vred .add false false .f32 (.g 1) 1 1).wf = true ∧
    (Instr.vscan .add false false .f32 2 1 1).wf = true ∧ tState.thr.fcsr.toNat / 128 = 0 ∧
    tState.vreadyFor [] [2] [1] 1 = true ∧ (Instr.vtopk .f32 14 0 4 (.g 8) 1).wf = true ∧
    ([.vred .add false false .f32 (.g 1) 1 1, .vscan .add false false .f32 2 1 1, .vperm .i16 2 0 1 1, .vslide .i16 2 0 1 (.g 8) 1,
      .vbcast .f32 2 (.g 8) 1, .vidx .i32 2 (.g 8) 1, .vext true .i32 (.g 1) 0 (.g 2), .vins .i32 2 (.g 1) (.g 2),
      .vrand 2 (.g 1) (.g 2) (.g 3) 1, .vtopk .f32 14 0 4 (.g 8) 1] : List Instr).all (tEnds tState) = true := by decide +kernel

/-- The scalar floating-point class, and vector accesses of memory, the gathers at offset 0. -/
theorem test_meets_floatAndVectorAccessesComplete : (tState.readable [.g 1, .g 2, .g 3] = true ∧ Sc.isI (.g 5) = false ∧
    ETy.isScalarFp .f32 = true ∧ ETy.isFcvt .i32 = true ∧ ETy.isFcvt .f64 = true ∧ tState.thr.fcsr.toNat / 128 = 0 ∧ tState.fresh = true ∧
    tState.calm = true ∧ ETy.isVecAny .f32 = true ∧ ETy.isLane32 .f32 = true ∧
    (tState.sc (.g 1) + BitVec.ofInt 64 (0 : BitVec 27).toInt).toNat % max 1 (ETy.bits .f32 / 8) = 0 ∧
    tState.vreadyFor [.g 1] [3] [] 1 = true ∧ tState.vreadyFor [.g 1] [] [3] 1 = true ∧ tState.vreadyFor [.g 1] [3] [2] 1 = true ∧
    tState.vreadyFor [.g 1] [] [3, 2] 1 = true ∧ (∀ j < 64, lane 32 (tState.thr.v.get 2) j = 0) ∧
    ([.fadd .f32 (.g 5) (.g 1) (.g 2), .fsub .f32 (.g 5) (.g 1) (.g 2), .fmul .f32 (.g 5) (.g 1) (.g 2),
      .ffma .f32 (.g 5) (.g 1) (.g 2) (.g 3), .fdiv .f32 (.g 5) (.g 1) (.g 2), .fsqrt .f32 (.g 5) (.g 1),
      .fmin .f32 (.g 5) (.g 1) (.g 2), .fmax .f32 (.g 5) (.g 1) (.g 2), .fsetc .le .f32 (.g 5) (.g 1) (.g 2),
      .fcvt .i32 .f64 true true (.g 5) (.g 1), .fclass .f32 (.g 5) (.g 1), .fsgn .xor .f32 (.g 5) (.g 1) (.g 2),
      .vld .f32 3 (.g 1) 0 1, .vst .f32 (.g 1) 0 3 1, .vgath .f32 3 (.g 1) 0 2 1, .vscat .f32 (.g 1) 0 3 2 1] : List Instr).all
      (tEnds tState) = true) ∧
    tState.spans loadA (tState.sc (.g 1) + BitVec.ofInt 64 (0 : BitVec 27).toInt) 0x2000 256
      (fun j => (tState.thr.mask 1).getLsbD (j / max 1 (ETy.bits .f32 / 8))) ∧
    tState.spans storeA (tState.sc (.g 1) + BitVec.ofInt 64 (0 : BitVec 27).toInt) 0x2000 256
      (fun j => (tState.thr.mask 1).getLsbD (j / max 1 (ETy.bits .f32 / 8))) ∧
    (∃ p, tState.reach loadA (tState.sc (.g 1) + BitVec.ofInt 64 (0 : BitVec 27).toInt) = .ok p ∧ tState.atHome p = true) ∧
    (∃ p, tState.reach storeA (tState.sc (.g 1) + BitVec.ofInt 64 (0 : BitVec 27).toInt) = .ok p ∧ tState.atHome p = true) :=
  ⟨by decide +kernel, spans_meets (by decide +kernel), spans_meets (by decide +kernel), ok_meets (by decide +kernel),
    ok_meets (by decide +kernel)⟩

/-- A registration of 256 bytes, which completes. -/
theorem test_meets_unitsComplete_buffers :
    let s := tBuf.setThr { tBuf.thr with g := tG.set 5 0x2040 }
    let x (o l : Nat) : Nat := s.readN (0x2040 + o) l
    (s.readable [.g 5] = true ∧ s.fresh = true ∧ s.calm = true ∧ x 44 20 = 0 ∧ x 8 8 = 256 ∧ x 0 8 % 4096 = 0 ∧ x 40 4 = 0 ∧
    CbufOp.sum ≠ .smerge ∧ 2 ≤ (membersOf (BitVec.ofNat 128 (x 16 16))).length ∧ (membersOf (BitVec.ofNat 128 (x 16 16))).length ≤ 64 ∧
    (BitVec.ofNat 128 (x 16 16)).getLsbD 0 = true ∧ mapGet (s.pkgAt 0).nbufs (1023 : BitVec 10).toNat = none ∧ x 32 8 % 8 = 0 ∧
    tEnds s (.cbuf .sum .f32 1023 (.g 5)) = true) ∧
    s.spans loadA (s.sc (.g 5)) 0x2040 64 (fun _ => true) ∧
    (∃ p, s.reach loadA (BitVec.ofNat 64 (x 0 8)) = .ok p ∧ (placeOf p.pa == .hbm 0 0x5000 && pkgOfPa p.pa == 0 &&
      placeOf (p.pa + 255) == .hbm 0 (0x5000 + 255) && decide (p.va + 256 ≤ p.leaf.vbase + p.leaf.size)) = true) ∧
    (∃ q, s.reach loadA (BitVec.ofNat 64 (x 32 8)) = .ok q ∧ (q.leaf.fe && pkgOfPa q.pa == 0) = true) := by
  refine ⟨?_, spans_meets ?_, ok_meets ?_, ok_meets ?_⟩ <;> decide +kernel

theorem test_meets_unitsComplete_queues : tState.readable [.g 1, .g 2, .g 3, .g 8] = true ∧ tState.kreadable [1, 2, 3] = true ∧ Sc.isI (.g 1) = false ∧
    tState.calm = true ∧ (tState.coreAt 0).mxQ = [] ∧ (tState.coreAt 0).mxRun = none ∧ (tState.coreAt 0).mxWait = [] ∧
    tState.fresh = true ∧ ((tState.coreAt 0).acc.get 3).poison = false ∧ tState.thr.mask 2 = 0 ∧ (tState.quadAt 0).later = [] ∧
    (tState.quadAt 0).tasks = [] ∧ (tState.quadAt 0).posts = [] ∧ tState.readN 0x2040 64 = 0 ∧
    ([.mxzero 3 1, .mxwait 0, .mxflg 1 3, .mxbeg, .evset 1, .evclr 1, .evwait 2, .task true (.g 2) (.g 1) 64 1 2] :
      List Instr).all (tEnds tState) = true ∧
    tEnds (tT (fun t => { t with chain := true })) .mxend = true ∧
    tEnds (tT (fun t => { t with mail := [okMail collAccepted] })) (.coll .ar true true none 7 0 (.g 1)) = true := by
  decide +kernel

/-- A token of class 2, which only moves; the context's stack is empty. -/
def tGmMove : State := (tGm []).setThr { tThread with g := ((tG.set 5 15).set 6 2).set 7 0 }

theorem test_meets_unitsComplete_grammar : tGmMove.readable [.g 5, .g 6] = true ∧ tGmMove.fresh = true ∧ tGmMove.calm = true ∧
    (tGmMove.quadAt 0).gmQ = [] ∧ (tGmMove.quadAt 0).gmCache = [] ∧ (tGmMove.sc (.g 5)).toNat = (15 : Fin 16).val ∧
    ((tGmMove.quadAt 0).ctxs.get 15).stack = [] ∧ (tGmMove.quadAt 0).grammar = some tGram ∧
    (tGmMove.readN 0x5004 2 = 2 ∧ tGmMove.readN 0x5108 4 < tGram.nstate) ∧
    ([.gmstepRst (.g 1) (.g 5), .gmstep (.g 1) (.g 5) (.g 6), .gmmask 2 (.g 5) (.g 7), .gmmaskK 2 (.g 5) (.g 6)] :
      List Instr).all (tEnds tGmMove) = true ∧
    tEnds ({ tState with mem := [(0x2058, 16), (0x205C, 2), (0x205E, 3), (0x2060, 2), (0x2062, 64)] }.setThr
      { tThread with g := tG.set 5 0x2040 }) (.gmload (.g 5)) = true := by decide +kernel

theorem test_meets_unitsComplete_copies :
    let s := tCopy.setThr { tCopy.thr with g := (tG.set 5 0x2040).set 6 0x2080 }
    s.fresh = true ∧ (s.coreAt 0).cpQ = [] ∧ (s.coreAt 0).cpRun = none ∧ (s.coreAt 0).cpWait = [] ∧ (s.sc (.g 1)).toNat % 32 = 0 ∧
    ([.cpy .copy none true true none (.g 8) (.g 8) (.g 8) (.g 1) 0, .cpyRfg true none (.g 4) (.g 8) (.g 1),
      .cpyRfv true none 2 (.g 8) (.g 1), .cpgb true true none (.g 8) (.g 5) (.g 1) 0, .kvapp true true none (.g 6) (.g 8) (.g 1),
      .cpwait (.g 4) (.g 1)] : List Instr).all (tEnds s) = true := by decide +kernel

theorem test_meets_threadUnitsComplete : tState.readable [.zr, .g 8, .g 14] = true ∧ tState.fresh = true ∧ tState.calm = true ∧
    ((tState.sc .zr).toNat = tState.core ∧ (tState.sc (.g 8)).toNat < 128 ∧ (tState.pkgAt 0).member = true ∧
      (tState.partOfCore 0).isSome = true ∧ (tState.dieAt 0).forward = []) ∧
    ((tState.entry 0 1).st = .free ∧ tState.cur < 2 ^ 23) ∧ (tState.coreAt 0).growQ = [] ∧
    (tState.barrierAt (barKey .die 0 15) = { members := [], arrived := [], count := none, since := [] }) ∧
    (tSuper.sc (.g 6) ++ tSuper.sc (.g 5) : BitVec 128) = defaultSlotTab ∧
    ([.rfillArm (.g 2), .rfillArm .zr, .rfillSend false .zr (.g 8) (.g 2), .exnew (.g 1) (.g 3), .bjoin .die 15 (.g 2),
      .grow true (.g 1) 8, .growReg false (.g 1) (.g 14), .shrink (.g 1) 8, .shrinkReg (.g 1) (.g 14)] :
      List Instr).all (tEnds tState) = true ∧
    tEnds (tStream 0) (.sbind 0 (.g 1) 64) = true ∧ tEnds (tT (fun t => { t with ports := [(0, tPort 0)] })) (.sfree 0) = true ∧
    tEnds (tBar .die (some 4) [1] []) (.bleave .die 15) = true ∧
    ([.slotw (.g 5) (.g 6), .exset .zr, .exchk (.g 1) .zr, .exfree .zr, .exjoin (.g 1) .zr .zr] : List Instr).all (tEnds tSuper) =
      true := by decide +kernel
end Sys2Proof.Machine
end

section
/-! SUPPORT. Every operation on the pod keeps memory in its canonical form (`State.canonical`): a lemma per operation,
from the bytes up to `step`. `h.op : (s.op …).canonical` is read off `h : s.canonical`; a meaning written in the monad
has `Keeps`. -/
namespace Sys2Proof.Machine

theorem mem_of_mapGet {α : Type} {m : List (Nat × α)} {n : Nat} {v : α} (h : mapGet m n = some v) : (n, v) ∈ m := by
  induction m with
  | nil => cases h
  | cons a m ih =>
    obtain ⟨k, w⟩ := a
    rw [mapGet_cons] at h
    split at h
    · next hk => cases h; subst hk; exact List.mem_cons_self
    · exact List.mem_cons_of_mem _ (ih h)

namespace State.canonical

variable {s t : State}

/-! ## Composition -/

section

variable {cycle cur nextUid nextSeq : Nat} {turns : List Turn} {threads : List (Nat × Thread)}
  {cores : List (Nat × Core)} {quads : List (Nat × Quad)} {dies : List (Nat × Die)} {pkgs : List (Nat × Pkg)}
  {barriers : List (Nat × Barrier)} {chains : List (Nat × List Vec)} {retry : List Waiter} {mem slice : List Host.Cell}
  {visitors : List (Nat × VLine)} {dirs : List (Nat × Dir)} {tags poison : List Nat} {seams : List (Nat × BitVec 16)}

/-- A change of bytes that no image sees, whatever becomes of the parts of the pod that are not looked at. -/
theorem bytes (h : s.canonical) (hm : Memory.wf mem = true) (hl : ∀ c ∈ slice, isHbm c.1 = true) :
    State.canonical { s with
      cycle, turns, cur, nextUid, nextSeq, threads, cores, quads, dies, pkgs, barriers, chains, retry, mem, slice,
      visitors, dirs, tags, seams, poison } :=
  ⟨hm, h.2.1, hl⟩

/-- Only memory, the home slices and the partitions are looked at. -/
theorem same (h : s.canonical) :
    State.canonical { s with
      cycle, turns, cur, nextUid, nextSeq, threads, cores, quads, dies, pkgs, barriers, chains, retry, visitors, dirs,
      tags, seams, poison } :=
  h.bytes h.1 h.2.2

end

theorem foldl {α : Type} (h : s.canonical) {l : List α} {f : State → α → State}
    (hf : ∀ u a, u.canonical → (f u a).canonical) : (l.foldl f s).canonical := by
  induction l generalizing s with
  | nil => exact h
  | cons a l ih => exact ih (hf s a h)

theorem ite (h : s.canonical) {c : Prop} {_ : Decidable c} (ht : t.canonical) : (if c then s else t).canonical := by
  split
  · exact h
  · exact ht

theorem ite_fst {α : Type} {a b : State × α} (ha : a.1.canonical) {c : Prop} {_ : Decidable c} (hb : b.1.canonical) :
    (if c then a else b).1.canonical := by
  split
  · exact ha
  · exact hb

theorem of_pair {α : Type} {p : State × α} (h : p.1.canonical) {a : α} (e : p = (t, a)) : t.canonical := by
  simpa only [e] using h

theorem pair {α : Type} (h : s.canonical) {a : α} : (s, a).1.canonical := h

/-! ## Parts of the pod -/

theorem setCore (h : s.canonical) {c : Nat} {x : Core} : (s.setCore c x).canonical := h
theorem updCore (h : s.canonical) {c : Nat} {f : Core → Core} : (s.updCore c f).canonical := h
theorem setQuad (h : s.canonical) {q : Nat} {x : Quad} : (s.setQuad q x).canonical := h
theorem updQuad (h : s.canonical) {q : Nat} {f : Quad → Quad} : (s.updQuad q f).canonical := h
theorem setDie (h : s.canonical) {d : Nat} {x : Die} : (s.setDie d x).canonical := h
theorem updDie (h : s.canonical) {d : Nat} {f : Die → Die} : (s.updDie d f).canonical := h
theorem setPkg (h : s.canonical) {p : Nat} {x : Pkg} : (s.setPkg p x).canonical := h
theorem updPkg (h : s.canonical) {p : Nat} {f : Pkg → Pkg} : (s.updPkg p f).canonical := h
theorem setThread (h : s.canonical) {k : Nat} {x : Thread} : (s.setThread k x).canonical := h
theorem setThr (h : s.canonical) {x : Thread} : (s.setThr x).canonical := h
theorem logError (h : s.canonical) {d : Nat} {e : LogEnt} : (s.logError d e).canonical := h

theorem updThread (h : s.canonical) {k : Nat} {f : Thread → Thread} : (s.updThread k f).canonical := by
  unfold State.updThread
  split <;> exact h

/-- The image of an entry of the partition table. -/
theorem image (h : s.canonical) {p : Nat} {im : Image} (hi : (s.partAt p).image = some im) :
    Memory.wf im.mem = true := by
  unfold State.partAt at hi
  cases hp : mapGet s.parts p with
  | none => rw [hp] at hi; cases hi
  | some x => rw [hp] at hi; exact h.2.1 _ (mem_of_mapGet hp) im hi

theorem setPart (h : s.canonical) {p : Nat} {x : Partition} (hx : ∀ im, x.image = some im → Memory.wf im.mem = true) :
    (s.setPart p x).canonical := by
  refine ⟨h.1, fun e he im hi => ?_, h.2.2⟩
  rcases mem_mapPut he with rfl | he
  · exact hx im hi
  · exact h.2.1 e he im hi

/-- An update of a partition that leaves its image. -/
theorem updPart (h : s.canonical) {p : Nat} {f : Partition → Partition}
    (hf : (f (s.partAt p)).image = (s.partAt p).image) : (s.updPart p f).canonical :=
  h.setPart fun _ hi => h.image (hf.symm.trans hi)

theorem changeC (h : s.canonical) {c : Nat} {w : CWrite} : (s.changeC c w).canonical := h
theorem putC (h : s.canonical) {c : Nat} {n : Fin 16} {v : Word} : (s.putC c n v).canonical := h

theorem putSc (h : s.canonical) {r : Sc} {v : Word} : (s.putSc r v).canonical := by
  cases r <;> exact h

/-! ## Bytes (R3, R150) -/

theorem slice_filter (h : s.canonical) {p : Host.Cell → Bool} : ∀ c ∈ s.slice.filter p, isHbm c.1 = true :=
  fun c hc => h.2.2 c (List.mem_of_mem_filter hc)

theorem setByte (h : s.canonical) {pa : Nat} {b : Byte} : (s.setByte pa b).canonical := by
  unfold State.setByte
  split
  · next hpa =>
    refine h.bytes h.1 fun c hc => ?_
    rcases mem_mapPut hc with rfl | hc
    · exact hpa
    · exact h.2.2 c hc
  · exact h.bytes (Memory.wf_write h.1 pa b) h.2.2

theorem setBytes (h : s.canonical) {pa n v : Nat} : (s.setBytes pa n v).canonical := by
  induction n generalizing s pa v with
  | zero => exact h
  | succ n ih => exact ih h.setByte

theorem wrote (h : s.canonical) {pa n : Nat} : (s.wrote pa n).canonical := h

theorem homeWrite (h : s.canonical) {pa n v : Nat} : (s.homeWrite pa n v).canonical := by
  unfold State.homeWrite
  exact h.ite h.setBytes.wrote

theorem homeWriteCells (h : s.canonical) {l : List Host.Cell} : (s.homeWriteCells l).canonical :=
  h.foldl fun _ _ hu => hu.homeWrite

theorem writeCells (h : s.canonical) {l : List Host.Cell} : (s.writeCells l).canonical :=
  (h.homeWriteCells (l := l)).same

theorem flushSpan (h : s.canonical) {pa n : Nat} : (s.flushSpan pa n).canonical :=
  h.bytes (Memory.wf_writeBack h.1 _) h.slice_filter

theorem setTag (h : s.canonical) {pa : Nat} {full : Bool} : (s.setTag pa full).canonical := h

theorem setSeam (h : s.canonical) {pa : Nat} {v : BitVec 16} : (s.setSeam pa v).canonical := by
  unfold State.setSeam
  exact ite (same h) (same h)

theorem clearStore (h : s.canonical) {core lo hi : Nat} : (s.clearStore core lo hi).canonical :=
  h.bytes (Memory.wf_clear h.1 _ _) h.2.2

theorem fillVisitor (h : s.canonical) {die line : Nat} {d : BitVec 512} {b : Bool} :
    (s.fillVisitor die line d b).canonical := h

theorem cleanVisitor (h : s.canonical) {die line : Nat} : (s.cleanVisitor die line).canonical := by
  unfold State.cleanVisitor
  dsimp only
  split
  · exact h
  · exact ite h.writeCells.same h.writeCells.same

theorem dropVisitor (h : s.canonical) {die line : Nat} : (s.dropVisitor die line).canonical := h

theorem cleanSlice (h : s.canonical) {line : Nat} : (s.cleanSlice line).canonical :=
  h.bytes (Memory.wf_writeBack h.1 _) h.slice_filter

theorem dropSlice (h : s.canonical) {line : Nat} : (s.dropSlice line).canonical :=
  h.bytes h.1 h.slice_filter

theorem putByte (h : s.canonical) {core : Nat} {p : Phys} {b : Byte} : (s.putByte core p b).canonical := by
  unfold State.putByte
  split
  · have hs : ∀ o : Option VLine, State.canonical (match o with
      | some _ => s
      | none => s.fillVisitor (dieOfCore core) (p.pa / 64) (s.homeLine (p.pa / 64)) (s.poisoned (p.pa / 64 * 64) 64)) :=
      fun o => by cases o <;> exact h
    dsimp only
    split
    · exact (hs _).same
    · exact hs _
  · exact ite (homeWrite (same h)).flushSpan (homeWrite (same h))

/-! ## Traps (R222, R226) -/

theorem lookAt (h : s.canonical) {l : List Nat} : (s.lookAt l).canonical := h

theorem frameStore (h : s.canonical) {core : Nat} {va v : Word} {bad : Bool} (ht : s.frameStore core va v bad = .ok t) :
    t.canonical := by
  unfold State.frameStore at ht
  split at ht
  · cases ht
  · split at ht
    · cases ht
    · cases ht
      exact (h.foldl fun _ _ hu => hu.putByte).same

theorem doubleFault (h : s.canonical) {tid : Nat} {tr : Trap} : (s.doubleFault tid tr).canonical := by
  unfold State.doubleFault
  split <;> exact h

theorem enterTrap (h : s.canonical) {tid : Nat} {what : Option Latched} {tr : Trap} :
    (s.enterTrap tid what tr).canonical := by
  unfold State.enterTrap
  split
  · exact h
  · dsimp only
    refine h.setThread.doubleFault.ite ?_
    split
    · exact h.setThread.doubleFault
    · next h2 =>
      have h2 := h.setThread.frameStore h2
      split
      · exact h2.doubleFault
      · next h3 => exact (h2.frameStore h3).updThread

theorem takeTrap (h : s.canonical) {tid : Nat} {what : Option Latched} {tr : Trap} :
    (s.takeTrap tid what tr).canonical := by
  unfold State.takeTrap
  split
  · exact h
  · exact h.ite (h.doubleFault.ite (h.setThread.ite h.enterTrap))

/-! ## The end of an instruction -/

theorem progress (h : s.canonical) {core : Nat} : (s.progress core).canonical := by
  unfold State.progress
  split
  · exact h.updPart rfl
  · exact h

theorem retire (h : s.canonical) {len : Nat} {nx : Next} : (s.retire len nx).canonical := by
  unfold State.retire
  split
  · exact h.progress
  · exact h.setThr.progress

theorem parkHere (h : s.canonical) {i : Instr} {p : Park} : (s.parkHere i p).canonical := h

theorem undraw (h : s.canonical) : s.undraw.canonical := by
  refine h.foldl fun u a hu => ?_
  split
  · exact hu
  · split <;> exact hu

theorem undrawSince (h : s.canonical) {u : State} : (s.undrawSince u).canonical := h.ite h.undraw

theorem parkBegun (h : s.canonical) {i : Instr} {p : Park} {ops : List (Sc × Word)} : (s.parkBegun i p ops).canonical :=
  h.parkHere.undraw.setThr

end State.canonical

/-! ## The monad of the meanings -/

/-- The state in which a meaning ends, whether it completes or stops. -/
def endState {ε α : Type} : EStateM.Result ε State α → State
  | .ok _ s => s
  | .error _ s => s

/-- Memory stays in its canonical form, however the meaning ends. -/
def Keeps {ε α : Type} (x : EStateM ε State α) : Prop := ∀ s : State, s.canonical → (endState (x s)).canonical

/-- The same for an instruction or an event that has a next state. -/
def KeepsNext (x : State → Host.Outcome State Fault Refusal) : Prop :=
  ∀ s t : State, s.canonical → x s = .next t → t.canonical

namespace Keeps

variable {ε α β : Type} {x : EStateM ε State α}

theorem ok (h : Keeps x) {s t : State} {a : α} (hs : s.canonical) (he : x s = .ok a t) : t.canonical := by
  simpa [he, endState] using h s hs

theorem error (h : Keeps x) {s t : State} {e : ε} (hs : s.canonical) (he : x s = .error e t) : t.canonical := by
  simpa [he, endState] using h s hs

theorem pure {a : α} : Keeps (Pure.pure a : EStateM ε State α) := fun _ h => h

theorem throw {e : ε} : Keeps (MonadExcept.throw e : EStateM ε State α) := fun _ h => h

theorem bind (hx : Keeps x) {f : α → EStateM ε State β} (hf : ∀ a, Keeps (f a)) : Keeps (x >>= f) := by
  intro s hs
  have h := hx s hs
  show (endState (EStateM.bind x f s)).canonical
  unfold EStateM.bind
  split
  · next he => rw [he] at h; exact hf _ _ h
  · next he => rw [he] at h; exact h

theorem map (hx : Keeps x) {f : α → β} : Keeps (f <$> x) := by
  intro s hs
  have h := hx s hs
  show (endState (EStateM.map f x s)).canonical
  unfold EStateM.map
  split
  · next he => rw [he] at h; exact h
  · next he => rw [he] at h; exact h

/-- What follows a reading of the state starts in a state that is canonical, and may put it back. -/
theorem get {f : State → EStateM ε State α} (hf : ∀ s, s.canonical → Keeps (f s)) : Keeps (MonadState.get >>= f) :=
  fun s hs => hf s hs s hs

theorem set {s : State} (h : s.canonical) : Keeps (MonadStateOf.set s : EStateM ε State PUnit) := fun _ _ => h

theorem modified {f : State → State} (hf : ∀ s, s.canonical → (f s).canonical) :
    Keeps (modify f : EStateM ε State PUnit) := hf

theorem ite {y : EStateM ε State α} (hx : Keeps x) {c : Prop} {_ : Decidable c} (hy : Keeps y) :
    Keeps (if c then x else y) := by
  split
  · exact hx
  · exact hy

theorem forM {l : List α} {f : α → EStateM ε State PUnit} (hf : ∀ a, Keeps (f a)) : Keeps (l.forM f) := by
  induction l with
  | nil => exact pure
  | cons a l ih => exact bind (hf a) fun _ => ih

theorem mapM_mem {l : List α} {f : α → EStateM ε State β} (hf : ∀ a ∈ l, Keeps (f a)) : Keeps (l.mapM f) := by
  induction l with
  | nil => exact pure
  | cons a l ih =>
    rw [List.mapM_cons]
    exact bind (hf a List.mem_cons_self) fun _ => bind (ih fun b hb => hf b (List.mem_cons_of_mem _ hb)) fun _ => pure

theorem foldlM {l : List α} {f : β → α → EStateM ε State β} (hf : ∀ b a, Keeps (f b a)) {b : β} :
    Keeps (l.foldlM f b) := by
  induction l generalizing b with
  | nil => exact pure
  | cons a l ih => exact bind (hf b a) fun _ => ih

theorem mapM {l : List α} {f : α → EStateM ε State β} (hf : ∀ a, Keeps (f a)) : Keeps (l.mapM f) :=
  mapM_mem fun a _ => hf a

end Keeps

namespace KeepsNext

/-- An instruction whose own operation keeps memory in its canonical form does so with its checks and its end. -/
theorem run {i : Instr} {u : Uses} {body : M Next} (hb : Keeps body) : KeepsNext (run i u body) := by
  intro s t h ht
  rcases run_cases ht with ⟨_, _, _, rfl⟩ | ⟨_, _, rfl⟩ | ⟨_, _, _, e, rfl⟩ | ⟨_, _, _, _, e, rfl⟩ | ⟨_, _, _, e, rfl⟩
  · exact h.takeTrap
  · exact h.parkHere
  · exact (hb.ok h e).retire
  · exact ((hb.error h e).undrawSince.ite h).takeTrap
  · exact (hb.error h e).parkBegun

theorem event {f : State → State} (hf : ∀ s, s.canonical → (f s).canonical) : KeepsNext (event f) := by
  intro s t h ht
  cases ht
  exact hf s h

end KeepsNext

end Sys2Proof.Machine
end

section
/-! SUPPORT. Messages, frames and keys keep memory in its canonical form. -/
namespace Sys2Proof.Machine

namespace State.canonical

variable {s t : State} {pkg port core die line key uid lo hi pa n k : Nat} {w : Waiter} {q : Req} {rep : Reply}

/-! ## Messages and frames (R199 to R208) -/

theorem assign (h : s.canonical) {xs ys zs : List Nat} : (s.assign xs ys zs).canonical :=
  h.foldl fun _ _ hu => hu.updPkg.ite hu

theorem send (h : s.canonical) {m : Msg} : (s.send m).canonical := h.updPkg.ite h.updPkg

theorem sendOn (h : s.canonical) {m : Msg} : (s.sendOn pkg port m).canonical := h

theorem flitArrives (h : s.canonical) {f : Flit} : (s.flitArrives pkg port f).canonical :=
  h.ite (h.updPkg.ite h.updPkg)

theorem countDrop (h : s.canonical) : (s.countDrop pkg port n).canonical := h.ite h.updPkg

theorem updLink (h : s.canonical) {f : Link → Link} : (s.updLink pkg port f).canonical := h

theorem frameSlots (h : s.canonical) {l : List Nat} {room : Nat} {acc : List Flit} :
    (frameSlots port l pkg room s acc).1.canonical := by
  induction l generalizing s room acc with
  | nil => exact h
  | cons e l ih =>
    unfold Machine.frameSlots
    split
    · exact h
    · split
      · exact ih h
      · dsimp only
        split
        · exact ih h.updPkg
        · exact ih h.updPkg

theorem nextFrame (h : s.canonical) : (s.nextFrame pkg port).1.canonical := h.frameSlots

theorem doFrameSend (h : s.canonical) : (doFrameSend pkg port s).canonical := by
  unfold Machine.doFrameSend
  dsimp only
  split
  · exact h
  · exact h.ite (h.nextFrame.ite (h.nextFrame.updLink.ite h.nextFrame.updLink.updPkg))

theorem badFrame (h : s.canonical) : (s.badFrame pkg port).canonical :=
  h.updLink.logError.ite h.updLink

theorem doKeyStage (h : s.canonical) {key : BitVec 256} : (doKeyStage pkg port key s).canonical := h

theorem doKeySwitch (h : s.canonical) : (doKeySwitch pkg port s).canonical := by
  unfold Machine.doKeySwitch
  dsimp only
  split
  · exact h
  · exact h.updLink.ite h

theorem doKeyExhaustion (h : s.canonical) : (doKeyExhaustion pkg port s).canonical := h.updLink.logError.ite h

theorem doFlitQueueTimeout (h : s.canonical) : (doFlitQueueTimeout pkg port s).canonical :=
  h.foldl fun _ _ hu => hu.ite hu.updPkg.countDrop

theorem doPatternTableWrite (h : s.canonical) {entry : Nat} {v : BitVec 8} :
    (doPatternTableWrite pkg port entry v s).canonical :=
  h.ite (h.updPkg.updPkg.logError.ite h.updPkg)

theorem doFanOutEntryWrite (h : s.canonical) {v : Fan} : (doFanOutEntryWrite pkg n v s).canonical := h.updPkg.ite h

theorem doHostWindowWrite (h : s.canonical) {v : Window} : (doHostWindowWrite pkg port n v s).canonical :=
  h.updPkg.ite h

theorem request (h : s.canonical) {dst epoch limit cls va : Nat} {who : Who} {exp : Tag} {pc : Word}
    {ins : Option Instr} (ht : s.request core dst who k epoch q exp limit pc ins cls va = some t) : t.canonical := by
  unfold State.request at ht
  split at ht
  · cases ht
  · cases ht
    exact h.updCore.send

end State.canonical

namespace Keeps

theorem raiseFlags {fl : Nat} : Keeps (raiseFlags fl) := by
  intro s h
  unfold Machine.raiseFlags
  dsimp only
  split <;> exact h.setThr

end Keeps

end Sys2Proof.Machine
end

section
/-! SUPPORT. What a home does with a request keeps memory in its canonical form. -/
namespace Sys2Proof.Machine

namespace State.canonical

variable {s t : State} {pkg port core die line key uid lo hi pa n k : Nat} {w : Waiter} {q : Req} {rep : Reply}

/-! ## Answers -/

theorem redirty (h : s.canonical) {cells : List Host.Cell} : (s.redirty die line cells).canonical := by
  unfold State.redirty
  dsimp only
  split <;> exact h

theorem uncleaned (h : s.canonical) : (s.uncleaned core k q).canonical := h.redirty.ite h

theorem mailTo (h : s.canonical) {who : Who} {m : Mail} : (s.mailTo who m).canonical := by
  unfold State.mailTo
  split
  · split
    · exact (h.uncleaned.ite h).updThread
    · exact h
  · exact h
  · exact h
  · exact h

theorem recordReplay (h : s.canonical) {rtag gen : Nat} : (s.recordReplay pkg core rtag gen rep).canonical := h

theorem answer (h : s.canonical) : (s.answer pkg w rep).canonical := (h.recordReplay.ite h).send.ite h.mailTo

theorem sendReply (h : s.canonical) : (s.sendReply pkg w rep).canonical := h.send

/-! ## A request on memory (R164 to R166) -/

theorem fill (h : s.canonical) {slot : Option Nat} {reg : Nat} {v : Word} : (s.fill core slot reg v).1.canonical := by
  unfold State.fill
  split
  · split
    · split <;> exact h
    · exact h
  · exact h

theorem perform (h : s.canonical) : (s.perform q).1.canonical := by
  unfold State.perform
  split
  · split
    · exact h
    · exact h.setTag.ite h
  · split
    · exact h
    · exact h.homeWrite.ite h.homeWrite.setTag
  · split <;> exact h
  · exact h.fill
  · exact h

theorem settle (h : s.canonical) : (s.settle q).canonical := (h.foldl fun _ _ hu => hu.flushSpan).ite h

theorem dropDirs (h : s.canonical) : (s.dropDirs q).canonical := h

theorem askHandler (h : s.canonical) {hc : Nat} : (s.askHandler w line hc).canonical := h.updCore.ite h.updCore

theorem askLines (h : s.canonical) {l : List Nat} (ht : s.askLines l = some t) : t.canonical := by
  obtain ⟨_, _, rfl⟩ := Option.map_eq_some_iff.mp ht
  exact h.askHandler

/-! ## Retry lists -/

theorem examineOne (h : s.canonical) (ht : s.examineOne n = some t) : t.canonical := by
  unfold State.examineOne at ht
  split at ht
  · cases ht
  · dsimp only at ht
    split at ht
    · cases ht; exact (h.same).askHandler
    · cases ht; exact (h.same).dropDirs.perform.settle.answer

theorem examine (h : s.canonical) : (s.examine n).canonical := by
  unfold State.examine
  generalize s.retry.length = fuel
  induction fuel generalizing s with
  | zero => exact h
  | succ m ih =>
    unfold State.examine.go
    split
    · next h1 => exact ih (h.examineOne h1)
    · exact h

theorem list (h : s.canonical) : (s.list w).1.canonical := by
  unfold State.list
  dsimp only
  split <;> exact h

/-! ## Expiry entries, barriers and peg bindings -/

theorem setEx (h : s.canonical) {x : Tag} {e : ExEnt} : (s.setEx x e).canonical := h

theorem sendWave (h : s.canonical) {x : Tag} : (s.sendWave x pkg).canonical := h.send

theorem lapse (h : s.canonical) {x : Tag} : (s.lapse x).canonical := h.setEx.foldl fun _ _ hu => hu.sendWave.ite hu

theorem reachAdd (h : s.canonical) {x : Tag} : (s.reachAdd x pkg).canonical :=
  h.ite (h.setEx.ite h.setEx.sendWave)

theorem exReq (h : s.canonical) : (s.exReq q).1.canonical := by
  unfold State.exReq
  split
  · dsimp only
    split
    · exact h
    · split
      · exact h
      · split
        · exact h
        · exact h.reachAdd
  · dsimp only
    split
    · exact h
    · split <;> exact h
  · dsimp only
    split
    · exact h
    · split
      · exact h
      · split
        · exact h.setEx.lapse
        · exact h
        · exact h
        · exact h
  · dsimp only
    split
    · exact h
    · split
      · exact h
      · exact h.reachAdd
  · exact h.reachAdd
  · exact h

theorem barrierDone (h : s.canonical) : (s.barrierDone key).canonical := h.updCore.ite h

theorem barrierCheck (h : s.canonical) : (s.barrierCheck key).canonical := by
  unfold State.barrierCheck
  exact ite (barrierDone ((h.same).foldl fun _ _ hu => hu.answer)) h

theorem depart (h : s.canonical) : (s.depart key uid).canonical := by
  unfold State.depart
  exact ite (barrierCheck h.same) h

theorem barReq (h : s.canonical) {op : BarOp} : (s.barReq w key uid op).1.canonical := by
  unfold State.barReq
  cases op with
  | join c => dsimp only; split <;> exact h
  | arrive =>
    dsimp only
    split
    · exact h
    · exact barrierCheck h.same
  | leave =>
    dsimp only
    split
    · exact h.depart
    · exact h

theorem pegReq (h : s.canonical) : (s.pegReq q).1.canonical := by
  unfold State.pegReq
  split
  · split <;> exact h
  · dsimp only
    split
    · split
      · exact h
      · split <;> exact h
    · split <;> exact h
  · exact h
  · exact h

/-! ## A request at its home -/

theorem applyBase (h : s.canonical) : (s.applyBase w).1.canonical := by
  unfold State.applyBase
  refine ite_fst h ?_
  generalize w.req.base = r
  cases r with
  | rd | probe => exact h
  | wr => exact ite_fst h (h.writeCells.foldl fun _ _ hu => hu.examine)
  | amo => exact ite_fst h h.homeWrite.examine
  | cas => exact ite_fst h (h.homeWrite.examine.ite h)
  | line => exact ite_fst h (pair (h.homeWrite.foldl fun _ _ hu => hu.examine))
  | popFree => exact ite_fst h (ite_fst h (ite_fst h (ite_fst h h.homeWrite.examine.pair)))
  | pegWr => exact ite_fst h h.homeWrite.setTag.examine
  | feLd | feSt =>
    dsimp only
    split
    · exact h.perform.examine
    · split
      · exact h
      · exact h.list
  | peg | rfill =>
    dsimp only
    split
    · exact h.perform
    · exact h.list
  | bindGet | bindAdd | bindRm => exact h.pegReq
  | bar => exact h.barReq
  | spawn | migr => exact ite_fst h.updCore h.updCore
  | exSet | exChk | exFree | exParent | note | unc | seam => exact h.exReq

theorem tagLine (h : s.canonical) {o : Option Reply} : (s.tagLine q o).canonical := by
  unfold State.tagLine
  split
  · exact h.setSeam.ite h
  · exact h

theorem applyAt (h : s.canonical) : (s.applyAt w).1.canonical := h.applyBase.settle.tagLine

theorem powerUp (h : s.canonical) : (s.powerUp pa).canonical := by
  unfold State.powerUp
  split
  · exact h.ite h.updCore
  · exact h

theorem coherent (h : s.canonical) : (s.coherent w).1.canonical := by
  unfold State.coherent
  split
  · exact h.dropDirs.applyAt
  · exact h.askHandler

theorem applyReq (h : s.canonical) : (s.applyReq w).1.canonical := by
  unfold State.applyReq
  split
  · exact h.applyAt
  · split
    · split <;> exact h
    · exact h.powerUp.coherent

/-! ## Cleaning and withdrawal -/

theorem examineSpan (h : s.canonical) : (s.examineSpan lo n).canonical := h.foldl fun _ _ hu => hu.examine.ite hu

theorem emptyStore (h : s.canonical) : (s.emptyStore core lo hi).canonical := h.clearStore.examineSpan

theorem cleanHome (h : s.canonical) : (s.cleanHome die line).canonical :=
  (ite (same h) h).cleanVisitor.examineSpan

theorem dropCleans (h : s.canonical) {l : List OutReq} : (s.dropCleans core l).canonical :=
  h.foldl fun _ _ hu => hu.uncleaned.updDie

theorem withdrawReqs (h : s.canonical) {gone : OutReq → Bool} {keep : MqMsg → Bool} :
    (s.withdrawReqs uid gone keep).canonical :=
  same (((h.foldl fun _ _ hu => hu.dropCleans).foldl fun _ _ hu => hu.uncleaned).foldl fun _ _ hu => hu.uncleaned)

theorem withdraw (h : s.canonical) : (s.withdraw uid).canonical := h.withdrawReqs

theorem unbegin (h : s.canonical) : (s.unbegin uid).canonical := (h.withdrawReqs).same

end State.canonical

end Sys2Proof.Machine
end

section
/-! SUPPORT. The meanings of the accesses by page home keep memory in its canonical form. -/
namespace Sys2Proof.Machine

/-! ## Registers and translation -/

namespace Keeps

variable {α : Type} {n k : Nat} {va : Word} {acc : Access} {p : Phys} {i : Option Instr} {req : Req}

theorem raise : Keeps (raise n : M α) := throw
theorem raiseAt {c a i : Nat} : Keeps (raiseAt c a i : M α) := throw
theorem raiseT {e : Trap} : Keeps (raiseT e : M α) := throw
theorem park {e : Park} : Keeps (park e : M α) := throw
theorem rdS {r : Sc} : Keeps (rdS r) := fun _ h => h
theorem wrS {r : Sc} {v : Word} : Keeps (wrS r v) := fun _ h => h.putSc
theorem rdK {r : KReg} : Keeps (rdK r) := fun _ h => h
theorem wrK {r : KReg} {v : Mask} : Keeps (wrK r v) := fun _ h => h
theorem getThr : Keeps getThr := fun _ h => h
theorem updThr {f : Thread → Thread} : Keeps (updThr f) := fun _ h => h

theorem ofExcept {e : Except Trap α} : Keeps (ofExcept e) := by
  intro s h
  unfold Machine.ofExcept
  split <;> exact h

theorem trans : Keeps (trans acc va) := by
  intro s h
  unfold Machine.trans
  split <;> exact h

end Keeps

/-! ## Questions to a home (R147, R202) -/

theorem State.canonical.ask {s : State} (h : s.canonical) {a : Asker} {k epoch home : Nat} {req : Req} {pk : Park} :
    (s.ask a k epoch home req pk).1.canonical := by
  unfold State.ask
  split
  · exact h
  · refine ite_fst h (ite_fst h ?_)
    split
    · have hr := h.applyReq (w := mkWaiter s a k epoch req)
      split
      · next e => rw [e] at hr; exact hr
      · next e => rw [e] at hr; exact hr
      · next e =>
        rw [e] at hr
        split <;> exact hr
    · split
      · next e => exact h.request e
      · exact h

namespace Keeps

variable {α : Type} {n k line die : Nat} {va : Word} {acc : Access} {p : Phys} {i : Option Instr} {req : Req}
variable {cells : List Host.Cell} {act : M α}

theorem rpcFor {epoch home va : Nat} {pk : Park} : Keeps (rpcFor k epoch home req va pk) := by
  intro s h
  have ha := h.ask (a := { s.thrAsker with va := va }) (k := k) (epoch := epoch) (home := home) (req := req) (pk := pk)
  unfold Machine.rpcFor
  split
  · next e => rw [e] at ha; exact ha
  · next e => rw [e] at ha; exact ha
  · next e =>
    rw [e] at ha
    split <;> exact ha

theorem rpc {home va : Nat} : Keeps (rpc k home req va) := rpcFor

theorem waitOverlap {pa : Nat} : Keeps (waitOverlap pa n) := fun _ h => by
  unfold Machine.waitOverlap
  split <;> exact h

theorem waitAcks : Keeps waitAcks := fun _ h => by
  unfold Machine.waitAcks
  split <;> exact h

theorem acquired : Keeps acquired := updThr

theorem fenceAt {sc : Option Scope} : Keeps (fenceAt sc) := by
  cases sc
  · exact fun _ h => h
  · exact waitAcks

/-! ## Loads and stores -/

theorem visitorLine : Keeps (visitorLine k p) := by
  intro s h
  unfold Machine.visitorLine
  dsimp only
  split
  · exact h
  · split
    · next e => exact (rpcFor.ok h e).fillVisitor
    · next e => exact rpcFor.error h e

end Keeps

theorem State.canonical.share {s : State} (h : s.canonical) {core : Nat} {p : Phys} : (s.share core p).canonical := by
  unfold State.share
  dsimp only
  split
  · refine h.ite (ite (same h) ?_)
    split
    · exact h.same
    · exact (h.same).updCore
  · exact h

namespace Keeps

variable {α : Type} {n k line die : Nat} {va : Word} {acc : Access} {p : Phys} {i : Option Instr} {req : Req}
variable {cells : List Host.Cell} {act : M α}

theorem shareM : Keeps (shareM p) := fun _ h => h.share

theorem loadN : Keeps (loadN k p n) :=
  .bind .waitOverlap fun _ => .get fun _ _ => .ite
    (.bind .visitorLine fun _ => .get fun _ _ => .ite .raiseAt .pure)
    (.bind .rpc fun _ => .bind .shareM fun _ => .pure)

theorem postStore : Keeps (postStore k p n req i) := by
  intro s h
  unfold Machine.postStore
  dsimp only
  split
  · exact h
  · split
    · exact h
    · split
      · exact h
      · next e => exact (h.request e).setThr

theorem storeCells {post : Bool} : Keeps (storeCells post k p n cells i) :=
  .bind .waitOverlap fun _ => .get fun _ _ => .ite
    (.ite .pure (.ite
      (.bind .pure fun _ => .get fun _ _ => .ite .raiseAt (.modified fun _ hu => hu.same.setThr))
      (.bind .visitorLine fun _ => .get fun _ _ => .ite .raiseAt (.modified fun _ hu => hu.same.setThr))))
    (.ite .postStore (.bind .rpc fun _ => .pure))

theorem storeN {v : Nat} : Keeps (storeN k p n v i) := storeCells

theorem storePoison : Keeps (storePoison k p cells) :=
  .get fun _ _ => .ite .pure (.ite (.bind .visitorLine fun _ => .get fun _ _ => .ite .raiseAt .pure)
    (.bind .rpc fun _ => .pure))

theorem tryM (ha : Keeps act) : Keeps (tryM act) := by
  intro s h
  unfold Machine.tryM
  split
  · next e => exact ha.ok h e
  · next e => exact ha.error h e
  · next e => exact ha.error h e

theorem firstFault {rs : List (Except Trap α)} {β : Type} {x : M β} (hx : Keeps x) :
    Keeps (match firstFault rs with | some t => Machine.raiseT t | none => x) := by
  cases Machine.firstFault rs
  · exact hx
  · exact raiseT

theorem checkEach {β : Type} {l : List β} {f : β → M Unit} (hf : ∀ b, Keeps (f b)) : Keeps (checkEach (l.map f)) := by
  refine .bind (.mapM_mem fun x hx => .tryM ?_) fun _ => .firstFault .pure
  obtain ⟨b, _, rfl⟩ := List.mem_map.mp hx
  exact hf b

theorem loadEach {l : List (Nat × Phys × Nat)} : Keeps (loadEach l) :=
  .bind (.mapM fun _ => .tryM .loadN) fun _ => .firstFault .pure

theorem loadPoison : Keeps (loadPoison p n) := fun _ h => by
  unfold Machine.loadPoison
  dsimp only
  split <;> split <;> exact h

theorem cowCheck : Keeps (cowCheck p) := .ite .raiseAt .pure

end Keeps

end Sys2Proof.Machine
end

section
/-! SUPPORT. Visitor lines, cleans and pegs: the rest of the accesses keep memory in its canonical form. -/
namespace Sys2Proof.Machine

variable {s t : State}
variable {line n die pa v : Nat} {va : Word}

theorem State.canonical.patchVisitor (h : s.canonical) : (s.patchVisitor die pa n v).canonical := by
  unfold State.patchVisitor
  dsimp only
  split
  · exact h.updDie.ite h
  · exact h.same

theorem State.canonical.patchFrom (h : s.canonical) {core : Nat} : (s.patchFrom core pa n).canonical := h.patchVisitor
theorem Keeps.patch : Keeps (patch pa n) := fun _ h => h.patchFrom

theorem Keeps.transBytes {acc : Access} {va : Word} {n : Nat} : Keeps (transBytes acc va n) := by
  induction n generalizing va with
  | zero => exact .pure
  | succ n ih => exact .bind .trans fun _ => .bind ih fun _ => .pure

theorem Keeps.loadVa {x : Access} : Keeps (loadVa x va n) :=
  .ite (.bind .trans fun _ => .loadN) (.bind .transBytes fun _ => .bind (.forM fun _ => .loadPoison) fun _ => .bind
    .loadEach fun _ => .pure)

theorem Keeps.storeVa {i : Option Instr} : Keeps (storeVa va n v i) := by
  unfold Machine.storeVa
  refine .ite (.bind .trans fun _ => .storeN) ?_
  exact .bind .transBytes fun _ => .bind (.forM fun _ => .cowCheck) fun _ => .bind (.checkEach fun _ => .storePoison)
    fun _ => .forM fun _ => .storeCells

theorem State.canonical.cleanSentOff (h : s.canonical) : (s.cleanSentOff die line).canonical := by
  unfold State.cleanSentOff
  split
  · exact h.same
  · exact h

theorem Keeps.sendClean {req : Req} : Keeps (sendClean die line req) := by
  intro s h
  unfold Machine.sendClean
  split
  · next e => exact (Keeps.rpc.ok h e).cleanSentOff
  · next e => exact Keeps.rpc.error h e
  · next e => exact (Keeps.rpc.error h e).cleanSentOff
  · next e => exact Keeps.rpc.error h e

theorem Keeps.cleanLine {deep : Bool} : Keeps (cleanLine deep line) := by
  unfold Machine.cleanLine
  refine .get fun _ hu => ?_
  dsimp only
  split
  · exact .bind .rpc fun _ => .updThr
  · split
    · exact .updThr
    · refine .ite .updThr (.ite (.bind .park fun _ => .updThr) (.ite ?_ (.bind .sendClean fun _ => .updThr)))
      split
      · next e => exact .bind (.set (hu.askLines e)) fun _ => .bind .park fun _ => .updThr
      · exact .bind (.modified fun _ hu => hu.cleanHome) fun _ => .updThr

theorem Keeps.onceLine {line : Nat} {act : M Unit} (ha : Keeps act) : Keeps (onceLine line act) :=
  .bind .getThr fun _ => .ite .pure (.bind ha fun _ => .updThr)

theorem Keeps.cleanAll : Keeps (cleanAll line) := .bind .cleanLine fun _ => .get fun _ _ => .ite .cleanLine .pure
theorem Keeps.dropLine : Keeps (dropLine line) := .modified fun _ hu => hu.dropVisitor

theorem Keeps.pegBinding {k : Nat} {p : Phys} {sc : Option Scope} : Keeps (pegBinding k p sc) := by
  unfold Machine.pegBinding
  refine .bind .rpc fun _ => ?_
  split <;> exact .pure

theorem Keeps.onBound {l : List (Nat × Nat)} {f : Nat → M Unit} (hf : ∀ n, Keeps (f n)) : Keeps (onBound l f) := by
  refine .forM fun _ => .forM fun _ => .get fun _ _ => ?_
  split
  · exact .forM fun _ => hf _
  · exact .pure

theorem Keeps.releaseLine : Keeps (releaseLine line) :=
  .onceLine (.bind .cleanLine fun _ => .modified fun _ hu => hu.cleanSlice)

end Sys2Proof.Machine
end

section
/-! SUPPORT. Operands, vector instructions, stream ports and the expiry instructions keep memory in its canonical
form. -/
namespace Sys2Proof.Machine

/-! ## Vector instructions: the operation, then what is left to do once no wait remains -/

/-- A vector instruction's own operation keeps memory in its canonical form, and so does what it leaves to the end. -/
def KeepsV (x : M VOut) : Prop := Keeps x ∧ ∀ s t o, x s = .ok o t → Keeps o.post

namespace KeepsV

theorem pure {o : VOut} (ho : Keeps o.post) : KeepsV (Pure.pure o) :=
  ⟨.pure, fun _ _ _ e => by cases e; exact ho⟩

theorem bind {α : Type} {x : M α} (hx : Keeps x) {f : α → M VOut} (hf : ∀ a, KeepsV (f a)) : KeepsV (x >>= f) := by
  refine ⟨.bind hx fun a => (hf a).1, fun s t o e => ?_⟩
  rw [M.bind_apply] at e
  split at e
  · exact (hf _).2 _ _ _ e
  · cases e

theorem ite {x y : M VOut} (hx : KeepsV x) {c : Prop} {_ : Decidable c} (hy : KeepsV y) :
    KeepsV (if c then x else y) := by
  split
  · exact hx
  · exact hy

/-- An operation that never completes. -/
theorem stop {x : M VOut} (hx : Keeps x) (hn : ∀ s o t, x s ≠ .ok o t) : KeepsV x :=
  ⟨hx, fun s t o e => absurd e (hn s o t)⟩

end KeepsV

variable {s t : State}
variable {v : VReg} {k pkg n index core tid : Nat} {a d : Sc} {va : Word} {α : Type} {p : Port} {x : Access}
variable {i : Option Instr} {tag : Tag}

/-! ## Operands and spans of memory -/

theorem Keeps.rdSrc2 {b : Src2} : Keeps (rdSrc2 b) := by
  cases b
  · exact .rdS
  · exact .pure

theorem Keeps.transSpan : Keeps (transSpan x va n) := by
  unfold Machine.transSpan
  refine .bind .trans fun _ => ?_
  split
  · exact .ite (.bind .trans fun _ => .pure) .pure
  · exact .pure

theorem Keeps.transPieces {x : Access} {l : List (Word × Nat)} : Keeps (transPieces x l) := by
  induction l with
  | nil => exact .pure
  | cons e l ih => exact .bind .transSpan fun _ => .bind ih fun _ => .pure

theorem Keeps.loadPieces {l : List (Phys × Nat)} : Keeps (loadPieces k l) :=
  .bind (.forM fun _ => .loadPoison) fun _ => .bind .loadEach fun _ => .pure

theorem Keeps.storePieces {i : Option Instr} {k v : Nat} {l : List (Phys × Nat)} : Keeps (storePieces k i l v) := by
  induction l generalizing k v with
  | nil => exact .pure
  | cons e l ih => exact .bind .storeN fun _ => ih

theorem Keeps.loadSpan : Keeps (loadSpan k va n) := .bind .transPieces fun _ => .loadPieces

theorem Keeps.storeChecks : Keeps (storeChecks k va n) :=
  .bind .transPieces fun _ => .bind (.forM fun _ => .cowCheck) fun _ => .bind (.checkEach fun _ => .storePoison)
    fun _ => .pure

theorem Keeps.storeSpan {v : Nat} : Keeps (storeSpan k i va n v) := .bind .storeChecks fun _ => .storePieces

theorem State.canonical.putPiece (h : s.canonical) {p : Phys} {cells : List Host.Cell} :
    (s.putPiece core p cells).canonical := by
  unfold State.putPiece
  split
  · dsimp only
    split
    · exact (h.ite h.fillVisitor).same
    · exact h.ite h.fillVisitor
  · exact h.dropDirs.writeCells.settle.foldl fun _ _ hu => hu.examine

theorem Keeps.storeAll {l : List (Phys × Nat × List Host.Cell)} : Keeps (storeAll k i l) := by
  unfold Machine.storeAll
  refine .get fun _ _ => .bind (.forM fun _ => .waitOverlap) fun _ => ?_
  dsimp only
  split
  · exact .forM fun _ => .storeCells
  · refine .ite ?_ ?_
    · exact .bind .rpc fun _ => .forM fun _ => .storeCells
    · exact .bind (.checkEach fun _ => .ite .pure (.bind .rpc fun _ => .pure)) fun _ => .modified fun _ hu => hu.foldl
        fun _ _ hu => hu.putPiece

theorem Keeps.farDone : Keeps (farDone k) := fun _ h => h
theorem Keeps.portMisuse : Keeps (portMisuse : M α) := .raiseAt
theorem Keeps.linearValid : Keeps (linearValid p) := .ite .raiseAt .pure
theorem Keeps.setPort : Keeps (setPort v p) := .updThr

theorem Keeps.feRpc {req : Nat → Req} : Keeps (feRpc k x va req) := by
  unfold Machine.feRpc
  refine .ite ?_ ?_
  · exact .bind .raiseAt fun _ => .bind .trans fun _ => .bind .waitOverlap fun _ => .bind .rpc fun _ => .ite (.bind
      .patch fun _ => .pure) .pure
  · exact .bind .trans fun _ => .bind .waitOverlap fun _ => .bind .rpc fun _ => .ite (.bind .patch fun _ => .pure)
      .pure

theorem Keeps.ringDraw : Keeps (ringDraw v p) :=
  .bind .loadSpan fun _ => .bind .feRpc fun _ => .bind .acquired fun _ => .bind .loadSpan fun _ => .bind .setPort
    fun _ => .park

/-! ## Stream ports -/

theorem Keeps.rdV : Keeps (rdV v) := by
  unfold Machine.rdV
  refine .get fun _ _ => ?_
  dsimp only
  split
  · exact .pure
  · refine .ite .portMisuse (.ite (.bind .linearValid fun _ => ?_) (.ite ?_ ?_))
    · split
      · exact .pure
      · exact .bind .loadSpan fun _ => .pure
    · split
      · exact .pure
      · exact .bind .ringDraw fun _ => .pure
    · split
      · exact .pure
      · split
        · exact .pure
        · exact .bind (.modified fun _ hu => hu.same) fun _ => .bind .setPort fun _ => .pure
        · exact .park

theorem Keeps.prePop : Keeps (prePop v) := by
  unfold Machine.prePop
  refine .bind .getThr fun _ => ?_
  split
  · refine .ite ?_ .pure
    exact .bind .trans fun _ => .bind .waitAcks fun _ => .bind .pegBinding fun _ => .bind (.onBound fun _ =>
      .releaseLine) fun _ => .bind .rpc fun _ => .patch
  · exact .pure

theorem Keeps.commitPop : Keeps (commitPop v) := by
  unfold Machine.commitPop
  refine .get fun _ _ => ?_
  dsimp only
  split
  · exact .pure
  · refine .ite (.bind .linearValid fun _ => .bind .setPort fun _ => ?_) (.ite .setPort (.ite .setPort .pure))
    split
    · exact .ite .pure .wrK
    · exact .pure

theorem Keeps.prePush {before : Nat} : Keeps (prePush before v) := by
  unfold Machine.prePush
  refine .get fun _ _ => ?_
  split
  · exact .pure
  · refine .ite .portMisuse (.ite ?_ (.ite (.bind .loadSpan fun _ => .ite (.bind .waitAcks fun _ => .bind .feRpc
      fun _ => .bind .setPort fun _ => .park) (.ite ?_ ?_)) (.ite .park .pure)))
    · exact .bind .linearValid fun _ => .bind .storeChecks fun _ => .pure
    · exact .bind .feRpc fun _ => .bind .trans fun _ => .bind .pegBinding fun _ => .bind (.onBound fun _ => .dropLine)
        fun _ => .bind .trans fun _ => .bind .storeChecks fun _ => .pure
    · exact .bind .trans fun _ => .bind .storeChecks fun _ => .pure

theorem Keeps.publish {i : Instr} {x : Vec} : Keeps (publish i v x) := by
  unfold Machine.publish
  refine .get fun _ _ => ?_
  split
  · exact .pure
  · refine .ite (.bind .linearValid fun _ => .storeSpan) ?_
    exact .ite (.bind .loadSpan fun _ => .bind .storeSpan fun _ => .bind .waitAcks fun _ => .bind .feRpc fun _ =>
      .pure) .pure

theorem Keeps.commitWrite {x : Vec} : Keeps (commitWrite v x) := by
  unfold Machine.commitWrite
  refine .get fun _ _ => ?_
  split
  · exact .updThr
  · exact .ite .setPort (.ite .setPort (.modified fun _ hu => hu.same))

theorem Keeps.oldV : Keeps (oldV v) := by
  unfold Machine.oldV
  refine .bind .getThr fun _ => ?_
  split
  · exact .pure
  · exact .ite .portMisuse .pure

theorem Keeps.rdVSrc {ty : ETy} {b : VSrc} : Keeps (rdVSrc ty b) := by
  cases b
  · exact .rdV
  · exact .pure

theorem Keeps.vBody {i : Instr} {src : List VReg} {body : M VOut} (hb : KeepsV body) : Keeps (vBody i src body) := by
  intro s h
  have hs := hb.1 s h
  unfold Machine.vBody
  rw [M.bind_apply]
  split
  · next o u e =>
    rw [e] at hs
    refine Keeps.bind .getThr (fun _ => ?_) u hs
    exact .bind (.forM fun _ => .prePush) fun _ => .bind (.forM fun _ => .prePop) fun _ =>
      .bind (.forM fun _ => .publish) fun _ => .bind (.forM fun _ => .commitPop) fun _ =>
        .bind (.forM fun _ => .commitWrite) fun _ => .bind (hb.2 _ _ _ e) fun _ => .pure
  · next e => rw [e] at hs; exact hs

theorem KeepsNext.runV {i : Instr} {u : Uses} {src : List VReg} {body : M VOut} (hb : KeepsV body) :
    KeepsNext (runV i u src body) := .run (.vBody hb)

theorem Keeps.commandFault {reason : Nat} : Keeps (commandFault reason : M α) := .raiseAt

theorem KeepsNext.execSbind {d : VReg} {off : BitVec 27} : KeepsNext (execSbind d a off) := by
  unfold Machine.execSbind
  refine .run (.bind .rdS fun _ => .ite .raiseAt (.bind .trans fun _ => .bind .loadN fun _ => .get fun _ _ => .ite
    .commandFault (.ite .commandFault ?_)))
  exact .ite .commandFault (.ite .commandFault (.ite (.bind .loadVa fun _ => .bind .setPort fun _ => .pure) (.bind
    .pure fun _ => .bind .setPort fun _ => .pure)))

theorem KeepsNext.execSfree {d : VReg} : KeepsNext (execSfree d) := by
  unfold Machine.execSfree
  refine .run (.bind .getThr fun _ => ?_)
  split
  · exact .commandFault
  · exact .ite (.bind .updThr fun _ => .pure) (.bind .waitAcks fun _ => .ite (.bind .park fun _ => .bind .updThr
      fun _ => .pure) (.bind .updThr fun _ => .pure))

theorem State.canonical.doReadAhead (h : s.canonical) : (doReadAhead tid v s).canonical := by
  unfold Machine.doReadAhead
  split
  · exact h
  · split
    · exact h
    · dsimp only
      split
      · exact h
      · split
        · exact h
        · exact h.setThread

theorem KeepsNext.execStreamReadAhead {slot : Nat} : KeepsNext (execStreamReadAhead slot v) :=
  .event fun _ hu => hu.doReadAhead

/-! ## Expiry entries -/

theorem KeepsNext.execExnew : KeepsNext (execExnew d a) := by
  unfold Machine.execExnew
  refine .run (.bind .rdS fun _ => .get fun _ _ => ?_)
  dsimp only
  split
  · exact .raise
  · exact .bind (.modified fun _ hu => hu.setEx) fun _ => .ite (.bind (.modified fun _ hu => hu.lapse) fun _ =>
      .bind .wrS fun _ => .pure) (.bind .wrS fun _ => .pure)

theorem Keeps.joinFault {t : Trap} : Keeps (joinFault tag t : M α) :=
  .bind (.modified fun _ hu => hu.setEx) fun _ => .throw

theorem Keeps.joinParent {tag q : Tag} {part pkg j : Nat} : Keeps (joinParent tag part pkg j q) := by
  refine .get fun _ _ => .ite .joinFault fun s h => ?_
  show (endState (match Machine.rpc _ _ _ _ s with
    | .ok r s1 => .ok r.nat s1
    | .error (.trap t _) s1 => Machine.joinFault tag t s1
    | .error e s1 => .error e s1)).canonical
  split
  · next e => exact Keeps.rpc.ok h e
  · next e => exact Keeps.joinFault _ (Keeps.rpc.error h e)
  · next e => exact Keeps.rpc.error h e

theorem State.canonical.joinDone (h : s.canonical) {vals : List (Tag × Nat)} : (s.joinDone tag vals).canonical :=
  h.setEx.lapse.ite h.setEx

theorem KeepsNext.execExjoin {b : Sc} : KeepsNext (execExjoin d a b) := by
  unfold Machine.execExjoin
  refine .run (.bind .rdS fun _ => .bind .rdS fun _ => .ite .commandFault (.ite (.bind .wrS fun _ => .pure) (.get
    fun _ _ => ?_)))
  dsimp only
  split
  · exact .bind .pure fun _ => .bind (.mapM fun _ => .bind .joinParent fun _ => .pure) fun _ => .bind (.modified
      fun _ hu => hu.joinDone) fun _ => .bind .wrS fun _ => .pure
  · split
    · exact .bind .raise fun _ => .bind (.mapM fun _ => .bind .joinParent fun _ => .pure) fun _ => .bind (.modified
        fun _ hu => hu.joinDone) fun _ => .bind .wrS fun _ => .pure
    · exact .bind (.modified fun _ hu => hu.setEx) fun _ => .bind .pure fun _ => .bind (.mapM fun _ => .bind
        .joinParent fun _ => .pure) fun _ => .bind (.modified fun _ hu => hu.joinDone) fun _ => .bind .wrS fun _ =>
        .pure

theorem Keeps.tagOperand {x : Word} : Keeps (tagOperand x) :=
  .get fun _ _ => .ite .commandFault (.ite .commandFault .pure)

theorem KeepsNext.execExset : KeepsNext (execExset a) :=
  .run (.bind .rdS fun _ => .bind .tagOperand fun _ => .get fun _ _ => .ite (.ite (.bind .commandFault fun _ => .bind
    .updThr fun _ => .pure) (.bind .updThr fun _ => .pure)) (.bind .rpc fun _ => .bind .updThr fun _ => .pure))

theorem KeepsNext.execExchk : KeepsNext (execExchk d a) :=
  .run (.bind .rdS fun _ => .bind .tagOperand fun _ => .get fun _ _ => .ite (.bind .wrS fun _ => .pure) (.bind .rpc
    fun _ => .bind .wrS fun _ => .pure))

theorem KeepsNext.execExfree : KeepsNext (execExfree a) :=
  .run (.bind .rdS fun _ => .bind .tagOperand fun _ => .get fun _ _ => .ite .pure (.bind .rpc fun _ => .pure))

theorem State.canonical.doExpiryLapse (h : s.canonical) : (doExpiryLapse pkg index s).canonical := h.lapse.ite h

theorem State.canonical.doQuarantineExpiry (h : s.canonical) : (doQuarantineExpiry pkg index s).canonical :=
  h.setEx.ite h

theorem State.canonical.doFilterExpiry (h : s.canonical) : (doFilterExpiry pkg s).canonical := h.updPkg
theorem KeepsNext.execExpiryLapse : KeepsNext (execExpiryLapse pkg index) := .event fun _ hu => hu.doExpiryLapse

theorem KeepsNext.execQuarantineExpiry : KeepsNext (execQuarantineExpiry pkg index) :=
  .event fun _ hu => hu.doQuarantineExpiry

theorem KeepsNext.execLapsedTagFilterExpiry : KeepsNext (execLapsedTagFilterExpiry pkg) :=
  .event fun _ hu => hu.doFilterExpiry

/-! ## Fetching -/

theorem State.canonical.codeLine (h : s.canonical) {line : Nat} : (s.codeLine core line).1.canonical := by
  unfold State.codeLine
  split
  · exact h
  · exact h.updCore

theorem State.canonical.codeBlock (h : s.canonical) {pa : Nat} : (s.codeBlock tid pa).1.canonical := by
  unfold State.codeBlock
  split
  · exact h
  · split
    · exact h.updThread
    · exact h.codeLine.updThread

theorem State.canonical.fetch (h : s.canonical) {tid : Nat} : (s.fetch tid).1.canonical := by
  unfold State.fetch
  split
  · exact h
  · split
    · exact h
    · dsimp only
      split
      · exact h
      · split <;> exact h.codeBlock

end Sys2Proof.Machine
end

section
/-! SUPPORT. The memory and matrix classes keep memory in its canonical form. -/
namespace Sys2Proof.Machine

variable {s t : State}
variable {a b d c : Sc} {sc : Option Scope} {core n line pa : Nat} {off : BitVec 27} {va : Word} {wd : Width}
variable {z acq rel visits : Bool} {k : KReg} {i : Instr} {op : CmoOp} {t : ETy} {l : List Phys} {lvl : CmoLvl}
variable {x : Access} {tag : BitVec 16}

/-! ## The memory class -/

theorem Keeps.misaligned {α : Type} : Keeps (misaligned va : M α) := .raiseAt

theorem Keeps.loadBody {off : Word} : Keeps (loadBody acq z n d a off) :=
  .bind .rdS fun _ => .ite .misaligned (.bind .loadVa fun _ => .ite (.bind .acquired fun _ => .bind .wrS fun _ =>
    .pure) (.bind .wrS fun _ => .pure))

theorem Keeps.storeBody {off : Word} : Keeps (storeBody i rel n a off b) := by
  unfold Machine.storeBody
  refine .bind .rdS fun _ => .bind .rdS fun _ => .ite .misaligned (.ite ?_ ?_)
  · exact .bind .trans fun _ => .bind .waitAcks fun _ => .bind .storeVa fun _ => .ite (.bind .waitAcks fun _ => .pure)
      .pure
  · exact .bind .storeVa fun _ => .ite (.bind .waitAcks fun _ => .pure) .pure

theorem KeepsNext.execLd : KeepsNext (execLd acq z wd sc d a off) := .run .loadBody
theorem KeepsNext.execSt : KeepsNext (execSt rel wd sc a off b) := .run .storeBody

theorem KeepsNext.execLds {m : LdMode} : KeepsNext (execLds m z wd sc d a off) := by
  unfold Machine.execLds
  refine .run (.ite .loadBody ?_)
  exact .bind .rdS fun _ => .ite .misaligned (.bind .trans fun _ => .bind .waitOverlap fun _ => .bind .rpc fun _ =>
    .bind .acquired fun _ => .bind .wrS fun _ => .pure)

theorem KeepsNext.execSts {m : StMode} : KeepsNext (execSts m wd sc a off b) := by
  unfold Machine.execSts
  refine .run (.ite .storeBody ?_)
  exact .bind .rdS fun _ => .bind .rdS fun _ => .ite .misaligned (.bind .trans fun _ => .bind .waitAcks fun _ => .bind
    .rpc fun _ => .bind .patch fun _ => .pure)

theorem KeepsNext.execAmo {op : AmoOp} : KeepsNext (execAmo op z wd sc d a off b) := by
  unfold Machine.execAmo
  refine .run (.bind .rdS fun _ => .bind .rdS fun _ => .ite .misaligned ?_)
  exact .bind .trans fun _ => .bind .fenceAt fun _ => .bind .waitOverlap fun _ => .bind .rpc fun _ => .bind .patch
    fun _ => .ite (.bind .acquired fun _ => .bind .wrS fun _ => .pure) (.bind .wrS fun _ => .pure)

theorem KeepsNext.execCas {off : BitVec 32} : KeepsNext (execCas wd sc d a off b c) := by
  unfold Machine.execCas
  refine .run (.bind .rdS fun _ => .bind .rdS fun _ => .bind .rdS fun _ => .ite .misaligned (.bind .trans fun _ =>
    .bind .fenceAt fun _ => .bind .waitOverlap fun _ => .bind .rpc fun _ => .ite ?_ ?_))
  · exact .bind .patch fun _ => .ite (.bind .acquired fun _ => .bind .wrS fun _ => .pure) (.bind .wrS fun _ => .pure)
  · exact .ite (.bind .acquired fun _ => .bind .wrS fun _ => .pure) (.bind .wrS fun _ => .pure)

theorem KeepsNext.execFence {sc : Scope} : KeepsNext (execFence sc) := .run (.bind .waitAcks fun _ => .pure)

theorem Keeps.dropL1 {line : Nat} : Keeps (dropL1 line) := by
  refine .modified fun s h => ?_
  split <;> exact h

theorem State.canonical.dropCode (h : s.canonical) : (s.dropCode line).canonical := h.same
theorem Keeps.cmoClean : Keeps (cmoClean op line) := .ite .cleanAll .cleanLine

theorem Keeps.cmoLine : Keeps (cmoLine op lvl line) := by
  unfold Machine.cmoLine
  split
  · exact .ite .pure .dropL1
  · exact .ite .dropLine (.onceLine (.bind .cmoClean fun _ => .ite .dropLine .pure))
  · refine .get fun _ _ => .ite ?_ ?_
    · exact .bind .dropLine fun _ => .ite (.modified fun _ hu => hu.dropSlice) .pure
    · exact .onceLine (.bind .cmoClean fun _ => .bind (.modified fun _ hu => hu.cleanSlice) fun _ => .ite (.bind
        .dropLine fun _ => .ite (.modified fun _ hu => hu.dropSlice) .pure) .pure)
  · exact .modified fun _ hu => hu.dropCode

theorem KeepsNext.execCmo : KeepsNext (execCmo op lvl a off b) := by
  unfold Machine.execCmo
  refine .run (.bind .rdS fun _ => .bind .rdS fun _ => .ite .raise ?_)
  exact .bind (.mapM fun _ => .bind .trans fun _ => .pure) fun _ => .bind (.forM fun _ => .waitOverlap) fun _ => .bind
    (.forM fun _ => .forM fun _ => .cmoLine) fun _ => .pure

theorem KeepsNext.execFbar : KeepsNext execFbar := .run (.bind .updThr fun _ => .pure)
theorem Keeps.pegAt : Keeps (pegAt x va) := .ite .misaligned .trans

theorem KeepsNext.execAcq : KeepsNext (execAcq sc d a off b) :=
  .run (.bind .rdS fun _ => .bind .rdS fun _ => .bind .pegAt fun _ => .bind .waitOverlap fun _ => .bind .pegBinding
    fun _ => .bind .rpc fun _ => .ite (.bind (.onBound fun _ => .dropLine) fun _ => .bind .acquired fun _ => .bind
    .wrS fun _ => .pure) (.bind .acquired fun _ => .bind .wrS fun _ => .pure))

theorem KeepsNext.execRel : KeepsNext (execRel sc a off b) :=
  .run (.bind .rdS fun _ => .bind .rdS fun _ => .bind .pegAt fun _ => .bind .waitAcks fun _ => .bind .pegBinding
    fun _ => .bind .rpc fun _ => .ite (.bind (.onBound fun _ => .releaseLine) fun _ => .bind .rpc fun _ => .bind
    .patch fun _ => .pure) (.bind .rpc fun _ => .bind .patch fun _ => .pure))

theorem KeepsNext.execBind {off : BitVec 32} : KeepsNext (execBind sc a off b c) :=
  .run (.bind .rdS fun _ => .bind .rdS fun _ => .bind .rdS fun _ => .ite .misaligned (.ite .misaligned (.ite
    .misaligned (.bind .trans fun _ => .ite .raiseAt (.bind .rpc fun _ => .pure)))))

theorem KeepsNext.execUnbind : KeepsNext (execUnbind a off) :=
  .run (.bind .rdS fun _ => .bind .pegAt fun _ => .bind .rpc fun _ => .pure)

theorem Keeps.mcastSend {total : Nat} {p : Phys} {len data : Nat} : Keeps (mcastSend i n total sc p len data) := by
  intro s h
  unfold Machine.mcastSend
  dsimp only
  split
  · split <;> exact h
  · split
    · exact h
    · split
      · exact h
      · split
        · exact h.send
        · exact h.updCore.send

theorem Keeps.loadShot {l : List (Phys × Nat)} : Keeps (loadShot l) := by
  refine .bind .loadPieces fun _ => .get fun s _ => ?_
  induction l with
  | nil => exact .pure
  | cons e l ih =>
    rw [List.foldrM_cons]
    refine .bind ih fun _ => ?_
    split
    · exact .pure
    · exact .raiseAt

theorem KeepsNext.mcastWith {n : BitVec 6} {off : Word} : KeepsNext (mcastWith i sc n a off b c) := by
  unfold Machine.mcastWith
  refine .run (.bind .rdS fun _ => .bind .rdS fun _ => .bind .rdS fun _ => .get fun _ _ => .ite .raiseAt (.ite
    .raiseAt (.ite .misaligned (.ite .misaligned ?_))))
  exact .bind .trans fun _ => .ite .raiseT (.bind .transPieces fun _ => .bind .fenceAt fun _ => .bind .loadShot
    fun _ => .bind .mcastSend fun _ => .pure)

theorem KeepsNext.execMcast {n : BitVec 6} {off : BitVec 32} : KeepsNext (execMcast sc n a off b c) := .mcastWith

theorem KeepsNext.execMcast128 {n : BitVec 6} {off : BitVec 64} : KeepsNext (execMcast128 sc n a off b c) :=
  .mcastWith

/-! ## The matrix class -/

theorem Keeps.mxLines {lines : Nat} : Keeps (mxLines x va lines) := .mapM fun _ => .transSpan
theorem Keeps.mmaOperand : Keeps (mmaOperand va t n) := .bind .trans fun _ => .mxLines

theorem Keeps.mmaFormat : Keeps (mmaFormat va t l) := by
  unfold Machine.mmaFormat
  split
  · exact .pure
  · exact .ite .pure .raiseAt

theorem Keeps.seamCheck : Keeps (seamCheck va tag l) := by
  intro s h
  unfold Machine.seamCheck
  split
  · exact h
  · dsimp only
    split <;> exact h

theorem Keeps.mxEnqueue {op : MxOp} : Keeps (mxEnqueue op) := by
  intro s h
  unfold Machine.mxEnqueue
  dsimp only
  split <;> exact h.setCore

theorem KeepsNext.mxIssue {i : Instr} {u : Uses} {body : M MxOp} (hb : Keeps body) : KeepsNext (mxIssue i u body) :=
  .run (.bind .getThr fun _ => .ite .pure (.bind hb fun _ => .mxEnqueue))

theorem KeepsNext.execMma {fa fb : ETy} {seam : Bool} {n : AReg} {depth : BitVec 9} :
    KeepsNext (execMma fa fb seam n a b depth tag k) := by
  unfold Machine.execMma
  refine .mxIssue (.bind .rdS fun _ => .bind .rdS fun _ => .ite .misaligned (.ite .misaligned (.bind .mmaOperand
    fun _ => .bind .mmaOperand fun _ => .bind .mmaFormat fun _ => .bind .mmaFormat fun _ => .ite ?_ ?_)))
  · exact .bind .seamCheck fun _ => .bind .seamCheck fun _ => .bind .getThr fun _ => .bind .rdK fun _ => .get
      fun _ _ => .pure
  · exact .bind .getThr fun _ => .bind .rdK fun _ => .get fun _ _ => .pure

theorem KeepsNext.execMxbeg : KeepsNext execMxbeg :=
  .run (.bind .getThr fun _ => .ite .raise (.bind .updThr fun _ => .pure))

theorem KeepsNext.execMxend : KeepsNext execMxend :=
  .run (.bind .getThr fun _ => .ite .raise (.bind .updThr fun _ => .pure))

theorem KeepsNext.execMxzero {n : AReg} : KeepsNext (execMxzero n k) := .mxIssue (.bind .rdK fun _ => .pure)
theorem Keeps.rawPages : Keeps (rawPages va l) := .ite .pure .raiseAt

theorem KeepsNext.execMxld {n : AReg} : KeepsNext (execMxld n a k) :=
  .mxIssue (.bind .rdS fun _ => .ite .misaligned (.bind .mxLines fun _ => .bind .rawPages fun _ => .bind .rdK fun _ =>
    .get fun _ _ => .pure))

theorem KeepsNext.execMxst {sat : Bool} {n : AReg} : KeepsNext (execMxst t sat a n k) := by
  unfold Machine.execMxst
  refine .mxIssue (.bind .rdS fun _ => .ite .misaligned ?_)
  exact .bind .mxLines fun _ => .bind (.forM fun _ => .cowCheck) fun _ => .bind .rawPages fun _ => .get fun _ _ =>
    .ite .raiseAt (.bind .rdK fun _ => .bind .getThr fun _ => .pure)

theorem KeepsNext.execMxflg {d : KReg} {n : AReg} : KeepsNext (execMxflg d n) :=
  .run (.bind .getThr fun _ => .get fun _ _ => .ite .park (.ite .raiseAt (.bind .wrK fun _ => .pure)))

theorem KeepsNext.execMxwait {n : BitVec 4} : KeepsNext (execMxwait n) :=
  .run (.bind .getThr fun _ => .get fun _ _ => .ite .park .pure)

/-! ## The matrix unit -/

theorem State.canonical.unitLine (h : s.canonical) {a : Asker} : (s.unitLine a pa visits).1.canonical := by
  unfold State.unitLine
  dsimp only
  split
  · exact h
  · split
    · exact h.ite_fst (h.fillVisitor.ite h).powerUp
    · split
      · next e => exact h.ask.of_pair e
      · next e => exact (h.ask.of_pair e).fillVisitor.ite (h.ask.of_pair e)
      · next e => exact h.ask.of_pair e

theorem State.canonical.unitLines (h : s.canonical) {a : Asker} {early : List (Nat × Word)} {l : List MxLine} :
    (s.unitLines a early l).1.canonical := by
  induction l generalizing s with
  | nil => exact h
  | cons e l ih =>
    unfold State.unitLines
    split
    · next e => exact ih (h.unitLine.of_pair e)
    · next e =>
      have h1 := ih (h.unitLine.of_pair e)
      split
      · next e1 => exact h1.of_pair e1
      · next e1 => exact h1.of_pair e1

theorem State.canonical.mxWork (h : s.canonical) {cmd : MxCmd} : (s.mxWork core cmd).1.canonical := by
  unfold State.mxWork
  dsimp only
  split
  · exact h
  · split
    · next e => exact h.unitLines.of_pair e
    · next e => exact h.unitLines.of_pair e
  · exact h
  · split
    · next e => exact h.unitLines.of_pair e
    · next e =>
      have ha := h.unitLines.of_pair e
      split
      · next e => exact ha.unitLines.of_pair e
      · next e =>
        have hb := ha.unitLines.of_pair e
        split
        · next e => exact hb.unitLines.of_pair e
        · next e =>
          have hc := hb.unitLines.of_pair e
          split
          · next e => exact hc.unitLines.of_pair e
          · next e => exact hc.unitLines.of_pair e

theorem State.canonical.doMatrixAccept (h : s.canonical) {core : Nat} : (doMatrixAccept core s).canonical := by
  unfold Machine.doMatrixAccept
  generalize (s.coreAt core).mxWait.length = fuel
  induction fuel generalizing s with
  | zero => exact h
  | succ n ih =>
    unfold Machine.doMatrixAccept.go
    dsimp only
    split
    · exact h
    · split
      · refine ih ?_
        split
        · exact h.setCore.updThread
        · exact h.setCore
      · exact h

theorem State.canonical.mxStart (h : s.canonical) : (s.mxStart core).canonical := by
  unfold State.mxStart
  dsimp only
  split
  · exact h.setCore
  · exact h

theorem State.canonical.doMatrixExecute (h : s.canonical) : (doMatrixExecute core s).canonical := by
  unfold Machine.doMatrixExecute
  dsimp only
  split
  · exact h.mxStart
  · split
    · exact h.mxStart
    · split
      · next e => exact (h.mxStart.mxWork.of_pair e).updCore
      · next e => exact h.mxStart.mxWork.of_pair e

theorem State.canonical.doMatrixRead (h : s.canonical) : (doMatrixRead core n pa s).canonical := h.mxStart.updCore

theorem State.canonical.unitWrite (h : s.canonical) {a : Asker} {k : Nat} {unc : Bool} {seam : BitVec 16}
    {cells : List Host.Cell} : (s.unitWrite a k pa visits unc seam cells).1.canonical := by
  unfold State.unitWrite
  dsimp only
  split
  · exact h
  · split
    · split
      · next e => exact (h.ite_fst h.unitLine).of_pair e
      · next e => exact ((h.ite_fst h.unitLine).of_pair e).ite_fst ((h.ite_fst h.unitLine).of_pair e).same
    · split
      · next e => exact h.ask.of_pair e
      · next e => exact h.ask.of_pair e
      · next e => exact h.ask.of_pair e

theorem State.canonical.mxPassed (h : s.canonical) : (s.mxPassed core).canonical := by
  unfold State.mxPassed
  refine h.foldl fun _ _ hu => ?_
  split
  · exact hu.setThread.ite hu.setThread
  · exact hu

theorem State.canonical.mxWrites (h : s.canonical) {core : Nat} {cmd : MxCmd} {l : List MxLine}
    {r : List (Nat × List Host.Cell)} : (s.mxWrites core cmd l r).1.canonical := by
  induction r generalizing s with
  | nil => exact h
  | cons e r ih =>
    unfold State.mxWrites
    split
    · exact ih h
    · split
      · next e => exact ih (h.unitWrite.of_pair e)
      · next e => exact h.unitWrite.of_pair e
      · next e => exact h.unitWrite.of_pair e

theorem State.canonical.doMatrixComplete (h : s.canonical) : (doMatrixComplete core s).canonical := by
  unfold Machine.doMatrixComplete
  split
  · exact h
  · split
    · exact h
    · dsimp only
      split
      · split
        · exact h.updCore.mxPassed.progress
        · split
          · next e => exact (h.mxWrites.of_pair e).updCore.mxPassed.progress
          · next e => exact (h.mxWrites.of_pair e).updCore
      · exact h.updCore.mxPassed.progress

theorem KeepsNext.execMatrixCommandAccept : KeepsNext (execMatrixCommandAccept core) :=
  .event fun _ hu => hu.doMatrixAccept

theorem KeepsNext.execMatrixCommandExecute : KeepsNext (execMatrixCommandExecute core) :=
  .event fun _ hu => hu.doMatrixExecute

theorem KeepsNext.execMatrixCommandComplete : KeepsNext (execMatrixCommandComplete core) :=
  .event fun _ hu => hu.doMatrixComplete

theorem State.canonical.mxDrop (h : s.canonical) {tag : Tag} : (s.mxDrop core tag).canonical := by
  unfold State.mxDrop
  refine foldl (updCore ?_) fun _ _ hu => ?_
  · split
    · split
      · exact h.setCore.mxPassed.ite h
      · exact h
    · exact h
  · split
    · exact hu.ite (hu.setThread.ite hu.setThread)
    · exact hu

end Sys2Proof.Machine
end

section
/-! SUPPORT. The ends of threads and the thread class keep memory in its canonical form. -/
namespace Sys2Proof.Machine

variable {s t : State}
variable {d b a : Sc} {core slot q tid : Nat} {wait : Bool} {m : Mask} {sc : Scope} {id : BitVec 4} {i : Instr}
variable {rd : List Sc} {n : M Word}

/-! ## How a thread ends -/

theorem State.canonical.departAll (h : s.canonical) {uid : Nat} {tag : Tag} :
    (s.departAll core uid tag).canonical := by
  unfold State.departAll
  refine h.foldl fun _ _ hu => ?_
  dsimp only
  split
  · exact hu.depart
  · split
    · next e => exact hu.request e
    · exact hu.depart

theorem State.canonical.setEvents (h : s.canonical) : (s.setEvents q m).canonical := h.updQuad
theorem State.canonical.clearEvents (h : s.canonical) : (s.clearEvents q m).canonical := h.updQuad

theorem State.canonical.endTask (h : s.canonical) {t : Thread} {applySet : Bool} :
    (s.endTask t applySet).canonical := by
  unfold State.endTask
  split
  · exact h
  · dsimp only
    split
    · exact h
    · exact h.setQuad.setEvents.ite h.setQuad

theorem State.canonical.slotFreed (h : s.canonical) : (s.slotFreed core slot).canonical := h.updCore
theorem State.canonical.storeDown (h : s.canonical) : (s.storeDown core).canonical := h.emptyStore.updCore.ite h

theorem State.canonical.grantGrow (h : s.canonical) {core : Nat} : (s.grantGrow core).canonical := by
  unfold State.grantGrow
  generalize (s.coreAt core).growQ.length = fuel
  induction fuel generalizing s with
  | zero => exact h
  | succ k ih =>
    unfold State.grantGrow.go
    split
    · exact h
    · split
      · split
        · split
          · exact ih h.updCore.setThread
          · exact h
        · exact h
      · exact h

theorem State.canonical.refuseFills (h : s.canonical) : (s.refuseFills core slot).canonical :=
  h.same.foldl fun _ _ hu => hu.answer

theorem State.canonical.endThread (h : s.canonical) {annul : Bool} : (s.endThread tid annul).canonical := by
  unfold State.endThread
  split
  · exact h
  · exact (h.withdraw.ite h).departAll.refuseFills.updCore.updQuad.endTask.same.slotFreed.storeDown.grantGrow

theorem State.canonical.annul (h : s.canonical) : (s.annul tid).canonical := by
  unfold State.annul
  split
  · exact h
  · exact h.ite (h.setThread.ite h.endThread)

/-! ## The thread class -/

theorem Keeps.answered {f : Req → Bool} : Keeps (answered f) := by
  intro s h
  unfold Machine.answered
  split
  · split <;> exact h
  · exact h

theorem KeepsNext.execSpawn : KeepsNext (execSpawn a b) :=
  .run (.bind .rdS fun _ => .bind .rdS fun _ => .get fun _ _ => .bind .answered fun _ => .ite .pure (.ite .raise
    (.bind .waitAcks fun _ => .bind (.mapM fun _ => .rdS) fun _ => .bind .rpcFor fun _ => .pure)))

theorem Keeps.taskRecord {va : Word} : Keeps (taskRecord va) := by
  unfold Machine.taskRecord
  refine .bind .getThr fun _ => ?_
  split
  · split <;> exact .pure
  · exact .bind .transSpan fun _ => .bind .loadN fun _ => .ite .raise .pure

theorem Keeps.keepRecord {r : Word × Nat × List Word} : Keeps (keepRecord r) := .updThr

theorem KeepsNext.execTask {off : BitVec 32} {kw ks : KReg} : KeepsNext (execTask wait d a off kw ks) := by
  unfold Machine.execTask
  refine .run (.bind .rdS fun _ => .ite .misaligned (.bind .taskRecord fun _ => .bind .keepRecord fun _ => .bind
    .waitAcks fun _ => .bind .rdK fun _ => .bind .rdK fun _ => .get fun _ _ => .ite (.bind (.modified fun _ hu =>
    hu.setQuad) fun _ => .bind .wrS fun _ => .pure) (.ite ?_ (.bind .wrS fun _ => .pure))))
  split
  · exact .ite (.bind (.modified fun _ hu => hu.updQuad) fun _ => .throw) .park
  · exact .bind (.modified fun _ hu => hu.updQuad) fun _ => .park

theorem State.canonical.oweEvents (h : s.canonical) : (s.oweEvents m).canonical := h.ite h.updQuad
theorem State.canonical.settleEvents (h : s.canonical) {qn : Nat} : (s.settleEvents qn).canonical := h.ite h.updQuad

theorem KeepsNext.execEvset {a : KReg} : KeepsNext (execEvset a) :=
  .run (.bind .rdK fun _ => .bind (.modified fun _ hu => hu.setEvents.oweEvents) fun _ => .pure)

theorem KeepsNext.execEvclr {a : KReg} : KeepsNext (execEvclr a) :=
  .run (.bind .rdK fun _ => .bind (.modified fun _ hu => hu.clearEvents) fun _ => .pure)

theorem KeepsNext.execEvwait {a : KReg} : KeepsNext (execEvwait a) :=
  .run (.bind .rdK fun _ => .get fun _ _ => .ite (.ite (.bind .updThr fun _ => .park) (.bind .acquired fun _ =>
    .pure)) .park)

theorem KeepsNext.execMigr : KeepsNext (execMigr a) := by
  unfold Machine.execMigr
  refine .run (.bind .rdS fun _ => .bind .trans fun _ => .get fun _ _ => .ite .raise ?_)
  split
  · exact .raiseT
  · refine .ite .raiseT ?_
    exact .ite .pure (.bind .waitAcks fun _ => .ite .park (.ite .park (.bind .updThr fun _ => .bind .answered fun _ =>
      .ite .pure (.bind .rpcFor fun _ => .pure))))

theorem KeepsNext.growBy (hn : Keeps n) : KeepsNext (growBy i wait d rd n) := by
  unfold Machine.growBy
  refine .run (.bind hn fun _ => .get fun _ _ => .ite (.bind .wrS fun _ => .pure) (.ite .raise (.ite ?_ ?_)))
  · exact .bind (.modified fun _ hu => hu.updCore) fun _ => .bind .updThr fun _ => .bind .wrS fun _ => .bind
      (.modified fun _ hu => hu.grantGrow) fun _ => .pure
  · exact .ite (.bind (.modified fun _ hu => hu.updCore) fun _ => .park) (.bind .wrS fun _ => .pure)

theorem KeepsNext.execGrow {n : BitVec 27} : KeepsNext (execGrow wait d n) := .growBy .pure
theorem KeepsNext.execGrowReg : KeepsNext (execGrowReg wait d b) := .growBy .rdS

theorem KeepsNext.shrinkBy (hn : Keeps n) : KeepsNext (shrinkBy i d rd n) :=
  .run (.bind hn fun _ => .bind .getThr fun _ => .ite .raise (.ite .raise (.bind .updThr fun _ => .bind (.modified
    fun _ hu => hu.updCore.grantGrow) fun _ => .bind .wrS fun _ => .pure)))

theorem KeepsNext.execShrink {n : BitVec 27} : KeepsNext (execShrink d n) := .shrinkBy .pure
theorem KeepsNext.execShrinkReg : KeepsNext (execShrinkReg d b) := .shrinkBy .rdS

theorem KeepsNext.execBar : KeepsNext (execBar sc id) :=
  .run (.get fun _ _ => .bind .answered fun _ => .ite (.bind .acquired fun _ => .pure) (.bind .ofExcept fun _ => .bind
    .waitAcks fun _ => .bind .rpcFor fun _ => .bind .acquired fun _ => .pure))

theorem KeepsNext.execBjoin : KeepsNext (execBjoin sc id b) :=
  .run (.bind .rdS fun _ => .get fun _ _ => .bind .ofExcept fun _ => .bind .rpc fun _ => .pure)

theorem KeepsNext.execBleave : KeepsNext (execBleave sc id) :=
  .run (.get fun _ _ => .bind .ofExcept fun _ => .ite .raise (.bind (.modified fun _ hu => hu.depart) fun _ => .pure))

theorem KeepsNext.execSlotw : KeepsNext (execSlotw a b) :=
  .run (.bind .rdS fun _ => .bind .rdS fun _ => .get fun _ _ => .ite .raise (.bind (.modified fun _ hu => hu.setCore)
    fun _ => .pure))

theorem State.canonical.landC (h : s.canonical) : (s.landC core).canonical := h.updCore
theorem State.canonical.examineC (h : s.canonical) : (s.examineC core).canonical := h.foldl fun _ _ hu => hu.examine

theorem State.canonical.emptyReg (h : s.canonical) {r : Sc} : (s.emptyReg core slot r).canonical := by
  unfold State.emptyReg
  split
  · exact h.updThread.examine
  · exact h.changeC
  · exact h

theorem KeepsNext.execRfillArm : KeepsNext (execRfillArm d) :=
  .run (.bind (.modified fun _ hu => hu.emptyReg) fun _ => .pure)

theorem KeepsNext.execRfillSend {c : Sc} : KeepsNext (execRfillSend wait a b c) :=
  .run (.bind .rdS fun _ => .bind .rdS fun _ => .bind .rdS fun _ => .get fun _ _ => .ite .raise (.ite .raiseAt (.bind
    .waitAcks fun _ => .bind .rpc fun _ => .pure)))

end Sys2Proof.Machine
end

section
/-! SUPPORT. The copy channel keeps memory in its canonical form. -/
namespace Sys2Proof.Machine

variable {s t : State}
variable {core n va v k dst table pool bsh pa src ring status cause progress mask : Nat} {cmd : CpCmd} {r : CpRun}
variable {acq rel unc : Bool} {sc : Option Scope} {a c d b : Sc} {seam tag : BitVec 16} {x : Access} {op : CpyOp}
variable {p : Phys}

/-! ## Issue -/

theorem Keeps.recordAt {va : Word} : Keeps (recordAt va) := .trans

theorem State.canonical.updUid (h : s.canonical) {uid : Nat} {f : Thread → Thread} : (s.updUid uid f).canonical := by
  unfold State.updUid
  split
  · exact h.updThread
  · exact h

theorem State.canonical.markPend (h : s.canonical) {core uid : Nat} {r : Sum Sc VReg} :
    (s.markPend core uid r).canonical := by
  unfold State.markPend
  dsimp only
  split
  · exact h.updUid
  · exact h
  · exact h
  · exact h.updUid

theorem State.canonical.recordWrite (h : s.canonical) : (s.recordWrite core pa n v unc).canonical :=
  (h.dropDirs.homeWrite.flushSpan.ite h.dropDirs.homeWrite).patchVisitor.examineSpan

theorem State.canonical.cpAccept (h : s.canonical) : (s.cpAccept core cmd).canonical := by
  unfold State.cpAccept
  dsimp only
  split
  · exact h.updCore.setTag.examine.emptyReg.markPend
  · exact h.updCore.setTag.examine.updUid.markPend
  · exact h.updCore.setTag.examine

theorem Keeps.cpEnqueue {rec : Phys} {op : CpOp} : Keeps (cpEnqueue acq rel sc rec op) := by
  intro s h
  unfold Machine.cpEnqueue
  dsimp only
  split
  · exact h.cpAccept
  · exact h.setCore

theorem KeepsNext.cpIssue {i : Instr} {u : Uses} {body : M (Phys × CpOp)} (hbody : Keeps body) :
    KeepsNext (cpIssue i u acq rel sc body) :=
  .run (.bind .getThr fun _ => .ite .pure (.bind hbody fun _ => .ite (.bind .waitAcks fun _ => .cpEnqueue)
    .cpEnqueue))

theorem KeepsNext.execCpy {t : Option ETy} : KeepsNext (execCpy op t acq rel sc d a b c tag) := by
  unfold Machine.execCpy
  refine .cpIssue (.bind .rdS fun _ => .bind .rdS fun _ => .bind .rdS fun _ => .bind .rdS fun _ => .ite .misaligned
    (.ite .misaligned (.ite .misaligned (.bind .recordAt fun _ => .ite .commandFault ?_))))
  split <;> exact .pure

theorem KeepsNext.execCpyRfg : KeepsNext (execCpyRfg acq sc d a c) :=
  .cpIssue (.bind .rdS fun _ => .bind .rdS fun _ => .ite .misaligned (.bind .recordAt fun _ => .pure))

theorem KeepsNext.execCpyRfv {d : VReg} : KeepsNext (execCpyRfv acq sc d a c) := by
  unfold Machine.execCpyRfv
  refine .cpIssue (.bind .rdS fun _ => .bind .rdS fun _ => .bind .getThr fun _ => .ite .misaligned (.ite .misaligned
    (.bind .recordAt fun _ => ?_)))
  split
  · exact .ite .portMisuse (.ite (.bind .linearValid fun _ => .pure) .pure)
  · exact .pure

theorem KeepsNext.execCpgb : KeepsNext (execCpgb acq rel sc d a c tag) :=
  .cpIssue (.bind .rdS fun _ => .bind .rdS fun _ => .bind .rdS fun _ => .ite .misaligned (.ite .misaligned (.bind
    .transSpan fun _ => .bind .recordAt fun _ => .bind .loadN fun _ => .ite .commandFault .pure)))

theorem KeepsNext.execKvapp : KeepsNext (execKvapp acq rel sc a b c) :=
  .cpIssue (.bind .rdS fun _ => .bind .rdS fun _ => .bind .rdS fun _ => .ite .misaligned (.ite .misaligned (.bind
    .transSpan fun _ => .bind .recordAt fun _ => .bind .loadN fun _ => .ite .commandFault .pure)))

theorem KeepsNext.execCpwait : KeepsNext (execCpwait d a) :=
  .run (.bind .rdS fun _ => .ite .misaligned (.bind .trans fun _ => .bind .waitOverlap fun _ => .bind .rpc fun _ =>
    .bind .acquired fun _ => .bind .wrS fun _ => .pure))

/-! ## The channel's accesses -/

theorem Keeps.cpAskFor {core k epoch va : Nat} {cmd : CpCmd} {req : Req} :
    Keeps (cpAskFor core cmd k epoch req va) := by
  intro s h
  unfold Machine.cpAskFor
  split
  · next e => exact h.ask.of_pair e
  · next e => exact h.ask.of_pair e
  · next e =>
    have ha := h.ask.of_pair e
    split
    · exact ha
    · exact ha

theorem Keeps.cpAsk {req : Req} : Keeps (cpAsk core cmd k req va) := .cpAskFor

theorem Keeps.cpTrans {va : Word} : Keeps (cpTrans core cmd x va) := by
  intro s h
  unfold Machine.cpTrans
  split <;> exact h

theorem Keeps.cpTransSpan {va : Word} : Keeps (cpTransSpan core cmd x va n) := by
  unfold Machine.cpTransSpan
  refine .bind .cpTrans fun _ => ?_
  split
  · exact .ite (.bind .cpTrans fun _ => .pure) .pure
  · exact .pure

theorem Keeps.cpFault {α : Type} {t : Trap} : Keeps (cpFault t : CpM α) := .throw

theorem Keeps.cpPiece : Keeps (cpPiece core cmd p n) := by
  unfold Machine.cpPiece
  refine .get fun _ _ => .ite ?_ (.bind .cpAsk fun _ => .pure)
  dsimp only
  split
  · exact .bind .pure fun _ => .get fun _ _ => .ite .cpFault .pure
  · refine .ite ?_ ?_
    · exact .bind .cpAskFor fun _ => .bind .pure fun _ => .bind (.modified fun _ hu => hu.fillVisitor) fun _ => .bind
        .pure fun _ => .get fun _ _ => .ite .cpFault .pure
    · exact .bind .pure fun _ => .bind (.modified fun _ hu => hu.fillVisitor) fun _ => .bind .pure fun _ => .get
        fun _ _ => .ite .cpFault .pure

theorem Keeps.cpPieces {core : Nat} {cmd : CpCmd} {l : List (Word × Nat)} : Keeps (cpPieces core cmd l) := by
  induction l with
  | nil => exact .pure
  | cons e l ih => exact .bind .cpTransSpan fun _ => .bind .cpPiece fun _ => .bind ih fun _ => .pure

theorem Keeps.cpRead : Keeps (cpRead core cmd va n) := .cpPieces

theorem Keeps.cpPut : Keeps (cpPut core cmd p n v seam) := by
  intro s h
  unfold Machine.cpPut
  split
  · exact h
  · split
    · next e => exact h.unitWrite.of_pair e
    · next e => exact h.unitWrite.of_pair e
    · next e => exact h.unitWrite.of_pair e

theorem Keeps.cpWrite : Keeps (cpWrite core cmd va n v seam) :=
  .bind (.mapM fun _ => .bind .cpTransSpan fun _ => .pure) fun _ => .bind (.foldlM fun _ _ => .bind .cpPut fun _ =>
    .pure) fun _ => .pure

theorem Keeps.cpCopyLine {total : Nat} {src : Nat → CpM Nat} (hsrc : ∀ (a : Nat), Keeps (src a)) :
    Keeps (cpCopyLine core r dst total src seam) :=
  .bind (hsrc _) fun _ => .bind .cpWrite fun _ => .pure

theorem Keeps.cpAtomicLine {t : ETy} {size : Nat} : Keeps (cpAtomicLine core r op t dst src size seam) :=
  .bind .cpRead fun _ => .bind .cpTransSpan fun _ => .get fun _ _ => .ite .throw (.bind .cpAsk fun _ => .bind
    (.modified fun _ hu => hu.patchFrom) fun _ => .pure)

theorem Keeps.cpBlockBytes {j o : Nat} : Keeps (cpBlockBytes core r table pool bsh j o n) := by
  unfold Machine.cpBlockBytes
  dsimp only
  split
  · exact .bind .pure fun _ => .ite (.bind .pure fun _ => .pure) (.bind .cpRead fun _ => .pure)
  · exact .bind .cpRead fun _ => .ite (.bind .pure fun _ => .pure) (.bind .cpRead fun _ => .pure)

theorem Keeps.cpGatherLine {count : Nat} : Keeps (cpGatherLine core r dst table pool count bsh seam) :=
  .bind .cpBlockBytes fun _ => .ite (.bind .pure fun _ => .bind .cpWrite fun _ => .pure) (.bind .cpBlockBytes fun _ =>
    .bind .pure fun _ => .bind .cpWrite fun _ => .pure)

theorem Keeps.cpPopFree : Keeps (cpPopFree core r ring) := by
  unfold Machine.cpPopFree
  refine .bind .cpTransSpan fun _ => .bind .cpAsk fun _ => .ite .cpFault (.bind .cpTrans fun _ => .bind .cpAsk
    fun _ => ?_)
  split
  · exact .bind (.modified fun _ hu => hu.patchFrom) fun _ => .pure
  · exact .pure

theorem Keeps.cpAppend {desc refc len new esh : Nat} :
    Keeps (cpAppend core r desc table pool ring refc len new bsh esh src) := by
  unfold Machine.cpAppend
  dsimp only
  split
  · exact .ite (.bind .cpWrite fun _ => .pure) (.bind .cpRead fun _ => .pure)
  · refine .bind .cpPopFree fun _ => ?_
    split <;> exact .pure
  · exact .bind .cpWrite fun _ => .pure
  · exact .ite .pure (.bind (.cpCopyLine fun _ => .cpRead) fun _ => .pure)
  · exact .bind .cpWrite fun _ => .pure
  · exact .ite .cpFault (.bind .cpTrans fun _ => .bind .cpAsk fun _ => .bind (.modified fun _ hu => hu.patchFrom)
      fun _ => .pure)
  · exact .bind .cpRead fun _ => .pure
  · exact .bind (.cpCopyLine fun _ => .cpRead) fun _ => .ite .pure .pure

theorem State.canonical.setFillPort (h : s.canonical) {v : VReg} {p : Port} : (s.setFillPort cmd v p).canonical :=
  h.updUid

theorem Keeps.cpFe {req : Nat → Req} : Keeps (cpFe core cmd k x va req) :=
  .bind .cpTrans fun _ => .bind .cpAsk fun _ => .ite (.bind (.modified fun _ hu => hu.patchFrom) fun _ => .pure) .pure

theorem Keeps.cpBound : Keeps (cpBound core cmd k va) := by
  unfold Machine.cpBound
  refine .bind .cpTrans fun _ => .bind .cpAsk fun _ => ?_
  split
  · refine .modified fun _ hu => hu.foldl fun _ _ hu1 => ?_
    split
    · exact hu1.foldl fun _ _ hu2 => hu2.dropVisitor
    · exact hu1
  · exact .pure

theorem Keeps.cpPush {v : VReg} {p : Port} : Keeps (cpPush core r v p) := by
  unfold Machine.cpPush
  refine .get fun _ _ => ?_
  dsimp only
  split
  · exact .ite .cpFault (.bind .cpWrite fun _ => .bind (.modified fun _ hu => hu.setFillPort) fun _ => .pure)
  · refine .bind .cpRead fun _ => ?_
    split
    · exact .bind .cpFe fun _ => .pure
    · refine .ite ?_ ?_
      · exact .bind .cpFe fun _ => .bind .cpBound fun _ => .ite (.bind .cpWrite fun _ => .pure) (.bind .cpFe fun _ =>
          .pure)
      · exact .ite (.bind .cpWrite fun _ => .pure) (.bind .cpFe fun _ => .pure)
  · exact .ite .throw (.bind (.modified fun _ hu => hu.same) fun _ => .pure)

theorem Keeps.cpStep : Keeps (cpStep core r) := by
  unfold Machine.cpStep
  split
  · exact .bind (.cpCopyLine fun _ => .cpRead) fun _ => .pure
  · exact .cpAtomicLine
  · exact .bind .cpRead fun _ => .pure
  · refine .get fun _ _ => ?_
    split
    · exact .bind .cpRead fun _ => .pure
    · exact .ite (.bind .cpRead fun _ => .pure) .cpPush
  · exact .cpGatherLine
  · exact .cpAppend

/-! ## The channel's events -/

theorem State.canonical.doCopyAccept (h : s.canonical) {core : Nat} : (doCopyAccept core s).canonical := by
  unfold Machine.doCopyAccept
  generalize (s.coreAt core).cpWait.length = fuel
  induction fuel generalizing s with
  | zero => exact h
  | succ n ih =>
    unfold Machine.doCopyAccept.go
    dsimp only
    split
    · exact h
    · split
      · refine ih ?_
        split
        · exact h.setCore.cpAccept.updThread
        · exact h.setCore.cpAccept
      · exact h

theorem State.canonical.doCopyExecute (h : s.canonical) : (doCopyExecute core s).canonical := by
  unfold Machine.doCopyExecute
  dsimp only
  split
  · split
    · exact h
    · exact h.setCore.progress.ite h
  · split
    · exact h
    · split
      · next e => exact (Keeps.cpStep.ok h e).updCore.progress
      · next e => exact (Keeps.cpStep.error h e).updCore.ite (Keeps.cpStep.error h e)
      · next e => exact (Keeps.cpStep.error h e).updCore

theorem State.canonical.deliver (h : s.canonical) : (s.deliver core cmd v).canonical := by
  unfold State.deliver
  split
  · exact h.updUid.markPend
  · exact h.putC.markPend
  · exact (h.ite h.updUid).markPend
  · exact h

theorem State.canonical.writeRecord (h : s.canonical) {detail : Nat} :
    (s.writeRecord core pa unc status cause progress detail mask).canonical :=
  h.recordWrite.recordWrite.recordWrite.setTag.examine

theorem State.canonical.collRecord (h : s.canonical) {r : CollRun} :
    (s.collRecord r status cause progress mask).canonical := by
  unfold State.collRecord
  dsimp only
  split
  · exact h.writeRecord
  · split
    · exact h.writeRecord.updThread
    · exact h.writeRecord

theorem State.canonical.doCopyComplete (h : s.canonical) : (doCopyComplete core s).canonical := by
  unfold Machine.doCopyComplete
  split
  · exact h
  · split
    · exact h
    · split
      · exact h
      · split
        · next e => exact h.askLines e
        · exact h.updCore.deliver.writeRecord

theorem State.canonical.cpCancel (h : s.canonical) : (s.cpCancel core cmd).canonical := h.deliver.writeRecord

theorem State.canonical.doCopyDeferred (h : s.canonical) : (doCopyDeferred core s).canonical := by
  unfold Machine.doCopyDeferred
  split
  · exact h
  · split
    · split
      · next e => exact h.askLines e
      · exact h.updCore.recordWrite
    · exact h

theorem State.canonical.doCopyResume (h : s.canonical) : (doCopyResume core s).canonical := by
  unfold Machine.doCopyResume
  split
  · exact h
  · exact h.updCore.ite h

theorem State.canonical.cpUnlist (h : s.canonical) {tag : Tag} : (s.cpUnlist core tag).canonical := h.same.updCore

theorem State.canonical.cpAnnul (h : s.canonical) {tag : Tag} : (s.cpAnnul core tag).canonical := by
  unfold State.cpAnnul
  dsimp only
  split
  · exact h.cpUnlist.setCore.foldl fun _ _ hu => hu.cpCancel
  · split
    · exact h.cpUnlist.setCore.foldl fun _ _ hu => hu.cpCancel
    · exact (h.cpUnlist.setCore.foldl fun _ _ hu => hu.cpCancel).updCore.ite (h.cpUnlist.setCore.foldl
        fun _ _ hu => hu.cpCancel).updCore

theorem KeepsNext.execCopyCommandAccept : KeepsNext (execCopyCommandAccept core) := .event fun _ hu => hu.doCopyAccept

theorem KeepsNext.execCopyCommandExecute : KeepsNext (execCopyCommandExecute core) :=
  .event fun _ hu => hu.doCopyExecute

theorem KeepsNext.execCopyCommandComplete : KeepsNext (execCopyCommandComplete core) :=
  .event fun _ hu => hu.doCopyComplete

theorem KeepsNext.execCopyDeferred : KeepsNext (execCopyDeferred core) := .event fun _ hu => hu.doCopyDeferred
theorem KeepsNext.execCopyResume : KeepsNext (execCopyResume core) := .event fun _ hu => hu.doCopyResume

end Sys2Proof.Machine
end

section
/-! SUPPORT. Launches, named buffers and collectives, and the control and system classes keep memory in its canonical
form. -/
namespace Sys2Proof.Machine

variable {s t : State}
variable {a d : Sc} {pkg id core : Nat} {tag : Tag} {n : NBuf} {off : BitVec 27} {r : CollRun} {i : Instr}

/-! ## Launches -/

theorem State.canonical.startThread (h : s.canonical) {tid : Nat} {pc : Word} {g : List Word} {f : Thread → Thread} :
    (s.startThread tid pc tag g f).canonical :=
  h.same.setThread.updCore

theorem State.canonical.endKeep (h : s.canonical) {lid : Nat} : (s.endKeep core lid).canonical := by
  unfold State.endKeep
  split
  · exact h
  · exact (h.ite h.emptyStore).updCore

theorem State.canonical.launchCore (h : s.canonical) {d : LaunchDesc} {n : Nat} :
    (s.launchCore d tag n core).canonical :=
  h.endKeep.updCore.startThread

theorem KeepsNext.execLaunch : KeepsNext (execLaunch a) := by
  unfold Machine.execLaunch
  refine .run (.bind .rdS fun _ => .ite .misaligned ?_)
  exact .bind .transSpan fun _ => .bind .loadN fun _ => .get fun _ _ => .ite .raise (.bind .waitAcks fun _ => .bind
    (.modified fun _ hu => hu.foldl fun _ _ hu => hu.launchCore) fun _ => .pure)

/-! ## Named buffers and collectives -/

theorem Keeps.bufPages {base fuel off size : Nat} : Keeps (bufPages base fuel off size) := by
  induction fuel generalizing off with
  | zero => exact .pure
  | succ n ih => exact .ite .pure (.bind .trans fun _ => .bind ih fun _ => .pure)

theorem State.canonical.announce (h : s.canonical) {serial : Nat} {info : RegInfo} :
    (s.announce pkg id serial info tag).canonical :=
  h.foldl fun _ _ hu => hu.ite hu.send

theorem KeepsNext.execCbuf {op : CbufOp} {t : ETy} {id : BitVec 10} : KeepsNext (execCbuf op t id a) := by
  unfold Machine.execCbuf
  refine .run (.bind .rdS fun _ => .bind .loadSpan fun _ => .get fun _ _ => ?_)
  dsimp only
  split
  · exact .commandFault
  · refine .bind .bufPages fun _ => .bind .trans fun _ => .ite .commandFault ?_
    exact .ite .commandFault (.ite (.bind (.modified fun _ hu => hu.updPkg) fun _ => .pure) (.bind (.modified
      fun _ hu => hu.same.updPkg.announce) fun _ => .pure))

theorem KeepsNext.execColl {kind : CollKind} {acq rel : Bool} {sc : Option Scope} {id : BitVec 10} {root : BitVec 7}
    {c : Sc} : KeepsNext (execColl kind acq rel sc id root c) := by
  unfold Machine.execColl
  refine .run (.bind .rdS fun _ => .get fun _ _ => .ite .pure (.ite .misaligned (.bind .recordAt fun _ => .get
    fun _ _ => ?_)))
  dsimp only
  split
  · exact .raiseAt
  · refine .ite .raiseAt ?_
    split
    · exact .raiseAt
    · exact .ite (.bind .waitAcks fun _ => .bind (.modified fun _ hu => hu.updPkg) fun _ => .park) (.bind (.modified
        fun _ hu => hu.updPkg) fun _ => .park)

theorem State.canonical.doCollAccept (h : s.canonical) : (doCollAccept pkg id s).canonical := by
  unfold Machine.doCollAccept
  split
  · exact h
  · split
    · exact h
    · dsimp only
      split
      · exact h
      · split
        · exact h.updPkg.setTag.examine.updThread
        · exact h.updPkg.setTag.examine

theorem State.canonical.doCollRead (h : s.canonical) {pa : Nat} : (doCollRead pkg id pa s).canonical := by
  unfold Machine.doCollRead
  split
  · exact h
  · split
    · exact h
    · exact h.ite h.updPkg

theorem Memory.wf_memWriteN {m : List Host.Cell} (h : Memory.wf m = true) (pa n v : Nat) :
    Memory.wf (memWriteN m pa n v) = true := by
  induction n generalizing m pa v with
  | zero => exact h
  | succ n ih => exact ih (Memory.wf_write h pa _) (pa + 1) (v / 256)

theorem State.canonical.engineWrite (h : s.canonical) {pa n v : Nat} : (s.engineWrite pa n v).canonical := by
  unfold State.engineWrite
  split
  · exact h
  · dsimp only
    generalize (List.range ((pa + n - 1) / 64 - pa / 64 + 1)).map (fun j => pa / 64 + j) = lines
    have h1 : (lines.foldl (fun s l => (s.cleanSlice l).dropSlice l) s).canonical :=
      h.foldl fun _ _ hu => hu.cleanSlice.dropSlice
    have h2 : State.canonical { lines.foldl (fun s l => (s.cleanSlice l).dropSlice l) s with
        mem := memWriteN (lines.foldl (fun s l => (s.cleanSlice l).dropSlice l) s).mem pa n v } :=
      h1.bytes (Memory.wf_memWriteN h1.1 pa n v) h1.2.2
    exact h2.wrote.examineSpan

theorem State.canonical.bufWrite (h : s.canonical) {off len v : Nat} : (s.bufWrite n off len v).canonical :=
  h.foldl fun _ _ hu => hu.engineWrite

theorem State.canonical.endRun (h : s.canonical) : (s.endRun pkg id).canonical := h.updPkg

theorem State.canonical.collFault (h : s.canonical) {status cause : Nat} :
    (s.collFault pkg id n r status cause).canonical :=
  h.updPkg.endRun.collRecord

theorem State.canonical.collFinish (h : s.canonical) {cs : List (Nat × Nat)} :
    (s.collFinish id pkg n r cs).canonical :=
  ((h.foldl fun _ _ hu => hu.bufWrite).dropDirs.homeWrite.flushSpan.ite (h.foldl fun _ _ hu =>
    hu.bufWrite).dropDirs.homeWrite).setTag.examine.endRun.collRecord.progress

theorem State.canonical.doCollComplete (h : s.canonical) : (doCollComplete pkg id s).canonical := by
  unfold Machine.doCollComplete
  split
  · exact h
  · split
    · exact h
    · split
      · exact h
      · split
        · split
          · next e => exact h.askLines e
          · exact h.collFault
        · dsimp only
          split
          · split
            · next e => exact h.askLines e
            · exact (h.foldl fun _ _ hu => hu.endRun.collRecord).ite (h.foldl fun _ _ hu => hu.collFinish)
          · exact h

theorem State.canonical.collAnnul (h : s.canonical) : (s.collAnnul pkg tag).canonical := by
  unfold State.collAnnul
  refine h.foldl fun _ _ hu => ?_
  dsimp only
  split
  · split
    · exact hu.collFault.ite hu
    · exact hu
  · split
    · split
      · exact hu.collFault.ite hu
      · exact hu
    · split
      · split
        · refine updPkg ?_
          split
          · exact hu.collFault.ite hu
          · exact hu
        · refine collFault (updPkg ?_)
          split
          · exact hu.collFault.ite hu
          · exact hu
      · refine updPkg ?_
        split
        · exact hu.collFault.ite hu
        · exact hu

theorem KeepsNext.execCollContributionAccept : KeepsNext (execCollContributionAccept pkg id) :=
  .event fun _ hu => hu.doCollAccept

theorem KeepsNext.execCollComplete : KeepsNext (execCollComplete pkg id) := .event fun _ hu => hu.doCollComplete

/-! ## The control class -/

theorem KeepsNext.execBr {cc : Cond} {z : Bool} {b : Sc} : KeepsNext (execBr cc z a b off) :=
  .run (.bind .rdS fun _ => .bind .rdS fun _ => .bind .getThr fun _ => .ite .pure .pure)

theorem KeepsNext.jumpBy {link : Option Sc} {off : Word} : KeepsNext (jumpBy i link off) := by
  unfold Machine.jumpBy
  refine .run (.bind .getThr fun _ => ?_)
  dsimp only
  split
  · exact .bind .wrS fun _ => .pure
  · exact .pure

theorem KeepsNext.execJ : KeepsNext (execJ off) := .jumpBy
theorem KeepsNext.execJ96 {off : BitVec 32} : KeepsNext (execJ96 off) := .jumpBy
theorem KeepsNext.execJl : KeepsNext (execJl d off) := .jumpBy
theorem KeepsNext.execJl96 {off : BitVec 32} : KeepsNext (execJl96 d off) := .jumpBy

theorem KeepsNext.execJr : KeepsNext (execJr d a) :=
  .run (.bind .rdS fun _ => .bind .getThr fun _ => .ite .raiseAt (.bind .wrS fun _ => .pure))

theorem KeepsNext.execNop : KeepsNext execNop := .run .pure
theorem KeepsNext.execNop96 : KeepsNext execNop96 := .run .pure
theorem KeepsNext.execNop128 : KeepsNext execNop128 := .run .pure

theorem KeepsNext.haltWith {i : Instr} {keep : Option Sc} : KeepsNext (haltWith i keep) := by
  refine fun s t h ht => KeepsNext.run (.bind .getThr fun u => .ite ?_ (.bind .waitAcks fun _ => ?_)) s t h ht
  · exact .ite .raiseAt (.bind .updThr fun _ => .pure)
  · have hend : Keeps (do modify (fun s => s.endThread s.cur u.doomed); pure Next.gone : M Next) :=
      .bind (.modified fun _ hu => hu.endThread) fun _ => .pure
    cases keep with
    | none => exact .ite (.bind .park fun _ => hend) hend
    | some a =>
      refine .ite (.bind .park fun _ => ?_) ?_
      all_goals exact .bind .rdS fun _ => .bind (.modified fun _ hu => hu.updCore) fun _ => hend

theorem KeepsNext.execHalt : KeepsNext execHalt := .haltWith
theorem KeepsNext.execHaltKeep : KeepsNext (execHaltKeep a) := .haltWith
theorem KeepsNext.execYield : KeepsNext execYield := .run (.get fun _ _ => .pure)

/-! ## The system class -/

theorem KeepsNext.execTrap {n : BitVec 8} : KeepsNext (execTrap n) := .run .raiseAt
theorem KeepsNext.execBrk {n : BitVec 8} : KeepsNext (execBrk n) := .run .raiseAt

theorem KeepsNext.execTrack : KeepsNext execTrack :=
  .run (.bind .updThr fun _ => .bind .getThr fun _ => .ite (.bind (.modified fun _ hu => hu.endThread) fun _ => .pure)
    .pure)

theorem KeepsNext.tretWith {skip : Bool} : KeepsNext (tretWith i skip) :=
  .run (.bind .getThr fun _ => .ite (.bind (.modified fun _ hu => hu.endThread) fun _ => .pure) (.bind (.modified
    fun _ hu => hu.setThr) fun _ => .pure))

theorem KeepsNext.execTret : KeepsNext execTret := .tretWith
theorem KeepsNext.execTretSkip : KeepsNext execTretSkip := .tretWith

/-- A choice between two executions that looks at the state. -/
theorem KeepsNext.execSrd {d : Sc} {sys : BitVec 12} : KeepsNext (execSrd d sys) := by
  intro s t h ht
  unfold Machine.execSrd at ht
  split at ht
  · exact KeepsNext.run .raise s t h ht
  · exact KeepsNext.run (.bind .wrS fun _ => .pure) s t h ht

theorem State.canonical.setSysReg (h : s.canonical) {sys : BitVec 12} {v : Word} (ht : s.setSysReg sys v = some t) :
    t.canonical := by
  unfold State.setSysReg at ht
  dsimp only at ht
  split at ht
  case h_10 =>
    split at ht
    · cases ht
    · cases ht; exact h
  case h_11 => cases ht
  all_goals cases ht; exact h

theorem KeepsNext.execSwr {a : Sc} {sys : BitVec 12} : KeepsNext (execSwr sys a) := by
  intro s t h ht
  unfold Machine.execSwr at ht
  dsimp only at ht
  split at ht
  · exact KeepsNext.run .raise s t h ht
  · split at ht
    · exact KeepsNext.run .raise s t h ht
    · refine KeepsNext.run (.bind .rdS fun _ => .get fun _ hu => ?_) s t h ht
      split
      · exact .raise
      · next e => exact .bind (.set (hu.setSysReg e)) fun _ => .pure

theorem KeepsNext.execSwrEx : KeepsNext (execSwrEx a) :=
  .run (.bind .rdS fun _ => .get fun _ _ => .ite (.bind .updThr fun _ => .pure) (.ite (.bind .raise fun _ => .bind
    .updThr fun _ => .pure) (.bind .rpc fun _ => .bind .updThr fun _ => .pure)))

theorem State.canonical.linesWait (h : s.canonical) {die : Nat} {l : List Nat} (ht : s.linesWait die l = some t) :
    t.canonical := by
  unfold State.linesWait at ht
  split at ht
  · cases ht; exact h
  · exact h.askLines ht

theorem State.canonical.sliceWait (h : s.canonical) {core : Nat} (ht : s.sliceWait core = some t) : t.canonical :=
  h.linesWait ht

theorem State.canonical.emptySlice (h : s.canonical) : (s.emptySlice core).canonical :=
  ((h.foldl fun _ _ hu => hu.cleanHome.dropVisitor).foldl fun _ _ hu => hu.cleanSlice.dropSlice).same

theorem KeepsNext.execSwrCsplit {a : Sc} : KeepsNext (execSwrCsplit a) := by
  unfold Machine.execSwrCsplit
  refine .run (.bind .rdS fun _ => .ite .raise (.get fun _ hu => ?_))
  dsimp only
  split
  · next e =>
    split at e
    · exact .bind (.set (hu.sliceWait e)) fun _ => .park
    · cases e
  · exact .bind (.modified fun _ hu => (hu.emptySlice.ite hu).emptyStore.updCore) fun _ => .pure

theorem KeepsNext.execSwrOvh : KeepsNext (execSwrOvh a) :=
  .run (.bind .rdS fun _ => .get fun _ _ => .ite .raise (.bind (.modified fun _ hu => hu.updCore) fun _ => .pure))

theorem KeepsNext.execSwrHvec : KeepsNext (execSwrHvec a) :=
  .run (.bind .rdS fun _ => .bind (.modified fun _ hu => hu.updCore) fun _ => .pure)

theorem KeepsNext.execSwrMq : KeepsNext (execSwrMq a) :=
  .run (.bind .rdS fun _ => .ite .raise (.bind (.modified fun _ hu => hu.updCore) fun _ => .pure))

theorem KeepsNext.execSwrWdog : KeepsNext (execSwrWdog a) :=
  .run (.bind .rdS fun _ => .ite .raise (.bind (.modified fun _ hu => hu.updPart rfl) fun _ => .pure))

theorem KeepsNext.execRdtime : KeepsNext (execRdtime d) := .run (.get fun _ _ => .bind .wrS fun _ => .pure)

end Sys2Proof.Machine
end

section
/-! SUPPORT. Core events keep memory in its canonical form. -/
namespace Sys2Proof.Machine

variable {s t : State}
variable {core slot tid a quad : Nat} {m : MqMsg}

/-! ## Core events -/

theorem KeepsNext.execSharedRegisterWriteLands : KeepsNext (execSharedRegisterWriteLands core) :=
  .event fun _ hu => hu.landC

theorem State.canonical.doHandlerStart (h : s.canonical) : (doHandlerStart core s).canonical := h.startThread.ite h

theorem KeepsNext.execHandlerThreadStart : KeepsNext (execHandlerThreadStart core) :=
  .event fun _ hu => hu.doHandlerStart

theorem State.canonical.writeEntry (h : s.canonical) : (s.writeEntry a m).canonical :=
  (h.foldl fun _ _ hu => hu.homeWrite).examineSpan.setTag.examine.homeWrite.setTag.examine

theorem State.canonical.refuseMsg (h : s.canonical) : (s.refuseMsg core m).canonical := h.updCore.ite h.answer

theorem State.canonical.invalidated (h : s.canonical) {core : Nat} {m : MqMsg} {named : Option (List Nat)} :
    (s.invalidated core m named).canonical := by
  have hc : (State.coherent { s with dirs := mapDel s.dirs (m.line / 64) } m.waiter).1.canonical := h.same.coherent
  unfold State.invalidated
  dsimp only
  generalize State.coherent { s with dirs := mapDel s.dirs (m.line / 64) } m.waiter = q at hc ⊢
  have hs (l : List (Nat × Dir)) (b : Bool) : State.canonical (if b then q.1 else { q.1 with dirs := l }) :=
    hc.ite hc.same
  split
  · exact hs _ _
  · exact (hs _ _).sendReply.ite (hs _ _)
  · exact (hs _ _).answer

theorem State.canonical.noEntry (h : s.canonical) : (s.noEntry core m).canonical := by
  unfold State.noEntry
  split
  · split
    · exact h.same
    · exact h
  · exact h.invalidated.ite h.refuseMsg

theorem State.canonical.doMessage (h : s.canonical) {kind : Nat} : (doMessage kind core s).canonical := by
  unfold Machine.doMessage
  split
  · exact h
  · split
    · exact h
    · dsimp only
      split
      · exact h.updCore.noEntry
      · exact h.updCore.writeEntry.updCore

theorem KeepsNext.execSpawnRequestMessage : KeepsNext (execSpawnRequestMessage core) :=
  .event fun _ hu => hu.doMessage

theorem KeepsNext.execMigrationArrival : KeepsNext (execMigrationArrival core) := .event fun _ hu => hu.doMessage
theorem KeepsNext.execSharerOverflow : KeepsNext (execSharerOverflow core) := .event fun _ hu => hu.doMessage
theorem KeepsNext.execOverflowWrite : KeepsNext (execOverflowWrite core) := .event fun _ hu => hu.doMessage

theorem State.canonical.acceptMigr (h : s.canonical) {ctx : MigrCtx} : (s.acceptMigr core slot ctx).canonical := by
  unfold State.acceptMigr
  split
  · exact h
  · split
    · exact h
    · exact h.ite h.same.updCore.slotFreed.setThread.updCore.progress

theorem State.canonical.actOn (h : s.canonical) {v : Nat} : (s.actOn core a m v).canonical := by
  unfold State.actOn
  split
  · exact h.invalidated
  · split
    · exact h.refuseMsg
    · split
      · exact h.refuseMsg
      · split
        · exact h.startThread.answer
        · exact h.acceptMigr
        · exact h

theorem State.canonical.doReplyTaken (h : s.canonical) : (doReplyTaken core s).canonical := by
  unfold Machine.doReplyTaken
  split
  · exact h
  · exact h.ite h.updCore.actOn

theorem State.canonical.doReplyTimeout (h : s.canonical) : (doReplyTimeout core s).canonical := by
  unfold Machine.doReplyTimeout
  split
  · exact h
  · exact h.ite h.updCore.actOn

theorem KeepsNext.execMessageReplyTaken : KeepsNext (execMessageReplyTaken core) := .event fun _ hu => hu.doReplyTaken

theorem KeepsNext.execMessageReplyTimeout : KeepsNext (execMessageReplyTimeout core) :=
  .event fun _ hu => hu.doReplyTimeout

theorem State.canonical.doSpawnRefused (h : s.canonical) : (doSpawnRefused tid s).canonical := by
  unfold Machine.doSpawnRefused
  split
  · exact h
  · split
    · exact h.setThread.progress.ite h.setThread.updCore
    · exact h

theorem KeepsNext.execSpawnRefused : KeepsNext (execSpawnRefused slot) := .event fun _ hu => hu.doSpawnRefused

theorem State.canonical.doMigrResend (h : s.canonical) : (doMigrResend tid s).canonical := by
  unfold Machine.doMigrResend
  split
  · exact h
  · split
    · exact h.setThread.ite h
    · exact h

theorem KeepsNext.execMigrationResend : KeepsNext (execMigrationResend slot) := .event fun _ hu => hu.doMigrResend

theorem State.canonical.doTaskDispatch (h : s.canonical) : (doTaskDispatch quad s).canonical := by
  unfold Machine.doTaskDispatch
  dsimp only
  split
  · exact h
  · split
    · exact h.setQuad.startThread
    · exact h

theorem KeepsNext.execTaskDispatch : KeepsNext (execTaskDispatch quad) := .event fun _ hu => hu.doTaskDispatch

theorem State.canonical.doTrapEntry (h : s.canonical) : (doTrapEntry tid s).canonical := by
  unfold Machine.doTrapEntry
  split
  · exact h
  · split
    · exact h.ite h.enterTrap
    · exact h

theorem KeepsNext.execTrapEntry : KeepsNext (execTrapEntry slot) := .event fun _ hu => hu.doTrapEntry

theorem State.canonical.doManagementEnd (h : s.canonical) : (doManagementEnd tid s).canonical := by
  unfold Machine.doManagementEnd
  split
  · exact h
  · exact h.endThread.ite h

theorem KeepsNext.execManagementThreadEnd : KeepsNext (execManagementThreadEnd slot) :=
  .event fun _ hu => hu.doManagementEnd

end Sys2Proof.Machine
end

section
/-! SUPPORT. Events of the network keep memory in its canonical form. -/
namespace Sys2Proof.Machine

variable {s t : State}
variable {pkg core rtag seq size port addr home v index : Nat} {o : OutReq} {op : HostOp} {rep : Reply} {tag : Tag}

/-! ## The network -/

theorem State.canonical.takeMsg (h : s.canonical) {pkg : Nat} {f : Msg → Bool} {m : Msg}
    (ht : s.takeMsg pkg f = some (m, t)) : t.canonical := by
  unfold State.takeMsg at ht
  dsimp only at ht
  split at ht
  · cases ht
  · split at ht
    · split at ht
      · next e => cases ht; exact h.setPkg.request e
      · cases ht
    · cases ht; exact h

theorem State.canonical.serve (h : s.canonical) {w : Waiter} : (s.serve pkg w).canonical := by
  unfold State.serve
  split
  · exact h.same.sendReply
  · split
    · next e => exact (h.applyReq.of_pair e).sendReply
    · next e => exact (h.applyReq.of_pair e).sendReply
    · next e => exact (h.applyReq.of_pair e).answer
    · next e => exact (h.applyReq.of_pair e).sendReply.ite (h.applyReq.of_pair e)

theorem State.canonical.doRequestArrival (h : s.canonical) : (doRequestArrival pkg s).canonical := by
  unfold Machine.doRequestArrival
  split
  · exact h
  · next e =>
      split
      · dsimp only
        split
        · exact (h.takeMsg e).serve
        · split
          · exact (h.takeMsg e).sendReply.ite ((h.takeMsg e).ite (h.takeMsg e).serve)
          · exact (h.takeMsg e).serve.ite (h.takeMsg e).sendReply
      · exact h.takeMsg e

theorem State.canonical.doReachNote (h : s.canonical) : (doReachNote pkg s).canonical := by
  unfold Machine.doReachNote
  split
  · exact h
  · next e =>
      split
      · exact (h.takeMsg e).serve
      · exact h.takeMsg e

theorem State.canonical.dropReq (h : s.canonical) : (s.dropReq core o).canonical := h.updCore
theorem State.canonical.lateReply (h : s.canonical) : (s.lateReply core).canonical := h.updCore

theorem State.canonical.storeDone (h : s.canonical) {tid va : Nat} : (s.storeDone tid va o rep).canonical := by
  unfold State.storeDone
  dsimp only
  split
  · exact h.updThread.ite h.updThread.unbegin.grantGrow.updThread.takeTrap
  · exact h.updThread

theorem State.canonical.finishReq (h : s.canonical) : (s.finishReq core o rep).canonical := by
  unfold State.finishReq
  dsimp only
  split
  · exact h.dropReq.storeDone
  · exact h.dropReq.mailTo

theorem State.canonical.logResent (h : s.canonical) : (s.logResent core o).canonical := h.logError.ite h

theorem State.canonical.doReplyArrival (h : s.canonical) : (doReplyArrival pkg s).canonical := by
  unfold Machine.doReplyArrival
  split
  · exact h
  · next e =>
      split
      · exact (h.takeMsg e).logResent.finishReq
      · exact (h.takeMsg e).lateReply

theorem State.canonical.doReachNoteAck (h : s.canonical) : (doReachNoteAck pkg s).canonical := by
  unfold Machine.doReachNoteAck
  split
  · exact h
  · next e =>
      split
      · dsimp only
        split
        · exact (h.takeMsg e).logResent.dropReq.updPkg.ite (h.takeMsg e).logResent.dropReq
        · exact (h.takeMsg e).logResent.dropReq
      · exact h.takeMsg e

theorem State.canonical.updReq (h : s.canonical) {f : OutReq → OutReq} : (s.updReq core o f).canonical := h.updCore

theorem State.canonical.doListedNotice (h : s.canonical) : (doListedNotice pkg s).canonical := by
  unfold Machine.doListedNotice
  split
  · exact h
  · next e =>
      split
      · exact (h.takeMsg e).updReq
      · exact (h.takeMsg e).lateReply

theorem State.canonical.doBusyReply (h : s.canonical) : (doBusyReply pkg s).canonical := by
  unfold Machine.doBusyReply
  split
  · exact h
  · next e =>
      split
      · exact (h.takeMsg e).updReq.updPkg
      · exact (h.takeMsg e).lateReply

theorem State.canonical.sendAgain (h : s.canonical) : (s.sendAgain core o).canonical := by
  unfold State.sendAgain
  split <;> exact h.send

theorem State.canonical.doBusyResend (h : s.canonical) : (doBusyResend core rtag s).canonical := by
  unfold Machine.doBusyResend
  split
  · exact h
  · split
    · exact h
    · exact h.finishReq.ite (h.updReq.sendAgain.ite h)

theorem State.canonical.resend (h : s.canonical) : (s.resend core o).canonical := h.updReq.updCore.sendAgain
theorem State.canonical.cpGiveUp (h : s.canonical) : (s.cpGiveUp core o).canonical := h.dropReq.updCore

theorem State.canonical.doRequestResend (h : s.canonical) : (doRequestResend core rtag s).canonical := by
  unfold Machine.doRequestResend
  split
  · exact h
  · split
    · exact h
    · exact h.ite (h.cpGiveUp.ite h.resend)

theorem State.canonical.doRemoteTimeout (h : s.canonical) : (doRemoteTimeout core rtag s).canonical := by
  unfold Machine.doRemoteTimeout
  split
  · exact h
  · split
    · exact h
    · exact h.ite (h.resend.ite (h.cpGiveUp.ite h.finishReq))

theorem State.canonical.doReplayExpiry (h : s.canonical) : (doReplayExpiry pkg s).canonical := h.updPkg

theorem State.canonical.doRetryExamine (h : s.canonical) : (doRetryExamine home s).canonical := by
  unfold Machine.doRetryExamine
  refine h.foldl fun _ _ hu => ?_
  split
  · exact hu.examine
  · exact hu

theorem State.canonical.doRetryResend (h : s.canonical) : (doRetryResend seq s).canonical := by
  unfold Machine.doRetryResend
  split
  · exact h
  · split
    · exact h
    · split
      · dsimp only
        split
        · next e => exact h.same.applyReq.of_pair e
        · next e => exact (h.same.applyReq.of_pair e).answer
        · next e => exact h.same.applyReq.of_pair e
      · exact h

theorem State.canonical.doSyncTimeout (h : s.canonical) : (doSyncTimeout seq s).canonical := by
  unfold Machine.doSyncTimeout
  split
  · exact h
  · exact h.same.answer.ite h

theorem State.canonical.doRegistration (h : s.canonical) : (doRegistration pkg s).canonical := by
  unfold Machine.doRegistration
  split
  · exact h
  · next e =>
      split
      · exact (h.takeMsg e).updPkg
      · exact h.takeMsg e

theorem KeepsNext.execRegistrationMessage : KeepsNext (execRegistrationMessage pkg) :=
  .event fun _ hu => hu.doRegistration

theorem State.canonical.deliverAt (h : s.canonical) {pa : Nat} {data : List Byte} {fe unc : Bool} :
    (s.deliverAt pa data fe unc).canonical := by
  unfold State.deliverAt
  refine foldl ?_ fun _ _ hu => hu.examine
  split
  · exact (h.dropDirs.writeCells.writeCells.flushSpan.ite h.dropDirs.writeCells.writeCells).setTag
  · exact h.dropDirs.writeCells.writeCells.flushSpan.ite h.dropDirs.writeCells.writeCells

theorem State.canonical.doMcastDelivery (h : s.canonical) : (doMcastDelivery pkg s).canonical := by
  unfold Machine.doMcastDelivery
  split
  · exact h
  · next e =>
      split
      · dsimp only
        split
        · exact h.takeMsg e
        · split
          · exact (h.takeMsg e).foldl fun _ _ hu => hu.sendOn.ite hu
          · split
            · split
              · exact ((h.takeMsg e).foldl fun _ _ hu => hu.sendOn.ite hu).foldl fun _ _ hu => hu.send
              · split
                · exact (h.takeMsg e).foldl fun _ _ hu => hu.sendOn.ite hu
                · split
                  · next e1 => exact h.askLines e1
                  · exact (((h.takeMsg e).foldl fun _ _ hu => hu.sendOn.ite hu).foldl fun _ _ hu =>
                      hu.deliverAt).recordReplay.foldl fun _ _ hu => hu.send
            · split
              · split
                · next e1 => exact h.askLines e1
                · exact (((h.takeMsg e).foldl fun _ _ hu => hu.sendOn.ite hu).foldl fun _ _ hu =>
                    hu.deliverAt).recordReplay.foldl fun _ _ hu => hu.send
              · exact ((h.takeMsg e).foldl fun _ _ hu => hu.sendOn.ite hu).send
      · exact h.takeMsg e

theorem State.canonical.doMcastAck (h : s.canonical) : (doMcastAck pkg s).canonical := by
  unfold Machine.doMcastAck
  split
  · exact h
  · next e =>
      split
      · exact (h.takeMsg e).lateReply
      · split
        · exact h.takeMsg e
        · exact (h.takeMsg e).logResent.updPkg.finishReq.ite (h.takeMsg e).updPkg

theorem State.canonical.mailboxReq (h : s.canonical) {la : Nat} {a : HostOp} :
    (s.mailboxReq pkg la size v a).1.canonical := by
  unfold State.mailboxReq
  split
  · exact h
  · exact h.updPkg
  · exact h

theorem State.canonical.hostArrives (h : s.canonical) {m : Msg} :
    (s.hostArrives pkg port m op addr size v).canonical := by
  unfold State.hostArrives
  dsimp only
  split
  · exact h
  · split
    · exact h.mailboxReq.sendReply
    · split
      · exact h.sendReply
      · exact h.sendReply.ite (h.foldl fun _ _ hu => hu.flitArrives)

theorem State.canonical.doHostRequest (h : s.canonical) {v : Word} :
    (doHostRequest pkg port op addr size v tag s).canonical := by
  unfold Machine.doHostRequest
  split
  · exact h
  · dsimp only
    split
    · exact h.mailboxReq.updPkg.ite h
    · exact h.ite h.same.updLink

theorem State.canonical.markParents (h : s.canonical) {t : Tag} : (s.markParents pkg t).canonical :=
  h.foldl fun _ _ hu => (hu.setEx.lapse.ite hu.setEx).ite hu

theorem State.canonical.waveAt (h : s.canonical) {t : Tag} : (s.waveAt pkg t).canonical :=
  ((h.updPkg.markParents.foldl fun _ _ hu => hu.annul.ite hu).same.foldl fun _ _ hu =>
    hu.updCore.mxDrop.cpAnnul.updCore.ite hu).collAnnul

theorem State.canonical.doWaveArrival (h : s.canonical) : (doWaveArrival pkg s).canonical := by
  unfold Machine.doWaveArrival
  split
  · exact h
  · next e =>
      split
      · exact (h.takeMsg e).waveAt.send
      · exact h.takeMsg e

theorem State.canonical.countDone (h : s.canonical) {t : Tag} : (s.countDone t).canonical := h.updPkg.setEx

theorem State.canonical.doWaveComplete (h : s.canonical) : (doWaveComplete pkg index s).canonical :=
  (h.countDone.ite h).setEx.ite (h.countDone.ite h)

theorem KeepsNext.execRemoteRequestArrival : KeepsNext (execRemoteRequestArrival pkg) :=
  .event fun _ hu => hu.doRequestArrival

theorem KeepsNext.execReplyArrival : KeepsNext (execReplyArrival pkg) := .event fun _ hu => hu.doReplyArrival
theorem KeepsNext.execListedNotice : KeepsNext (execListedNotice pkg) := .event fun _ hu => hu.doListedNotice
theorem KeepsNext.execBusyReply : KeepsNext (execBusyReply pkg) := .event fun _ hu => hu.doBusyReply
theorem KeepsNext.execBusyResend : KeepsNext (execBusyResend core rtag) := .event fun _ hu => hu.doBusyResend
theorem KeepsNext.execRequestResend : KeepsNext (execRequestResend core rtag) := .event fun _ hu => hu.doRequestResend

theorem KeepsNext.execRemoteTimeoutExpiry : KeepsNext (execRemoteTimeoutExpiry core rtag) :=
  .event fun _ hu => hu.doRemoteTimeout

theorem KeepsNext.execReplayEntryExpiry : KeepsNext (execReplayEntryExpiry pkg) :=
  .event fun _ hu => hu.doReplayExpiry

theorem KeepsNext.execRetryListExamine : KeepsNext (execRetryListExamine home) := .event fun _ hu => hu.doRetryExamine
theorem KeepsNext.execRetryListResend : KeepsNext (execRetryListResend seq) := .event fun _ hu => hu.doRetryResend
theorem KeepsNext.execSyncTimeout : KeepsNext (execSyncTimeout seq) := .event fun _ hu => hu.doSyncTimeout
theorem KeepsNext.execUnpickWaveArrival : KeepsNext (execUnpickWaveArrival pkg) := .event fun _ hu => hu.doWaveArrival
theorem KeepsNext.execWaveComplete : KeepsNext (execWaveComplete pkg index) := .event fun _ hu => hu.doWaveComplete
theorem KeepsNext.execReachNote : KeepsNext (execReachNote pkg) := .event fun _ hu => hu.doReachNote
theorem KeepsNext.execReachNoteAck : KeepsNext (execReachNoteAck pkg) := .event fun _ hu => hu.doReachNoteAck

theorem KeepsNext.execMulticastDelivery : KeepsNext (execMulticastDelivery pkg) :=
  .event fun _ hu => hu.doMcastDelivery

theorem KeepsNext.execMulticastAck : KeepsNext (execMulticastAck pkg) := .event fun _ hu => hu.doMcastAck

theorem KeepsNext.execHostRequest {value : Word} : KeepsNext (execHostRequest pkg port op addr size value tag) :=
  .event fun _ hu => hu.doHostRequest

end Sys2Proof.Machine
end

section
/-! SUPPORT. Events of the fabric, grammars, and the scalar and mask instructions keep memory in its canonical form. -/
namespace Sys2Proof.Machine

variable {s t : State}
variable {d a c : Sc} {b : Src2} {pkg port die n core : Nat} {z ok : Bool} {i : Instr} {lost : List Nat}
variable {f : Word → Word → Word} {va : Word}

/-! ## The fabric -/

theorem State.canonical.linkArrives (h : s.canonical) {f : Flit} : (s.linkArrives pkg port f).canonical := by
  unfold State.linkArrives
  split
  · exact h.hostArrives
  · exact h.flitArrives

theorem State.canonical.doFrameReceive (h : s.canonical) : (doFrameReceive pkg port ok lost s).canonical := by
  unfold Machine.doFrameReceive
  dsimp only
  split
  · exact h
  · exact (h.updLink.updLink.ite h.updLink).ite ((h.updLink.countDrop.foldl fun _ _ hu => hu.linkArrives).ite
      h.updLink.countDrop.badFrame)

theorem KeepsNext.execFlitQueueTimeout : KeepsNext (execFlitQueueTimeout pkg port) :=
  .event fun _ hu => hu.doFlitQueueTimeout

theorem KeepsNext.execFrameSend : KeepsNext (execFrameSend pkg port) := .event fun _ hu => hu.doFrameSend

theorem KeepsNext.execFrameReceive : KeepsNext (execFrameReceive pkg port ok lost) :=
  .event fun _ hu => hu.doFrameReceive

theorem KeepsNext.execKeyStage {key : BitVec 256} : KeepsNext (execKeyStage pkg port key) :=
  .event fun _ hu => hu.doKeyStage

theorem KeepsNext.execKeySwitch : KeepsNext (execKeySwitch pkg port) := .event fun _ hu => hu.doKeySwitch
theorem KeepsNext.execKeyExhaustion : KeepsNext (execKeyExhaustion pkg port) := .event fun _ hu => hu.doKeyExhaustion

theorem KeepsNext.execPatternTableWrite {entry : Nat} {v : BitVec 8} :
    KeepsNext (execPatternTableWrite pkg port entry v) :=
  .event fun _ hu => hu.doPatternTableWrite

theorem KeepsNext.execFanOutEntryWrite {v : Fan} : KeepsNext (execFanOutEntryWrite pkg n v) :=
  .event fun _ hu => hu.doFanOutEntryWrite

theorem KeepsNext.execHostWindowWrite {v : Window} : KeepsNext (execHostWindowWrite pkg port n v) :=
  .event fun _ hu => hu.doHostWindowWrite

/-! ## Grammars -/

theorem Keeps.tableFault {α : Type} {reason addr : Nat} : Keeps (tableFault reason addr : M α) := .raiseAt

theorem KeepsV.tableFault {reason addr : Nat} : KeepsV (tableFault reason addr) := .stop .tableFault nofun

theorem State.canonical.unitLeave (h : s.canonical) {qn uid : Nat} : (s.unitLeave qn uid).canonical := h.updQuad

theorem Keeps.gmUnit {α : Type} {body : M α} (hbody : Keeps body) : Keeps (gmUnit body : M α) := by
  intro s h
  unfold Machine.gmUnit
  dsimp only
  split
  · split
    · exact h
    · split
      · next e => exact (hbody.ok h e).unitLeave
      · next e => exact ((hbody.error h e).ite h).unitLeave
      · next e => exact hbody.error h e
  · split
    · exact h
    · split
      · next e => exact (hbody.ok h.updQuad e).unitLeave
      · next e => exact ((hbody.error h.updQuad e).ite h).unitLeave
      · next e => exact hbody.error h.updQuad e

theorem KeepsNext.execGmload : KeepsNext (execGmload a) :=
  .run (.gmUnit (.bind .rdS fun _ => .ite .misaligned (.bind .transSpan fun _ => .bind .loadN fun _ => .ite
    .tableFault (.bind (.modified fun _ hu => hu.updQuad) fun _ => .pure))))

theorem Keeps.grammarCtx {a : Word} : Keeps (grammarCtx a) := by
  unfold Machine.grammarCtx
  refine .get fun _ _ => ?_
  split
  · split
    · exact .tableFault
    · exact .pure
  · exact .tableFault

theorem Keeps.setCtx {n : Fin 16} {c : GCtx} : Keeps (setCtx n c) := .modified fun _ hu => hu.updQuad

theorem KeepsNext.execGmstep {b : Sc} : KeepsNext (execGmstep d a b) := by
  unfold Machine.execGmstep
  refine .run (.gmUnit (.bind .rdS fun _ => .bind .rdS fun _ => .bind .grammarCtx fun _ => .ite .tableFault (.get
    fun _ _ => .bind .loadVa fun _ => .ite .tableFault ?_)))
  exact .bind .loadVa fun _ => .ite .tableFault (.ite .tableFault (.ite .raiseAt (.ite .raiseAt (.ite .tableFault
    (.bind .setCtx fun _ => .bind .wrS fun _ => .pure)))))

theorem KeepsNext.execGmstepRst : KeepsNext (execGmstepRst d a) :=
  .run (.gmUnit (.bind .rdS fun _ => .bind .grammarCtx fun _ => .bind .setCtx fun _ => .bind .wrS fun _ => .pure))

theorem Keeps.maskRow {g : Grammar} {n : Fin 16} {c : Nat} : Keeps (maskRow g n c) := by
  unfold Machine.maskRow
  refine .get fun _ _ => ?_
  dsimp only
  split
  · exact .bind .pure fun _ => .bind (.modified fun _ hu => hu.updQuad) fun _ => .pure
  · exact .bind .loadSpan fun _ => .bind .pure fun _ => .bind (.modified fun _ hu => hu.updQuad) fun _ => .pure

theorem KeepsNext.execGmmask {d : VReg} {b : Sc} : KeepsNext (execGmmask d a b) :=
  .run (.gmUnit (.vBody (.bind .rdS fun _ => .bind .rdS fun _ => .bind .grammarCtx fun _ => .bind .oldV fun _ => .ite
    .tableFault (.bind .maskRow fun _ => .pure .pure))))

theorem KeepsNext.execGmmaskK {d : KReg} {b : Sc} : KeepsNext (execGmmaskK d a b) :=
  .run (.gmUnit (.bind .rdS fun _ => .bind .rdS fun _ => .bind .grammarCtx fun _ => .ite .tableFault (.bind .maskRow
    fun _ => .bind .wrK fun _ => .pure)))

/-! ## Scalar instructions -/

theorem KeepsNext.alu : KeepsNext (alu i d a b f) :=
  .run (.bind .rdS fun _ => .bind .rdSrc2 fun _ => .bind .wrS fun _ => .pure)

theorem KeepsNext.alu1 {f : Word → Word} : KeepsNext (alu1 i d a f) :=
  .run (.bind .rdS fun _ => .bind .wrS fun _ => .pure)

theorem KeepsNext.divide : KeepsNext (divide i d a b f) :=
  .run (.bind .rdS fun _ => .bind .rdSrc2 fun _ => .ite .raise (.bind .wrS fun _ => .pure))

theorem KeepsNext.loadConst {v : Word} : KeepsNext (loadConst i d v) := .run (.bind .wrS fun _ => .pure)
theorem KeepsNext.execAdd : KeepsNext (execAdd d a b) := .alu
theorem KeepsNext.execSub : KeepsNext (execSub d a b) := .alu
theorem KeepsNext.execMul : KeepsNext (execMul d a b) := .alu
theorem KeepsNext.execMulh : KeepsNext (execMulh z d a b) := .alu
theorem KeepsNext.execDiv : KeepsNext (execDiv z d a b) := .divide
theorem KeepsNext.execRem : KeepsNext (execRem z d a b) := .divide
theorem KeepsNext.execAnd : KeepsNext (execAnd d a b) := .alu
theorem KeepsNext.execOr : KeepsNext (execOr d a b) := .alu
theorem KeepsNext.execXor : KeepsNext (execXor d a b) := .alu
theorem KeepsNext.execAndn : KeepsNext (execAndn d a b) := .alu
theorem KeepsNext.execShl : KeepsNext (execShl d a b) := .alu
theorem KeepsNext.execShr : KeepsNext (execShr d a b) := .alu
theorem KeepsNext.execSar : KeepsNext (execSar d a b) := .alu
theorem KeepsNext.execMin : KeepsNext (execMin z d a b) := .alu
theorem KeepsNext.execMax : KeepsNext (execMax z d a b) := .alu
theorem KeepsNext.execSetc {cc : Cond} : KeepsNext (execSetc cc z d a b) := .alu
theorem KeepsNext.execClz : KeepsNext (execClz d a) := .alu1
theorem KeepsNext.execCtz : KeepsNext (execCtz d a) := .alu1
theorem KeepsNext.execPopc : KeepsNext (execPopc d a) := .alu1
theorem KeepsNext.execBfx {b : Sc} : KeepsNext (execBfx z d a b) := .alu
theorem KeepsNext.execBfxImm {pos : BitVec 6} {width : BitVec 7} : KeepsNext (execBfxImm z d a pos width) := .alu1

theorem KeepsNext.execBfi {b : Sc} : KeepsNext (execBfi d a b c) :=
  .run (.bind .rdS fun _ => .bind .rdS fun _ => .bind .rdS fun _ => .bind .wrS fun _ => .pure)

theorem KeepsNext.execSel : KeepsNext (execSel d a b c) :=
  .run (.bind .rdS fun _ => .bind .rdSrc2 fun _ => .bind .rdS fun _ => .bind .wrS fun _ => .pure)

theorem KeepsNext.execLi {v : BitVec 27} : KeepsNext (execLi d v) := .loadConst
theorem KeepsNext.execLi96 {v : BitVec 32} : KeepsNext (execLi96 d v) := .loadConst
theorem KeepsNext.execLi128 {v : BitVec 64} : KeepsNext (execLi128 d v) := .loadConst

theorem KeepsNext.execLea : KeepsNext (execLea d b) :=
  .run (.bind .getThr fun _ => .bind .rdSrc2 fun _ => .bind .wrS fun _ => .pure)

theorem KeepsNext.execMov : KeepsNext (execMov d a) := .alu1

/-! ## Mask instructions -/

theorem KeepsNext.mask2 {d a b : KReg} {f : Mask → Mask → Mask} : KeepsNext (mask2 i d a b f) :=
  .run (.bind .rdK fun _ => .bind .rdK fun _ => .bind .wrK fun _ => .pure)

theorem KeepsNext.execKand {d a b : KReg} : KeepsNext (execKand d a b) := .mask2
theorem KeepsNext.execKor {d a b : KReg} : KeepsNext (execKor d a b) := .mask2
theorem KeepsNext.execKxor {d a b : KReg} : KeepsNext (execKxor d a b) := .mask2
theorem KeepsNext.execKnot {d a : KReg} : KeepsNext (execKnot d a) := .mask2

theorem KeepsNext.execKpopc {a : KReg} : KeepsNext (execKpopc d a) :=
  .run (.bind .rdK fun _ => .bind .wrS fun _ => .pure)

theorem KeepsNext.execKfirst {a : KReg} : KeepsNext (execKfirst d a) :=
  .run (.bind .rdK fun _ => .bind .wrS fun _ => .pure)

theorem KeepsNext.execKmov {d a : KReg} : KeepsNext (execKmov d a) := .mask2

/-! ## Page walks and shootdowns -/

theorem State.canonical.doPageWalk (h : s.canonical) : (doPageWalk core va s).canonical := by
  unfold Machine.doPageWalk
  dsimp only
  split
  · exact h
  · split
    · exact h
    · exact h.updDie.updCore.updQuad

theorem KeepsNext.execPageWalk : KeepsNext (execPageWalk core va) := .event fun _ hu => hu.doPageWalk

theorem State.canonical.doShootRequest (h : s.canonical) {die : Nat} : (doShootRequest die s).canonical := by
  unfold Machine.doShootRequest
  dsimp only
  split
  · exact h
  · exact h.ite h.setTag.examine.same

theorem State.canonical.doShootDone (h : s.canonical) : (doShootDone die s).canonical := by
  unfold Machine.doShootDone
  dsimp only
  split
  · exact h.ite h.updDie.homeWrite.setTag.examine
  · exact h

theorem KeepsNext.execShootdownRequest : KeepsNext (execShootdownRequest die) := .event fun _ hu => hu.doShootRequest
theorem KeepsNext.execShootdownDone : KeepsNext (execShootdownDone die) := .event fun _ hu => hu.doShootDone

end Sys2Proof.Machine
end

section
/-! SUPPORT. Events of power and heat, and the life of a partition, keep memory in its canonical form. -/
namespace Sys2Proof.Machine

variable {s t : State}
variable {part pkg die p src dst core avg slot reserve port : Nat} {dies cool grants cores : List Nat}
variable {save consistent : Bool} {i : FwImage} {req : AttestReq}

/-! ## Power and heat -/

theorem State.canonical.disableSlot (h : s.canonical) : (s.disableSlot core slot).canonical := h.updCore

theorem State.canonical.doCurrentDisable (h : s.canonical) : (doCurrentDisable die avg s).canonical := by
  unfold Machine.doCurrentDisable
  split
  · exact h
  · split
    · exact h
    · split
      · exact h
      · exact h.disableSlot.updDie

theorem State.canonical.doThermalDisable (h : s.canonical) : (doThermalDisable core s).canonical := by
  unfold Machine.doThermalDisable
  split
  · exact h
  · split
    · exact h
    · exact h.disableSlot.updCore

theorem State.canonical.grantDie (h : s.canonical) {grant : Nat} : (s.grantDie die grant avg cool).canonical := by
  unfold State.grantDie
  dsimp only
  split
  · exact h.updDie.updCore
  · exact h.updDie

theorem State.canonical.doPowerGrant (h : s.canonical) {avg : List Nat} :
    (doPowerGrant pkg grants avg reserve cool s).canonical :=
  (h.updPkg.foldl fun _ _ hu => hu.grantDie).ite h

theorem KeepsNext.execPowerGrant {avg : List Nat} : KeepsNext (execPowerGrant pkg grants avg reserve cool) :=
  .event fun _ hu => hu.doPowerGrant

theorem KeepsNext.execCurrentSlotDisable : KeepsNext (execCurrentSlotDisable die avg) :=
  .event fun _ hu => hu.doCurrentDisable

theorem KeepsNext.execThermalSlotDisable : KeepsNext (execThermalSlotDisable core) :=
  .event fun _ hu => hu.doThermalDisable

theorem State.canonical.doRankingWrite (h : s.canonical) : (doRankingWrite die cores s).canonical := h.updDie

theorem KeepsNext.execThermalRankingTableWrite : KeepsNext (execThermalRankingTableWrite die cores) :=
  .event fun _ hu => hu.doRankingWrite

theorem State.canonical.doDisplacement (h : s.canonical) {tid : Nat} : (doDisplacement tid s).canonical := by
  unfold Machine.doDisplacement
  dsimp only
  split
  · exact h
  · split
    · exact h
    · split
      · exact h
      · exact (h.same.updCore.ite h.same.updCore.updQuad).setThread.updCore.slotFreed.grantGrow

theorem KeepsNext.execHardwareDisplacement : KeepsNext (execHardwareDisplacement slot) :=
  .event fun _ hu => hu.doDisplacement

/-! ## The live migration of a core -/

theorem State.canonical.moveAddrs (h : s.canonical) {f : Nat → Nat} : (s.moveAddrs f).canonical := h.same

theorem State.canonical.moveStore (h : s.canonical) {src dst size : Nat} : (s.moveStore src dst size).canonical := by
  unfold State.moveStore
  refine State.canonical.clearStore (.foldl (.foldl (.foldl (.foldl h.clearStore ?_) ?_) ?_) ?_)
  · exact fun u c hu => hu.bytes (Memory.wf_write hu.1 _ _) hu.2.2
  · exact fun _ _ hu => hu.setTag
  · exact fun _ _ hu => hu.setSeam
  · exact fun _ _ hu => hu.same

theorem State.canonical.moveThreads (h : s.canonical) : (s.moveThreads src dst).canonical :=
  (h.ite h.updQuad).foldl fun _ _ hu => hu.same.setThread

theorem State.canonical.moveBarriers (h : s.canonical) : (s.moveBarriers src dst).canonical := by
  unfold State.moveBarriers
  refine h.foldl fun _ _ hu => ?_
  dsimp only
  split
  · exact hu
  · exact hu.same

theorem State.canonical.moveQuadBarriers (h : s.canonical) : (s.moveQuadBarriers src dst).canonical :=
  h.ite (h.foldl fun _ _ hu => hu.ite hu.same.barrierCheck.barrierCheck)

theorem State.canonical.moveCore (h : s.canonical) {src dst : Nat} : (s.moveCore src dst).canonical := by
  unfold State.moveCore
  dsimp only
  refine State.canonical.examineSpan (State.canonical.same (s := State.moveQuadBarriers (State.moveBarriers
    (State.moveThreads (State.moveStore _ src dst _) src dst) src dst) src dst) ?_)
  exact (h.emptySlice.ite h).clearStore.moveStore.moveThreads.moveBarriers.moveQuadBarriers

theorem State.canonical.doCoreMigration (h : s.canonical) {src dst : Nat} : (doCoreMigration src dst s).canonical := by
  unfold Machine.doCoreMigration
  dsimp only
  split
  · exact h
  · split
    · exact h
    · split
      · exact h
      · split
        · split
          · next e =>
            split at e
            · exact State.canonical.sliceWait (State.canonical.same h) e
            · cases e
          · exact State.canonical.moveCore (State.canonical.same h)
        · exact h

theorem KeepsNext.execCoreMigrationRequest : KeepsNext (execCoreMigrationRequest src dst) :=
  .event fun _ hu => hu.doCoreMigration

theorem State.canonical.doForwardClear (h : s.canonical) : (doForwardClear src s).canonical := h.updDie

theorem KeepsNext.execForwardingEntryClear : KeepsNext (execForwardingEntryClear src) :=
  .event fun _ hu => hu.doForwardClear

/-! ## The life of a partition -/

theorem State.canonical.clearStores (h : s.canonical) {dies : List Nat} : (s.clearStores dies).canonical :=
  h.bytes (Memory.wf_filter h.1 _) h.2.2

theorem State.canonical.examineStores (h : s.canonical) : (s.examineStores dies).canonical :=
  h.foldl fun _ _ hu => hu.examine

theorem State.canonical.dropWalks (h : s.canonical) : (s.dropWalks dies).canonical := h.same

theorem State.canonical.restartDies (h : s.canonical) {dies : List Nat} : (s.restartDies dies).canonical := by
  unfold State.restartDies
  have hd : (s.dropWalks dies).canonical := h.dropWalks
  exact State.canonical.examineStores (State.canonical.clearStores hd.same)

theorem State.canonical.resetPart (h : s.canonical) {p : Nat} : (s.resetPart p).canonical := by
  unfold State.resetPart
  exact State.canonical.setPart (State.canonical.restartDies h.same) nofun

theorem State.canonical.withdrawWaits (h : s.canonical) : (s.withdrawWaits p).canonical := by
  unfold State.withdrawWaits
  refine h.foldl fun _ _ hu => ?_
  dsimp only
  split
  · split
    · exact (hu.same.updCore.ite hu.same).updThread
    · exact hu.same.updCore.ite hu.same
  · exact hu.same.updCore.ite hu.same

theorem State.canonical.doHalt (h : s.canonical) : (doHalt p save s).canonical := h.ite (h.updPart rfl).withdrawWaits

theorem Partition.startSave_image (x : Partition) (c : Nat) : (x.startSave c).image = x.image := rfl
theorem Partition.resume_image (x : Partition) : x.resume.image = x.image := rfl

theorem State.canonical.doQuiesce (h : s.canonical) {p : Nat} : (doQuiesce p s).canonical := by
  unfold Machine.doQuiesce
  refine h.ite (h.withdrawWaits.ite (h.withdrawWaits.updPart ?_))
  dsimp only
  split
  · rfl
  · split <;> rfl

theorem State.canonical.doSaveRequest (h : s.canonical) {p : Nat} : (doSaveRequest p s).canonical := by
  unfold Machine.doSaveRequest
  refine h.ite (h.updPart ?_)
  dsimp only
  split <;> rfl

theorem State.canonical.doResume (h : s.canonical) {p : Nat} : (doResume p s).canonical := by
  unfold Machine.doResume
  refine h.ite (h.updPart ?_)
  split <;> rfl

theorem State.canonical.flushL2 (h : s.canonical) : (s.flushL2 dies).canonical :=
  ((h.foldl fun _ _ hu => hu.cleanHome.dropVisitor).foldl fun _ _ hu => hu.cleanSlice.dropSlice).same

theorem State.canonical.doSaveComplete (h : s.canonical) {p : Nat} : (doSaveComplete p s).canonical := by
  unfold Machine.doSaveComplete
  have hf : (s.flushL2 (s.partAt p).dies).canonical := h.flushL2
  refine h.ite (hf.setPart fun im hi => ?_)
  cases hi
  exact Memory.wf_filter hf.1 _

theorem State.canonical.doSaveTimeout (h : s.canonical) : (doSaveTimeout p s).canonical := by
  unfold Machine.doSaveTimeout
  split
  · exact h
  · exact h.resetPart.ite h

theorem State.canonical.doRestoreRequest (h : s.canonical) {p : Nat} : (doRestoreRequest p s).canonical := by
  unfold Machine.doRestoreRequest
  refine h.ite (h.updPart ?_)
  split <;> rfl

theorem State.canonical.loadImage (h : s.canonical) {p : Nat} {im : Image} : (s.loadImage p im).canonical := by
  unfold State.loadImage
  refine State.canonical.examineStores ?_
  have hm : Memory.wf (s.mem.filter (fun c => !inStoreOf (s.partAt p).dies c.1)) = true := Memory.wf_filter h.1 _
  exact h.bytes (Memory.wf_writes hm _) h.2.2

theorem State.canonical.endLapsed (h : s.canonical) : (s.endLapsed p).canonical :=
  (h.foldl fun _ _ hu => hu.ite hu.annul).same.foldl fun _ _ hu1 => (hu1.foldl fun _ _ hu2 => hu2.cpAnnul).ite hu1

theorem State.canonical.shiftStalls (h : s.canonical) {d : Nat} : (s.shiftStalls p d).canonical := h.same

theorem State.canonical.doRestoreComplete (h : s.canonical) : (doRestoreComplete p consistent s).canonical := by
  unfold Machine.doRestoreComplete
  split
  · exact h
  · split
    · exact h.resetPart
    · exact h.resetPart.ite (h.loadImage.endLapsed.shiftStalls.updPart rfl)

theorem State.canonical.doRestoreTimeout (h : s.canonical) : (doRestoreTimeout p s).canonical := h.resetPart.ite h

theorem State.canonical.doWatchdog (h : s.canonical) : (doWatchdog p s).canonical := by
  unfold Machine.doWatchdog
  split
  · exact h
  · exact (h.updPart rfl).logError

theorem State.canonical.doWake (h : s.canonical) : (doWake pkg port s).canonical := h.ite h.setPkg.assign
theorem State.canonical.rejectImage (h : s.canonical) : (s.rejectImage pkg die i).canonical := h.logError

theorem State.canonical.doImageSubmit (h : s.canonical) : (doImageSubmit pkg die i s).canonical := by
  unfold Machine.doImageSubmit
  dsimp only
  split
  · exact h
  · exact (h.ite (h.setPkg.updDie.ite h.rejectImage)).ite ((h.ite (h.setPkg.ite h.rejectImage)).ite ((h.setPkg.ite
      h.rejectImage).ite (h.setPkg.ite h.rejectImage)))

theorem State.canonical.doAttest (h : s.canonical) : (doAttest pkg req s).canonical := by
  unfold Machine.doAttest
  dsimp only
  split
  · exact h
  · split
    · exact h.setPkg
    · exact h.writeCells.examineSpan.ite h

theorem State.canonical.doPowerOff (h : s.canonical) {pkg : Nat} : (doPowerOff pkg s).canonical := by
  unfold Machine.doPowerOff
  refine ⟨Memory.wf_filter h.1 _, fun e he im hi => ?_, h.slice_filter⟩
  obtain ⟨x, hx, rfl⟩ := List.mem_map.mp (List.mem_of_mem_filter he)
  exact h.2.1 x hx im hi

theorem State.canonical.doPartitionCreate (h : s.canonical) {part root : Nat} {dies : List Nat} :
    (doPartitionCreate part dies root s).canonical := by
  unfold Machine.doPartitionCreate
  exact h.ite (State.canonical.setPart (h.restartDies.foldl fun _ _ hu => hu.updDie) nofun)

theorem KeepsNext.execHaltRequest : KeepsNext (execHaltRequest part save) := .event fun _ hu => hu.doHalt
theorem KeepsNext.execQuiesceComplete : KeepsNext (execQuiesceComplete part) := .event fun _ hu => hu.doQuiesce
theorem KeepsNext.execSaveRequest : KeepsNext (execSaveRequest part) := .event fun _ hu => hu.doSaveRequest
theorem KeepsNext.execResumeRequest : KeepsNext (execResumeRequest part) := .event fun _ hu => hu.doResume
theorem KeepsNext.execSaveComplete : KeepsNext (execSaveComplete part) := .event fun _ hu => hu.doSaveComplete
theorem KeepsNext.execSaveTimeout : KeepsNext (execSaveTimeout part) := .event fun _ hu => hu.doSaveTimeout
theorem KeepsNext.execRestoreRequest : KeepsNext (execRestoreRequest part) := .event fun _ hu => hu.doRestoreRequest

theorem KeepsNext.execRestoreComplete : KeepsNext (execRestoreComplete part consistent) :=
  .event fun _ hu => hu.doRestoreComplete

theorem KeepsNext.execRestoreTimeout : KeepsNext (execRestoreTimeout part) := .event fun _ hu => hu.doRestoreTimeout
theorem KeepsNext.execWatchdogReport : KeepsNext (execWatchdogReport part) := .event fun _ hu => hu.doWatchdog
theorem KeepsNext.execLinkTrainingWake : KeepsNext (execLinkTrainingWake pkg port) := .event fun _ hu => hu.doWake

theorem KeepsNext.execImageSubmit {img : FwImage} : KeepsNext (execImageSubmit pkg die img) :=
  .event fun _ hu => hu.doImageSubmit

theorem KeepsNext.execAttestationRequest : KeepsNext (execAttestationRequest pkg req) :=
  .event fun _ hu => hu.doAttest

theorem KeepsNext.execPowerOff : KeepsNext (execPowerOff pkg) := .event fun _ hu => hu.doPowerOff

theorem KeepsNext.execPartitionCreate {root : Nat} : KeepsNext (execPartitionCreate part dies root) :=
  .event fun _ hu => hu.doPartitionCreate

end Sys2Proof.Machine
end

section
/-! SUPPORT. Scalar floating-point and the vector accesses keep memory in its canonical form. -/
namespace Sys2Proof.Machine

variable {s t : State}
variable {a d b : Sc} {off : BitVec 27} {k : KReg}

/-! ## Scalar floating-point -/

theorem Keeps.fpDest {r : FRes} : Keeps (fpDest d r) := .bind .raiseFlags fun _ => .bind .wrS fun _ => .pure

theorem KeepsNext.fp2 {i : Instr} {t : ETy} {f : Nat → Nat → Nat → FRes} : KeepsNext (fp2 i t d a b f) :=
  .run (.bind .rdS fun _ => .bind .rdS fun _ => .bind .getThr fun _ => .fpDest)

theorem KeepsNext.execFadd {t : ETy} : KeepsNext (execFadd t d a b) := .fp2
theorem KeepsNext.execFsub {t : ETy} : KeepsNext (execFsub t d a b) := .fp2
theorem KeepsNext.execFmul {t : ETy} : KeepsNext (execFmul t d a b) := .fp2

theorem KeepsNext.execFfma {t : ETy} {c : Sc} : KeepsNext (execFfma t d a b c) :=
  .run (.bind .rdS fun _ => .bind .rdS fun _ => .bind .rdS fun _ => .bind .getThr fun _ => .fpDest)

theorem KeepsNext.execFdiv {t : ETy} : KeepsNext (execFdiv t d a b) := .fp2

theorem KeepsNext.execFsqrt {t : ETy} : KeepsNext (execFsqrt t d a) :=
  .run (.bind .rdS fun _ => .bind .getThr fun _ => .fpDest)

theorem KeepsNext.execFmin {t : ETy} {d a b : Sc} : KeepsNext (execFmin t d a b) := by
  unfold Machine.execFmin
  exact .fp2

theorem KeepsNext.execFmax {t : ETy} {d a b : Sc} : KeepsNext (execFmax t d a b) := by
  unfold Machine.execFmax
  exact .fp2

theorem KeepsNext.execFsetc {cc : Cond} {t : ETy} {d a b : Sc} : KeepsNext (execFsetc cc t d a b) := by
  unfold Machine.execFsetc
  exact .fp2

theorem KeepsNext.execFcvt {dt st : ETy} {z sat : Bool} : KeepsNext (execFcvt dt st z sat d a) :=
  .run (.bind .rdS fun _ => .bind .getThr fun _ => .bind .raiseFlags fun _ => .bind .wrS fun _ => .pure)

theorem KeepsNext.execFclass {t : ETy} : KeepsNext (execFclass t d a) :=
  .run (.bind .rdS fun _ => .bind .wrS fun _ => .pure)

theorem KeepsNext.execFsgn {op : SgnOp} {t : ETy} : KeepsNext (execFsgn op t d a b) :=
  .run (.bind .rdS fun _ => .bind .rdS fun _ => .bind .wrS fun _ => .pure)

/-! ## Vector accesses -/

theorem KeepsV.misaligned {va : Word} : KeepsV (misaligned va) := .stop .misaligned nofun

theorem Keeps.transRuns {x : Access} {va : Word} {act : Nat → Bool} {l : List (Nat × Nat)} :
    Keeps (transRuns x va act l) := by
  unfold Machine.transRuns
  refine .mapM fun _ => .bind .trans fun _ => ?_
  dsimp only
  split
  · exact .bind (.forM fun _ => .bind .trans fun _ => .pure) fun _ => .pure
  · exact .pure

theorem KeepsNext.execVld {t : ETy} {d : VReg} : KeepsNext (execVld t d a off k) :=
  .runV (.bind .rdS fun _ => .bind .rdK fun _ => .ite .misaligned (.bind .oldV fun _ => .bind .transRuns fun _ =>
    .bind (.forM fun _ => .loadPoison) fun _ => .bind .loadEach fun _ => .pure .pure))

theorem KeepsNext.execVst {t : ETy} {b : VReg} : KeepsNext (execVst t a off b k) := by
  unfold Machine.execVst
  refine .runV (.bind .rdS fun _ => .bind .rdK fun _ => .ite .misaligned ?_)
  exact .bind .rdV fun _ => .bind .transRuns fun _ => .bind (.forM fun _ => .cowCheck) fun _ => .bind .farDone
    fun _ => .ite (.bind .storeAll fun _ => .pure .pure) (.bind (.checkEach fun _ => .storePoison) fun _ => .bind
    .storeAll fun _ => .pure .pure)

theorem Keeps.laneAddrs {base : Word} {x : Vec} {m : Mask} : Keeps (laneAddrs base x m) := by
  unfold Machine.laneAddrs
  dsimp only
  split
  · exact .misaligned
  · exact .pure

theorem Keeps.eachLane {α : Type} {l : List (Nat × Word)} {act : Nat → Word → M α} (hact : ∀ j va, Keeps (act j va)) :
    Keeps (eachLane l act : M (List α)) := by
  unfold Machine.eachLane
  refine .bind (.mapM fun _ => .bind (.tryM (hact _ _)) fun _ => ?_) fun _ => ?_
  · split
    · exact .ite .pure .raiseT
    · exact .pure
  · split
    · exact .raiseT
    · exact .pure

theorem KeepsNext.execVgath {t : ETy} {d b : VReg} : KeepsNext (execVgath t d a off b k) :=
  .runV (.bind .rdS fun _ => .bind .rdK fun _ => .bind .rdV fun _ => .bind .oldV fun _ => .bind .laneAddrs fun _ =>
    .bind (.eachLane fun _ _ => .bind .trans fun _ => .bind .loadN fun _ => .pure) fun _ => .pure .pure)

theorem KeepsNext.execVscat {t : ETy} {d b : VReg} : KeepsNext (execVscat t a off d b k) :=
  .runV (.bind .rdS fun _ => .bind .rdK fun _ => .bind .rdV fun _ => .bind .rdV fun _ => .bind .laneAddrs fun _ =>
    .bind (.eachLane fun _ _ => .bind .trans fun _ => .bind .storePoison fun _ => .pure) fun _ => .bind (.forM
    fun _ => .storeCells) fun _ => .pure .pure)

theorem Keeps.counted {j : Nat} {act : M Unit} (hact : Keeps act) : Keeps (counted j act) := by
  intro s h
  unfold Machine.counted
  split
  · exact h
  · exact hact s h

theorem KeepsNext.spillRun {i : Instr} {a : Sc} {f : VReg} {off : Word} {n : Nat} {one : Nat → VReg → Word → M Unit}
    (hone : ∀ j v va, Keeps (one j v va)) : KeepsNext (spillRun i a off f n one) := by
  refine fun s t h ht => KeepsNext.run (.bind .rdS fun _ => .bind .getThr fun _ => ?_) s t h ht
  refine .ite .misaligned (.ite .raiseAt (.ite .park (.bind (.forM fun _ => ?_) fun _ => .pure)))
  exact .ite .pure (.bind .getThr fun _ => .ite .pure (.bind (.counted (hone _ _ _)) fun _ => .updThr))

theorem KeepsNext.execVspill {a : Sc} {off : BitVec 27} {f : VReg} {n : BitVec 6} :
    KeepsNext (execVspill a off f n) := by
  unfold Machine.execVspill
  refine .spillRun fun _ _ _ => .bind .getThr fun _ => .bind .transPieces fun _ => .bind (.forM fun _ => .cowCheck)
    fun _ => .ite .raiseAt (.bind .farDone fun _ => .ite .storeAll ?_)
  exact .bind (.checkEach fun _ => .storePoison) fun _ => .storeAll

theorem KeepsNext.execVfill {a : Sc} {off : BitVec 27} {f : VReg} {n : BitVec 6} :
    KeepsNext (execVfill f a off n) := by
  unfold Machine.execVfill
  exact .spillRun fun _ _ _ => .bind .transPieces fun _ => .bind .loadPieces fun _ => .updThr

end Sys2Proof.Machine
end

section
/-! SUPPORT. Vector instructions keep memory in its canonical form. -/
namespace Sys2Proof.Machine

variable {s t : State}
variable {d a : VReg} {k : KReg} {b : VSrc} {z win sat : Bool} {i : Instr} {c : Sc} {m : Mask} {f : Nat → FRes}
variable {op : RedOp}

/-! ## Vector instructions -/

theorem KeepsV.fpLanes {t : ETy} : KeepsV (fpLanes t m d f) :=
  .bind .oldV fun _ => .bind .raiseFlags fun _ => .pure .pure

theorem KeepsV.intLanes {t : ETy} {f : Nat → Nat} : KeepsV (intLanes t m d f) := .bind .oldV fun _ => .pure .pure

theorem KeepsNext.fpV2 {t : ETy} {f : Nat → Nat → Nat → FRes} : KeepsNext (fpV2 i t d a b k f) :=
  .runV (.bind .rdV fun _ => .bind .rdVSrc fun _ => .bind .getThr fun _ => .fpLanes)

theorem KeepsNext.fpV1 {t : ETy} : KeepsNext (fpV1 i t d a k f) :=
  .runV (.bind .rdV fun _ => .bind .getThr fun _ => .fpLanes)

theorem KeepsNext.intV2 {t : ETy} {f : Nat → Nat → Nat} : KeepsNext (intV2 i t d a b k f) :=
  .runV (.bind .rdV fun _ => .bind .rdVSrc fun _ => .bind .rdK fun _ => .intLanes)

theorem KeepsNext.execVadd {t : ETy} : KeepsNext (execVadd t d a b k) := .fpV2
theorem KeepsNext.execVsub {t : ETy} : KeepsNext (execVsub t d a b k) := .fpV2
theorem KeepsNext.execVmul {t : ETy} : KeepsNext (execVmul t d a b k) := .fpV2

theorem KeepsNext.execVfma {t : ETy} {c : VReg} : KeepsNext (execVfma win t d a b c k) :=
  .runV (.bind .rdV fun _ => .bind .rdVSrc fun _ => .bind .rdV fun _ => .bind .getThr fun _ => .fpLanes)

theorem KeepsNext.execVmin {t : ETy} : KeepsNext (execVmin z t d a b k) := by
  unfold Machine.execVmin
  exact .fpV2

theorem KeepsNext.execVmax {t : ETy} : KeepsNext (execVmax z t d a b k) := by
  unfold Machine.execVmax
  exact .fpV2

theorem KeepsNext.execVsgn {op : SgnOp} {t : ETy} {b : VReg} : KeepsNext (execVsgn op t d a b k) := .intV2
theorem KeepsNext.execVdiv {t : ETy} : KeepsNext (execVdiv t d a b k) := .fpV2
theorem KeepsNext.execVexp2 {t : ETy} : KeepsNext (execVexp2 t d a k) := .fpV1
theorem KeepsNext.execVlog2 {t : ETy} : KeepsNext (execVlog2 t d a k) := .fpV1
theorem KeepsNext.execVrcp {t : ETy} : KeepsNext (execVrcp t d a k) := .fpV1
theorem KeepsNext.execVrsq {t : ETy} : KeepsNext (execVrsq t d a k) := .fpV1
theorem KeepsNext.execVtanh {t : ETy} : KeepsNext (execVtanh t d a k) := .fpV1
theorem KeepsNext.execViadd {t : ETy} : KeepsNext (execViadd z sat t d a b k) := .intV2
theorem KeepsNext.execVisub {t : ETy} : KeepsNext (execVisub z sat t d a b k) := .intV2

theorem KeepsNext.execVimul {t : ETy} : KeepsNext (execVimul t d a b k) := by
  unfold Machine.execVimul
  exact .intV2

theorem KeepsNext.execVand {t : ETy} : KeepsNext (execVand t d a b k) := .intV2
theorem KeepsNext.execVor {t : ETy} : KeepsNext (execVor t d a b k) := .intV2
theorem KeepsNext.execVxor {t : ETy} : KeepsNext (execVxor t d a b k) := .intV2

theorem KeepsNext.execVshl {t : ETy} : KeepsNext (execVshl t d a b k) := by
  unfold Machine.execVshl
  exact .intV2

theorem KeepsNext.execVshr {t : ETy} : KeepsNext (execVshr t d a b k) := by
  unfold Machine.execVshr
  exact .intV2

theorem KeepsNext.execVsar {t : ETy} : KeepsNext (execVsar t d a b k) := by
  unfold Machine.execVsar
  exact .intV2

theorem KeepsNext.execVcvt {dt st : ETy} {part : BitVec 6} : KeepsNext (execVcvt dt st z sat d a part k) :=
  .runV (.bind .rdV fun _ => .bind .getThr fun _ => .bind .oldV fun _ => .bind .raiseFlags fun _ => .pure .pure)

theorem KeepsNext.execVsetc {cc : Cond} {t : ETy} {d : KReg} : KeepsNext (execVsetc cc z t d a b k) :=
  .runV (.bind .rdV fun _ => .bind .rdVSrc fun _ => .bind .getThr fun _ => .bind .raiseFlags fun _ => .pure .wrK)

theorem KeepsNext.execVsel {t : ETy} {b : VReg} {c : KReg} : KeepsNext (execVsel t d a b c k) :=
  .runV (.bind .rdV fun _ => .bind .rdV fun _ => .bind .rdK fun _ => .bind .rdK fun _ => .intLanes)

theorem KeepsNext.execVred {t : ETy} {d : Sc} : KeepsNext (execVred op z win t d a k) :=
  .runV (.bind .rdV fun _ => .bind .getThr fun _ => .bind .raiseFlags fun _ => .pure .wrS)

theorem KeepsNext.execVscan {t : ETy} : KeepsNext (execVscan op z win t d a k) :=
  .runV (.bind .rdV fun _ => .bind .getThr fun _ => .bind .oldV fun _ => .bind .raiseFlags fun _ => .pure .pure)

theorem KeepsNext.execVperm {t : ETy} {b : VReg} : KeepsNext (execVperm t d a b k) :=
  .runV (.bind .rdV fun _ => .bind .rdV fun _ => .bind .rdK fun _ => .intLanes)

theorem KeepsNext.execVslide {t : ETy} {b : VReg} : KeepsNext (execVslide t d a b c k) :=
  .runV (.bind .rdV fun _ => .bind .rdV fun _ => .bind .rdS fun _ => .bind .rdK fun _ => .intLanes)

theorem KeepsNext.execVbcast {t : ETy} {a : Sc} : KeepsNext (execVbcast t d a k) :=
  .runV (.bind .rdS fun _ => .bind .rdK fun _ => .intLanes)

theorem KeepsNext.execVext {t : ETy} {d b : Sc} : KeepsNext (execVext z t d a b) :=
  .runV (.bind .rdV fun _ => .bind .rdS fun _ => .pure .wrS)

theorem KeepsNext.execVins {t : ETy} {a b : Sc} : KeepsNext (execVins t d a b) :=
  .runV (.bind .getThr fun _ => .ite (.bind .portMisuse fun _ => .bind .rdS fun _ => .bind .rdS fun _ => .pure .pure)
    (.bind .pure fun _ => .bind .rdS fun _ => .bind .rdS fun _ => .pure .pure))

theorem KeepsNext.execVidx {t : ETy} {a : Sc} : KeepsNext (execVidx t d a k) :=
  .runV (.bind .rdS fun _ => .bind .rdK fun _ => .intLanes)

theorem KeepsNext.execVtopk {t : ETy} {n : BitVec 6} : KeepsNext (execVtopk t d a n c k) :=
  .runV (.bind .rdV fun _ => .bind .rdS fun _ => .bind .rdK fun _ => .bind .oldV fun _ => .bind .oldV fun _ => .pure
    .pure)

theorem KeepsNext.execVrand {a b : Sc} : KeepsNext (execVrand d a b c k) :=
  .runV (.bind .rdS fun _ => .bind .rdS fun _ => .bind .rdS fun _ => .bind .rdK fun _ => .intLanes)

end Sys2Proof.Machine
end

section
/-! The theorem that settles O50, with the plan of a step and the dispatch of the instructions. -/
namespace Sys2Proof.Machine

variable {s t : State}
variable {tid core die line : Nat}

/-! ## The plan -/

theorem State.canonical.present (h : s.canonical) : (s.present tid).2.canonical := by
  unfold State.present
  split
  · exact h
  · split
    · exact h.endThread
    · split
      · split
        · exact h
        · exact h.takeTrap
      · split
        · next e => exact h.fetch.of_pair e
        · next e => exact (h.fetch.of_pair e).takeTrap

theorem State.canonical.issueCore (h : s.canonical) : (s.issueCore core).2.canonical := by
  unfold State.issueCore
  split
  · exact h
  · dsimp only
    split
    · exact h.foldl fun _ _ hu => hu.updCore
    · exact (h.foldl fun _ _ hu => hu.updCore).same.present

theorem State.canonical.evictLine (h : s.canonical) : (s.evictLine die line).canonical := by
  unfold State.evictLine
  split
  · next e => exact h.linesWait e
  · exact h.cleanHome.dropVisitor

theorem State.canonical.trimSlice (h : s.canonical) : (s.trimSlice core).canonical :=
  h.ite ((h.foldl fun _ _ hu => hu.evictLine).foldl fun _ _ hu => hu.cleanSlice.dropSlice)

theorem State.canonical.tick (h : s.canonical) : (s.tick).canonical :=
  ((h.foldl fun _ _ hu => hu.settleEvents).same.foldl fun _ _ hu => hu.examineC).foldl fun _ _ hu => hu.trimSlice

theorem State.canonical.planSelf (h : s.canonical) : (s.planSelf).2.canonical := by
  unfold State.planSelf
  split
  · exact h
  · split
    · exact h.issueCore
    · exact h.tick

theorem State.canonical.poisonAt (h : s.canonical) {pa : Nat} : (s.poisonAt pa).canonical := by
  unfold State.poisonAt
  dsimp only
  split
  · exact h
  · exact h.same.logError

theorem State.canonical.poisonLine (h : s.canonical) : (s.poisonLine die line).canonical := by
  unfold State.poisonLine
  split
  · exact h
  · exact h.same.logError

theorem State.canonical.poisonScalar (h : s.canonical) {r : Sc} : (s.poisonScalar tid r).canonical := by
  unfold State.poisonScalar
  refine logError ?_
  split
  · exact h.updThread
  · exact h.updCore
  · exact h

theorem State.canonical.poisonMask (h : s.canonical) {k : KReg} : (s.poisonMask tid k).canonical :=
  h.updThread.logError

theorem State.canonical.poisonVector (h : s.canonical) {v : VReg} : (s.poisonVector tid v).canonical :=
  h.updThread.logError

theorem State.canonical.poisonAcc (h : s.canonical) {n : AReg} : (s.poisonAcc core n).canonical := h.updCore.logError

theorem State.canonical.pass (h : s.canonical) {n : Nat} : (s.pass n).2.canonical := by
  unfold State.pass
  dsimp only
  split
  · exact h
  · split
    · exact h.same
    · split
      · exact h.same.issueCore
      · exact (h.ite h.same).tick

theorem State.canonical.issueTurn (h : s.canonical) : (s.issueTurn core).2.canonical := by
  unfold State.issueTurn
  split
  · exact h.same.issueCore
  · exact h.issueCore

theorem State.canonical.play (h : s.canonical) : ∀ x : Turn, (Turn.play s x).2.canonical
  | .event _ => h
  | .issue _ => h.issueTurn
  | .tick _ => h.pass
  | .evictVisitor .. => h.evictLine
  | .evictSlice _ => h.cleanSlice.dropSlice
  | .evictCode .. => h.updCore
  | .poisonMem _ => h.poisonAt
  | .poisonVisitor .. => h.poisonLine
  | .poisonReg .. => h.poisonScalar
  | .poisonVec .. => h.poisonVector
  | .poisonMask .. => h.poisonMask
  | .poisonTile .. => h.poisonAcc
  | .transient .. => h.logError
  | .correct _ => h.updDie
  | .fetchAhead .. => h.updThread
  | .fetchFresh .. => h.updThread
  | .dropFetch _ => h.updThread
  | .matrixRead .. => h.doMatrixRead
  | .collRead .. => h.doCollRead
  | .assignPositions .. => h.assign
  | .assignPkgBar .. => h.updPkg
  | .assignPodBar .. => h.same

theorem State.canonical.plan (h : s.canonical) : s.plan.2.canonical := by
  unfold State.plan
  split
  · exact h.planSelf
  · exact State.canonical.play h.same _

/-! ## The meanings -/

/-- No meaning of an instruction or an event takes memory out of its canonical form. -/
theorem KeepsNext.exec : ∀ i : Instr, KeepsNext (exec i)
  | .add .. => .execAdd
  | .sub .. => .execSub
  | .mul .. => .execMul
  | .mulh .. => .execMulh
  | .div .. => .execDiv
  | .rem .. => .execRem
  | .and .. => .execAnd
  | .or .. => .execOr
  | .xor .. => .execXor
  | .andn .. => .execAndn
  | .shl .. => .execShl
  | .shr .. => .execShr
  | .sar .. => .execSar
  | .min .. => .execMin
  | .max .. => .execMax
  | .setc .. => .execSetc
  | .clz .. => .execClz
  | .ctz .. => .execCtz
  | .popc .. => .execPopc
  | .bfx .. => .execBfx
  | .bfxImm .. => .execBfxImm
  | .bfi .. => .execBfi
  | .sel .. => .execSel
  | .li .. => .execLi
  | .li96 .. => .execLi96
  | .li128 .. => .execLi128
  | .lea .. => .execLea
  | .mov .. => .execMov
  | .fadd .. => .execFadd
  | .fsub .. => .execFsub
  | .fmul .. => .execFmul
  | .ffma .. => .execFfma
  | .fdiv .. => .execFdiv
  | .fsqrt .. => .execFsqrt
  | .fmin .. => .execFmin
  | .fmax .. => .execFmax
  | .fsetc .. => .execFsetc
  | .fcvt .. => .execFcvt
  | .fclass .. => .execFclass
  | .fsgn .. => .execFsgn
  | .br .. => .execBr
  | .j .. => .execJ
  | .j96 .. => .execJ96
  | .jl .. => .execJl
  | .jl96 .. => .execJl96
  | .jr .. => .execJr
  | .haltKeep .. => .execHaltKeep
  | .ld .. => .execLd
  | .st .. => .execSt
  | .lds .. => .execLds
  | .sts .. => .execSts
  | .amo .. => .execAmo
  | .cas .. => .execCas
  | .fence .. => .execFence
  | .acq .. => .execAcq
  | .rel .. => .execRel
  | .bind .. => .execBind
  | .unbind .. => .execUnbind
  | .cmo .. => .execCmo
  | .mcast .. => .execMcast
  | .mcast128 .. => .execMcast128
  | .vld .. => .execVld
  | .vst .. => .execVst
  | .vgath .. => .execVgath
  | .vscat .. => .execVscat
  | .vspill .. => .execVspill
  | .vfill .. => .execVfill
  | .vadd .. => .execVadd
  | .vsub .. => .execVsub
  | .vmul .. => .execVmul
  | .vfma .. => .execVfma
  | .vmin .. => .execVmin
  | .vmax .. => .execVmax
  | .vsgn .. => .execVsgn
  | .vdiv .. => .execVdiv
  | .vexp2 .. => .execVexp2
  | .vlog2 .. => .execVlog2
  | .vrcp .. => .execVrcp
  | .vrsq .. => .execVrsq
  | .vtanh .. => .execVtanh
  | .viadd .. => .execViadd
  | .visub .. => .execVisub
  | .vimul .. => .execVimul
  | .vand .. => .execVand
  | .vor .. => .execVor
  | .vxor .. => .execVxor
  | .vshl .. => .execVshl
  | .vshr .. => .execVshr
  | .vsar .. => .execVsar
  | .vcvt .. => .execVcvt
  | .vsetc .. => .execVsetc
  | .vsel .. => .execVsel
  | .vred .. => .execVred
  | .vscan .. => .execVscan
  | .vperm .. => .execVperm
  | .vslide .. => .execVslide
  | .vbcast .. => .execVbcast
  | .vext .. => .execVext
  | .vins .. => .execVins
  | .vidx .. => .execVidx
  | .vtopk .. => .execVtopk
  | .vrand .. => .execVrand
  | .kand .. => .execKand
  | .kor .. => .execKor
  | .kxor .. => .execKxor
  | .knot .. => .execKnot
  | .kpopc .. => .execKpopc
  | .kfirst .. => .execKfirst
  | .kmov .. => .execKmov
  | .mma .. => .execMma
  | .mxzero .. => .execMxzero
  | .mxld .. => .execMxld
  | .mxst .. => .execMxst
  | .mxflg .. => .execMxflg
  | .mxwait .. => .execMxwait
  | .spawn .. => .execSpawn
  | .task .. => .execTask
  | .evset .. => .execEvset
  | .evclr .. => .execEvclr
  | .evwait .. => .execEvwait
  | .migr .. => .execMigr
  | .grow .. => .execGrow
  | .growReg .. => .execGrowReg
  | .shrink .. => .execShrink
  | .shrinkReg .. => .execShrinkReg
  | .bar .. => .execBar
  | .bjoin .. => .execBjoin
  | .bleave .. => .execBleave
  | .slotw .. => .execSlotw
  | .rfillArm .. => .execRfillArm
  | .rfillSend .. => .execRfillSend
  | .sbind .. => .execSbind
  | .sfree .. => .execSfree
  | .exnew .. => .execExnew
  | .exjoin .. => .execExjoin
  | .exset .. => .execExset
  | .exchk .. => .execExchk
  | .exfree .. => .execExfree
  | .cpy .. => .execCpy
  | .cpyRfg .. => .execCpyRfg
  | .cpyRfv .. => .execCpyRfv
  | .cpgb .. => .execCpgb
  | .kvapp .. => .execKvapp
  | .cpwait .. => .execCpwait
  | .coll .. => .execColl
  | .cbuf .. => .execCbuf
  | .gmload .. => .execGmload
  | .gmstep .. => .execGmstep
  | .gmstepRst .. => .execGmstepRst
  | .gmmask .. => .execGmmask
  | .gmmaskK .. => .execGmmaskK
  | .launch .. => .execLaunch
  | .trap .. => .execTrap
  | .brk .. => .execBrk
  | .srd .. => .execSrd
  | .swr .. => .execSwr
  | .swrEx .. => .execSwrEx
  | .swrCsplit .. => .execSwrCsplit
  | .swrOvh .. => .execSwrOvh
  | .swrHvec .. => .execSwrHvec
  | .swrMq .. => .execSwrMq
  | .swrWdog .. => .execSwrWdog
  | .rdtime .. => .execRdtime
  | .sharedRegisterWriteLands .. => .execSharedRegisterWriteLands
  | .handlerThreadStart .. => .execHandlerThreadStart
  | .spawnRequestMessage .. => .execSpawnRequestMessage
  | .migrationArrival .. => .execMigrationArrival
  | .sharerOverflow .. => .execSharerOverflow
  | .overflowWrite .. => .execOverflowWrite
  | .messageReplyTaken .. => .execMessageReplyTaken
  | .messageReplyTimeout .. => .execMessageReplyTimeout
  | .spawnRefused .. => .execSpawnRefused
  | .migrationResend .. => .execMigrationResend
  | .powerGrant .. => .execPowerGrant
  | .currentSlotDisable .. => .execCurrentSlotDisable
  | .thermalSlotDisable .. => .execThermalSlotDisable
  | .hardwareDisplacement .. => .execHardwareDisplacement
  | .matrixCommandAccept .. => .execMatrixCommandAccept
  | .matrixCommandExecute .. => .execMatrixCommandExecute
  | .matrixCommandComplete .. => .execMatrixCommandComplete
  | .copyCommandAccept .. => .execCopyCommandAccept
  | .copyCommandExecute .. => .execCopyCommandExecute
  | .copyCommandComplete .. => .execCopyCommandComplete
  | .copyDeferred .. => .execCopyDeferred
  | .copyResume .. => .execCopyResume
  | .pageWalk .. => .execPageWalk
  | .shootdownRequest .. => .execShootdownRequest
  | .shootdownDone .. => .execShootdownDone
  | .remoteRequestArrival .. => .execRemoteRequestArrival
  | .replyArrival .. => .execReplyArrival
  | .listedNotice .. => .execListedNotice
  | .busyReply .. => .execBusyReply
  | .busyResend .. => .execBusyResend
  | .requestResend .. => .execRequestResend
  | .remoteTimeoutExpiry .. => .execRemoteTimeoutExpiry
  | .replayEntryExpiry .. => .execReplayEntryExpiry
  | .retryListExamine .. => .execRetryListExamine
  | .retryListResend .. => .execRetryListResend
  | .syncTimeout .. => .execSyncTimeout
  | .taskDispatch .. => .execTaskDispatch
  | .streamReadAhead .. => .execStreamReadAhead
  | .expiryLapse .. => .execExpiryLapse
  | .unpickWaveArrival .. => .execUnpickWaveArrival
  | .waveComplete .. => .execWaveComplete
  | .quarantineExpiry .. => .execQuarantineExpiry
  | .reachNote .. => .execReachNote
  | .reachNoteAck .. => .execReachNoteAck
  | .lapsedTagFilterExpiry .. => .execLapsedTagFilterExpiry
  | .flitQueueTimeout .. => .execFlitQueueTimeout
  | .frameReceive .. => .execFrameReceive
  | .keyStage .. => .execKeyStage
  | .keySwitch .. => .execKeySwitch
  | .keyExhaustion .. => .execKeyExhaustion
  | .multicastDelivery .. => .execMulticastDelivery
  | .multicastAck .. => .execMulticastAck
  | .hostRequest .. => .execHostRequest
  | .patternTableWrite .. => .execPatternTableWrite
  | .fanOutEntryWrite .. => .execFanOutEntryWrite
  | .hostWindowWrite .. => .execHostWindowWrite
  | .registrationMessage .. => .execRegistrationMessage
  | .collContributionAccept .. => .execCollContributionAccept
  | .collComplete .. => .execCollComplete
  | .trapEntry .. => .execTrapEntry
  | .managementThreadEnd .. => .execManagementThreadEnd
  | .haltRequest .. => .execHaltRequest
  | .quiesceComplete .. => .execQuiesceComplete
  | .saveRequest .. => .execSaveRequest
  | .resumeRequest .. => .execResumeRequest
  | .saveComplete .. => .execSaveComplete
  | .saveTimeout .. => .execSaveTimeout
  | .restoreRequest .. => .execRestoreRequest
  | .restoreComplete .. => .execRestoreComplete
  | .restoreTimeout .. => .execRestoreTimeout
  | .watchdogReport .. => .execWatchdogReport
  | .coreMigrationRequest .. => .execCoreMigrationRequest
  | .forwardingEntryClear .. => .execForwardingEntryClear
  | .linkTrainingWake .. => .execLinkTrainingWake
  | .imageSubmit .. => .execImageSubmit
  | .attestationRequest .. => .execAttestationRequest
  | .powerOff .. => .execPowerOff
  | .partitionCreate .. => .execPartitionCreate
  | .thermalRankingTableWrite .. => .execThermalRankingTableWrite
  | .frameSend .. => .execFrameSend
  | .nop => .execNop
  | .nop96 => .execNop96
  | .nop128 => .execNop128
  | .halt => .execHalt
  | .yield => .execYield
  | .fbar => .execFbar
  | .mxbeg => .execMxbeg
  | .mxend => .execMxend
  | .tret => .execTret
  | .tretSkip => .execTretSkip
  | .track => .execTrack

/-- Settles O50: the plan of the step and the meaning it names both keep the canonical form. -/
theorem stepKeepsCanonical : Obligations.StepKeepsCanonical := by
  unfold Obligations.StepKeepsCanonical
  intro s t h ht
  have hplan := h.plan
  unfold step at ht
  split at ht
  · next e => rw [e] at hplan; exact KeepsNext.exec _ _ _ hplan ht
  · next e => rw [e] at hplan; cases ht; exact hplan

end Sys2Proof.Machine
end

section
/-! The theorem that settles O32: a store that waited goes to the address it had read when it issued (R42, R65), which
the statement's `s.sc a` need not be any more. -/
namespace Sys2Proof.Machine

/-- `[g1] := g2`, eight bytes. -/
def heldStore : Instr := .st false .d none (.g 1) 0 (.g 2)

/-- The first GiB of package 0 is mapped as it stands. The store issued with 64 in `g1` and 1 in `g2` and had to wait;
`g1` has been filled with 0 since. -/
def heldState : State :=
  { State.reset with
    threads := [(0, { Thread.new 1 0 0 with
      hold := some { what := .instr heldStore, fromLatch := false }, kept := [(.g 1, 64), (.g 2, 1)] })]
    cores := [(0, { Core.reset with tlb := [{ root := 0, base := 0, size := 2 ^ 30, leaf := 0x1F, level := 2 }] })]
    pkgs := [(0, { Pkg.reset with member := true })] }

/-- The state after the held store. -/
def afterHeldStore : State :=
  match exec heldStore heldState with
  | .next t => t
  | _ => heldState

theorem exec_heldStore : exec heldStore heldState = .next afterHeldStore := rfl

theorem ran_heldStore : Ran heldState afterHeldStore := by
  unfold Ran
  decide +kernel

theorem byteAt_afterHeldStore : afterHeldStore.byteAt 64 ≠ heldState.byteAt 64 := by decide +kernel

theorem reach_heldState : heldState.reach storeA 0 =
    .ok { va := 0, pa := 0, leaf := { entry := 0x1F, level := 2, vbase := 0, size := 2 ^ 30 } } := by decide +kernel

/-- Refutes O32: the frame of a store is stated about the address that `g1` gives now, but a store that had to wait goes
to the address it read when it issued. No premise says that no operand is kept (`readable` would). -/
theorem not_memoryFrames : ¬ Obligations.MemoryFrames := by
  unfold Obligations.MemoryFrames
  intro ⟨_, hstore⟩
  obtain ⟨haligned, _⟩ := hstore heldState afterHeldStore false .d none (.g 1) (.g 2) 0 rfl exec_heldStore ran_heldStore
  exact byteAt_afterHeldStore (haligned _ (by decide +kernel) reach_heldState 64 (.inr (by decide +kernel)))

end Sys2Proof.Machine
end

section
/-! SUPPORT. What the named updates of the pod, the end of an instruction and a trap leave of threads, cores and
partitions: the rules that the statements about the execution model are proved from. -/
namespace Sys2Proof.Machine

/-! ## Entries of the pod after an update -/

theorem State.coreAt_updCore (s : State) (c d : Nat) (f : Core → Core) :
    (s.updCore c f).coreAt d = if c = d then f (s.coreAt d) else s.coreAt d := by
  split
  · next h => subst h; simp
  · next h => exact State.coreAt_setCore_ne s _ h

theorem State.coreAt_updCore_ne (s : State) {c d : Nat} (f : Core → Core) (h : c ≠ d) :
    (s.updCore c f).coreAt d = s.coreAt d := State.coreAt_setCore_ne s _ h

theorem State.partAt_updPart_ne (s : State) {c d : Nat} (f : Partition → Partition) (h : c ≠ d) :
    (s.updPart c f).partAt d = s.partAt d := by
  simp [State.partAt, mapGet_put_ne _ _ h]

theorem State.dieAt_updDie_ne (s : State) {c d : Nat} (f : Die → Die) (h : c ≠ d) :
    (s.updDie c f).dieAt d = s.dieAt d := by
  simp [State.dieAt, mapGet_put_ne _ _ h]

theorem State.thread_setThread (s : State) (t k : Nat) (x : Thread) :
    (s.setThread t x).thread? k = if t = k then some x else s.thread? k := by
  simp [State.thread?, mapGet_put]

theorem State.thread_setThr_ne (s : State) {k : Nat} (x : Thread) (h : k ≠ s.cur) :
    (s.setThr x).thread? k = s.thread? k := State.thread_setThread_ne s x (Ne.symm h)

@[simp] theorem State.thread_updCore (s : State) (c k : Nat) (f : Core → Core) :
    (s.updCore c f).thread? k = s.thread? k := rfl
@[simp] theorem State.thr_updCore (s : State) (c : Nat) (f : Core → Core) : (s.updCore c f).thr = s.thr := rfl
@[simp] theorem State.thread_updPart (s : State) (p k : Nat) (f : Partition → Partition) :
    (s.updPart p f).thread? k = s.thread? k := rfl
@[simp] theorem State.coreAt_setThr (s : State) (x : Thread) (c : Nat) : (s.setThr x).coreAt c = s.coreAt c := rfl
@[simp] theorem State.partAt_setThr (s : State) (x : Thread) (p : Nat) : (s.setThr x).partAt p = s.partAt p := rfl
@[simp] theorem State.core_setThr (s : State) (x : Thread) : (s.setThr x).core = s.core := rfl
@[simp] theorem State.core_updCore (s : State) (c : Nat) (f : Core → Core) : (s.updCore c f).core = s.core := rfl

/-- The thread in `cur` is an entry of the table. -/
theorem State.thread_cur {s : State} (h : (s.thread? s.cur).isSome = true) : s.thread? s.cur = some s.thr := by
  obtain ⟨t, ht⟩ := Option.isSome_iff_exists.mp h
  simp [State.thr, ht]

/-! ## Progress of a partition (R234) -/

/-- Progress changes the time of the watchdog's count in one partition at most. -/
theorem State.progress_eq (s : State) (c : Nat) :
    ∃ parts, s.progress c = { s with parts := parts } ∧
      ∀ p, ∃ n, (s.progress c).partAt p = { s.partAt p with wdAt := n } := by
  unfold State.progress
  split
  · next q _ =>
    refine ⟨_, rfl, fun p => ?_⟩
    by_cases h : q = p
    · subst h; exact ⟨s.cycle, by simp⟩
    · exact ⟨(s.partAt p).wdAt, by rw [State.partAt_updPart_ne _ _ h]⟩
  · exact ⟨_, rfl, fun p => ⟨_, rfl⟩⟩

section
variable (s : State) (c : Nat)

@[simp] theorem State.progress_cycle : (s.progress c).cycle = s.cycle := by
  obtain ⟨_, h, _⟩ := s.progress_eq c; rw [h]
@[simp] theorem State.progress_cur : (s.progress c).cur = s.cur := by
  obtain ⟨_, h, _⟩ := s.progress_eq c; rw [h]
@[simp] theorem State.progress_threads : (s.progress c).threads = s.threads := by
  obtain ⟨_, h, _⟩ := s.progress_eq c; rw [h]
@[simp] theorem State.progress_cores : (s.progress c).cores = s.cores := by
  obtain ⟨_, h, _⟩ := s.progress_eq c; rw [h]
@[simp] theorem State.progress_quads : (s.progress c).quads = s.quads := by
  obtain ⟨_, h, _⟩ := s.progress_eq c; rw [h]
@[simp] theorem State.progress_dies : (s.progress c).dies = s.dies := by
  obtain ⟨_, h, _⟩ := s.progress_eq c; rw [h]
@[simp] theorem State.progress_pkgs : (s.progress c).pkgs = s.pkgs := by
  obtain ⟨_, h, _⟩ := s.progress_eq c; rw [h]
@[simp] theorem State.progress_barriers : (s.progress c).barriers = s.barriers := by
  obtain ⟨_, h, _⟩ := s.progress_eq c; rw [h]
@[simp] theorem State.progress_chains : (s.progress c).chains = s.chains := by
  obtain ⟨_, h, _⟩ := s.progress_eq c; rw [h]
@[simp] theorem State.progress_retry : (s.progress c).retry = s.retry := by
  obtain ⟨_, h, _⟩ := s.progress_eq c; rw [h]
@[simp] theorem State.progress_mem : (s.progress c).mem = s.mem := by
  obtain ⟨_, h, _⟩ := s.progress_eq c; rw [h]
@[simp] theorem State.progress_slice : (s.progress c).slice = s.slice := by
  obtain ⟨_, h, _⟩ := s.progress_eq c; rw [h]
@[simp] theorem State.progress_visitors : (s.progress c).visitors = s.visitors := by
  obtain ⟨_, h, _⟩ := s.progress_eq c; rw [h]
@[simp] theorem State.progress_tags : (s.progress c).tags = s.tags := by
  obtain ⟨_, h, _⟩ := s.progress_eq c; rw [h]
@[simp] theorem State.progress_seams : (s.progress c).seams = s.seams := by
  obtain ⟨_, h, _⟩ := s.progress_eq c; rw [h]
@[simp] theorem State.progress_poison : (s.progress c).poison = s.poison := by
  obtain ⟨_, h, _⟩ := s.progress_eq c; rw [h]
@[simp] theorem State.progress_core : (s.progress c).core = s.core := by simp [State.core]
@[simp] theorem State.progress_thread (k : Nat) : (s.progress c).thread? k = s.thread? k := by simp [State.thread?]
@[simp] theorem State.progress_thr : (s.progress c).thr = s.thr := by simp [State.thr]
@[simp] theorem State.progress_coreAt (d : Nat) : (s.progress c).coreAt d = s.coreAt d := by simp [State.coreAt]
@[simp] theorem State.progress_barrierAt (k : Nat) : (s.progress c).barrierAt k = s.barrierAt k := by
  simp [State.barrierAt]
@[simp] theorem State.progress_byteAt (pa : Nat) : (s.progress c).byteAt pa = s.byteAt pa := by simp [State.byteAt]

end

/-! ## The end of an instruction (R34) -/

/-- An instruction that has run leaves `next` after it: what a thread that goes on changes beside its own registers. -/
theorem State.goesOn_eq (s : State) (i : Instr) :
    s.goesOn i = (s.setThr (s.thr.retire (instrLen i) .seq s.cycle)).progress s.core := rfl

section
variable (s : State) (i : Instr)

@[simp] theorem State.goesOn_cur : (s.goesOn i).cur = s.cur := by simp [State.goesOn_eq]
@[simp] theorem State.goesOn_core : (s.goesOn i).core = s.core := by simp [State.goesOn_eq]
@[simp] theorem State.goesOn_cycle : (s.goesOn i).cycle = s.cycle := by simp [State.goesOn_eq]
@[simp] theorem State.goesOn_thr : (s.goesOn i).thr = s.thr.retire (instrLen i) .seq s.cycle := by
  simp [State.goesOn_eq]
@[simp] theorem State.goesOn_coreAt (c : Nat) : (s.goesOn i).coreAt c = s.coreAt c := by simp [State.goesOn_eq]
@[simp] theorem State.goesOn_barrierAt (k : Nat) : (s.goesOn i).barrierAt k = s.barrierAt k := by
  simp [State.goesOn_eq, State.barrierAt]
@[simp] theorem State.goesOn_byteAt (pa : Nat) : (s.goesOn i).byteAt pa = s.byteAt pa := by
  simp [State.goesOn_eq, State.byteAt]
@[simp] theorem State.goesOn_thread_cur : (s.goesOn i).thread? s.cur = some (s.thr.retire (instrLen i) .seq s.cycle) := by
  simp [State.goesOn_eq]
theorem State.goesOn_thread_ne {k : Nat} (h : k ≠ s.cur) : (s.goesOn i).thread? k = s.thread? k := by
  simp [State.goesOn_eq, State.thread_setThr_ne s _ h]

end

/-- An operation that stays with the thread and leaves its pc and TRAPENT: its instruction completes. -/
theorem Completed.of_goesOn {s u : State} {i : Instr} (hcur : u.cur = s.cur) (hpc : u.thr.pc = s.thr.pc)
    (htr : u.thr.trapent = s.thr.trapent) : Completed i s (u.goesOn i) := by
  refine ⟨⟨by simpa using hcur, ?_, by simp, by simpa using htr⟩, by simp, by simp [hpc]⟩
  rw [← hcur, State.goesOn_thread_cur]; rfl

end Sys2Proof.Machine
end

section
/-! The theorem that settles O7: what a completed register instruction leaves (R42, R67, R310 to R326). -/
namespace Sys2Proof.Machine

/-! ## Bits of a register file -/

theorem getLsbD_setBit_self {w : Nat} (b : BitVec w) {n : Nat} (h : n < w) : (setBit b n).getLsbD n = true := by
  simp [setBit, h]

theorem getLsbD_setBit_ne {w : Nat} (b : BitVec w) {n m : Nat} (h : n ≠ m) :
    (setBit b n).getLsbD m = b.getLsbD m := by
  simp only [setBit, BitVec.getLsbD_or, BitVec.getLsbD_shiftLeft, BitVec.getLsbD_one]
  have : ¬ (n ≤ m ∧ m - n = 0) := by omega
  grind

theorem getLsbD_clrBit_ne {w : Nat} (b : BitVec w) {n m : Nat} (h : n ≠ m) :
    (clrBit b n).getLsbD m = b.getLsbD m := by
  simp only [clrBit, BitVec.getLsbD_and, BitVec.getLsbD_not, BitVec.getLsbD_shiftLeft, BitVec.getLsbD_one]
  have : ¬ (n ≤ m ∧ m - n = 0) := by omega
  by_cases hm : m < w
  · grind
  · simp [BitVec.getLsbD_of_ge b m (by omega)]

theorem getLsbD_clrBit_self {w : Nat} (b : BitVec w) (n : Nat) : (clrBit b n).getLsbD n = false := by
  simp only [clrBit, BitVec.getLsbD_and, BitVec.getLsbD_not, BitVec.getLsbD_shiftLeft, BitVec.getLsbD_one]
  grind

/-! ## A scalar register written (R42, R65, R67) -/

theorem Thread.putG_get_self (t : Thread) (n : Fin 16) (v : Word) : (t.putG n v).g.get n = v :=
  Vector.getElem_set_self n.isLt

theorem Thread.putG_get_ne (t : Thread) {n m : Fin 16} (v : Word) (h : n ≠ m) : (t.putG n v).g.get m = t.g.get m :=
  Vector.getElem_set_ne n.isLt m.isLt (fun e => h (Fin.ext e))

/-- A change on its way to a shared register stands among the core's. -/
theorem mem_cInsert (l : List CWrite) (w : CWrite) : w ∈ cInsert l w := by
  induction l with
  | nil => simp [cInsert]
  | cons x r ih =>
    simp only [cInsert]
    split
    · simp
    · exact List.mem_cons_of_mem _ ih

/-- It leaves the order of the changes of every other register. -/
theorem cInsert_filter_ne (l : List CWrite) (w : CWrite) {n : Fin 16} (h : w.n ≠ n) :
    (cInsert l w).filter (fun x => x.n == n) = l.filter (fun x => x.n == n) := by
  induction l with
  | nil => simp [cInsert, h]
  | cons x r ih =>
    simp only [cInsert]
    split
    · simp [List.filter_cons, h]
    · simp only [List.filter_cons, ih]

section
variable (s : State) (d : Sc) (v : Word)

@[simp] theorem State.putSc_cur : (s.putSc d v).cur = s.cur := by cases d <;> rfl
@[simp] theorem State.putSc_core : (s.putSc d v).core = s.core := by cases d <;> rfl
@[simp] theorem State.putSc_cycle : (s.putSc d v).cycle = s.cycle := by cases d <;> rfl
@[simp] theorem State.putSc_partAt (p : Nat) : (s.putSc d v).partAt p = s.partAt p := by cases d <;> rfl
@[simp] theorem State.putSc_barrierAt (k : Nat) : (s.putSc d v).barrierAt k = s.barrierAt k := by cases d <;> rfl
@[simp] theorem State.putSc_byteAt (pa : Nat) : (s.putSc d v).byteAt pa = s.byteAt pa := by cases d <;> rfl

/-- The thread after its write: `g` registers change at once, the others leave the thread alone. -/
theorem State.putSc_thr : (s.putSc d v).thr = match d with | .g n => s.thr.putG n v | _ => s.thr := by
  cases d <;> simp [State.putSc, State.putC, State.changeC]

@[simp] theorem State.putSc_thr_pc : (s.putSc d v).thr.pc = s.thr.pc := by cases d <;> simp [State.putSc_thr]
@[simp] theorem State.putSc_thr_trapent : (s.putSc d v).thr.trapent = s.thr.trapent := by
  cases d <;> simp [State.putSc_thr]
@[simp] theorem State.putSc_thr_fcsr : (s.putSc d v).thr.fcsr = s.thr.fcsr := by cases d <;> simp [State.putSc_thr]

theorem State.putSc_thread_ne {k : Nat} (h : k ≠ s.cur) : (s.putSc d v).thread? k = s.thread? k := by
  cases d with
  | g n => exact State.thread_setThr_ne s _ h
  | c n | i n | zr => rfl

/-- Another core is not written, and of the thread's own only the changes on their way to `c` registers. -/
theorem State.putSc_coreAt (c : Nat) : (s.putSc d v).coreAt c =
    { s.coreAt c with cWrites := match d with
        | .c n => if c = s.core then cInsert (s.coreAt c).cWrites { n := n, v := some v, issued := s.cycle, fill := false }
          else (s.coreAt c).cWrites
        | _ => (s.coreAt c).cWrites } := by
  cases d with
  | g n | i n | zr => rfl
  | c n =>
    simp only [State.putSc, State.putC, State.changeC, State.coreAt_updCore]
    split
    · next h => subst h; simp
    · next h => simp [Ne.symm h]

/-- The destination holds the value. -/
theorem gets_putSc : Gets s (s.putSc d v) d v := by
  cases d with
  | g n =>
    simp only [Gets, State.putSc_thr, Thread.putG_get_self, true_and]
    exact getLsbD_setBit_self _ n.isLt
  | c n => simp [Gets, State.putSc_coreAt, mem_cInsert]
  | i n | zr => trivial

end

/-- What `Gets` looks at: the thread's `g` registers and the changes on their way in its core. -/
theorem Gets.congr {s t u : State} {d : Sc} {v : Word} (h : Gets s t d v) (hg : u.thr.g = t.thr.g)
    (hf : u.thr.gFull = t.thr.gFull) (hc : (u.coreAt s.core).cWrites = (t.coreAt s.core).cWrites) : Gets s u d v := by
  cases d with
  | g n => simpa [Gets, hg, hf] using h
  | c n => simpa [Gets, hc] using h
  | i n | zr => trivial

theorem Gets.goesOn {s t : State} {d : Sc} {v : Word} (h : Gets s t d v) (i : Instr) : Gets s (t.goesOn i) d v :=
  h.congr (by simp) (by simp) (by simp)

theorem State.done_eq (s : State) (i : Instr) (d : Sc) (v : Word) : s.done i d v = (s.putSc d v).goesOn i := rfl

section
variable (s : State) (i : Instr) (d : Sc) (v : Word)

theorem done_sameMemory : SameMemory s (s.done i d v) := by
  unfold SameMemory
  cases d <;> simp [State.done_eq, State.goesOn_eq, State.putSc, State.putC, State.changeC, State.byteAt, State.tagAt, State.seamAt]

theorem done_sameOthers : SameOthers s (s.done i d v) := by
  refine ⟨fun k hk => ?_, fun c hc => ?_, ?_⟩
  · rw [State.done_eq, State.goesOn_thread_ne _ _ (by simpa using hk), State.putSc_thread_ne _ _ _ hk]
  · rw [State.done_eq, State.goesOn_coreAt, State.putSc_coreAt]
    cases d <;> simp [hc]
  · cases d <;> simp [State.done_eq, State.goesOn_eq, State.putSc, State.putC, State.changeC]

theorem done_sameG : SameG s (s.done i d v) (some d) := by
  intro n hn
  cases d with
  | g m =>
    have hm : m ≠ n := by rintro rfl; exact hn rfl
    have hv : m.val ≠ n.val := fun e => hm (Fin.ext e)
    simp only [State.done_eq, State.goesOn_thr, State.putSc_thr, Thread.retire_g, Thread.retire_gFull,
      Thread.retire_gPoison, Thread.putG_get_ne _ _ hm]
    exact ⟨trivial, getLsbD_setBit_ne _ hv, getLsbD_clrBit_ne _ hv⟩
  | c m | i m | zr => simp [State.done_eq, State.putSc_thr]

theorem done_sameC : SameC s (s.done i d v) (some d) := by
  simp only [SameC, State.done_eq, State.goesOn_coreAt, State.putSc_coreAt, true_and]
  intro n hn
  cases d with
  | c m =>
    have hm : m ≠ n := by rintro rfl; exact hn rfl
    simpa using cInsert_filter_ne _ { n := m, v := some v, issued := s.cycle, fill := false } hm
  | g m | i m | zr => rfl

theorem done_sameVK : SameVK s (s.done i d v) := by
  cases d <;> simp [SameVK, State.done_eq, State.putSc_thr]

theorem done_sameSpecial : SameSpecial s (s.done i d v) := by
  cases d <;> simp [SameSpecial, State.done_eq, State.putSc_thr]

theorem done_sameCore : SameCore s (s.done i d v) := by
  simp [SameCore, State.done_eq, State.putSc_coreAt, State.ident]

theorem done_samePart : SamePart s (s.done i d v) := by
  intro p
  obtain ⟨_, _, h⟩ := ((s.putSc d v).setThr ((s.putSc d v).thr.retire (instrLen i) .seq (s.putSc d v).cycle)).progress_eq
    (s.putSc d v).core
  obtain ⟨n, hn⟩ := h p
  rw [State.done_eq, State.goesOn_eq, hn]
  simp

/-- Nothing but the destination changes, and the bookkeeping of issue. -/
theorem done_onlyDest : OnlyDest s (s.done i d v) (some d) :=
  ⟨done_sameMemory s i d v, done_sameOthers s i d v, done_sameG s i d v, done_sameC s i d v, done_sameVK s i d v,
    done_sameSpecial s i d v, done_sameCore s i d v, done_samePart s i d v⟩

theorem done_completed : Completed i s (s.done i d v) :=
  Completed.of_goesOn (u := s.putSc d v) (by simp) (by simp) (by simp)

theorem done_gets : Gets s (s.done i d v) d v := (gets_putSc s d v).goesOn i

end

/-! ## The instructions -/

theorem exec_li (d : Sc) (v : BitVec 27) (s : State) : exec (.li d v) s = execLi d v s := rfl
theorem exec_li96 (d : Sc) (v : BitVec 32) (s : State) : exec (.li96 d v) s = execLi96 d v s := rfl
theorem exec_li128 (d : Sc) (v : BitVec 64) (s : State) : exec (.li128 d v) s = execLi128 d v s := rfl
theorem exec_mov (d a : Sc) (s : State) : exec (.mov d a) s = execMov d a s := rfl
theorem exec_lea (d : Sc) (b : Src2) (s : State) : exec (.lea d b) s = execLea d b s := rfl
theorem exec_sel (d a c : Sc) (b : Src2) (s : State) : exec (.sel d a b c) s = execSel d a b c s := rfl
theorem exec_setc (cc : Cond) (z : Bool) (d a : Sc) (b : Src2) (s : State) :
    exec (.setc cc z d a b) s = execSetc cc z d a b s := rfl

theorem sel_done {s : State} {d a c : Sc} {b : Src2} (h : s.readable (a :: c :: src2Regs b) = true)
    (hd : Sc.isI d = false) :
    execSel d a b c s = .next (s.done (.sel d a b c) d (if s.sc c ≠ 0 then s.sc a else s.src2 b)) := by
  unfold execSel
  refine run_ok (State.readable_thread h) (State.readable_checks h (by simp [hd])) ?_
  simp [M.bind_apply, M.map_apply, rdSrc2_eq (b := b) h (by simp +contextual), State.readable_operand h (r := a) (by simp),
    State.readable_operand h (r := c) (by simp)]

theorem lea_done {s : State} {d : Sc} {b : Src2} (h : s.readable (src2Regs b) = true) (hd : Sc.isI d = false) :
    execLea d b s = .next (s.done (.lea d b) d (s.thr.pc + s.src2 b)) := by
  unfold execLea
  refine run_ok (State.readable_thread h) (State.readable_checks h (by simp [hd])) ?_
  simp [M.bind_apply, M.map_apply, rdSrc2_eq (b := b) h (fun _ hr => hr)]

/-- The comparison of `SETC` is that of the unbounded integers (R326). -/
theorem boolWord_compare (cc : Cond) (z : Bool) (x y : Word) :
    boolWord (compare cc z x y) =
      (let lt : Bool := if z then decide (x.toNat < y.toNat) else decide (x.toInt < y.toInt)
       let eq : Bool := decide (x = y)
       if (match cc with
           | .eq => eq
           | .ne => !eq
           | .lt => lt
           | .le => lt || eq
           | .gt => !lt && !eq
           | .ge => !lt) then 1 else 0) := by
  have hb : below z x y = if z then decide (x.toNat < y.toNat) else decide (x.toInt < y.toInt) := by
    cases z <;> rfl
  unfold compare boolWord condHolds
  rw [hb]
  cases cc <;> simp [beq_eq_decide]

/-- Settles O7: the operations read off their shared forms, and the end of an instruction by the parts of the pod it
leaves. -/
theorem moveResults : Obligations.MoveResults := by
  unfold Obligations.MoveResults
  simp only [exec_li, exec_li96, exec_li128, exec_mov, exec_lea, exec_sel, exec_setc]
  refine ⟨fun s d hd => ⟨fun h => ⟨fun v => loadConst_done h hd _ _, fun v => loadConst_done h hd _ _,
      fun v => loadConst_done h hd _ v⟩, fun a h => alu1_done h hd _ _, fun b h => lea_done h hd,
      fun a c b h => sel_done h hd, fun a b z h cc => (alu_done h hd _ _).trans
        (congrArg (fun x => Host.Outcome.next (s.done (.setc cc z d a b) d x)) (boolWord_compare cc z (s.sc a) (s.src2 b)))⟩,
    fun s i d v _ _ => ⟨done_completed s i d v, done_gets s i d v, done_onlyDest s i d v, by simp [State.done_eq], ?_⟩⟩
  · rintro rfl n
    simp [State.done_eq, State.putSc_thr]

end Sys2Proof.Machine
end

section
/-! The theorem that settles O48: the state right after reset (R35, R67, R73 to R80, R112, R260). -/
namespace Sys2Proof.Machine

/-- Every entry of the default slot table owns its number's slot (R35). -/
theorem defaultSlotTab_entry {e : Nat} (h : e < 32) : defaultSlotTab.toNat / 16 ^ e % 16 = 8 + e % 8 := by
  revert e
  decide

@[simp] theorem State.reset_coreAt (c : Nat) : State.reset.coreAt c = Core.reset := rfl
@[simp] theorem State.reset_thread (k : Nat) : State.reset.thread? k = none := rfl
@[simp] theorem State.reset_pkgAt (p : Nat) : State.reset.pkgAt p = Pkg.reset := rfl
@[simp] theorem State.reset_partOfDie (d : Nat) : State.reset.partOfDie d = none := rfl
@[simp] theorem State.reset_byteAt (pa : Nat) : State.reset.byteAt pa = 0 := rfl
@[simp] theorem State.reset_tagAt (pa : Nat) : State.reset.tagAt pa = false := rfl
@[simp] theorem State.reset_seamAt (pa : Nat) : State.reset.seamAt pa = 0 := rfl

/-- Nothing is written and no image stored: memory has its canonical form. -/
theorem State.reset_canonical : State.reset.canonical := by
  refine ⟨State.reset_mem_wf, ?_, ?_⟩ <;> simp [State.reset]

theorem State.reset_noDoubleFault : State.reset.noDoubleFault := by
  simp [State.noDoubleFault, State.reset]

theorem get_replicate {α : Type} {n : Nat} (x : α) (j : Fin n) : (Vector.replicate n x).get j = x :=
  Vector.getElem_replicate j.isLt

/-- The accumulators of a core at partition start (R112). -/
theorem Core.reset_acc (n : Fin 4) : Core.reset.acc.get n = Tile.reset := get_replicate _ n

theorem Tile.reset_el (m : Fin 256) : Tile.reset.el.get m = 0 := get_replicate _ m

/-- Settles O48: each part reads off the reset values of its table. -/
theorem resetState : Obligations.ResetState := by
  unfold Obligations.ResetState
  refine ⟨State.reset_canonical, State.reset_noDoubleFault, State.reset_thread, fun p => ⟨rfl, rfl⟩,
    State.reset_partOfDie, fun pa => ⟨State.reset_byteAt pa, State.reset_tagAt pa, State.reset_seamAt pa⟩, fun c => ?_,
    fun uid pc tag => ?_⟩
  · simp only [State.reset_coreAt, Core.reset_acc, Tile.reset_el]
    exact ⟨rfl, rfl, rfl, rfl, rfl, rfl, rfl, fun e he => defaultSlotTab_entry he, fun _ => ⟨rfl, rfl, fun _ => trivial⟩⟩
  · exact ⟨rfl, rfl, rfl, rfl, rfl, rfl, rfl, rfl, rfl, rfl, fun n => get_replicate _ n, fun n => get_replicate _ n⟩

end Sys2Proof.Machine
end

section
/-! SUPPORT. What a home, a core's queues and the end of a thread leave of the pod, whatever they do (`Served`): the
time and the turns, the slots that hold no thread, the reservations of the cores, and the lines without sharers. A lemma
per operation; `h.op : Served r (s.op …)` is read off `h : Served r s`. -/
namespace Sys2Proof.Machine

/-- From `r`, only answers have been given and requests performed: no thread has entered a slot, no reservation has
changed and no line has gained a sharer. -/
def Served (r s : State) : Prop :=
  s.cycle = r.cycle ∧ s.turns = r.turns ∧ (∀ k, r.thread? k = none → s.thread? k = none) ∧
  (∀ c, (s.coreAt c).keep = (r.coreAt c).keep) ∧ ∀ l, mapGet r.dirs l = none → mapGet s.dirs l = none

theorem mapGet_del_none {α : Type} {m : List (Nat × α)} {k : Nat} (n : Nat) (h : mapGet m k = none) :
    mapGet (mapDel m n) k = none := by
  by_cases hn : n = k
  · subst hn; exact mapGet_del_self m n
  · rw [mapGet_del_ne m hn]; exact h

/-- A table whose entries have changed, each under its number. -/
theorem mapGet_map {α β : Type} (m : List (Nat × α)) (f : Nat × α → β) (n : Nat) :
    mapGet (m.map (fun e => (e.1, f e))) n = (mapGet m n).map (fun v => f (n, v)) := by
  induction m with
  | nil => rfl
  | cons a t ih =>
    obtain ⟨k, v⟩ := a
    simp only [List.map_cons, mapGet_cons]
    split
    · next h => subst h; rfl
    · exact ih

namespace Served

variable {r s t : State}

theorem refl (s : State) : Served s s := ⟨rfl, rfl, fun _ => id, fun _ => rfl, fun _ => id⟩

theorem cycle (h : Served r s) : s.cycle = r.cycle := h.1
theorem turns (h : Served r s) : s.turns = r.turns := h.2.1
theorem vacant (h : Served r s) {k : Nat} (hk : r.thread? k = none) : s.thread? k = none := h.2.2.1 k hk
theorem keep (h : Served r s) (c : Nat) : (s.coreAt c).keep = (r.coreAt c).keep := h.2.2.2.1 c
theorem unshared (h : Served r s) {l : Nat} (hl : mapGet r.dirs l = none) : mapGet s.dirs l = none := h.2.2.2.2 l hl

/-! ## Composition -/

section

variable {cur nextUid nextSeq : Nat} {quads : List (Nat × Quad)} {dies : List (Nat × Die)} {pkgs : List (Nat × Pkg)}
  {parts : List (Nat × Partition)} {barriers : List (Nat × Barrier)} {chains : List (Nat × List Vec)}
  {retry : List Waiter} {mem slice : List Host.Cell} {visitors : List (Nat × VLine)} {tags poison : List Nat}
  {seams : List (Nat × BitVec 16)}

/-- The other parts of the pod are not looked at. -/
theorem same (h : Served r s) :
    Served r { s with
      cur, nextUid, nextSeq, quads, dies, pkgs, parts, barriers, chains, retry, mem, slice, visitors, tags, poison,
      seams } := h

end

theorem foldl {α : Type} (h : Served r s) {l : List α} {f : State → α → State}
    (hf : ∀ u a, Served r u → Served r (f u a)) : Served r (l.foldl f s) := by
  induction l generalizing s with
  | nil => exact h
  | cons a l ih => exact ih (hf s a h)

theorem ite (h : Served r s) {c : Prop} {_ : Decidable c} (ht : Served r t) : Served r (if c then s else t) := by
  split
  · exact h
  · exact ht

theorem ite_fst {α : Type} {a b : State × α} (ha : Served r a.1) {c : Prop} {_ : Decidable c} (hb : Served r b.1) :
    Served r (if c then a else b).1 := by
  split
  · exact ha
  · exact hb

theorem pair {α : Type} (h : Served r s) {a : α} : Served r (s, a).1 := h

/-! ## Parts of the pod -/

theorem updCore (h : Served r s) {c : Nat} {f : Core → Core} (hf : (f (s.coreAt c)).keep = (s.coreAt c).keep) :
    Served r (s.updCore c f) := by
  refine ⟨h.cycle, h.turns, fun k hk => h.vacant hk, fun d => ?_, fun l hl => h.unshared hl⟩
  rw [State.coreAt_updCore]
  split
  · next e => subst e; rw [hf]; exact h.keep c
  · exact h.keep d

theorem setThread (h : Served r s) {k : Nat} (x : Thread) (hk : (s.thread? k).isSome = true) :
    Served r (s.setThread k x) := by
  refine ⟨h.cycle, h.turns, fun j hj => ?_, h.keep, fun l hl => h.unshared hl⟩
  have hs := h.vacant hj
  rw [State.thread_setThread]
  split
  · next e => subst e; simp [hs] at hk
  · exact hs

theorem updThread (h : Served r s) {k : Nat} {f : Thread → Thread} : Served r (s.updThread k f) := by
  unfold State.updThread
  split
  · next e => exact h.setThread _ (by simp [e])
  · exact h

/-- A change of every core's entry that keeps the reservations. -/
theorem mapCores (h : Served r s) {f : Nat × Core → Core} (hf : ∀ e, (f e).keep = e.2.keep) :
    Served r { s with cores := s.cores.map (fun e => (e.1, f e)) } := by
  refine ⟨h.cycle, h.turns, fun k hk => h.vacant hk, fun c => ?_, fun l hl => h.unshared hl⟩
  rw [← h.keep c]
  simp only [State.coreAt, mapGet_map]
  cases mapGet s.cores c with
  | none => rfl
  | some x => exact hf (c, x)

theorem setQuad (h : Served r s) {q : Nat} {x : Quad} : Served r (s.setQuad q x) := h
theorem updQuad (h : Served r s) {q : Nat} {f : Quad → Quad} : Served r (s.updQuad q f) := h
theorem updDie (h : Served r s) {d : Nat} {f : Die → Die} : Served r (s.updDie d f) := h

/-- Fewer lines with sharers. -/
theorem delDir (h : Served r s) (l : Nat) : Served r { s with dirs := mapDel s.dirs l } :=
  ⟨h.cycle, h.turns, fun _ hk => h.vacant hk, h.keep, fun _ hk => mapGet_del_none l (h.unshared hk)⟩

theorem delDirs (h : Served r s) (ls : List Nat) :
    Served r { s with dirs := ls.foldl (fun m l => mapDel m l) s.dirs } := by
  induction ls generalizing s with
  | nil => exact h
  | cons l ls ih => exact ih (h.delDir l)

/-! ## Bytes (R3, R150) -/

theorem setByte (h : Served r s) {pa : Nat} {b : Byte} : Served r (s.setByte pa b) := by
  unfold State.setByte
  split <;> exact h

theorem setBytes (h : Served r s) {pa n v : Nat} : Served r (s.setBytes pa n v) := by
  induction n generalizing s pa v with
  | zero => exact h
  | succ n ih => exact ih h.setByte

theorem homeWrite (h : Served r s) {pa n v : Nat} : Served r (s.homeWrite pa n v) := by
  unfold State.homeWrite
  exact h.ite h.setBytes

theorem writeCells (h : Served r s) {l : List Host.Cell} : Served r (s.writeCells l) :=
  (h.foldl fun _ _ hu => hu.homeWrite : Served r (s.homeWriteCells l))

theorem flushSpan (h : Served r s) {pa n : Nat} : Served r (s.flushSpan pa n) := h
theorem setTag (h : Served r s) {pa : Nat} {full : Bool} : Served r (s.setTag pa full) := h

theorem setSeam (h : Served r s) {pa : Nat} {v : BitVec 16} : Served r (s.setSeam pa v) := by
  unfold State.setSeam
  split <;> exact h

theorem clearStore (h : Served r s) {core lo hi : Nat} : Served r (s.clearStore core lo hi) := h

theorem cleanVisitor (h : Served r s) {die line : Nat} : Served r (s.cleanVisitor die line) := by
  unfold State.cleanVisitor
  dsimp only
  split
  · exact h
  · split <;> exact h.writeCells

theorem dropVisitor (h : Served r s) {die line : Nat} : Served r (s.dropVisitor die line) := h
theorem cleanSlice (h : Served r s) {line : Nat} : Served r (s.cleanSlice line) := h
theorem dropSlice (h : Served r s) {line : Nat} : Served r (s.dropSlice line) := h.delDir line

/-! ## Answers (R202) -/

variable {pkg core die line key uid lo hi pa n : Nat} {w : Waiter} {q : Req} {rep : Reply}

theorem send (h : Served r s) {m : Msg} : Served r (s.send m) := by
  unfold State.send
  split <;> exact h

theorem uncleaned (h : Served r s) {k : Nat} : Served r (s.uncleaned core k q) := by
  unfold State.uncleaned State.redirty
  split
  · dsimp only; split <;> exact h
  · exact h

theorem mailTo (h : Served r s) {who : Who} {m : Mail} : Served r (s.mailTo who m) := by
  unfold State.mailTo
  split
  · split
    · exact (h.uncleaned.ite h).updThread
    · exact h
  · exact h.updCore rfl
  · exact h.updCore rfl
  · exact h

theorem answer (h : Served r s) : Served r (s.answer pkg w rep) := by
  unfold State.answer
  split
  · refine send ?_
    split <;> exact h
  · exact h.mailTo

theorem sendReply (h : Served r s) : Served r (s.sendReply pkg w rep) := h.send

/-! ## A request on memory (R164 to R166) -/

theorem fill (h : Served r s) {slot : Option Nat} {reg : Nat} {v : Word} : Served r (s.fill core slot reg v).1 := by
  unfold State.fill
  split
  · split
    · split
      · next e => exact h.setThread _ (by simp [e])
      · exact h
    · exact h.updCore rfl
  · exact h

theorem perform (h : Served r s) : Served r (s.perform q).1 := by
  unfold State.perform
  split
  · split
    · exact h
    · exact h.setTag.ite h
  · split
    · exact h
    · exact h.homeWrite.ite h.homeWrite.setTag
  · split <;> exact h
  · exact h.fill
  · exact h

theorem settle (h : Served r s) : Served r (s.settle q) := (h.foldl fun _ _ hu => hu.flushSpan).ite h
theorem dropDirs (h : Served r s) : Served r (s.dropDirs q) := h.delDirs _

theorem askHandler (h : Served r s) {hc : Nat} : Served r (s.askHandler w line hc) :=
  (h.updCore rfl).ite (h.updCore rfl)

theorem askLines (h : Served r s) {l : List Nat} (ht : s.askLines l = some t) : Served r t := by
  obtain ⟨_, _, rfl⟩ := Option.map_eq_some_iff.mp ht
  exact h.askHandler

theorem examineOne (h : Served r s) (ht : s.examineOne n = some t) : Served r t := by
  unfold State.examineOne at ht
  split at ht
  · cases ht
  · dsimp only at ht
    split at ht
    · cases ht; exact h.same.askHandler
    · cases ht; exact h.same.dropDirs.perform.settle.answer

theorem examine (h : Served r s) : Served r (s.examine n) := by
  unfold State.examine
  generalize s.retry.length = fuel
  induction fuel generalizing s with
  | zero => exact h
  | succ m ih =>
    unfold State.examine.go
    split
    · next h1 => exact ih (h.examineOne h1)
    · exact h

theorem list (h : Served r s) : Served r (s.list w).1 := by
  unfold State.list
  dsimp only
  split <;> exact h

/-! ## Expiry entries, barriers and peg bindings -/

theorem setEx (h : Served r s) {x : Tag} {e : ExEnt} : Served r (s.setEx x e) := h
theorem sendWave (h : Served r s) {x : Tag} : Served r (s.sendWave x pkg) := h.send
theorem lapse (h : Served r s) {x : Tag} : Served r (s.lapse x) := h.setEx.foldl fun _ _ hu => hu.sendWave.ite hu
theorem reachAdd (h : Served r s) {x : Tag} : Served r (s.reachAdd x pkg) := h.ite (h.setEx.ite h.setEx.sendWave)

theorem exReq (h : Served r s) : Served r (s.exReq q).1 := by
  unfold State.exReq
  split
  · exact ite_fst h (ite_fst h (ite_fst h h.reachAdd))
  · exact ite_fst h (ite_fst h h)
  · refine ite_fst h (ite_fst h ?_)
    split
    · exact h.setEx.lapse
    · exact h
    · exact h
    · exact h
  · exact ite_fst h (ite_fst h h.reachAdd)
  · exact h.reachAdd
  · exact h

theorem barrierDone (h : Served r s) : Served r (s.barrierDone key) := by
  unfold State.barrierDone
  split
  · refine h.updCore ?_
    split
    · split <;> rfl
    · rfl
  · exact h

theorem barrierCheck (h : Served r s) : Served r (s.barrierCheck key) := by
  unfold State.barrierCheck
  exact ite (barrierDone (h.same.foldl fun _ _ hu => hu.answer)) h

theorem depart (h : Served r s) : Served r (s.depart key uid) := by
  unfold State.depart
  exact ite (barrierCheck h.same) h

theorem barReq (h : Served r s) {op : BarOp} : Served r (s.barReq w key uid op).1 := by
  cases op with
  | join c => exact ite_fst h h
  | arrive => exact ite_fst h (barrierCheck h.same)
  | leave => exact ite_fst h.depart h

theorem pegReq (h : Served r s) : Served r (s.pegReq q).1 := by
  unfold State.pegReq
  split
  · split <;> exact h
  · dsimp only
    split
    · exact ite_fst h (ite_fst h h)
    · exact ite_fst h h
  · exact h
  · exact h

/-! ## A request at its home -/

theorem applyBase (h : Served r s) : Served r (s.applyBase w).1 := by
  unfold State.applyBase
  refine ite_fst h ?_
  generalize w.req.base = q
  cases q with
  | rd | probe => exact h
  | wr => exact ite_fst h (h.writeCells.foldl fun _ _ hu => hu.examine)
  | amo => exact ite_fst h h.homeWrite.examine
  | cas => exact ite_fst h (h.homeWrite.examine.ite h)
  | line => exact ite_fst h (pair (h.homeWrite.foldl fun _ _ hu => hu.examine))
  | popFree => exact ite_fst h (ite_fst h (ite_fst h (ite_fst h h.homeWrite.examine.pair)))
  | pegWr => exact ite_fst h h.homeWrite.setTag.examine
  | feLd | feSt => exact ite_fst h.perform.examine (ite_fst h h.list)
  | peg | rfill =>
    dsimp only
    split
    · exact h.perform
    · exact h.list
  | bindGet | bindAdd | bindRm => exact h.pegReq
  | bar => exact h.barReq
  | spawn | migr =>
    dsimp only
    split
    · exact h.updCore rfl
    · exact h.updCore rfl
  | exSet | exChk | exFree | exParent | note | unc | seam =>
    dsimp only
    exact h.exReq

theorem applyAt (h : Served r s) : Served r (s.applyAt w).1 := by
  have hs := h.applyBase (w := w) |>.settle (q := w.req)
  unfold State.applyAt State.tagLine
  dsimp only
  split
  · exact hs.setSeam.ite hs
  · exact hs

theorem coherent (h : Served r s) : Served r (s.coherent w).1 := by
  unfold State.coherent
  split
  · exact h.dropDirs.applyAt
  · exact h.askHandler

/-! ## Cleaning and withdrawal -/

theorem examineSpan (h : Served r s) : Served r (s.examineSpan lo n) := h.foldl fun _ _ hu => hu.examine.ite hu

theorem emptyStore (h : Served r s) : Served r (s.emptyStore core lo hi) := h.clearStore.examineSpan

theorem cleanHome (h : Served r s) : Served r (s.cleanHome die line) :=
  ((h.delDir line).ite h).cleanVisitor.examineSpan

theorem linesWait (h : Served r s) {l : List Nat} (ht : s.linesWait die l = some t) : Served r t := by
  unfold State.linesWait at ht
  split at ht
  · cases ht; exact h
  · exact h.askLines ht

theorem dropCleans (h : Served r s) {l : List OutReq} : Served r (s.dropCleans core l) :=
  h.foldl fun _ _ hu => hu.uncleaned.updDie

theorem withdraw (h : Served r s) : Served r (s.withdraw uid) := by
  unfold State.withdraw State.withdrawReqs
  refine Served.mapCores (s := State.mk ..) ?_ fun _ => rfl
  exact same (((h.foldl fun _ _ hu => hu.dropCleans).foldl fun _ _ hu => hu.uncleaned).foldl
    fun _ _ hu => hu.uncleaned)

/-! ## The end of a thread (R301) -/

theorem request (h : Served r s) {dst k epoch limit cls va : Nat} {who : Who} {exp : Tag} {pc : Word}
    {ins : Option Instr} (ht : s.request core dst who k epoch q exp limit pc ins cls va = some t) : Served r t := by
  unfold State.request at ht
  split at ht
  · cases ht
  · cases ht; exact (h.updCore rfl).send

theorem departAll (h : Served r s) {tag : Tag} : Served r (s.departAll core uid tag) := by
  unfold State.departAll
  refine h.foldl fun u e hu => ?_
  dsimp only
  split
  · exact hu.depart
  · split
    · next e => exact hu.request e
    · exact hu.depart

theorem refuseFills (h : Served r s) {slot : Nat} : Served r (s.refuseFills core slot) :=
  h.same.foldl fun _ _ hu => hu.answer

theorem endTask (h : Served r s) {x : Thread} {applySet : Bool} : Served r (s.endTask x applySet) := by
  unfold State.endTask
  split
  · exact h
  · dsimp only
    split
    · exact h
    · exact h.setQuad.updQuad.ite h.setQuad

theorem storeDown (h : Served r s) : Served r (s.storeDown core) := (h.emptyStore.updCore rfl).ite h

theorem grantGrow (h : Served r s) : Served r (s.grantGrow core) := by
  unfold State.grantGrow
  generalize (s.coreAt core).growQ.length = fuel
  induction fuel generalizing s with
  | zero => exact h
  | succ k ih =>
    unfold State.grantGrow.go
    split
    · exact h
    · split
      · next tid x e =>
        have hx : (s.thread? tid).isSome = true := by
          obtain ⟨j, _, hj⟩ := Option.bind_eq_some_iff.mp e
          obtain ⟨y, hy, e'⟩ := Option.map_eq_some_iff.mp hj
          cases e'; simp [hy]
        split
        · split
          · exact ih ((h.updCore rfl).setThread _ hx)
          · exact h
        · exact h
      · exact h

/-- A thread that leaves its slot. -/
theorem delThread (h : Served r s) (k : Nat) : Served r { s with threads := mapDel s.threads k } :=
  ⟨h.cycle, h.turns, fun _ hj => mapGet_del_none k (h.vacant hj), h.keep, fun _ hl => h.unshared hl⟩

theorem slotFreed (h : Served r s) {slot : Nat} : Served r (s.slotFreed core slot) := h.updCore rfl

/-- A thread's slot once it has left: vacant, whatever is granted or served then. -/
theorem left (h : Served r s) (tid core slot : Nat) :
    let u : State := { s with threads := mapDel s.threads tid }
    Served r (((u.slotFreed core slot).storeDown core).grantGrow core) ∧
      (((u.slotFreed core slot).storeDown core).grantGrow core).thread? tid = none :=
  ⟨(h.delThread tid).slotFreed.storeDown.grantGrow, (refl _).slotFreed.storeDown.grantGrow.vacant (mapGet_del_self _ _)⟩

/-- The end of a thread: its slot is vacant. -/
theorem endThread {tid : Nat} {annul : Bool} :
    Served r (r.endThread tid annul) ∧ (r.endThread tid annul).thread? tid = none := by
  unfold State.endThread
  split
  · next e => exact ⟨.refl r, e⟩
  · exact left ((((refl r).withdraw.ite (.refl r)).departAll.refuseFills.updCore rfl).updQuad.endTask) tid _ _

end Served

end Sys2Proof.Machine
end

section
/-! The theorem that settles O15: `HALT` returns from an inline child or ends the thread (R48, R51, R52, R300). -/
namespace Sys2Proof.Machine

/-- Fewer registers are readable too. -/
theorem State.readable_mono {s : State} {l l' : List Sc} (h : s.readable l = true) (hl : ∀ r ∈ l', r ∈ l) :
    s.readable l' = true := by
  rw [State.readable_iff] at h ⊢
  exact ⟨h.1, fun r hr => h.2 r (hl r hr)⟩

/-- A thread whose stores are all acknowledged does not wait for them (R154). -/
theorem waitAcks_ok {s : State} (h : s.thr.stores = []) : waitAcks s = .ok () s := by
  simp [waitAcks, h]

theorem exec_halt (s : State) : exec .halt s = haltWith .halt none s := rfl
theorem exec_haltKeep (a : Sc) (s : State) : exec (.haltKeep a) s = haltWith (.haltKeep a) (some a) s := rfl

/-- In an inline child the depth falls by one and the thread goes on at `g15` (R48). -/
theorem haltWith_inline {s : State} {i : Instr} {keep : Option Sc} (hr : s.readable (keep.toList ++ [.g 15]) = true)
    (ht : s.thr.trapent = false) (hd : s.thr.idepth ≠ 0) (ha : (s.thr.g.get 15).toNat % 4 = 0) :
    haltWith i keep s =
      .next ((s.setThr { s.thr with idepth := s.thr.idepth - 1 }).jumped i (s.thr.g.get 15)) := by
  have hin : s.thr.returnsInline = true := by simp [Thread.returnsInline, ht, hd]
  unfold haltWith
  simp only [hin, if_true]
  refine run_ok (State.readable_thread hr) ?_ ?_
  · cases keep <;> exact State.readable_checks hr (by simp)
  · simp [M.bind_apply, M.map_apply, hin, ha]

/-- The reservation that `HALT.keep` leaves before the thread ends (R52). -/
def State.keeping (s : State) (keep : Option Sc) : State :=
  match keep with
  | some a => s.updCore s.core (fun c => { c with keep := some ((s.sc a).setWidth 32) })
  | none => s

/-- Otherwise the thread ends once its stores are acknowledged, and no push of a port is on its way (R51, R185). -/
theorem haltWith_ends {s : State} {i : Instr} {keep : Option Sc} (hr : s.readable keep.toList = true)
    (ht : s.thr.trapent = true ∨ s.thr.idepth = 0) (hs : s.thr.stores = []) (hv : s.thr.vPend = 0) :
    haltWith i keep s =
      .next (((s.keeping keep).endThread s.cur s.thr.doomed).progress ((s.keeping keep).endThread s.cur s.thr.doomed).core) := by
  have hin : s.thr.returnsInline = false := by
    rcases ht with ht | ht <;> simp [Thread.returnsInline, ht]
  have hu : checkUses { rd := keep.toList } s = none := State.readable_checks hr (by simp)
  unfold haltWith
  simp only [hin]
  cases keep with
  | none =>
    refine run_ok (nx := .gone) (State.readable_thread hr) hu ?_
    simp [M.bind_apply, M.map_apply, hin, waitAcks_ok hs, hv, State.keeping]
  | some a =>
    refine run_ok (nx := .gone) (State.readable_thread hr) hu ?_
    simp [M.bind_apply, M.map_apply, hin, waitAcks_ok hs, hv, State.keeping, State.readable_operand hr (r := a) (by simp)]

/-- The slot is vacant then, and the reservation stands. -/
theorem endThread_progress (s : State) (keep : Option Sc) (b : Bool) (c : Nat) :
    (((s.keeping keep).endThread s.cur b).progress c).thread? s.cur = none ∧
      ((((s.keeping keep).endThread s.cur b).progress c).coreAt s.core).keep = ((s.keeping keep).coreAt s.core).keep := by
  obtain ⟨hs, hv⟩ := Served.endThread (r := s.keeping keep) (tid := s.cur) (annul := b)
  exact ⟨by simpa using hv, by simpa using hs.keep s.core⟩

/-- Settles O15: an inline child returns by its own state; else the end of the thread leaves its slot vacant and the
reservation as it was just set. -/
theorem haltResults : Obligations.HaltResults := by
  unfold Obligations.HaltResults
  intro s a hr hv
  have h15 : s.readable [.g 15] = true := State.readable_mono hr (by simp)
  refine ⟨fun ht hd ha => ⟨?_, ?_⟩, fun ht hs => ⟨?_, ?_⟩⟩
  · exact haltWith_inline (keep := none) h15 ht hd ha
  · exact haltWith_inline (keep := some a) hr ht hd ha
  · rw [exec_halt, haltWith_ends (keep := none) (State.readable_mono hr (by simp)) ht hs hv]
    exact ⟨_, rfl, (endThread_progress s none _ _).1⟩
  · rw [exec_haltKeep, haltWith_ends (keep := some a) (State.readable_mono hr (by simp)) ht hs hv]
    obtain ⟨hgone, hkeep⟩ := endThread_progress s (some a) s.thr.doomed
      ((s.keeping (some a)).endThread s.cur s.thr.doomed).core
    exact ⟨_, rfl, hgone, hkeep.trans (by simp [State.keeping])⟩

end Sys2Proof.Machine
end

section
/-! The theorem that settles O36: the registers of a `SHRINK` go to the head of the queue only where its uid names one
slot (R70). -/
namespace Sys2Proof.Machine

/-- Two slots of core 0 hold threads of one uid, and the table lists slot 5 before slot 3: slot 5 waits for 8 vector
registers and stands in the queue, slot 3 holds 8. -/
def twinState : State :=
  { State.reset with
    cur := 3
    threads := [(5, { Thread.new 1 0 0 with park := some (.grow 8) }), (3, { Thread.new 1 0 0 with alot := 8 })]
    cores := [(0, { Core.reset with growQ := [1] })] }

/-- The state after slot 3 has given its registers back. -/
def afterTwinShrink : State :=
  match exec (.shrink .zr 8) twinState with
  | .next t => t
  | _ => twinState

theorem exec_twinShrink : exec (.shrink .zr 8) twinState = .next afterTwinShrink := rfl

/-- The table now lists the thread of slot 3 first; as it does not wait, nothing is granted. -/
theorem growQ_afterTwinShrink : (afterTwinShrink.coreAt twinState.core).growQ = [1] := by decide +kernel

/-- Refutes O36: in a table that is out of order and holds a uid twice, a registers' return moves the uid of the queue's
head to another slot. No premise says that a uid names one slot, or that the table of threads is in order. -/
theorem not_allotmentsAndBarriers : ¬ Obligations.AllotmentsAndBarriers := by
  unfold Obligations.AllotmentsAndBarriers
  intro ⟨hallot, _⟩
  obtain ⟨_, _, hshrink, _⟩ := hallot twinState .zr .zr 8 false (by decide +kernel) rfl rfl
  obtain ⟨_, hgrant⟩ := hshrink.1 (by decide) (by decide) (by decide +kernel) (by decide +kernel)
  obtain ⟨t, _, ht, _, _, _, hq⟩ := hgrant 1 5 { Thread.new 1 0 0 with park := some (.grow 8) } 8 rfl rfl (by decide)
    rfl rfl (by decide +kernel)
  rw [exec_twinShrink] at ht
  cases ht
  rw [growQ_afterTwinShrink] at hq
  cases hq

end Sys2Proof.Machine
end

section
/-! SUPPORT. A thread that waits, and a thread's request at a home of its own package (R94, R147, R202): what they leave
of the thread and of the cores. -/
namespace Sys2Proof.Machine

/-! ## A thread that waits (R94) -/

/-- A state that differs from another in what the ports of its thread have drawn at most (R182). -/
def Redrawn (s t : State) : Prop :=
  t.cur = s.cur ∧ t.cycle = s.cycle ∧ t.cores = s.cores ∧ t.retry = s.retry ∧ t.quads = s.quads ∧
    ∃ ports, t.thr = { s.thr with ports := ports }

theorem Redrawn.refl (s : State) : Redrawn s s := ⟨rfl, rfl, rfl, rfl, rfl, _, rfl⟩

theorem Redrawn.trans {s t u : State} (h : Redrawn s t) (g : Redrawn t u) : Redrawn s u := by
  obtain ⟨h1, h2, h3, h4, h5, _, hp⟩ := h
  obtain ⟨g1, g2, g3, g4, g5, q, gp⟩ := g
  exact ⟨g1.trans h1, g2.trans h2, g3.trans h3, g4.trans h4, g5.trans h5, q, by rw [gp, hp]⟩

theorem Redrawn.foldl {α : Type} {f : State → α → State} (hf : ∀ u a, Redrawn u (f u a)) (l : List α) (s : State) :
    Redrawn s (l.foldl f s) := by
  induction l generalizing s with
  | nil => exact .refl s
  | cons a l ih => exact (hf s a).trans (ih _)

/-- Vectors that go back to their queues change the thread's ports and the queues (R182). -/
theorem State.undraw_redrawn (s : State) : Redrawn s s.undraw := by
  refine Redrawn.foldl (fun u e => ?_) _ s
  dsimp only
  split
  · exact .refl u
  · split
    · exact ⟨rfl, rfl, rfl, rfl, rfl, _, State.thr_setThr ..⟩
    · exact .refl u

section
variable (s : State) (i : Instr) (p : Park) (ops : List (Sc × Word))

@[simp] theorem State.parkHere_cur : (s.parkHere i p).cur = s.cur := rfl
@[simp] theorem State.parkHere_retry : (s.parkHere i p).retry = s.retry := rfl
@[simp] theorem State.parkHere_cores : (s.parkHere i p).cores = s.cores := rfl
@[simp] theorem State.parkHere_quads : (s.parkHere i p).quads = s.quads := rfl

theorem State.parkBegun_redrawn :
    Redrawn (s.parkHere i p) (s.parkHere i p).undraw := State.undraw_redrawn _

@[simp] theorem State.parkBegun_cur : (s.parkBegun i p ops).cur = s.cur := by
  obtain ⟨h, _⟩ := s.parkBegun_redrawn i p
  simp only [State.parkBegun, State.setThr_cur, h, State.parkHere_cur]
@[simp] theorem State.parkBegun_retry : (s.parkBegun i p ops).retry = s.retry := by
  obtain ⟨_, _, _, h, _⟩ := s.parkBegun_redrawn i p
  simp only [State.parkBegun, State.setThr_retry, h, State.parkHere_retry]
@[simp] theorem State.parkBegun_coreAt (c : Nat) : (s.parkBegun i p ops).coreAt c = s.coreAt c := by
  obtain ⟨_, _, h, _⟩ := s.parkBegun_redrawn i p
  simp only [State.coreAt, State.parkBegun, State.setThr_cores, h, State.parkHere_cores]
@[simp] theorem State.parkBegun_quadAt (q : Nat) : (s.parkBegun i p ops).quadAt q = s.quadAt q := by
  obtain ⟨_, _, _, _, h, _⟩ := s.parkBegun_redrawn i p
  simp only [State.quadAt, State.parkBegun, State.setThr_quads, h, State.parkHere_quads]
/-- The thread waits, its instruction held beside it. -/
theorem State.parkBegun_thr : ∃ ports h, (s.parkBegun i p ops).thr =
    { s.thr with hold := some h, park := some p, lastIssue := some s.cycle, yieldTo := none, ports := ports, kept := ops } := by
  obtain ⟨_, _, _, _, _, ports, h⟩ := s.parkBegun_redrawn i p
  rw [State.parkHere, State.thr_setThr] at h
  exact ⟨ports, _, by rw [State.parkBegun, State.thr_setThr, State.parkHere, h]⟩
@[simp] theorem State.parkBegun_park : (s.parkBegun i p ops).thr.park = some p := by
  obtain ⟨_, _, h⟩ := s.parkBegun_thr i p ops; simp [h]
@[simp] theorem State.parkBegun_pc : (s.parkBegun i p ops).thr.pc = s.thr.pc := by
  obtain ⟨_, _, h⟩ := s.parkBegun_thr i p ops; simp [h]

end

/-! ## A request of the thread -/

theorem State.fresh_iff {s : State} : s.fresh = true ↔ s.tidOf s.thr.uid = some s.cur ∧ s.thr.mail = [] ∧
    s.thr.stores = [] ∧ s.thr.hold = none ∧ s.thr.gPend.getLsbD 15 = false ∧
    (∀ r ∈ (s.coreAt s.core).reqs, r.who ≠ .thread s.thr.uid) ∧ ∀ w ∈ s.retry, w.who ≠ .thread s.thr.uid := by
  simp [State.fresh, and_assoc]

/-- A thread that has asked for nothing and waits for nothing. -/
structure State.Idle (s : State) : Prop where
  tid : s.tidOf s.thr.uid = some s.cur
  mail : s.thr.mail = []
  reqs : ∀ r ∈ (s.coreAt s.core).reqs, r.who ≠ .thread s.thr.uid
  retry : ∀ w ∈ s.retry, w.who ≠ .thread s.thr.uid

theorem State.Idle.of_fresh {s : State} (h : s.fresh = true) : s.Idle := by
  obtain ⟨htid, hmail, _, _, _, hreqs, hretry⟩ := State.fresh_iff.mp h
  exact ⟨htid, hmail, hreqs, hretry⟩

/-- The waiter that a request of the thread stands for at its home. -/
def State.asking (s : State) (k epoch : Nat) (req : Req) (va : Nat) : Waiter :=
  mkWaiter s { s.thrAsker with va := va } k epoch req

/-- The answer that a request left with the thread when the home gave none at once. -/
def State.mailed (s1 : State) (k epoch : Nat) (req : Req) (who : Who) : Option Mail :=
  (s1.mailOf who).find? (fun m => m.k == k && m.epoch == epoch && m.req == req)

/-- A request to a home of the thread's own package is performed at once (R150). -/
theorem State.ask_home {s : State} (h : s.Idle) {k epoch home va : Nat} {req : Req} {pk : Park}
    (hh : home = pkgOfCore s.core) :
    s.ask { s.thrAsker with va := va } k epoch home req pk =
      match s.applyReq (s.asking k epoch req va) with
      | (s1, some .listed) => (s1, .wait pk)
      | (s1, some r) => (s1, .got r)
      | (s1, none) =>
        match s1.mailed k epoch req (.thread s.thr.uid) with
        | some m => (s1, .got m.rep)
        | none => (s1, .wait pk) := by
  have hreqs : (s.coreAt s.core).reqs.any
      (fun r => r.who == .thread s.thr.uid && r.k == k && r.epoch == epoch && r.req == req) = false := by
    rw [List.any_eq_false]
    intro r hr
    simp [h.reqs r hr]
  have hretry : s.retry.any (fun w => w.who == .thread s.thr.uid && !w.remote && w.k == k && w.req == req) = false := by
    rw [List.any_eq_false]
    intro w hw
    simp [h.retry w hw]
  unfold State.ask
  simp only [State.thrAsker, h.mail, List.find?_nil, hreqs, hretry, hh, beq_self_eq_true, if_true]
  rfl

/-- A request that its home performs at once: its answer stays with the thread. -/
theorem rpcFor_performed {s s1 : State} (h : s.Idle) {k epoch home va : Nat} {req : Req} {pk : Park} {rep : Reply}
    (hh : home = pkgOfCore s.core) (ha : s.applyReq (s.asking k epoch req va) = (s1, some rep)) (hl : rep ≠ .listed)
    (hf : rep.isFault = false) (hrd : ∀ pa n, req ≠ .rd pa n) (hpr : ∀ l, req ≠ .probe l) :
    ∃ m, rpcFor k epoch home req va pk s = .ok rep (s1.setThr { s1.thr with mail := m }) := by
  have hask : s.ask { s.thrAsker with va := va } k epoch home req pk = (s1, .got rep) := by
    rw [State.ask_home h hh, ha]
    cases rep with
    | listed => exact absurd rfl hl
    | _ => rfl
  unfold rpcFor
  rw [hask]
  cases rep with
  | fault t => cases hf
  | _ =>
    cases req with
    | rd pa n => exact absurd rfl (hrd pa n)
    | probe l => exact absurd rfl (hpr l)
    | _ => exact ⟨_, rfl⟩

/-- A request that its home answers with a fault. -/
theorem rpcFor_fault {s s1 : State} (h : s.Idle) {k epoch home va : Nat} {req : Req} {pk : Park} {t : Trap}
    (hh : home = pkgOfCore s.core) (ha : s.applyReq (s.asking k epoch req va) = (s1, some (.fault t))) :
    rpcFor k epoch home req va pk s = .error (.trap (t.atAddr va) false) s1 := by
  unfold rpcFor
  rw [State.ask_home h hh, ha]

/-- A request that its home answers later. -/
theorem rpcFor_unanswered {s s1 : State} (h : s.Idle) {k epoch home va : Nat} {req : Req} {pk : Park}
    (hh : home = pkgOfCore s.core) (ha : s.applyReq (s.asking k epoch req va) = (s1, none))
    (hm : s1.mailOf (.thread s.thr.uid) = []) : rpcFor k epoch home req va pk s = .error (.park pk) s1 := by
  unfold rpcFor
  rw [State.ask_home h hh, ha]
  simp [State.mailed, hm]

end Sys2Proof.Machine
end

section
/-! The theorem that settles O34: `SPAWN` and `MIGR` (R47 to R50, R313, R330). -/
namespace Sys2Proof.Machine

/-! ## A request that enters a core's queue -/

/-- No message waits at a core. -/
def Core.NoMsgs (c : Core) : Prop := c.mqIn = [] ∧ c.mqOut = [] ∧ c.parked = []

theorem Core.NoMsgs.hasMsg {c : Core} (h : c.NoMsgs) (w : Waiter) : c.hasMsg w = false := by
  obtain ⟨hin, hout, hparked⟩ := h
  simp [Core.hasMsg, hin, hout, hparked]

/-- Without entries a core stands for itself. -/
theorem State.forwardCore_nil {s : State} {x : Nat} (h : (s.dieAt (dieOfCore x)).forward = []) : s.forwardCore x = x := by
  simp [State.forwardCore, h, forwardFrom]

/-- A request that no limit bounds does not time out. -/
theorem State.waitedOut_asking {s : State} {k epoch va : Nat} {req : Req} (h : req.limited = false) :
    s.waitedOut (s.asking k epoch req va) = false := by
  simp [State.waitedOut, State.asking, mkWaiter, h]

/-- A spawn or a migration to a core is a message of kind 1 or 2. -/
def Req.queues (q : Req) (x kind : Nat) : Prop := match q with
  | .spawn y _ _ _ _ => y = x ∧ kind = 1
  | .migr y _ _ => y = x ∧ kind = 2
  | _ => False

/-- The state after a message has entered the queue of a core. -/
def State.queued (s : State) (x kind : Nat) (w : Waiter) : State :=
  s.updCore x (fun y => { y with mqIn := y.mqIn ++ [mkMq w kind 0 0] })

/-- It enters the queue of its target, and is not answered yet (R47, R50). -/
theorem State.applyReq_queues {s : State} {x kind va : Nat} {req : Req} (hreq : req.queues x kind)
    (hf : (s.dieAt (dieOfCore x)).forward = []) (hq : (s.coreAt x).NoMsgs) :
    s.applyReq (s.asking 0 0 req va) = (s.queued x kind (s.asking 0 0 req va), none) := by
  have hb : s.applyBase (s.asking 0 0 req va) = (s.queued x kind (s.asking 0 0 req va), none) := by
    unfold State.applyBase
    cases req with
    | spawn | migr =>
      obtain ⟨rfl, rfl⟩ := hreq
      rw [State.waitedOut_asking rfl]
      simp [State.asking, mkWaiter, Req.base, State.forwardCore_nil hf, hq.hasMsg, State.queued]
    | _ => cases hreq
  cases req with
  | spawn | migr =>
    show (((s.applyBase _).1.settle _).tagLine _ (s.applyBase _).2, (s.applyBase _).2) = _
    rw [hb]
    rfl
  | _ => cases hreq

/-- An idle thread has no answers. -/
theorem State.Idle.mailOf {s : State} (h : s.Idle) : s.mailOf (.thread s.thr.uid) = [] := by
  have hm := h.mail
  simp only [State.mailOf, h.tid]
  cases ht : s.thread? s.cur with
  | none => rfl
  | some t => simpa [State.thr, ht] using hm

/-- The thread waits for the message's answer. -/
theorem rpcFor_queues {s : State} (h : s.Idle) {x kind : Nat} {req : Req} {pk : Park} (hreq : req.queues x kind)
    (hp : pkgOfCore x = pkgOfCore s.core) (hf : (s.dieAt (dieOfCore x)).forward = []) (hq : (s.coreAt x).NoMsgs) :
    rpcFor 0 0 (pkgOfCore x) req 0 pk s = .error (.park pk) (s.queued x kind (s.asking 0 0 req 0)) :=
  rpcFor_unanswered h hp (State.applyReq_queues hreq hf hq) h.mailOf

/-- The message in the queue, once the thread waits. -/
theorem State.queued_mqIn {s : State} {x kind : Nat} {w : Waiter} {i : Instr} {p : Park} {ops : List (Sc × Word)}
    (hq : (s.coreAt x).NoMsgs) : (((s.queued x kind w).parkBegun i p ops).coreAt x).mqIn = [mkMq w kind 0 0] := by
  obtain ⟨hin, _⟩ := hq
  simp [State.queued, hin]

/-! ## `SPAWN` -/

theorem exec_spawn (a b : Sc) (s : State) : exec (.spawn a b) s = execSpawn a b s := rfl
theorem exec_migr (a : Sc) (s : State) : exec (.migr a) s = execMigr a s := rfl

theorem answered_nil {f : Req → Bool} {s : State} (h : s.thr.mail = []) : answered f s = .ok false s := by
  simp [answered, h]

/-- The request that `SPAWN` makes. -/
def State.spawnReq (s : State) (a b : Sc) : Req :=
  .spawn (s.sc a).toNat s.core (s.sc b) s.newTag [s.thr.g.get 0, s.thr.g.get 1, s.thr.g.get 2, s.thr.g.get 3]

section

variable {s : State} {a b : Sc}

/-- The registers of `SPAWN` as they stand. -/
theorem spawn_operand (h : s.readable [a, b, .g 0, .g 1, .g 2, .g 3] = true) :
    s.operand a = s.sc a ∧ s.operand b = s.sc b ∧ s.operand (.g 0) = s.thr.g.get 0 ∧ s.operand (.g 1) = s.thr.g.get 1 ∧
      s.operand (.g 2) = s.thr.g.get 2 ∧ s.operand (.g 3) = s.thr.g.get 3 :=
  ⟨State.readable_operand h (by simp), State.readable_operand h (by simp), State.readable_operand h (by simp),
    State.readable_operand h (by simp), State.readable_operand h (by simp), State.readable_operand h (by simp)⟩

/-- What `SPAWN` checks (R47). -/
def State.mayspawn (s : State) (a b : Sc) : Bool :=
  coreIdOk s (s.sc a) && (s.sc b).toNat % 4 == 0 && samePartition s (s.sc a).toNat

theorem State.mayspawn_iff : s.mayspawn a b = true ↔
    (s.sc a).toNat < 2 ^ 20 ∧ (s.sc a).toNat % 2048 < 1152 ∧ (s.pkgAt ((s.sc a).toNat / 8192)).member = true ∧
      (s.sc b).toNat % 4 = 0 ∧ (s.partOfCore (s.sc a).toNat).isSome = true ∧
      s.partOfCore (s.sc a).toNat = s.partOfCore s.core := by
  simp only [State.mayspawn, coreIdOk, samePartition, and_assoc, Bool.and_eq_true, decide_eq_true_eq, beq_iff_eq]
  exact Iff.rfl

theorem spawn_refused (h : s.readable [a, b, .g 0, .g 1, .g 2, .g 3] = true) (hm : s.thr.mail = [])
    (hok : s.mayspawn a b = false) : execSpawn a b s = .next (s.trapped (.spawn a b) 0x1F 0 0) := by
  obtain ⟨ha, hb, _⟩ := spawn_operand h
  unfold execSpawn
  refine run_trap (s1 := s) (State.readable_thread h) (State.readable_checks h (by simp)) ?_
  have hbad : (coreIdOk s (s.sc a) = false ∨ ¬ (s.sc b).toNat % 4 = 0) ∨ samePartition s (s.sc a).toNat = false := by
    simp only [State.mayspawn, Bool.and_eq_false_iff, beq_eq_false_iff_ne] at hok
    exact hok
  simp [M.bind_apply, answered_nil hm, ha, hb, hbad]

theorem spawn_asks (h : s.readable [a, b, .g 0, .g 1, .g 2, .g 3] = true) (hok : s.mayspawn a b = true) (hi : s.Idle)
    (hs : s.thr.stores = []) (hp : pkgOfCore (s.sc a).toNat = pkgOfCore s.core)
    (hf : (s.dieAt (dieOfCore (s.sc a).toNat)).forward = []) (hq : (s.coreAt (s.sc a).toNat).NoMsgs) :
    ∃ ops, execSpawn a b s = .next ((s.queued (s.sc a).toNat 1 (s.asking 0 0 (s.spawnReq a b) 0)).parkBegun
      (.spawn a b) .spawn ops) := by
  obtain ⟨ha, hb, h0, h1, h2, h3⟩ := spawn_operand h
  refine ⟨[a, b, .g 0, .g 1, .g 2, .g 3].map (fun r => (r, s.operand r)), ?_⟩
  unfold execSpawn
  refine run_park (State.readable_thread h) (State.readable_checks h (by simp)) ?_
  obtain ⟨⟨hid, hpc⟩, hpart⟩ : (coreIdOk s (s.sc a) = true ∧ (s.sc b).toNat % 4 = 0) ∧ samePartition s (s.sc a).toNat = true := by
    simpa [State.mayspawn] using hok
  have hreq : (s.spawnReq a b).queues (s.sc a).toNat 1 := ⟨rfl, rfl⟩
  have hrpc : rpcFor 0 0 (pkgOfCore (s.sc a).toNat) (.spawn (s.sc a).toNat s.core (s.sc b) s.thr.reqTag
      [s.thr.g.get 0, s.thr.g.get 1, s.thr.g.get 2, s.thr.g.get 3]) 0 .spawn s = _ := rpcFor_queues hi hreq hp hf hq
  simp [M.bind_apply, M.map_apply, answered_nil hi.mail, ha, hb, h0, h1, h2, h3, hid, hpc, hpart, waitAcks_ok hs, hrpc]
  rfl

theorem spawn_accepted (h : s.readable [a, b, .g 0, .g 1, .g 2, .g 3] = true)
    (hm : s.thr.mail = [{ k := 0, epoch := 0, req := s.spawnReq a b, rep := .ok }]) :
    execSpawn a b s = .next (s.goesOn (.spawn a b)) := by
  unfold execSpawn
  refine run_ok (State.readable_thread h) (State.readable_checks h (by simp)) ?_
  simp [M.bind_apply, answered, hm, State.spawnReq]

end

/-! ## `MIGR` -/

section

variable {s : State} {a : Sc} {p : Phys} {h : Nat}

/-- A thread that holds vector registers may not migrate (R313). -/
theorem migr_refused (hr : s.readable [a] = true) (hp : s.reach loadA (s.sc a) = .ok p) (ha : s.thr.alot ≠ 0) :
    execMigr a s = .next (s.trapped (.migr a) 0x0E 0 0) := by
  have hoa := State.readable_operand hr (r := a) (by simp)
  unfold execMigr
  refine run_trap (s1 := s) (State.readable_thread hr) (State.readable_checks hr (by simp)) ?_
  simp [M.bind_apply, hoa, trans_ok hp, ha]

theorem migr_stays (hr : s.readable [a] = true) (hp : s.reach loadA (s.sc a) = .ok p) (hh : homeCore p.pa = some h)
    (ha : s.thr.alot = 0) (hpart : samePartition s h = true) (hst : h = s.core ∨ s.thr.trapent = true) :
    execMigr a s = .next (s.goesOn (.migr a)) := by
  have hoa := State.readable_operand hr (r := a) (by simp)
  unfold execMigr
  refine run_ok (State.readable_thread hr) (State.readable_checks hr (by simp)) ?_
  simp [M.bind_apply, hoa, trans_ok hp, ha, hh, hpart, hst.symm]

/-- The thread without its chain of matrix commands, as it leaves (R313). -/
def State.unchained (s : State) : State := s.setThr { s.thr with chain := false }

/-- The first entry of a kind keeps its number when it is replaced by one of that kind. -/
theorem find_mapPut {α : Type} {m : List (Nat × α)} {n : Nat} {x : α} {p : α → Bool}
    (h : (m.find? (fun e => p e.2)).map Prod.fst = some n) (hx : p x = true) :
    ((mapPut m n x).find? (fun e => p e.2)).map Prod.fst = some n := by
  induction m with
  | nil => cases h
  | cons e t ih =>
    obtain ⟨k, w⟩ := e
    simp only [mapPut]
    split
    · simp [hx]
    · split
      · simp [hx]
      · next hk =>
        rw [List.find?_cons] at h ⊢
        cases hw : p w with
        | true => rw [hw] at h; simp_all
        | false => rw [hw] at h; exact ih h

/-- A thread keeps its place when it changes otherwise. -/
theorem State.tidOf_setThr {s : State} {x : Thread} {uid : Nat} (hx : x.uid = uid) (h : s.tidOf uid = some s.cur) :
    (s.setThr x).tidOf uid = some s.cur :=
  find_mapPut (p := fun t : Thread => t.uid == uid) h (by simp [hx])

theorem State.Idle.unchained {s : State} (hi : s.Idle) : s.unchained.Idle where
  tid := by
    simp only [State.unchained, State.thr_setThr]
    exact State.tidOf_setThr rfl hi.tid
  mail := by simpa [State.unchained] using hi.mail
  reqs := by simpa [State.unchained] using hi.reqs
  retry := by simpa [State.unchained] using hi.retry

theorem migr_asks (hr : s.readable [a] = true) (hp : s.reach loadA (s.sc a) = .ok p) (hh : homeCore p.pa = some h)
    (ha : s.thr.alot = 0) (hpart : samePartition s h = true) (hne : h ≠ s.core) (htr : s.thr.trapent = false)
    (hi : s.Idle) (hs : s.thr.stores = []) (hpk : pkgOfCore h = pkgOfCore s.core)
    (hf : (s.dieAt (dieOfCore h)).forward = []) (hq : (s.coreAt h).NoMsgs) (hg : s.thr.gPend = 0) (hv : s.thr.vPend = 0)
    (hmx : s.mxOutstanding s.core s.thr.uid = 0) :
    execMigr a s = .next ((s.unchained.queued h 2
      (s.unchained.asking 0 0 (.migr h s.core s.unchained.thr.migrCtx) 0)).parkBegun (.migr a) (.migr false)
        [(a, s.sc a)]) := by
  have hoa := State.readable_operand hr (r := a) (by simp)
  have hreq : (Req.migr h s.core s.unchained.thr.migrCtx).queues h 2 := ⟨rfl, rfl⟩
  have hrpc := rpcFor_queues (pk := .migr false) hi.unchained hreq hpk hf hq
  unfold execMigr
  rw [← hoa]
  refine run_park (State.readable_thread hr) (State.readable_checks hr (by simp)) ?_
  have hm : s.unchained.thr.mail = [] := by simpa [State.unchained] using hi.mail
  have hctx : s.unchained.thr.migrCtx = s.thr.migrCtx := by simp [State.unchained, Thread.migrCtx]
  rw [hctx] at hrpc
  have hpend : ¬ (¬ s.thr.gPend = 0#16 ∨ ¬ s.thr.vPend = 0#64) := by simpa using ⟨hg, hv⟩
  have hans (f : Req → Bool) : answered f s.unchained = .ok false s.unchained := answered_nil hm
  have hupd : updThr (fun t => { t with chain := false }) s = .ok () s.unchained := rfl
  simp [-updThr_apply, M.bind_apply, M.map_apply, hoa, trans_ok hp, ha, hh, hpart, hne, htr, waitAcks_ok hs, hmx, hpend,
    hupd, hans, hrpc, hctx]

end

/-- Settles O34: the checks of each instruction, then its message in the queue of the target while the thread waits. -/
theorem spawnsAndMigrations : Obligations.SpawnsAndMigrations := by
  unfold Obligations.SpawnsAndMigrations
  simp only [exec_spawn, exec_migr]
  refine ⟨fun s a b hr hs => ⟨fun hok hm => ?_, fun hok hfr hp hf h1 h2 h3 => ?_, fun _ hm => ?_⟩,
    fun s a p h hr hp hh => ⟨migr_refused hr hp, fun ha hsome hpart => ?_⟩⟩
  · exact spawn_refused hr hm (Bool.eq_false_iff.mpr fun e => hok (State.mayspawn_iff.mp e))
  · obtain ⟨ops, h⟩ := spawn_asks hr (State.mayspawn_iff.mpr hok) (.of_fresh hfr) hs hp hf ⟨h1, h2, h3⟩
    exact ⟨_, _, h, State.parkBegun_park .., State.parkBegun_pc .., State.queued_mqIn ⟨h1, h2, h3⟩, rfl, rfl, rfl⟩
  · exact ⟨_, spawn_accepted hr hm, .of_goesOn rfl rfl rfl, fun _ => State.goesOn_byteAt ..⟩
  · have hsame : samePartition s h = true := by simp [samePartition, ← hpart, hsome]
    refine ⟨migr_stays hr hp hh ha hsame, fun hne htr hfr hpk hf hg hv hmx h1 h2 h3 => ?_⟩
    have hi := State.Idle.of_fresh hfr
    obtain ⟨_, _, hs, _⟩ := State.fresh_iff.mp hfr
    refine ⟨_, _, s.unchained.thr.migrCtx, migr_asks hr hp hh ha hsame hne htr hi hs hpk hf ⟨h1, h2, h3⟩ hg hv hmx,
      State.parkBegun_park .., State.queued_mqIn ⟨h1, h2, h3⟩, rfl, ?_, rfl, ?_⟩
    · simp [mkMq, State.asking, mkWaiter, State.thrAsker, State.unchained]
    · simp [Thread.migrCtx, State.unchained]

end Sys2Proof.Machine
end

section
/-! SUPPORT. A load at its home in the thread's own package (R150): what it reads, and what it leaves of the pod. -/
namespace Sys2Proof.Machine

/-- A load has been made: a local store may have powered up (R51), and a line may have a sharer more and have asked a
handler to note it (R152). -/
def Loaded (s t : State) : Prop :=
  ∃ cores dirs, t = { s with cores := cores, dirs := dirs } ∧
    ∀ c, ∃ on m, t.coreAt c = { s.coreAt c with lsOn := on, mqIn := m }

theorem Loaded.refl (s : State) : Loaded s s := ⟨s.cores, s.dirs, rfl, fun _ => ⟨_, _, rfl⟩⟩

theorem Loaded.trans {s t u : State} (h : Loaded s t) (g : Loaded t u) : Loaded s u := by
  obtain ⟨_, _, rfl, h⟩ := h
  obtain ⟨cores, dirs, rfl, g⟩ := g
  refine ⟨cores, dirs, rfl, fun c => ?_⟩
  obtain ⟨_, _, h⟩ := h c
  obtain ⟨on, m, g⟩ := g c
  exact ⟨on, m, by rw [g, h]⟩

theorem Loaded.updCore {s t : State} (h : Loaded s t) {c : Nat} {f : Core → Core}
    (hf : ∃ on m, f (t.coreAt c) = { t.coreAt c with lsOn := on, mqIn := m }) : Loaded s (t.updCore c f) := by
  refine h.trans ⟨_, t.dirs, rfl, fun d => ?_⟩
  rw [State.coreAt_updCore]
  split
  · next e => subst e; exact hf
  · exact ⟨_, _, rfl⟩

theorem Loaded.dirs {s t : State} (h : Loaded s t) (d : List (Nat × Dir)) : Loaded s { t with dirs := d } :=
  h.trans ⟨t.cores, d, rfl, fun _ => ⟨_, _, rfl⟩⟩

theorem Loaded.powerUp (s : State) (pa : Nat) : Loaded s (s.powerUp pa) := by
  unfold State.powerUp
  split
  · dsimp only
    split
    · exact .refl s
    · exact (Loaded.refl s).updCore ⟨_, _, rfl⟩
  · exact .refl s

theorem Loaded.share (s : State) (core : Nat) (p : Phys) : Loaded s (s.share core p) := by
  unfold State.share
  split
  · dsimp only
    split
    · exact .refl s
    · split
      · exact (Loaded.refl s).dirs _
      · split
        · exact (Loaded.refl s).dirs _
        · exact ((Loaded.refl s).dirs _).updCore ⟨_, _, rfl⟩
  · exact .refl s

section
variable {s t : State} (h : Loaded s t)
include h

theorem Loaded.cur : t.cur = s.cur := by obtain ⟨_, _, rfl, _⟩ := h; rfl
theorem Loaded.core : t.core = s.core := by obtain ⟨_, _, rfl, _⟩ := h; rfl
theorem Loaded.thread (k : Nat) : t.thread? k = s.thread? k := by obtain ⟨_, _, rfl, _⟩ := h; rfl
theorem Loaded.thr : t.thr = s.thr := by obtain ⟨_, _, rfl, _⟩ := h; rfl
theorem Loaded.retry : t.retry = s.retry := by obtain ⟨_, _, rfl, _⟩ := h; rfl
theorem Loaded.partOfCore (c : Nat) : t.partOfCore c = s.partOfCore c := by obtain ⟨_, _, rfl, _⟩ := h; rfl
theorem Loaded.dieAt (d : Nat) : t.dieAt d = s.dieAt d := by obtain ⟨_, _, rfl, _⟩ := h; rfl
theorem Loaded.byteAt (pa : Nat) : t.byteAt pa = s.byteAt pa := by obtain ⟨_, _, rfl, _⟩ := h; rfl
theorem Loaded.coreAt (c : Nat) : ∃ on m, t.coreAt c = { s.coreAt c with lsOn := on, mqIn := m } := by
  obtain ⟨_, _, _, hc⟩ := h; exact hc c

end

/-! ## The read -/

/-- Bytes are what they are read to be. -/
theorem State.readN_congr {s t : State} (h : ∀ pa, t.byteAt pa = s.byteAt pa) (pa n : Nat) : t.readN pa n = s.readN pa n := by
  induction n generalizing pa with
  | zero => rfl
  | succ n ih => simp only [State.readN, h, ih]

/-- Nothing is poisoned. -/
theorem State.poisoned_nil {s : State} (h : s.poison = []) (pa n : Nat) : s.poisoned pa n = false := by
  simp [State.poisoned, h]

theorem State.calm_iff {s : State} : s.calm = true ↔
    s.retry = [] ∧ (∀ e ∈ s.dirs, e.2.overflowed = false) ∧ s.poison = [] ∧ ∀ c ∈ s.slice, isHbm c.1 = true := by
  simp [State.calm, and_assoc]

/-- A read performed at its home. -/
theorem State.applyReq_rd {s : State} {w : Waiter} {pa n : Nat} (hw : w.req = .rd pa n) (hr : s.refuses w.core pa = false)
    (hp : s.poison = []) : s.applyReq w = (s.powerUp pa, some (.val (s.readN pa n))) := by
  have hl := Loaded.powerUp s pa
  have hpo : (s.powerUp pa).poison = [] := by
    obtain ⟨_, _, e, _⟩ := hl
    rw [e]; exact hp
  have hb : (s.powerUp pa).applyBase w = (s.powerUp pa, some (.val (s.readN pa n))) := by
    unfold State.applyBase
    have hwait : (s.powerUp pa).waitedOut w = false := by simp [State.waitedOut, hw, Req.limited, Req.base]
    rw [hwait, hw, ← State.readN_congr hl.byteAt]
    simp [Req.base, State.poisoned_nil hpo]
  have ha : (s.powerUp pa).applyAt w = (s.powerUp pa, some (.val (s.readN pa n))) := by
    unfold State.applyAt
    rw [hb, hw]
    rfl
  have hc : (s.powerUp pa).coherent w = (s.powerUp pa).applyAt w := by
    unfold State.coherent
    rw [hw]
    rfl
  unfold State.applyReq
  simp only [hw, Req.addr, Req.base, hr]
  exact hc.trans ha

theorem rpcFor_rd {s s1 : State} (h : s.Idle) {k epoch home va pa n v : Nat} {pk : Park} (hh : home = pkgOfCore s.core)
    (ha : s.applyReq (s.asking k epoch (.rd pa n) va) = (s1, some (.val v))) :
    rpcFor k epoch home (.rd pa n) va pk s = .ok (.val v) s1 := by
  unfold rpcFor
  rw [State.ask_home h hh, ha]

/-- A load that overlaps no store of the thread does not wait. -/
theorem waitOverlap_ok {s : State} (h : s.thr.stores = []) (pa n : Nat) : waitOverlap pa n s = .ok () s := by
  simp [waitOverlap, h]

/-- A load at home reads the bytes there. -/
theorem loadN_home {s : State} (h : s.Idle) (hs : s.thr.stores = []) (hp : s.poison = []) {p : Phys}
    (hh : s.atHome p = true) (k n : Nat) : ∃ t, loadN k p n s = .ok (s.readN p.pa n) t ∧ Loaded s t := by
  obtain ⟨⟨hv, hpkg⟩, href⟩ : (p.visits s.core = false ∧ pkgOfPa p.pa = pkgOfCore s.core) ∧ s.refuses s.core p.pa = false := by
    simpa [State.atHome, State.homeAnswers, and_assoc] using hh
  have hrpc : rpc k (pkgOfPa p.pa) (.rd p.pa n) p.va s = .ok (.val (s.readN p.pa n)) (s.powerUp p.pa) :=
    rpcFor_rd h hpkg (State.applyReq_rd rfl href hp)
  refine ⟨(s.powerUp p.pa).share (s.powerUp p.pa).core p, ?_, (Loaded.powerUp s p.pa).trans (.share _ _ p)⟩
  simp [loadN, M.bind_apply, M.map_apply, waitOverlap_ok hs, hv, hrpc, shareM, Reply.nat]

end Sys2Proof.Machine
end

section
/-! The theorem that settles O43: `LAUNCH` (R43 to R46, R237, R306, R307). -/
namespace Sys2Proof.Machine

/-! ## Fields of bytes read together (R3) -/

theorem State.readN_lt (s : State) (pa n : Nat) : s.readN pa n < 2 ^ (8 * n) := by
  induction n generalizing pa with
  | zero => simp [State.readN]
  | succ n ih =>
    have hb := (s.byteAt pa).isLt
    have hr := ih (pa + 1)
    have hpow : 2 ^ (8 * (n + 1)) = 256 * 2 ^ (8 * n) := by rw [Nat.mul_add, Nat.pow_add]; omega
    simp only [State.readN]
    omega

theorem State.readN_add (s : State) (pa a b : Nat) :
    s.readN pa (a + b) = s.readN pa a + 2 ^ (8 * a) * s.readN (pa + a) b := by
  induction a generalizing pa with
  | zero => simp [State.readN]
  | succ a ih =>
    have hpow : 2 ^ (8 * (a + 1)) = 256 * 2 ^ (8 * a) := by rw [Nat.mul_add, Nat.pow_add]; omega
    rw [show a + 1 + b = (a + b) + 1 by omega, show pa + (a + 1) = pa + 1 + a by omega]
    simp only [State.readN]
    rw [ih, hpow]
    ring

/-- A field of a block is what its own bytes are read to be. -/
theorem State.readN_field (s : State) (pa o n m : Nat) (h : o + n ≤ m) :
    s.readN pa m / 2 ^ (8 * o) % 2 ^ (8 * n) = s.readN (pa + o) n := by
  obtain ⟨r, rfl⟩ := Nat.exists_eq_add_of_le h
  have hlow := s.readN_lt pa o
  have hmid := s.readN_lt (pa + o) n
  rw [Nat.add_assoc o n r, State.readN_add s pa o, Nat.add_mul_div_left _ _ (Nat.two_pow_pos _),
    Nat.div_eq_of_lt hlow, Nat.zero_add, State.readN_add, Nat.add_mul_mod_self_left, Nat.mod_eq_of_lt hmid]

/-! ## The cores of a rectangle (R43, R45) -/

/-- Digits of a number in mixed radix: a high part over one below `b`. -/
theorem digits_inj {a a' x x' b : Nat} (hx : x < b) (hx' : x' < b) (h : a * b + x = a' * b + x') : a = a' ∧ x = x' := by
  have hb : 0 < b := by omega
  have hd : (a * b + x) / b = a ∧ (a' * b + x') / b = a' := by
    constructor <;> rw [Nat.add_comm, Nat.add_mul_div_right _ _ hb, Nat.div_eq_of_lt ‹_›, Nat.zero_add]
  have ha : a = a' := by rw [← hd.1, h, hd.2]
  subst ha
  exact ⟨rfl, by omega⟩

theorem coreAtPos_inj {pkg c r c' r' : Nat} (hc : c < 96) (hc' : c' < 96)
    (h : coreAtPos pkg c r = coreAtPos pkg c' r') : c = c' ∧ r = r' := by
  simp only [coreAtPos, Nat.add_assoc] at h
  obtain ⟨hdie, hlow⟩ := digits_inj (by omega) (by omega) h
  rw [Nat.mul_comm 4, Nat.mul_comm 4] at hlow
  obtain ⟨hq, hpos⟩ := digits_inj (by omega) (by omega) hlow
  obtain ⟨hqr, hqc⟩ := digits_inj (by omega) (by omega) hq
  obtain ⟨hbr, hbc⟩ := digits_inj (by omega) (by omega) hpos
  have hdie' : r / 24 * 2 + c / 48 = r' / 24 * 2 + c' / 48 := by omega
  obtain ⟨hdr, hdc⟩ := digits_inj (by omega) (by omega) hdie'
  have hcol : c % 48 = c' % 48 := by omega
  have hrow : r % 24 = r' % 24 := by omega
  exact ⟨by rw [← Nat.div_add_mod c 48, hdc, hcol, Nat.div_add_mod], by rw [← Nat.div_add_mod r 24, hdr, hrow, Nat.div_add_mod]⟩

/-- The core of number `n` of the rectangle. -/
def LaunchDesc.core (d : LaunchDesc) (pkg n : Nat) : Nat := coreAtPos pkg (d.x0 + n % d.w) (d.y0 + n / d.w)

theorem LaunchDesc.core_inj {d : LaunchDesc} {pkg n m : Nat} (hx : d.x0 + d.w ≤ 96)
    (hw : 0 < d.w) (h : d.core pkg n = d.core pkg m) : n = m := by
  have hnw := Nat.mod_lt n hw
  have hmw := Nat.mod_lt m hw
  obtain ⟨hcol, hrow⟩ := coreAtPos_inj (by omega) (by omega) h
  rw [← Nat.div_add_mod n d.w, ← Nat.div_add_mod m d.w, show n / d.w = m / d.w by omega, show n % d.w = m % d.w by omega]

/-! ## A core of a launch starts (R45, R52) -/

/-- The identity registers that a launch gives. -/
def Core.tile (c : Core) : Word × Word × Word × Word × Word × Word × Word :=
  (c.i4, c.i5, c.i6, c.i7, c.i8, c.i10, c.i11)

/-- The identity registers of number `n` of a launch (R45). -/
def LaunchDesc.tile (d : LaunchDesc) (n : Nat) : Word × Word × Word × Word × Word × Word × Word :=
  (BitVec.ofNat 64 (n / d.nc * d.ttr), BitVec.ofNat 64 (n % d.nc * d.ttc),
    BitVec.ofNat 64 (min d.ttr (d.tr - n / d.nc * d.ttr)), BitVec.ofNat 64 (min d.ttc (d.tc - n % d.nc * d.ttc)),
    BitVec.ofNat 64 d.argp, BitVec.ofNat 64 d.lid, BitVec.ofNat 64 (d.nr * 2 ^ 32 + d.nc))

/-- The identity registers follow from those a launch gives. -/
theorem State.ident_congr {s t : State} {c : Nat} (h : (t.coreAt c).tile = (s.coreAt c).tile) (j : Nat) (k : Fin 16) :
    t.ident c j k = s.ident c j k := by
  simp only [Core.tile, Prod.mk.injEq] at h
  obtain ⟨h4, h5, h6, h7, h8, h10, h11⟩ := h
  simp only [State.ident, h4, h5, h6, h7, h8, h10, h11]

/-- Without waiters, emptying a local store leaves its clearing. -/
theorem State.emptyStore_nil {s : State} (h : s.retry = []) (c lo hi : Nat) : s.emptyStore c lo hi = s.clearStore c lo hi := by
  simp [State.emptyStore, State.examineSpan, State.clearStore, h]

/-- The end of a reservation (R52). -/
theorem State.endKeep_frame {s : State} (h : s.retry = []) (core lid : Nat) :
    (s.endKeep core lid).cur = s.cur ∧ (s.endKeep core lid).retry = [] ∧ (s.endKeep core lid).threads = s.threads ∧
      ∀ c, ((s.endKeep core lid).coreAt c).tile = (s.coreAt c).tile := by
  unfold State.endKeep
  split
  · exact ⟨rfl, h, rfl, fun _ => rfl⟩
  · rw [State.emptyStore_nil h]
    refine ⟨?_, ?_, ?_, fun c => ?_⟩
    · dsimp only; split <;> rfl
    · dsimp only; split <;> exact h
    · dsimp only; split <;> rfl
    · rw [State.coreAt_updCore]
      split <;> split <;> rfl

/-- A new thread before its start changes it (R32). -/
def Thread.started (uid : Nat) (pc : Word) (tag : Tag) (g : List Word) : Thread :=
  { Thread.new uid pc tag with g := Vector.ofFn (fun (n : Fin 16) => (g[n.val]?).getD 0) }

section
variable (s : State) (tid : Nat) (pc : Word) (tag : Tag) (g : List Word) (f : Thread → Thread)

theorem State.startThread_thread (k : Nat) : (s.startThread tid pc tag g f).thread? k =
    if tid = k then some (f (.started s.nextUid pc tag g)) else s.thread? k :=
  State.thread_setThread { s with nextUid := s.nextUid + 1 } tid k (f (.started s.nextUid pc tag g))

theorem State.startThread_coreAt (c : Nat) : (s.startThread tid pc tag g f).coreAt c =
    if coreOfTid tid = c then { s.coreAt c with lsOn := true } else s.coreAt c :=
  State.coreAt_updCore (({ s with nextUid := s.nextUid + 1 } : State).setThread tid (f (.started s.nextUid pc tag g)))
    (coreOfTid tid) c (fun c => { c with lsOn := true })

end

/-- A thread as a launch starts it (R32, R45). -/
def Thread.Launched (d : LaunchDesc) (tag : Tag) (u : Thread) : Prop :=
  u.pc = BitVec.ofNat 64 d.kpc ∧ u.mode = .user ∧ u.ex = tag ∧ u.alot = 0 ∧ u.park = none

/-- What the start of cores leaves: threads of other slots and identity registers of other cores. -/
structure Starts (d : LaunchDesc) (tag : Tag) (l : List (Nat × Nat)) (s t : State) : Prop where
  cur : t.cur = s.cur
  retry : t.retry = []
  started : ∀ e ∈ l, ∃ u, t.thread? (e.1 * 8) = some u ∧ u.Launched d tag
  tiled : ∀ e ∈ l, (t.coreAt e.1).tile = d.tile e.2
  others : ∀ k, (∀ e ∈ l, e.1 * 8 ≠ k) → t.thread? k = s.thread? k
  idents : ∀ c, (∀ e ∈ l, e.1 ≠ c) → (t.coreAt c).tile = (s.coreAt c).tile

theorem State.launchCore_starts {s : State} (h : s.retry = []) (d : LaunchDesc) (tag : Tag) (n c : Nat) :
    Starts d tag [(c, n)] s (s.launchCore d tag n c) := by
  obtain ⟨hcur, hretry, hthreads, htile⟩ := State.endKeep_frame h c d.lid
  refine ⟨hcur, hretry, fun e he => ?_, fun e he => ?_, fun k hk => ?_, fun e he => ?_⟩
  · obtain rfl := List.mem_singleton.mp he
    rw [State.launchCore, State.startThread_thread, if_pos rfl]
    exact ⟨_, rfl, rfl, rfl, rfl, rfl, rfl⟩
  · obtain rfl := List.mem_singleton.mp he
    rw [State.launchCore, State.startThread_coreAt, if_pos (by simp [coreOfTid]), State.coreAt_updCore_self]
    rfl
  · have hne : c * 8 ≠ k := hk (c, n) (by simp)
    rw [State.launchCore, State.startThread_thread, if_neg hne]
    exact congrArg (fun m => mapGet m k) hthreads
  · have hne : c ≠ e := he (c, n) (by simp)
    rw [State.launchCore, State.startThread_coreAt, if_neg (by simpa [coreOfTid] using hne), State.coreAt_updCore_ne _ _ hne]
    exact htile e

/-- All the cores of a launch start, each with its own tile. -/
theorem State.launchAll_starts {d : LaunchDesc} {tag : Tag} {l : List (Nat × Nat)} (hl : (l.map Prod.fst).Nodup)
    {s : State} (h : s.retry = []) : Starts d tag l s (l.foldl (fun s e => s.launchCore d tag e.2 e.1) s) := by
  induction l generalizing s with
  | nil => exact ⟨rfl, h, by simp, by simp, fun _ _ => rfl, fun _ _ => rfl⟩
  | cons a l ih =>
    obtain ⟨hnot, hl⟩ := List.nodup_cons.mp hl
    have hne (e : Nat × Nat) (he : e ∈ l) : e.1 ≠ a.1 := fun hx => hnot (hx ▸ List.mem_map_of_mem he)
    have hone := State.launchCore_starts h d tag a.2 a.1
    have hrest := ih hl hone.retry
    refine ⟨hrest.cur.trans hone.cur, hrest.retry, fun e he => ?_, fun e he => ?_, fun k hk => ?_, fun c hc => ?_⟩
    · rcases List.mem_cons.mp he with rfl | he
      · rw [List.foldl_cons, hrest.others _ fun x hx hxe => hne x hx (by omega)]
        exact hone.started _ (by simp)
      · exact hrest.started e he
    · rcases List.mem_cons.mp he with rfl | he
      · rw [List.foldl_cons, hrest.idents _ hne]
        exact hone.tiled _ (by simp)
      · exact hrest.tiled e he
    · rw [List.foldl_cons, hrest.others k fun e he => hk e (List.mem_cons_of_mem _ he)]
      exact hone.others k fun e he => hk e (by simp_all)
    · rw [List.foldl_cons, hrest.idents c fun e he => hc e (List.mem_cons_of_mem _ he)]
      exact hone.idents c fun e he => hc e (by simp_all)

/-! ## The conditions of a launch (R46, R237) -/

/-- A descriptor as its bytes give it (R44). -/
theorem launchDesc_readN (s : State) (pa : Nat) :
    let f (o n : Nat) : Nat := s.readN (pa + o) n
    launchDesc (s.readN pa 64) =
      { kpc := f 0 8, argp := f 8 8, x0 := f 16 2, y0 := f 18 2, w := f 20 2, h := f 22 2, tr := f 24 4, tc := f 28 4,
        ttr := f 32 4, ttc := f 36 4, lid := f 40 4, rest := f 44 20 } := by
  simp only [launchDesc, descField]
  rw [State.readN_field s pa 0 8 64 (by omega), State.readN_field s pa 8 8 64 (by omega),
    State.readN_field s pa 16 2 64 (by omega), State.readN_field s pa 18 2 64 (by omega),
    State.readN_field s pa 20 2 64 (by omega), State.readN_field s pa 22 2 64 (by omega),
    State.readN_field s pa 24 4 64 (by omega), State.readN_field s pa 28 4 64 (by omega),
    State.readN_field s pa 32 4 64 (by omega), State.readN_field s pa 36 4 64 (by omega),
    State.readN_field s pa 40 4 64 (by omega), State.readN_field s pa 44 20 64 (by omega)]

/-- The cores that a launch starts are the first of the rectangle. -/
theorem LaunchDesc.take_cores {d : LaunchDesc} (h : d.nr * d.nc ≤ d.w * d.h) (pkg : Nat) :
    (d.cores pkg).take (d.nr * d.nc) = (List.range (d.nr * d.nc)).map (d.core pkg) := by
  rw [LaunchDesc.cores, ← List.map_take, List.take_range, Nat.min_eq_left h]
  rfl

theorem State.launchOk_iff (s : State) (d : LaunchDesc) : s.launchOk d = true ↔
    d.rest = 0 ∧ d.kpc % 4 = 0 ∧ d.w ≠ 0 ∧ d.h ≠ 0 ∧ d.tr ≠ 0 ∧ d.tc ≠ 0 ∧ d.ttr ≠ 0 ∧ d.ttc ≠ 0 ∧
      d.x0 + d.w ≤ 96 ∧ d.y0 + d.h ≤ 48 ∧ d.nr * d.nc ≤ d.w * d.h ∧
      (∀ n < d.w * d.h, (s.partOfCore (d.core (pkgOfCore s.core) n)).isSome = true ∧
        s.partOfCore (d.core (pkgOfCore s.core) n) = s.partOfCore s.core) ∧
      ∀ n < d.nr * d.nc, s.thread? (d.core (pkgOfCore s.core) n * 8) = none ∧
        (s.coreAt (d.core (pkgOfCore s.core) n)).disabled.getLsbD 0 = false ∧
        (s.coreAt (d.core (pkgOfCore s.core) n)).ovh ≠ 0 ∧
        mapGet (s.dieAt (dieOfCore (d.core (pkgOfCore s.core) n))).forward (d.core (pkgOfCore s.core) n) = none := by
  have hpart : (d.cores (pkgOfCore s.core)).all (fun c => samePartition s c) = true ↔
      ∀ n < d.w * d.h, (s.partOfCore (d.core (pkgOfCore s.core) n)).isSome = true ∧
        s.partOfCore (d.core (pkgOfCore s.core) n) = s.partOfCore s.core := by
    simp [LaunchDesc.cores, LaunchDesc.core, samePartition]
  have hfree (h : d.nr * d.nc ≤ d.w * d.h) :
      ((d.cores (pkgOfCore s.core)).take (d.nr * d.nc)).all (fun c => s.canLaunch c) = true ↔
        ∀ n < d.nr * d.nc, s.thread? (d.core (pkgOfCore s.core) n * 8) = none ∧
        (s.coreAt (d.core (pkgOfCore s.core) n)).disabled.getLsbD 0 = false ∧
        (s.coreAt (d.core (pkgOfCore s.core) n)).ovh ≠ 0 ∧
        mapGet (s.dieAt (dieOfCore (d.core (pkgOfCore s.core) n))).forward (d.core (pkgOfCore s.core) n) = none := by
    rw [LaunchDesc.take_cores h]
    simp [State.canLaunch, and_assoc]
  simp only [State.launchOk, Bool.and_eq_true, beq_iff_eq, bne_iff_ne, ne_eq, decide_eq_true_eq, hpart, and_assoc]
  constructor
  · rintro ⟨h1, h2, h3, h4, h5, h6, h7, h8, h9, h10, h11, h12, h13⟩
    exact ⟨h1, h2, h3, h4, h5, h6, h7, h8, h9, h10, h11, h12, (hfree h11).mp h13⟩
  · rintro ⟨h1, h2, h3, h4, h5, h6, h7, h8, h9, h10, h11, h12, h13⟩
    exact ⟨h1, h2, h3, h4, h5, h6, h7, h8, h9, h10, h11, h12, (hfree h11).mpr h13⟩

/-- A load changes no condition of a launch. -/
theorem Loaded.launchOk {s t : State} (h : Loaded s t) (d : LaunchDesc) : t.launchOk d = s.launchOk d := by
  have hcan (c : Nat) : t.canLaunch c = s.canLaunch c := by
    obtain ⟨on, m, hc⟩ := h.coreAt c
    simp only [State.canLaunch, h.thread, hc, h.dieAt]
  simp only [State.launchOk, h.core, hcan, samePartition, h.partOfCore]

/-! ## `LAUNCH` -/

theorem exec_launch (a : Sc) (s : State) : exec (.launch a) s = execLaunch a s := rfl

/-- A span of 64 bytes at homes is translated from its first byte (R134). -/
theorem transSpan_spans {s : State} {va : Word} {pa : Nat} (h : s.spans loadA va pa 64 (fun _ => true)) :
    ∃ p, transSpan loadA va 64 s = .ok p s ∧ p.pa = pa ∧ s.atHome p = true := by
  obtain ⟨_, hbytes⟩ := h
  obtain ⟨p, hp, hpa, hhome⟩ := hbytes 0 (by omega) rfl
  rw [BitVec.add_zero] at hp
  refine ⟨p, ?_, hpa, hhome⟩
  unfold transSpan
  rw [M.bind_ok (trans_ok hp)]
  cases placeOf p.pa with
  | tmb die o =>
    obtain ⟨q, hq, _⟩ := hbytes (32 - o) (by omega) rfl
    by_cases ho : 32 < o + 64
    · simp [M.map_apply, ho, trans_ok hq]
    · simp [ho]
  | _ => rfl

section

variable {s : State} {a : Sc} {pa : Nat}

theorem launch_misaligned (hr : s.readable [a] = true) (h : (s.sc a).toNat % 64 ≠ 0) :
    execLaunch a s = .next (s.trapped (.launch a) 0x06 (s.sc a).toNat 0) := by
  have hoa := State.readable_operand hr (r := a) (by simp)
  unfold execLaunch
  refine run_trap (s1 := s) (State.readable_thread hr) (State.readable_checks hr (by simp)) ?_
  simp [M.bind_apply, hoa, h, misaligned]

/-- The descriptor is read from its home. -/
theorem launch_reads (hc : s.calm = true) (hf : s.fresh = true)
    (hsp : s.spans loadA (s.sc a) pa 64 (fun _ => true)) :
    ∃ p t, transSpan loadA (s.sc a) 64 s = .ok p s ∧ loadN 0 p 64 s = .ok (s.readN pa 64) t ∧ Loaded s t := by
  obtain ⟨_, _, hpo, _⟩ := State.calm_iff.mp hc
  obtain ⟨_, _, hs, _⟩ := State.fresh_iff.mp hf
  obtain ⟨p, htr, hpa, hhome⟩ := transSpan_spans hsp
  obtain ⟨t, hld, hl⟩ := loadN_home (.of_fresh hf) hs hpo hhome 0 64
  exact ⟨p, t, htr, hpa ▸ hld, hl⟩

theorem launch_refused (hr : s.readable [a] = true) (hc : s.calm = true) (hf : s.fresh = true)
    (h : (s.sc a).toNat % 64 = 0) (hsp : s.spans loadA (s.sc a) pa 64 (fun _ => true))
    {d : LaunchDesc}
    (hd : launchDesc (s.readN pa 64) = d) (hok : s.launchOk d = false) :
    execLaunch a s = .next (s.trapped (.launch a) 0x1F 0 0) := by
  have hoa := State.readable_operand hr (r := a) (by simp)
  obtain ⟨p, t, htr, hld, hl⟩ := launch_reads hc hf hsp
  unfold execLaunch
  refine run_trap (s1 := t) (State.readable_thread hr) (State.readable_checks hr (by simp)) ?_
  simp [M.bind_apply, hoa, h, htr, hld, hd, hl.launchOk, hok]

/-- The cores of a launch with their numbers. -/
def LaunchDesc.numbered (d : LaunchDesc) (pkg : Nat) : List (Nat × Nat) :=
  ((d.cores pkg).take (d.nr * d.nc)).zip (List.range ((d.cores pkg).take (d.nr * d.nc)).length)

theorem launch_starts (hr : s.readable [a] = true) (hc : s.calm = true) (hf : s.fresh = true)
    (h : (s.sc a).toNat % 64 = 0) (hsp : s.spans loadA (s.sc a) pa 64 (fun _ => true)) {d : LaunchDesc}
    (hd : launchDesc (s.readN pa 64) = d) (hok : s.launchOk d = true) :
    ∃ t, Loaded s t ∧ execLaunch a s = .next
      (((d.numbered (pkgOfCore s.core)).foldl (fun s e => s.launchCore d t.thr.reqTag e.2 e.1) t).goesOn (.launch a)) := by
  have hoa := State.readable_operand hr (r := a) (by simp)
  obtain ⟨p, t, htr, hld, hl⟩ := launch_reads hc hf hsp
  obtain ⟨_, _, hs, _⟩ := State.fresh_iff.mp hf
  refine ⟨t, hl, ?_⟩
  unfold execLaunch
  refine run_ok (State.readable_thread hr) (State.readable_checks hr (by simp)) ?_
  have hst : t.thr.stores = [] := by rw [hl.thr]; exact hs
  simp [M.bind_apply, M.map_apply, hoa, h, htr, hld, hd, hl.launchOk, hok, waitAcks_ok hst, hl.core,
    LaunchDesc.numbered]

end

/-- The numbers of a launch's cores, each core once. -/
theorem LaunchDesc.numbered_eq {d : LaunchDesc} (h : d.nr * d.nc ≤ d.w * d.h) (pkg : Nat) :
    d.numbered pkg = (List.range (d.nr * d.nc)).map (fun n => (d.core pkg n, n)) := by
  rw [LaunchDesc.numbered, LaunchDesc.take_cores h, List.length_map, List.length_range]
  simpa using List.zip_map' (f := d.core pkg) (g := id) (l := List.range (d.nr * d.nc))

theorem LaunchDesc.numbered_nodup {d : LaunchDesc} (h : d.nr * d.nc ≤ d.w * d.h) (hx : d.x0 + d.w ≤ 96) (hw : 0 < d.w)
    (pkg : Nat) : ((d.numbered pkg).map Prod.fst).Nodup := by
  rw [LaunchDesc.numbered_eq h, List.map_map]
  exact List.nodup_range.map_on fun n _ m _ e => LaunchDesc.core_inj hx hw e

/-- The pod once the cores of a launch have started and its instruction has ended. -/
theorem launch_leaves {s t : State} {d : LaunchDesc} {i : Instr} (hl : Loaded s t) (hretry : s.retry = [])
    (hcur : (s.thread? s.cur).isSome = true) (hfit : d.nr * d.nc ≤ d.w * d.h) (hx : d.x0 + d.w ≤ 96) (hw : 0 < d.w)
    (hfree : ∀ n < d.nr * d.nc, s.thread? (d.core (pkgOfCore s.core) n * 8) = none) :
    let u := ((d.numbered (pkgOfCore s.core)).foldl (fun s e => s.launchCore d t.thr.reqTag e.2 e.1) t).goesOn i
    Completed i s u ∧
      (∀ n < d.nr * d.nc, (∃ x, u.thread? (d.core (pkgOfCore s.core) n * 8) = some x ∧ x.Launched d s.newTag) ∧
        (u.coreAt (d.core (pkgOfCore s.core) n)).tile = d.tile n) ∧
      ∀ c, (∀ n < d.nr * d.nc, d.core (pkgOfCore s.core) n ≠ c) → ∀ j k, u.ident c j k = s.ident c j k := by
  have hst := State.launchAll_starts (LaunchDesc.numbered_nodup hfit hx hw (pkgOfCore s.core)) (d := d) (s := t)
    (tag := t.thr.reqTag) (hl.retry.trans hretry)
  have hmem (e : Nat × Nat) : e ∈ d.numbered (pkgOfCore s.core) ↔
      ∃ n < d.nr * d.nc, (d.core (pkgOfCore s.core) n, n) = e := by
    simp [LaunchDesc.numbered_eq hfit]
  have hvac (e : Nat × Nat) (he : e ∈ d.numbered (pkgOfCore s.core)) : s.thread? (e.1 * 8) = none := by
    obtain ⟨n, hn, rfl⟩ := (hmem e).mp he
    exact hfree n hn
  generalize (d.numbered (pkgOfCore s.core)).foldl (fun s e => s.launchCore d t.thr.reqTag e.2 e.1) t = u at hst ⊢
  have hucur : u.cur = s.cur := hst.cur.trans hl.cur
  have huthr : u.thr = s.thr := by
    have hk := hst.others s.cur fun e he hes => by simp [← hes, hvac e he] at hcur
    simp only [State.thr, hucur, hk, hl.thread]
  have hne {k : Nat} (hk : s.thread? k = none) : k ≠ u.cur := by
    rintro rfl
    simp [← hucur, hk] at hcur
  refine ⟨.of_goesOn hucur (by rw [huthr]) (by rw [huthr]), fun n hn => ⟨?_, ?_⟩, fun c hc j k => ?_⟩
  · have hin := (hmem _).mpr ⟨n, hn, rfl⟩
    rw [State.goesOn_thread_ne _ _ (hne (hfree n hn)), State.newTag, ← hl.thr]
    exact hst.started _ hin
  · rw [State.goesOn_coreAt]
    exact hst.tiled _ ((hmem _).mpr ⟨n, hn, rfl⟩)
  · refine State.ident_congr ?_ j k
    obtain ⟨_, _, hcore⟩ := hl.coreAt c
    rw [State.goesOn_coreAt, hst.idents c ?_, hcore]
    · rfl
    · intro e he
      obtain ⟨n, hn, rfl⟩ := (hmem e).mp he
      exact hc n hn

/-- Settles O43: the descriptor as its bytes give it, its conditions, and the start of each of its cores. -/
theorem launchResults : Obligations.LaunchResults := by
  unfold Obligations.LaunchResults
  intro s a pa hr hc hf i f w h nr nc core ok
  let d : LaunchDesc :=
    { kpc := f 0 8, argp := f 8 8, x0 := f 16 2, y0 := f 18 2, w := f 20 2, h := f 22 2, tr := f 24 4, tc := f 28 4,
      ttr := f 32 4, ttc := f 36 4, lid := f 40 4, rest := f 44 20 }
  have hd : launchDesc (s.readN pa 64) = d := launchDesc_readN s pa
  clear_value f
  refine ⟨fun ha => (exec_launch a s).trans (launch_misaligned hr ha), fun ha hsp => ⟨fun hok => ?_, fun hok => ?_⟩⟩
  · exact (exec_launch a s).trans
      (launch_refused hr hc hf ha hsp hd (Bool.eq_false_iff.mpr fun e => hok ((State.launchOk_iff s d).mp e)))
  · obtain ⟨t, hl, hrun⟩ := launch_starts hr hc hf ha hsp hd ((State.launchOk_iff s d).mpr hok)
    obtain ⟨_, _, hw, _, _, _, _, _, hx, _, hfit, _, hfree⟩ := hok
    obtain ⟨hretry, _⟩ := State.calm_iff.mp hc
    refine ⟨_, (exec_launch a s).trans hrun, ?_⟩
    obtain ⟨hdone, hstarted, hothers⟩ := launch_leaves (d := d) (i := .launch a) hl hretry (State.readable_thread hr) hfit hx
      (Nat.pos_of_ne_zero hw) fun n hn => (hfree n hn).1
    refine ⟨hdone, fun n hn => ?_, hothers⟩
    obtain ⟨⟨x, hxt, hpc, hmode, hex, halot, hpark⟩, htile⟩ := hstarted n hn
    obtain ⟨h4, h5, h6, h7, h8, h10, h11⟩ : _ ∧ _ ∧ _ ∧ _ ∧ _ ∧ _ ∧ _ := by
      simpa only [Core.tile, LaunchDesc.tile, Prod.mk.injEq] using htile
    exact ⟨x, hxt, hpc, hmode, hex, halot, hpark, h4, h5, h6, h7, h8, h10, h11⟩

end Sys2Proof.Machine
end

section
/-! The theorem that settles O37: `SLOTW`, `RFILL`, `SBIND` and `SFREE` (R35, R37, R66, R181, R185, R322 to R324). -/
namespace Sys2Proof.Machine

theorem exec_slotw (a b : Sc) (s : State) : exec (.slotw a b) s = execSlotw a b s := rfl
theorem exec_rfillArm (d : Sc) (s : State) : exec (.rfillArm d) s = execRfillArm d s := rfl
theorem exec_rfillSend (w : Bool) (a b c : Sc) (s : State) : exec (.rfillSend w a b c) s = execRfillSend w a b c s := rfl
theorem exec_sbind (d : VReg) (a : Sc) (off : BitVec 27) (s : State) : exec (.sbind d a off) s = execSbind d a off s := rfl
theorem exec_sfree (d : VReg) (s : State) : exec (.sfree d) s = execSfree d s := rfl

/-! ## `SLOTW` (R37, R328) -/

/-- Value of entry `e` of a slot-table image. -/
def imageVal (im : BitVec 128) (e : Nat) : Nat := im.toNat / 16 ^ e % 16

theorem imageEntry_eq (im : BitVec 128) (e : Nat) :
    imageEntry im e = if 8 ≤ imageVal im e then some (imageVal im e % 8) else none := by
  have hshift : (im.toNat >>> (4 * e)) % 16 = imageVal im e := by
    rw [Nat.shiftRight_eq_div_pow, Nat.pow_mul]; rfl
  simp only [imageEntry, hshift]

/-- The conditions of R37 in terms of the entries' values. -/
theorem imageOk_iff {im : BitVec 128} {ovh : Nat} (h : ovh < 8) : imageOk im ovh = true ↔
    (∀ e f, e < f → f < 32 → 8 ≤ imageVal im e → imageVal im e = imageVal im f → 8 ≤ f - e ∧ f - e ≤ 24) ∧
      ∃ e < 32, imageVal im e = 8 + ovh := by
  have hlt (e : Nat) : imageVal im e < 16 := Nat.mod_lt _ (by omega)
  have hpair (e f : Nat) : (!(decide (e < f) && (imageEntry im e).isSome && imageEntry im e == imageEntry im f) ||
      (decide (8 ≤ f - e) && decide (8 ≤ 32 - (f - e)))) = true ↔
      (e < f → 8 ≤ imageVal im e → imageVal im e = imageVal im f → 8 ≤ f - e ∧ f - e ≤ 24) := by
    have he := hlt e
    have hf := hlt f
    simp only [imageEntry_eq]
    by_cases h1 : 8 ≤ imageVal im e <;> by_cases h2 : 8 ≤ imageVal im f <;> simp [h1, h2] <;> omega
  have hown (e : Nat) : (imageEntry im e == some ovh) = true ↔ imageVal im e = 8 + ovh := by
    have he := hlt e
    rw [imageEntry_eq]
    by_cases h1 : 8 ≤ imageVal im e <;> simp [h1] <;> omega
  simp only [imageOk, Bool.and_eq_true, List.all_eq_true, List.any_eq_true, List.mem_range, hpair, hown]
  refine and_congr_left' ⟨fun hall e f hef hf => hall e (by omega) f hf hef, fun hall e _ f hf hef => hall e f hef hf⟩

section

variable {s : State} {a b : Sc}

/-- The checks of `SLOTW` in supervisor mode. -/
theorem slotw_checks (h : s.readable [a, b] = true) (hm : s.thr.mode = .super) :
    checkUses { rd := [a, b], priv := true } s = none :=
  checkUses_scalar ((s.readable_iff _).mp h).2 (by simp) (fun _ => hm)

theorem slotw_refused (h : s.readable [a, b] = true) (hm : s.thr.mode = .super)
    (hok : imageOk (s.sc b ++ s.sc a) (s.coreAt s.core).ovh = false) :
    execSlotw a b s = .next (s.trapped (.slotw a b) 0x1C 0 0) := by
  have ha := State.readable_operand h (r := a) (by simp)
  have hb := State.readable_operand h (r := b) (by simp)
  unfold execSlotw
  refine run_trap (s1 := s) (State.readable_thread h) (slotw_checks h hm) ?_
  simp [M.bind_apply, ha, hb, hok]

theorem slotw_takes (h : s.readable [a, b] = true) (hm : s.thr.mode = .super)
    (hok : imageOk (s.sc b ++ s.sc a) (s.coreAt s.core).ovh = true) :
    execSlotw a b s = .next ((s.setCore s.core
      (if (s.barrierAt (barKey .core s.core 0)).members = [] then
        { s.coreAt s.core with slotTab := s.sc b ++ s.sc a, staged := none, due := none }
      else { s.coreAt s.core with staged := some (s.sc b ++ s.sc a) })).goesOn (.slotw a b)) := by
  have ha := State.readable_operand h (r := a) (by simp)
  have hb := State.readable_operand h (r := b) (by simp)
  unfold execSlotw
  refine run_ok (State.readable_thread h) (slotw_checks h hm) ?_
  simp [M.bind_apply, M.map_apply, ha, hb, hok]

end

/-! ## `RFILL`, the arm form (R322) -/

/-- The thread's slot and core give its place. -/
theorem State.core_slot (s : State) : s.core * 8 + slotOfTid s.cur = s.cur := by
  simp only [State.core, coreOfTid, slotOfTid]
  omega

/-- Without waiters nothing is looked at. -/
theorem State.examine_nil {s : State} (h : s.retry = []) (w : Nat) : s.examine w = s := by
  simp [State.examine, h, State.examine.go]

theorem State.updThread_cur {s : State} (h : (s.thread? s.cur).isSome = true) (f : Thread → Thread) :
    s.updThread s.cur f = s.setThr (f s.thr) := by
  simp only [State.updThread, State.thread_cur h]
  rfl

section

variable {s : State}

theorem rfillArm_runs (h : (s.thread? s.cur).isSome = true) {d : Sc} (hd : Sc.isI d = false) :
    execRfillArm d s = .next ((s.emptyReg s.core (slotOfTid s.cur) d).goesOn (.rfillArm d)) := by
  have hr : s.readable [] = true := by simpa [State.readable] using h
  unfold execRfillArm
  exact run_ok h (State.readable_checks hr (by simp [hd])) rfl

/-- The thread's own register becomes empty (R66). -/
theorem State.emptyReg_g (h : (s.thread? s.cur).isSome = true) (hq : s.retry = []) (n : Fin 16) :
    s.emptyReg s.core (slotOfTid s.cur) (.g n) = s.setThr { s.thr with gFull := clrBit s.thr.gFull n.val } := by
  simp only [State.emptyReg, State.core_slot, State.updThread_cur h]
  exact State.examine_nil (by simpa using hq) _

end

/-! ## `RFILL`, the send form (R322, R323) -/

/-- What an instruction does depends on what its operation does from its state. -/
theorem run_congr {i : Instr} {u : Uses} {x y : M Next} {s : State} (h : x s = y s) : run i u x s = run i u y s := by
  simp only [run, h]

/-- Is the core one that the thread may fill (R322)? -/
def State.mayFill (s : State) (x : Word) : Bool := coreIdOk s x && samePartition s x.toNat

theorem State.mayFill_iff {s : State} {x : Word} : s.mayFill x = true ↔
    x.toNat < 2 ^ 20 ∧ x.toNat % 2048 < 1152 ∧ (s.pkgAt (x.toNat / 8192)).member = true ∧
      (s.partOfCore x.toNat).isSome = true ∧ s.partOfCore x.toNat = s.partOfCore s.core := by
  simp only [State.mayFill, coreIdOk, samePartition, and_assoc, Bool.and_eq_true, decide_eq_true_eq, beq_iff_eq]
  exact Iff.rfl

/-- The request that fills register `r` of a core. -/
def fillReq (x r : Nat) (v : Word) (wait : Bool) : Req :=
  .rfill x (if r < 128 then some (r % 8) else none) (r / 8 % 16) v wait

section

variable {s : State} {wait : Bool} {a b c : Sc}

theorem rfillSend_refused (hr : s.readable [a, b, c] = true) (hok : s.mayFill (s.sc a) = false) :
    execRfillSend wait a b c s = .next (s.trapped (.rfillSend wait a b c) 0x1F 0 0) := by
  have ha := State.readable_operand hr (r := a) (by simp)
  unfold execRfillSend
  refine run_trap (s1 := s) (State.readable_thread hr) (State.readable_checks hr (by simp)) ?_
  have hbad : coreIdOk s (s.sc a) = false ∨ samePartition s (s.sc a).toNat = false := Bool.and_eq_false_iff.mp hok
  simp [M.bind_apply, ha, hbad]

theorem rfillSend_noRegister (hr : s.readable [a, b, c] = true) (hok : s.mayFill (s.sc a) = true)
    (h : 256 ≤ (s.sc b).toNat ∨ (128 ≤ (s.sc b).toNat ∧ (s.sc b).toNat % 8 ≠ 0)) :
    execRfillSend wait a b c s = .next (s.trapped (.rfillSend wait a b c) 0x17 0 1) := by
  have ha := State.readable_operand hr (r := a) (by simp)
  have hb := State.readable_operand hr (r := b) (by simp)
  obtain ⟨hid, hpart⟩ := Bool.and_eq_true_iff.mp hok
  unfold execRfillSend
  refine run_trap (s1 := s) (State.readable_thread hr) (State.readable_checks hr (by simp)) ?_
  have hbad : (512 ≤ (s.sc b).toNat ∨ 31 < (s.sc b).toNat / 8 % 64) ∨
      16 ≤ (s.sc b).toNat / 8 % 64 ∧ ¬ (s.sc b).toNat % 8 = 0 := by omega
  simp [M.bind_apply, ha, hb, hid, hpart, hbad]

/-- Otherwise the instruction is its request. -/
theorem rfillSend_asks (hr : s.readable [a, b, c] = true) (hok : s.mayFill (s.sc a) = true)
    (h : (s.sc b).toNat < 128 ∨ ((s.sc b).toNat < 256 ∧ (s.sc b).toNat % 8 = 0)) (hs : s.thr.stores = []) :
    execRfillSend wait a b c s = run (.rfillSend wait a b c) { rd := [a, b, c] } (do
      let _ ← rpc 0 (pkgOfCore (s.sc a).toNat) (fillReq (s.sc a).toNat (s.sc b).toNat (s.sc c) wait) 0
      pure .seq) s := by
  have ha := State.readable_operand hr (r := a) (by simp)
  have hb := State.readable_operand hr (r := b) (by simp)
  have hc := State.readable_operand hr (r := c) (by simp)
  obtain ⟨hid, hpart⟩ := Bool.and_eq_true_iff.mp hok
  unfold execRfillSend
  refine run_congr ?_
  have hgood : ¬ ((512 ≤ (s.sc b).toNat ∨ 31 < (s.sc b).toNat / 8 % 64) ∨
      16 ≤ (s.sc b).toNat / 8 % 64 ∧ ¬ (s.sc b).toNat % 8 = 0) := by omega
  have hlow : (s.sc b).toNat / 8 % 64 < 16 ↔ (s.sc b).toNat < 128 := by omega
  simp [M.bind_apply, M.map_apply, ha, hb, hc, hid, hpart, hgood, waitAcks_ok hs, fillReq, hlow]

end

/-! ## A fill at its home -/

/-- A wait that begins now has not reached its limit (R165). -/
theorem State.waitedOut_now {s : State} {w : Waiter} (h : w.since = s.cycle) : s.waitedOut w = false := by
  simp only [State.waitedOut, h, Config.nsToCycles, Bool.and_eq_false_iff, bne_eq_false_iff_eq, decide_eq_false_iff_not]
  omega

/-- A fill that need not wait is performed (R322). -/
theorem State.applyReq_fills {s s1 : State} {x r va : Nat} {v : Word} {wait : Bool} {rep : Reply}
    (hf : (s.dieAt (dieOfCore x)).forward = []) (hsat : s.satisfied (fillReq x r v wait) = true)
    (hfill : s.fill x (if r < 128 then some (r % 8) else none) (r / 8 % 16) v = (s1, rep)) :
    s.applyReq (s.asking 0 0 (fillReq x r v wait) va) = (s1, some rep) := by
  have hw := State.waitedOut_now (s := s) (w := s.asking 0 0 (fillReq x r v wait) va) rfl
  have hb : s.applyBase (s.asking 0 0 (fillReq x r v wait) va) = (s1, some rep) := by
    unfold State.applyBase
    rw [hw]
    have hp : s.perform (fillReq x r v wait) = (s1, rep) := by
      rw [← hfill]
      show s.fill (s.forwardCore x) _ _ _ = _
      rw [State.forwardCore_nil hf]
    simp only [fillReq] at hsat hp
    simp [State.asking, mkWaiter, fillReq, Req.base, hsat, hp]
  show (((s.applyBase _).1.settle _).tagLine _ (s.applyBase _).2, (s.applyBase _).2) = _
  rw [hb]
  rfl

/-- A waiter of this package is always listed (R164). -/
theorem State.list_here {s : State} {w : Waiter} (hw : w.remote = false) :
    ∃ s1, s.list w = (s1, .listed) ∧ s1.thr = s.thr := by
  refine ⟨(s.list w).1, ?_, ?_⟩ <;> simp only [State.list, hw, Bool.false_and, Bool.false_eq_true, if_false]
  rfl

/-- A fill that must wait is listed (R323). -/
theorem State.applyReq_lists {s : State} {x r va : Nat} {v : Word} {wait : Bool}
    (hsat : s.satisfied (fillReq x r v wait) = false) :
    ∃ s1, s.applyReq (s.asking 0 0 (fillReq x r v wait) va) = (s1, some .listed) ∧ s1.thr = s.thr := by
  have hw := State.waitedOut_now (s := s) (w := s.asking 0 0 (fillReq x r v wait) va) rfl
  obtain ⟨s1, hlist, hthr⟩ := State.list_here (s := s) (w := s.asking 0 0 (fillReq x r v wait) va) rfl
  refine ⟨s1, ?_, hthr⟩
  have hb : s.applyBase (s.asking 0 0 (fillReq x r v wait) va) = (s1, some .listed) := by
    unfold State.applyBase
    rw [hw, hlist]
    simp only [fillReq] at hsat
    simp [State.asking, mkWaiter, fillReq, Req.base, hsat]
  show (((s.applyBase _).1.settle _).tagLine _ (s.applyBase _).2, (s.applyBase _).2) = _
  rw [hb]
  rfl

/-- The state once a fill has been performed and its answer has come. -/
def State.answeredWith (s : State) (m : List Mail) : State := s.setThr { s.thr with mail := m }

theorem rpc_performed {s s1 : State} (hi : s.Idle) {x r : Nat} {v : Word} {wait : Bool} {rep : Reply}
    (hp : pkgOfCore x = pkgOfCore s.core)
    (ha : s.applyReq (s.asking 0 0 (fillReq x r v wait) 0) = (s1, some rep)) (hl : rep ≠ .listed)
    (hfl : rep.isFault = false) : ∃ m, rpc 0 (pkgOfCore x) (fillReq x r v wait) 0 s = .ok rep (s1.answeredWith m) :=
  rpcFor_performed hi hp ha hl hfl (by simp [fillReq]) (by simp [fillReq])

/-- A slot's register filled. -/
theorem State.fill_thread {s : State} {x r : Nat} {v : Word} {u : Thread} (hr : r < 128)
    (hu : s.thread? (x * 8 + r % 8) = some u) :
    s.fill x (if r < 128 then some (r % 8) else none) (r / 8 % 16) v =
      (s.setThread (x * 8 + r % 8) (u.putG ⟨r / 8 % 16, Nat.mod_lt _ (by omega)⟩ v), .ok) := by
  have hlt : r / 8 % 16 < 16 := Nat.mod_lt _ (by omega)
  simp [State.fill, hr, hu, hlt]

theorem State.fill_vacant {s : State} {x r : Nat} {v : Word} (hr : r < 128) (hu : s.thread? (x * 8 + r % 8) = none) :
    s.fill x (if r < 128 then some (r % 8) else none) (r / 8 % 16) v = (s, .fault (mkTrap 0x17 0 2)) := by
  have hlt : r / 8 % 16 < 16 := Nat.mod_lt _ (by omega)
  simp [State.fill, hr, hu, hlt]

theorem State.fill_shared {s : State} {x : Nat} {v : Word} (m : Fin 16) :
    s.fill x (if 128 + 8 * m.val < 128 then some ((128 + 8 * m.val) % 8) else none) ((128 + 8 * m.val) / 8 % 16) v =
      (s.changeC x { n := m, v := some v, issued := s.cycle, fill := true }, .ok) := by
  have hm : (128 + 8 * m.val) / 8 % 16 = m.val := by omega
  simp [State.fill, hm]

/-- A thread that has been written in its slot, whoever it is. -/
theorem State.setThread_goesOn {s : State} {k : Nat} {y : Thread} {m : List Mail} {i : Instr} :
    ∃ u, (((s.setThread k y).answeredWith m).goesOn i).thread? k = some u ∧ u.g = y.g ∧ u.gFull = y.gFull := by
  by_cases h : k = s.cur
  · subst h
    refine ⟨_, State.goesOn_thread_cur .., ?_, ?_⟩ <;> simp [State.answeredWith, State.thr, State.thread?]
  · refine ⟨y, ?_, rfl, rfl⟩
    rw [State.goesOn_thread_ne _ _ (by simpa [State.answeredWith] using h), State.answeredWith,
      State.thread_setThr_ne _ _ (by simpa using h), State.thread_setThread_self]

/-- A register of a thread that has been filled leaves the instruction of the thread in `cur` to complete. -/
theorem State.setThread_completed {s : State} {k : Nat} {u : Thread} {n : Fin 16} {v : Word} {m : List Mail} {i : Instr}
    (hu : s.thread? k = some u) : Completed i s (((s.setThread k (u.putG n v)).answeredWith m).goesOn i) := by
  have hthr : (s.setThread k (u.putG n v)).thr.pc = s.thr.pc ∧ (s.setThread k (u.putG n v)).thr.trapent = s.thr.trapent := by
    by_cases h : k = s.cur
    · subst h; simp [State.thr, hu]
    · simp [State.thr, State.thread_setThread_ne _ _ h]
  exact .of_goesOn rfl (by simpa [State.answeredWith] using hthr.1) (by simpa [State.answeredWith] using hthr.2)

/-! ## What the send form leaves -/

section

variable {s : State} {wait : Bool} {a b c : Sc}

/-- Is register `r` a thread's, when its slot holds one? -/
theorem satisfied_thread {x r : Nat} {v : Word} {u : Thread} (hf : (s.dieAt (dieOfCore x)).forward = []) (hr : r < 128)
    (hu : s.thread? (x * 8 + r % 8) = some u) :
    s.satisfied (fillReq x r v wait) = (!wait || !u.gFull.getLsbD (r / 8)) := by
  have hlt : r / 8 % 16 = r / 8 := by omega
  simp [State.satisfied, fillReq, Req.base, State.forwardCore_nil hf, hr, hu, hlt]

theorem satisfied_vacant {x r : Nat} {v : Word} (hf : (s.dieAt (dieOfCore x)).forward = []) (hr : r < 128)
    (hu : s.thread? (x * 8 + r % 8) = none) : s.satisfied (fillReq x r v wait) = true := by
  simp [State.satisfied, fillReq, Req.base, State.forwardCore_nil hf, hr, hu]

theorem satisfied_shared {x : Nat} {v : Word} {m : Fin 16} (hf : (s.dieAt (dieOfCore x)).forward = [])
    (h : wait = false ∨ s.cFull x m = false) : s.satisfied (fillReq x (128 + 8 * m.val) v wait) = true := by
  have hm : (128 + 8 * m.val) / 8 % 16 = m.val := by omega
  rcases h with h | h <;> simp [State.satisfied, fillReq, Req.base, State.forwardCore_nil hf, hm, h]

theorem rfillSend_done (hr : s.readable [a, b, c] = true) (hok : s.mayFill (s.sc a) = true)
    (h : (s.sc b).toNat < 128 ∨ ((s.sc b).toNat < 256 ∧ (s.sc b).toNat % 8 = 0)) (hf : s.fresh = true)
    (hp : pkgOfCore (s.sc a).toNat = pkgOfCore s.core) (hfw : (s.dieAt (dieOfCore (s.sc a).toNat)).forward = [])
    (hsat : s.satisfied (fillReq (s.sc a).toNat (s.sc b).toNat (s.sc c) wait) = true) {s1 : State}
    (hfill : s.fill (s.sc a).toNat (if (s.sc b).toNat < 128 then some ((s.sc b).toNat % 8) else none)
      ((s.sc b).toNat / 8 % 16) (s.sc c) = (s1, .ok)) :
    ∃ m, execRfillSend wait a b c s = .next ((s1.answeredWith m).goesOn (.rfillSend wait a b c)) := by
  obtain ⟨_, _, hs, _⟩ := State.fresh_iff.mp hf
  obtain ⟨m, hrpc⟩ := rpc_performed (.of_fresh hf) hp (State.applyReq_fills hfw hsat hfill) (by simp) rfl
  refine ⟨m, ?_⟩
  rw [rfillSend_asks hr hok h hs]
  exact run_ok (State.readable_thread hr) (State.readable_checks hr (by simp)) (M.bind_ok hrpc)

theorem rfillSend_vacant (hr : s.readable [a, b, c] = true) (hok : s.mayFill (s.sc a) = true)
    (h : (s.sc b).toNat < 128) (hf : s.fresh = true)
    (hp : pkgOfCore (s.sc a).toNat = pkgOfCore s.core) (hfw : (s.dieAt (dieOfCore (s.sc a).toNat)).forward = [])
    (hu : s.thread? ((s.sc a).toNat * 8 + (s.sc b).toNat % 8) = none) :
    execRfillSend wait a b c s = .next (s.trapped (.rfillSend wait a b c) 0x17 0 2) := by
  obtain ⟨_, _, hs, _⟩ := State.fresh_iff.mp hf
  have hrpc : rpc 0 _ (fillReq (s.sc a).toNat (s.sc b).toNat (s.sc c) wait) 0 s = _ := rpcFor_fault (.of_fresh hf) hp
    (State.applyReq_fills hfw (satisfied_vacant hfw h hu) (State.fill_vacant h hu))
  rw [rfillSend_asks hr hok (.inl h) hs]
  exact run_trap (State.readable_thread hr) (State.readable_checks hr (by simp)) (M.bind_error hrpc)

theorem rfillSend_waits (hr : s.readable [a, b, c] = true) (hok : s.mayFill (s.sc a) = true)
    (h : (s.sc b).toNat < 128 ∨ ((s.sc b).toNat < 256 ∧ (s.sc b).toNat % 8 = 0)) (hf : s.fresh = true)
    (hp : pkgOfCore (s.sc a).toNat = pkgOfCore s.core)
    (hsat : s.satisfied (fillReq (s.sc a).toNat (s.sc b).toNat (s.sc c) wait) = false) :
    ∃ t, execRfillSend wait a b c s = .next t ∧ t.thr.park = some .listed ∧ t.thr.pc = s.thr.pc := by
  obtain ⟨_, _, hs, _⟩ := State.fresh_iff.mp hf
  obtain ⟨s1, ha, hthr⟩ := State.applyReq_lists (va := 0) hsat
  have hrpc : rpc 0 (pkgOfCore (s.sc a).toNat) (fillReq (s.sc a).toNat (s.sc b).toNat (s.sc c) wait) 0 s =
      .error (.park .listed) s1 := by
    unfold rpc rpcFor
    rw [State.ask_home (.of_fresh hf) hp, ha]
  rw [rfillSend_asks hr hok h hs]
  exact ⟨_, run_park (State.readable_thread hr) (State.readable_checks hr (by simp)) (M.bind_error hrpc),
    State.parkBegun_park .., by rw [State.parkBegun_pc, hthr]⟩

end

end Sys2Proof.Machine
end

section
/-! The theorem that settles O37, continued: `SBIND` and `SFREE` (R181, R184, R185, R324). -/
namespace Sys2Proof.Machine

/-- The checks pass for an instruction that names a vector register of the allotment (R69). -/
theorem checkUses_port {s : State} {l : List Sc} {d : VReg} (h : s.readable l = true) (hd : d.val < s.thr.alot) :
    checkUses { rd := l, vs := [d] } s = none := by
  have hc : checkUses { rd := l } s = none := State.readable_checks h (by simp)
  have hd' : ¬ s.thr.alot ≤ d.val := by omega
  rw [← hc]
  simp [checkUses, hd']

/-! ## Descriptors (R181) -/

/-- A descriptor that breaks a condition is not valid. -/
theorem StreamDesc.not_ok {x : StreamDesc}
    (h : 8 ≤ x.kind ∨ x.rest ≠ 0 ∨ 8 ≤ x.kreg ∨ (x.kind ≠ 0 ∧ x.kreg ≠ 0) ∨ (x.kind ≤ 1 ∧ x.count = 0) ∨
      (1 < x.kind ∧ (x.stride ≠ 0 ∨ x.count ≠ 0 ∨ x.ty ≠ 0)) ∨ (3 < x.kind ∧ x.base ≠ 0)) : x.ok = false := by
  rw [Bool.eq_false_iff]
  intro hok
  simp only [StreamDesc.ok, Bool.and_eq_true, decide_eq_true_eq, beq_iff_eq, Bool.or_eq_true] at hok
  obtain ⟨⟨⟨⟨hkind, hrest⟩, hkreg⟩, hzero⟩, hform⟩ := hok
  split at hform
  · simp only [Bool.and_eq_true, decide_eq_true_eq] at hform
    obtain ⟨⟨hcount, _⟩, _⟩ := hform
    omega
  · simp only [Bool.and_eq_true, beq_iff_eq] at hform
    obtain ⟨⟨⟨hstride, hcount⟩, hty⟩, hbase⟩ := hform
    split at hbase
    · omega
    · have hb : x.base = 0 := by simpa using hbase
      omega

/-- The neighbour that a chain's kind names (R184). -/
theorem chainExists_eq (core kind : Nat) :
    chainExists core kind = (neighbour core (decide (kind = 4 ∨ kind = 7))).isSome := by
  simp [chainExists, Bool.decide_or, beq_eq_decide]

/-! ## `SBIND` -/

section

variable {s : State} {d : VReg} {a : Sc} {off : BitVec 27} {p : Phys}

/-- What `SBIND` does with the descriptor it has read. -/
def bindWith (d : VReg) (x : StreamDesc) : M Next := do
  let s ← get
  let t := s.thr
  if 4 ≤ t.ports.length then commandFault 1
  else if (t.port? d).isSome then commandFault 2
  else if !x.ok then commandFault 3
  else if 4 ≤ x.kind && !chainExists s.core x.kind then commandFault 4
  else do
    let h ← if x.kind == 2 then loadVa loadA (BitVec.ofNat 64 (x.base + 8)) 8 else pure 0
    setPort d (x.port h)
    pure .seq

theorem sbind_misaligned (hr : s.readable [a] = true) (hd : d.val < s.thr.alot)
    (h : (s.sc a + BitVec.ofInt 64 off.toInt).toNat % 32 ≠ 0) :
    execSbind d a off s = .next (s.trapped (.sbind d a off) 0x06 (s.sc a + BitVec.ofInt 64 off.toInt).toNat 0) := by
  have ha := State.readable_operand hr (r := a) (by simp)
  unfold execSbind
  refine run_trap (s1 := s) (State.readable_thread hr) (checkUses_port hr hd) ?_
  rw [M.bind_ok (rdS_apply a s), ha]
  exact congrFun (if_pos (bne_iff_ne.mpr h)) s

/-- The descriptor is read from its home. -/
theorem sbind_reads (hr : s.readable [a] = true)
    (h : (s.sc a + BitVec.ofInt 64 off.toInt).toNat % 32 = 0) (hp : s.reach loadA (s.sc a + BitVec.ofInt 64 off.toInt) = .ok p)
    (hh : s.atHome p = true) (hc : s.calm = true) (hf : s.fresh = true) :
    ∃ t, Loaded s t ∧ ∀ r, bindWith d (streamDesc (s.readN p.pa 32)) t = r →
      execSbind d a off s = run (.sbind d a off) { rd := [a], vs := [d] } (fun _ => r) s := by
  have ha := State.readable_operand hr (r := a) (by simp)
  obtain ⟨_, _, hpo, _⟩ := State.calm_iff.mp hc
  obtain ⟨_, _, hs, _⟩ := State.fresh_iff.mp hf
  obtain ⟨t, hld, hl⟩ := loadN_home (.of_fresh hf) hs hpo hh 0 32
  refine ⟨t, hl, fun r hrun => ?_⟩
  unfold execSbind
  refine run_congr ?_
  rw [← hrun, M.bind_ok (rdS_apply a s), ha]
  refine (congrFun (if_neg (by rw [bne_iff_ne, not_not]; exact h)) s).trans ?_
  exact (M.bind_ok (trans_ok hp)).trans (M.bind_ok hld)

theorem bindWith_full {t : State} {x : StreamDesc} (h : 4 ≤ t.thr.ports.length) :
    bindWith d x t = .error (.trap (mkTrap 0x17 0 1) false) t := by
  simp [bindWith, M.bind_apply, h, commandFault]

theorem bindWith_bound {t : State} {x : StreamDesc} (h : t.thr.ports.length < 4) (hd : (t.thr.port? d).isSome = true) :
    bindWith d x t = .error (.trap (mkTrap 0x17 0 2) false) t := by
  simp [bindWith, M.bind_apply, Nat.not_le.mpr h, hd, commandFault]

theorem bindWith_invalid {t : State} {x : StreamDesc} (h : t.thr.ports.length < 4) (hd : t.thr.port? d = none)
    (hx : x.ok = false) : bindWith d x t = .error (.trap (mkTrap 0x17 0 3) false) t := by
  simp [bindWith, M.bind_apply, Nat.not_le.mpr h, hd, hx, commandFault]

theorem bindWith_alone {t : State} {x : StreamDesc} (h : t.thr.ports.length < 4) (hd : t.thr.port? d = none)
    (hx : x.ok = true) (hk : 4 ≤ x.kind) (hn : chainExists t.core x.kind = false) :
    bindWith d x t = .error (.trap (mkTrap 0x17 0 4) false) t := by
  simp [bindWith, M.bind_apply, Nat.not_le.mpr h, hd, hx, hk, hn, commandFault]

/-- The state once the register is a port. -/
def State.bound (s : State) (d : VReg) (x : StreamDesc) : State :=
  s.setThr { s.thr with ports := mapPut s.thr.ports d.val (x.port 0) }

theorem bindWith_ok {t : State} {x : StreamDesc} (h : t.thr.ports.length < 4) (hd : t.thr.port? d = none)
    (hx : x.ok = true) (hk : x.kind ≠ 2) (hn : 4 ≤ x.kind → chainExists t.core x.kind = true) :
    bindWith d x t = .ok .seq (t.bound d x) := by
  have hn' : ¬ (4 ≤ x.kind ∧ chainExists t.core x.kind = false) := fun ⟨h4, hf⟩ => by simp [hn h4] at hf
  simp [bindWith, M.bind_apply, M.map_apply, Nat.not_le.mpr h, hd, hx, hn', beq_eq_false_iff_ne.mpr hk, setPort, State.bound]

/-- A descriptor that is refused takes its fault. -/
theorem sbind_trap {t : State} {c n : Nat} (hr : s.readable [a] = true) (hd : d.val < s.thr.alot)
    (h : execSbind d a off s = run (.sbind d a off) { rd := [a], vs := [d] }
      (fun _ => .error (.trap (mkTrap c 0 n) false) t) s) :
    execSbind d a off s = .next (s.trapped (.sbind d a off) c 0 n) :=
  h.trans (run_trap (s1 := t) (State.readable_thread hr) (checkUses_port hr hd) rfl)

theorem sbind_binds {t : State} {x : StreamDesc} (hr : s.readable [a] = true) (hd : d.val < s.thr.alot)
    (h : execSbind d a off s = run (.sbind d a off) { rd := [a], vs := [d] } (fun _ => .ok .seq (t.bound d x)) s) :
    execSbind d a off s = .next ((t.bound d x).goesOn (.sbind d a off)) :=
  h.trans (run_ok (s1 := t.bound d x) (State.readable_thread hr) (checkUses_port hr hd) rfl)

end

/-! ## `SFREE` -/

section

variable {s : State} {d : VReg}

theorem sfree_unbound (ht : (s.thread? s.cur).isSome = true) (hd : d.val < s.thr.alot) (h : s.thr.port? d = none) :
    execSfree d s = .next (s.trapped (.sfree d) 0x17 0 5) := by
  have hr : s.readable [] = true := by simpa [State.readable] using ht
  unfold execSfree
  refine run_trap (s1 := s) ht (checkUses_port hr hd) ?_
  simp [M.bind_apply, h, commandFault]

theorem sfree_frees (ht : (s.thread? s.cur).isSome = true) (hd : d.val < s.thr.alot) {q : Port}
    (h : s.thr.port? d = some q) (hq : q.receives = true ∨ (s.thr.stores = [] ∧ s.thr.vPend.getLsbD d.val = false)) :
    execSfree d s = .next ((s.setThr (s.thr.unbind d)).goesOn (.sfree d)) := by
  have hr : s.readable [] = true := by simpa [State.readable] using ht
  unfold execSfree
  refine run_ok ht (checkUses_port hr hd) ?_
  by_cases hrec : q.receives = true
  · simp [M.bind_apply, M.map_apply, h, hrec]
  · obtain ⟨hs, hp⟩ := hq.resolve_left hrec
    rw [BitVec.getLsbD_eq_getElem d.isLt] at hp
    simp [M.bind_apply, M.map_apply, h, hrec, waitAcks_ok hs, hp]

/-- A freed register reads zero and is full, and has no port; the others stay (R185). -/
theorem Thread.unbind_frame (t : Thread) (d : VReg) :
    (t.unbind d).port? d = none ∧ (t.unbind d).v.get d = 0 ∧ (t.unbind d).vFull.getLsbD d.val = true ∧
      ∀ v, v ≠ d → (t.unbind d).v.get v = t.v.get v ∧ (t.unbind d).port? v = t.port? v := by
  refine ⟨mapGet_del_self _ _, Vector.getElem_set_self d.isLt, getLsbD_setBit_self _ d.isLt, fun v hv => ?_⟩
  have hne : d.val ≠ v.val := fun e => hv (Fin.ext e.symm)
  exact ⟨Vector.getElem_set_ne d.isLt v.isLt hne, mapGet_del_ne _ hne⟩

end

/-! ## The statement -/

theorem slotw_results {s : State} {a b : Sc} (hr : s.readable [a, b] = true) (hm : s.thr.mode = .super)
    (hok : imageOk (s.sc b ++ s.sc a) (s.coreAt s.core).ovh = true) :
    ((s.barrierAt (barKey .core s.core 0)).members = [] → ∃ t, execSlotw a b s = .next t ∧ Completed (.slotw a b) s t ∧
      (t.coreAt s.core).slotTab = s.sc b ++ s.sc a ∧ (t.coreAt s.core).staged = none) ∧
    ((s.barrierAt (barKey .core s.core 0)).members ≠ [] → ∃ t, execSlotw a b s = .next t ∧ Completed (.slotw a b) s t ∧
      (t.coreAt s.core).slotTab = (s.coreAt s.core).slotTab ∧ (t.coreAt s.core).staged = some (s.sc b ++ s.sc a)) := by
  refine ⟨fun hmem => ⟨_, slotw_takes hr hm hok, .of_goesOn rfl rfl rfl, ?_⟩,
    fun hmem => ⟨_, slotw_takes hr hm hok, .of_goesOn rfl rfl rfl, ?_⟩⟩ <;> simp [hmem]

/-- The results of the send form, by what stands in the register's place (R322, R323). -/
theorem rfillSend_results {s : State} {wait : Bool} {a b c : Sc} (hr : s.readable [a, b, c] = true)
    (hok : s.mayFill (s.sc a) = true) (hf : s.fresh = true) (hp : pkgOfCore (s.sc a).toNat = pkgOfCore s.core)
    (hfw : (s.dieAt (dieOfCore (s.sc a).toNat)).forward = []) :
    let i : Instr := .rfillSend wait a b c
    let x := (s.sc a).toNat
    let r := (s.sc b).toNat
    (∀ u, r < 128 → s.thread? (x * 8 + r % 8) = some u → wait = false ∨ u.gFull.getLsbD (r / 8) = false →
      ∃ t u', execRfillSend wait a b c s = .next t ∧ Completed i s t ∧ t.thread? (x * 8 + r % 8) = some u' ∧
        u'.gFull.getLsbD (r / 8) = true ∧ ∀ m : Fin 16, m.val = r / 8 → u'.g.get m = s.sc c) ∧
    (r < 128 → s.thread? (x * 8 + r % 8) = none → execRfillSend wait a b c s = .next (s.trapped i 0x17 0 2)) ∧
    (∀ m : Fin 16, r = 128 + 8 * m.val → wait = false ∨ s.cFull x m = false →
      ∃ t, execRfillSend wait a b c s = .next t ∧ Completed i s t ∧
        { n := m, v := some (s.sc c), issued := s.cycle, fill := true } ∈ (t.coreAt x).cWrites) ∧
    (∀ u, r < 128 → s.thread? (x * 8 + r % 8) = some u → wait = true → u.gFull.getLsbD (r / 8) = true →
      ∃ t, execRfillSend wait a b c s = .next t ∧ t.thr.park = some .listed ∧ t.thr.pc = s.thr.pc) := by
  refine ⟨fun u hlt hu hw => ?_, fun hlt hu => rfillSend_vacant hr hok hlt hf hp hfw hu, fun m hm hw => ?_,
    fun u hlt hu hw hfull => ?_⟩
  · have hsat : s.satisfied (fillReq (s.sc a).toNat (s.sc b).toNat (s.sc c) wait) = true := by
      rw [satisfied_thread hfw hlt hu]
      simpa using hw
    obtain ⟨m, hrun⟩ := rfillSend_done hr hok (.inl hlt) hf hp hfw hsat (State.fill_thread hlt hu)
    obtain ⟨u', hu', hg, hgf⟩ := State.setThread_goesOn
    have hreg : (s.sc b).toNat / 8 % 16 = (s.sc b).toNat / 8 := by omega
    refine ⟨_, u', hrun, State.setThread_completed hu, hu', ?_, fun n hn => ?_⟩
    · rw [hgf, Thread.putG_gFull]
      simp only [hreg]
      exact getLsbD_setBit_self _ (by omega)
    · have hnr : n = ⟨(s.sc b).toNat / 8 % 16, Nat.mod_lt _ (by omega)⟩ := Fin.ext (hn.trans hreg.symm)
      rw [hg, hnr, Thread.putG_get_self]
  · have hb : (s.sc b).toNat < 256 ∧ (s.sc b).toNat % 8 = 0 := by omega
    have hsat : s.satisfied (fillReq (s.sc a).toNat (s.sc b).toNat (s.sc c) wait) = true := by
      rw [hm]; exact satisfied_shared hfw hw
    have hfill := State.fill_shared (s := s) (x := (s.sc a).toNat) (v := s.sc c) m
    rw [← hm] at hfill
    obtain ⟨l, hrun⟩ := rfillSend_done hr hok (.inr hb) hf hp hfw hsat hfill
    refine ⟨_, hrun, .of_goesOn rfl ?_ ?_, ?_⟩
    · simp [State.answeredWith, State.changeC]
    · simp [State.answeredWith, State.changeC]
    · simp [State.answeredWith, State.changeC, mem_cInsert]
  · exact rfillSend_waits hr hok (.inl hlt) hf hp ((satisfied_thread hfw hlt hu).trans (by simp [hw, hfull]))

/-- The results of `SBIND` by its descriptor (R181, R184, R324). -/
theorem sbind_results {s : State} {d : VReg} {a : Sc} {off : BitVec 27} {p : Phys} (hr : s.readable [a] = true)
    (hd : d.val < s.thr.alot) (h : (s.sc a + BitVec.ofInt 64 off.toInt).toNat % 32 = 0)
    (hp : s.reach loadA (s.sc a + BitVec.ofInt 64 off.toInt) = .ok p) (hh : s.atHome p = true) (hc : s.calm = true)
    (hf : s.fresh = true) :
    let i : Instr := .sbind d a off
    let x := streamDesc (s.readN p.pa 32)
    (4 ≤ s.thr.ports.length → execSbind d a off s = .next (s.trapped i 0x17 0 1)) ∧
    (s.thr.ports.length < 4 → (s.thr.port? d).isSome = true → execSbind d a off s = .next (s.trapped i 0x17 0 2)) ∧
    (s.thr.ports.length < 4 → s.thr.port? d = none →
      (x.ok = false → execSbind d a off s = .next (s.trapped i 0x17 0 3)) ∧
      (x.ok = true → 4 ≤ x.kind → chainExists s.core x.kind = false →
        execSbind d a off s = .next (s.trapped i 0x17 0 4)) ∧
      (x.ok = true → x.kind ≠ 2 → (4 ≤ x.kind → chainExists s.core x.kind = true) →
        ∃ t, execSbind d a off s = .next t ∧ Completed i s t ∧ t.thr.port? d = some (x.port 0) ∧
          ∀ b, t.byteAt b = s.byteAt b)) := by
  obtain ⟨t, hl, hrun⟩ := sbind_reads (d := d) hr h hp hh hc hf
  have hthr := hl.thr
  have hcore := hl.core
  rw [← hthr, ← hcore]
  refine ⟨fun h4 => ?_, fun h4 hb => ?_, fun h4 hb => ⟨fun hx => ?_, fun hx hk hn => ?_, fun hx hk hn => ?_⟩⟩
  · exact sbind_trap hr hd (hrun _ (bindWith_full h4))
  · exact sbind_trap hr hd (hrun _ (bindWith_bound h4 hb))
  · exact sbind_trap hr hd (hrun _ (bindWith_invalid h4 hb hx))
  · exact sbind_trap hr hd (hrun _ (bindWith_alone h4 hb hx hk hn))
  · refine ⟨_, sbind_binds hr hd (hrun _ (bindWith_ok h4 hb hx hk hn)), .of_goesOn hl.cur ?_ ?_, ?_, fun b => ?_⟩
    · simp [State.bound, hthr]
    · simp [State.bound, hthr]
    · simp [State.bound, Thread.port?]
    · rw [State.goesOn_byteAt]
      exact hl.byteAt b

/-- Settles O37: the table's image by its entries, a fill by its request at the target's home, a port by its descriptor. -/
theorem slotsFillsStreams : Obligations.SlotsFillsStreams := by
  unfold Obligations.SlotsFillsStreams
  refine ⟨fun s a b hr hm => ?_, fun s wait a b c n hr hc => ?_, fun s d a off p hr hd => ?_⟩
  · intro i im v c ok hovh
    have hiff : imageOk im c.ovh = true ↔ ok := imageOk_iff hovh
    refine ⟨fun hok => ?_, fun hok => ?_, fun hok => ?_⟩
    · exact (slotw_results hr hm (hiff.mpr hok)).1
    · exact (slotw_results hr hm (hiff.mpr hok)).2
    · exact slotw_refused hr hm (Bool.eq_false_iff.mpr fun e => hok (hiff.mp e))
  · intro i x r ok
    have ht := State.readable_thread hr
    obtain ⟨hq, _⟩ := State.calm_iff.mp hc
    have hiff : s.mayFill (s.sc a) = true ↔ ok := State.mayFill_iff
    refine ⟨⟨_, rfillArm_runs ht rfl, ?_⟩, ⟨_, rfillArm_runs ht rfl, .of_goesOn rfl rfl rfl, ?_⟩,
      ⟨_, rfillArm_runs ht rfl, .of_goesOn rfl rfl rfl⟩, fun hok => ?_, fun hok hbad => ?_, fun hok hf hp hfw => ?_⟩
    · rw [State.emptyReg_g ht hq]
      refine ⟨.of_goesOn rfl (by simp) (by simp), ?_, fun m hm => ?_⟩
      · simpa using getLsbD_clrBit_self s.thr.gFull n.val
      · simpa using getLsbD_clrBit_ne s.thr.gFull (fun e => hm (Fin.ext e.symm))
    · simp [State.emptyReg, State.changeC, mem_cInsert]
    · exact rfillSend_refused hr (Bool.eq_false_iff.mpr fun e => hok (hiff.mp e))
    · exact rfillSend_noRegister hr (hiff.mpr hok) hbad
    · exact rfillSend_results hr (hiff.mpr hok) hf hp hfw
  · intro i va w f
    have ht := State.readable_thread hr
    refine ⟨sbind_misaligned hr hd, fun hal hp hh hc hf => ?_, sfree_unbound ht hd, fun q hq hfree => ?_⟩
    · obtain ⟨hfull, hbound, hdesc⟩ := sbind_results hr hd hal hp hh hc hf
      refine ⟨hfull, hbound, fun h4 hb => ?_⟩
      obtain ⟨hbad, halone, hok⟩ := hdesc h4 hb
      refine ⟨fun h => hbad (StreamDesc.not_ok h), fun hx hk hn => halone hx hk ?_, fun hx hk hn => ?_⟩
      · rw [chainExists_eq]
        exact Option.isSome_eq_false_iff.mpr (Option.isNone_iff_eq_none.mpr hn)
      · obtain ⟨t, hrun, hdone, hport, hbytes⟩ := hok hx hk fun h => (chainExists_eq _ _).trans (hn h)
        exact ⟨t, _, hrun, hdone, hport, rfl, rfl, rfl, rfl, rfl, rfl, rfl, rfl, hbytes⟩
    · obtain ⟨hport, hv, hfl, hothers⟩ := s.thr.unbind_frame d
      refine ⟨_, sfree_frees ht hd hq hfree, .of_goesOn rfl (by simp [Thread.unbind]) (by simp [Thread.unbind]), ?_⟩
      simp only [State.goesOn_thr, State.thr_setThr]
      exact ⟨hport, hv, hfl, hothers⟩

end Sys2Proof.Machine
end

section
/-! SUPPORT. The decoder gives an instruction of the length that its word says (R81, R82): a lemma per class. -/
namespace Sys2Proof

/-- Whatever a decoder gives has a property. -/
def Gives {α : Type} (P : α → Prop) (x : Dec α) : Prop := ∀ a, x = .ok a → P a

namespace Gives

variable {α β : Type} {P : β → Prop} {Q : α → Prop}

theorem ok {b : β} (h : P b) : Gives P (.ok b) := fun _ e => by cases e; exact h

theorem error {e : Bad} : Gives P (.error e) := fun _ e => by cases e

theorem bind {x : Dec α} {g : α → Dec β} (hx : Gives Q x) (hg : ∀ a, Q a → Gives P (g a)) : Gives P (x >>= g) := by
  cases x with
  | error e => exact .error
  | ok a => exact hg a (hx a rfl)

/-- A part read without regard to its value. -/
theorem step {x : Dec α} {g : α → Dec β} (hg : ∀ a, Gives P (g a)) : Gives P (x >>= g) :=
  bind (Q := fun _ => True) (fun _ _ => trivial) fun a _ => hg a

theorem ite {c : Prop} {_ : Decidable c} {x y : Dec β} (hx : c → Gives P x) (hy : ¬ c → Gives P y) :
    Gives P (if c then x else y) := by
  split
  · exact hx ‹_›
  · exact hy ‹_›

/-- A check passes only where its condition holds. -/
theorem need {c : Bool} {w : Illegal} {g : Unit → Dec β} (hg : c = true → Gives P (g ())) : Gives P (need c w >>= g) := by
  cases c with
  | false => exact .error
  | true => exact hg rfl

end Gives

/-- The length code of an instruction's word. -/
def LenIs (l : BitVec 2) (i : Instr) : Prop := (encodeF i).map Fields.len = some l

/-- A decoder of part of a word that accepts one length only. -/
def OfLen {α : Type} (f : Fields) (n : BitVec 2) (x : Dec α) : Prop := Gives (fun _ => f.len = n) x

section

variable {f : Fields} {n : BitVec 2} {α β : Type}

theorem OfLen.bind {x : Dec α} {g : α → Dec β} (hx : OfLen f n x) : OfLen f n (x >>= g) :=
  Gives.bind hx fun _ hn _ _ => hn

theorem OfLen.isLen : OfLen f n (isLen f n) := fun _ e => by
  unfold Sys2Proof.isLen need at e
  split at e
  · next h => exact eq_of_beq h
  · cases e

/-- After a part that accepts one length, an instruction of that length. -/
theorem OfLen.gives {x : Dec α} {g : α → Dec Instr} (hx : OfLen f n x) (hg : ∀ a, Gives (LenIs n) (g a)) :
    Gives (LenIs f.len) (x >>= g) :=
  Gives.bind hx fun a hn => hn ▸ hg a

theorem OfLen.decDA : OfLen f 0#2 (decDA f) := OfLen.isLen.bind
theorem OfLen.decFpHead : OfLen f 0#2 (decFpHead f) := OfLen.isLen.bind
theorem OfLen.decFp2 : OfLen f 0#2 (decFp2 f) := OfLen.decFpHead.bind
theorem OfLen.decFp1 : OfLen f 0#2 (decFp1 f) := OfLen.decFpHead.bind
theorem OfLen.decVM : OfLen f 0#2 (decVM f) := OfLen.isLen.bind
theorem OfLen.decA64 : OfLen f 0#2 (decA64 f) := OfLen.isLen.bind
theorem OfLen.decKA64 : OfLen f 0#2 (decKA64 f) := OfLen.isLen.bind
theorem OfLen.decAB64 : OfLen f 0#2 (decAB64 f) := OfLen.isLen.bind
theorem OfLen.decBar : OfLen f 0#2 (decBar f) := OfLen.isLen.bind
theorem OfLen.decEng64 : OfLen f 0#2 (decEng64 f) := OfLen.isLen.bind
theorem OfLen.decEx : OfLen f 0#2 (decEx f) := OfLen.isLen.bind

/-! ## The scalar integer class -/

/-- The length code of a second source (R84). -/
def Src2.len : Src2 → BitVec 2
  | .reg _ => 0#2
  | .imm (.i27 _) => 0#2
  | .imm (.i32 _) => 1#2
  | .imm (.i64 _) => 2#2

theorem encAlu_len (m : BitVec 8) (z : Bool) (lo : BitVec 4) (d a : Sc) (b : Src2) :
    (encAlu m z lo d a b).len = b.len := by
  rcases b with r | (v | v | v) <;> rfl

/-- Three lengths have a code (R81). -/
theorem len_cases (h : f.len ≠ 3#2) : f.len = 0#2 ∨ f.len = 1#2 ∨ f.len = 2#2 := by
  revert h; generalize f.len = l; decide +revert

theorem decSrc2_len (h : f.len ≠ 3#2) : Gives (fun b => b.len = f.len) (decSrc2 f) := by
  unfold decSrc2
  refine .ite (fun _ => .step fun _ => .ite (fun h0 => .ok (eq_of_beq h0).symm) fun h0 => .step fun _ =>
    .ite (fun h1 => .ok (eq_of_beq h1).symm) fun h1 => .ok ?_) fun _ => ?_
  · simp only [beq_iff_eq] at h0 h1
    exact (((len_cases h).resolve_left h0).resolve_left h1).symm
  · exact Gives.bind OfLen.isLen fun _ h0 => .step fun _ => .step fun _ => .ok h0.symm

theorem decAlu_len (h : f.len ≠ 3#2) {z : Bool} : Gives (fun x => x.2.2.len = f.len) (decAlu f z) :=
  .step fun _ => .step fun _ => .step fun _ => .step fun _ => (decSrc2_len h).bind fun _ hb => .ok hb

/-- An instruction of the common shape has the length of its second source. -/
theorem gives_alu (h : f.len ≠ 3#2) {z : Bool} {k : Sc → Sc → Src2 → Instr} {m : BitVec 8} {y : Bool} {lo : BitVec 4}
    (hk : ∀ d a b, encodeF (k d a b) = some (encAlu m y lo d a b)) :
    Gives (LenIs f.len) (do let (d, a, b) ← decAlu f z; .ok (k d a b)) :=
  (decAlu_len h).bind fun x hx => .ok (by rw [LenIs, hk, Option.map_some, encAlu_len, hx])

/-- The source of `SEL` fits its length (R325). -/
theorem decSelSrc_len : Gives (fun b => ∀ d a c, LenIs f.len (.sel d a b c)) (decSelSrc f) := by
  unfold decSelSrc
  refine .ite (fun _ => .step fun _ => .ite (fun h1 => .ok fun _ _ _ => congrArg some (eq_of_beq h1).symm) fun _ =>
    .ite (fun h2 => .ok fun _ _ _ => congrArg some (eq_of_beq h2).symm) fun _ => .error) fun _ => ?_
  exact Gives.bind OfLen.isLen fun _ h0 => .step fun _ => .ok fun _ _ _ => congrArg some h0.symm

/-- A constant, or another instruction of each length, in a form that grows with the word (R311, R315). -/
theorem gives_byLen (h : f.len ≠ 3#2) {c : Dec Unit} {i0 i1 i2 : Instr} (h0 : LenIs 0#2 i0) (h1 : LenIs 1#2 i1)
    (h2 : LenIs 2#2 i2) :
    Gives (LenIs f.len) (if f.len == 0#2 then .ok i0 else do c; if f.len == 1#2 then .ok i1 else .ok i2) := by
  refine .ite (fun e => .ok (eq_of_beq e ▸ h0)) fun n0 => .step fun _ => .ite (fun e => .ok (eq_of_beq e ▸ h1)) fun n1 => .ok ?_
  simp only [beq_iff_eq] at n0 n1
  exact ((len_cases h).resolve_left n0).resolve_left n1 ▸ h2

theorem decInt_len (h : f.len ≠ 3#2) : Gives (LenIs f.len) (decInt f) := by
  unfold decInt
  split
  any_goals exact gives_alu h fun _ _ _ => rfl
  any_goals exact OfLen.decDA.gives fun _ => .ok rfl
  · exact .step fun _ => .step fun _ => .step fun _ => .step fun _ => (decSrc2_len h).bind fun b hb =>
      .ok (congrArg some ((encAlu_len ..).trans hb))
  · exact OfLen.isLen.gives fun _ => .step fun _ => .step fun _ => .step fun _ => .step fun _ =>
      .ite (fun _ => .step fun _ => .ok rfl) fun _ => .step fun _ => .step fun _ => .ok rfl
  · refine OfLen.isLen.gives fun _ => ?_
    repeat refine .step fun _ => ?_
    exact .ok rfl
  · exact .step fun _ => .step fun _ => .step fun _ => .step fun d => .step fun a => decSelSrc_len.bind fun _ hb =>
      .step fun c => .ok (hb d a c)
  · exact .step fun _ => .step fun _ => .step fun _ => .step fun _ => gives_byLen h rfl rfl rfl
  · exact .step fun _ => .step fun _ => .step fun _ => .step fun _ =>
      .ite (fun _ => .step fun _ => gives_byLen h rfl rfl rfl) fun _ => OfLen.isLen.gives fun _ =>
        .step fun _ => .step fun _ => .ok rfl
  · exact .error

theorem decFp_len : Gives (LenIs f.len) (decFp f) := by
  unfold decFp
  split
  any_goals exact OfLen.decFp2.gives fun _ => .ok rfl
  any_goals exact OfLen.decFp1.gives fun _ => .ok rfl
  · exact OfLen.decFpHead.gives fun _ => .step fun _ => .step fun _ => .ok rfl
  · exact OfLen.decFpHead.gives fun _ => .step fun _ => .step fun _ => .ok rfl
  · refine OfLen.isLen.gives fun _ => ?_
    repeat refine .step fun _ => ?_
    exact .ok rfl
  · exact OfLen.decFpHead.gives fun _ => .step fun _ => .step fun _ => .ok rfl
  · exact .error

/-- A jump of 8 or 12 bytes (R302). -/
theorem gives_jump {c : Dec Unit} {i0 i1 : Instr} (h0 : LenIs 0#2 i0) (h1 : LenIs 1#2 i1) :
    Gives (LenIs f.len) (if f.len == 0#2 then .ok i0 else do isLen f 1#2; c; .ok i1) :=
  .ite (fun e => .ok (eq_of_beq e ▸ h0)) fun _ => OfLen.isLen.gives fun _ => .step fun _ => .ok h1

theorem decCtl_len (h : f.len ≠ 3#2) : Gives (LenIs f.len) (decCtl f) := by
  unfold decCtl
  split
  · refine OfLen.isLen.gives fun _ => ?_
    repeat refine .step fun _ => ?_
    exact .ok rfl
  · exact .step fun _ => gives_jump rfl rfl
  · exact .step fun _ => .step fun _ => .step fun _ => .step fun _ => gives_jump rfl rfl
  · exact OfLen.decDA.gives fun _ => .ok rfl
  · exact .step fun _ => .step fun _ => gives_byLen (c := .ok ()) h rfl rfl rfl
  · exact OfLen.isLen.gives fun _ => .step fun _ => .step fun _ => .ite (fun _ => .step fun _ => .ok rfl) fun _ =>
      .step fun _ => .step fun _ => .ok rfl
  · exact OfLen.isLen.gives fun _ => .step fun _ => .step fun _ => .ok rfl
  · exact .error

theorem decMem_len : Gives (LenIs f.len) (decMem f) := by
  unfold decMem
  split
  case h_14 =>
    refine .step fun _ => .step fun _ => .step fun _ => .step fun _ => .step fun _ => .step fun _ =>
      .ite (fun e => .ok (congrArg some (eq_of_beq e).symm)) fun _ => OfLen.isLen.gives fun _ => .ok rfl
  case h_15 => exact .error
  all_goals
    refine OfLen.isLen.gives fun _ => ?_
    repeat refine .step fun _ => ?_
    exact .ok rfl

/-! ## The vector class -/

/-- The length code of a vector's second source (R337). -/
def VSrc.len : VSrc → BitVec 2
  | .reg _ => 0#2
  | .imm _ => 1#2

theorem encVS_len (m : BitVec 8) (z : Bool) (t : ETy) (d a : BitVec 6) (b : VSrc) (k : KReg) (x : BitVec 27) :
    (encVS m z t d a b k x).len = b.len := by
  cases b <;> rfl

theorem decVSrc_len : Gives (fun b => b.len = f.len) (decVSrc f) := by
  unfold decVSrc
  exact .ite (fun e => .ok (eq_of_beq e).symm) fun _ => Gives.bind OfLen.isLen fun _ h1 => .step fun _ => .ok h1.symm

/-- An instruction with a second source has its length. -/
theorem gives_vsrc {k : VSrc → Instr} {m : BitVec 8} {z : Bool} {t : ETy} {d a : BitVec 6} {lm : KReg} {x : BitVec 27}
    (hk : ∀ b, encodeF (k b) = some (encVS m z t d a b lm x)) :
    Gives (LenIs f.len) (do let b ← decVSrc f; .ok (k b)) :=
  decVSrc_len.bind fun x hx => .ok (by rw [LenIs, hk, Option.map_some, encVS_len, hx])

theorem decVec_len : Gives (LenIs f.len) (decVec f) := by
  unfold decVec
  split
  any_goals exact .step fun _ => gives_vsrc fun _ => rfl
  case h_1 | h_2 | h_3 | h_4 =>
    refine OfLen.decVM.gives fun _ => ?_
    repeat refine .step fun _ => ?_
    exact .ok rfl
  case h_30 => exact .step fun _ => .step fun _ => .step fun _ => gives_vsrc fun _ => rfl
  case h_42 => exact .error
  all_goals
    refine OfLen.isLen.gives fun _ => ?_
    repeat refine .step fun _ => ?_
    exact .ok rfl

theorem decMask_len : Gives (LenIs f.len) (decMask f) := by
  unfold decMask
  refine OfLen.isLen.gives fun _ => .step fun _ => .step fun _ => .step fun _ => ?_
  split
  case h_8 => exact .error
  all_goals
    repeat refine .step fun _ => ?_
    exact .ok rfl

theorem decMatrix_len : Gives (LenIs f.len) (decMatrix f) := by
  unfold decMatrix
  split
  case h_9 => exact .error
  all_goals
    refine OfLen.isLen.gives fun _ => ?_
    repeat refine .step fun _ => ?_
    exact .ok rfl

theorem decThread_len : Gives (LenIs f.len) (decThread f) := by
  unfold decThread
  split
  any_goals exact OfLen.decAB64.gives fun _ => .ok rfl
  any_goals exact OfLen.decKA64.gives fun _ => .ok rfl
  any_goals exact OfLen.decA64.gives fun _ => .ok rfl
  any_goals exact OfLen.decBar.gives fun _ => .step fun _ => .ok rfl
  case h_7 | h_8 =>
    exact OfLen.isLen.gives fun _ => .step fun _ => .step fun _ => .step fun _ => .step fun _ =>
      .ite (fun _ => .step fun _ => .ok rfl) fun _ => .step fun _ => .step fun _ => .ok rfl
  case h_13 =>
    exact OfLen.isLen.gives fun _ => .step fun _ => .step fun _ => .step fun _ =>
      .ite (fun _ => .step fun _ => .step fun _ => .step fun _ => .step fun _ => .ok rfl) fun _ => .step fun _ => .ok rfl
  case h_16 => exact .error
  all_goals
    refine OfLen.isLen.gives fun _ => ?_
    repeat refine .step fun _ => ?_
    exact .ok rfl

theorem decCpy_len : Gives (LenIs f.len) (decCpy f) := by
  unfold decCpy
  refine OfLen.isLen.gives fun _ => .step fun _ => .step fun _ => .step fun _ => .step fun _ => .step fun _ => ?_
  split
  case h_7 => exact .error
  all_goals
    repeat refine .step fun _ => ?_
    exact .ok rfl

theorem decEng_len : Gives (LenIs f.len) (decEng f) := by
  unfold decEng
  split
  any_goals exact OfLen.decA64.gives fun _ => .ok rfl
  any_goals exact decCpy_len
  case h_1 | h_2 | h_4 =>
    refine OfLen.decEx.gives fun _ => ?_
    repeat refine .step fun _ => ?_
    exact .ok rfl
  case h_9 | h_12 =>
    refine OfLen.decEng64.gives fun _ => ?_
    repeat refine .step fun _ => ?_
    exact .ok rfl
  case h_13 =>
    exact OfLen.decEng64.gives fun _ => .ite (fun _ => .step fun _ => .step fun _ => .step fun _ => .ok rfl) fun _ =>
      .step fun _ => .step fun _ => .step fun _ => .step fun _ => .ok rfl
  case h_14 =>
    exact OfLen.decEng64.gives fun _ => .ite (fun _ => .step fun _ => .step fun _ => .ok rfl) fun _ =>
      .step fun _ => .step fun _ => .step fun _ => .step fun _ => .ok rfl
  case h_16 => exact .error
  all_goals
    refine OfLen.isLen.gives fun _ => ?_
    repeat refine .step fun _ => ?_
    exact .ok rfl

theorem swrOf_len (sys : BitVec 12) (a : Sc) : LenIs 0#2 (swrOf sys a) := by
  unfold swrOf
  split_ifs <;> rfl

theorem decSys_len : Gives (LenIs f.len) (decSys f) := by
  unfold decSys
  split
  case h_2 =>
    exact OfLen.isLen.gives fun _ => .step fun _ => .step fun _ => .ite (fun _ => .ok rfl) fun _ => .step fun _ => .ok rfl
  case h_5 =>
    exact OfLen.isLen.gives fun _ => .step fun _ => .step fun _ => .step fun _ => .step fun _ => .step fun a =>
      .ok (swrOf_len _ a)
  case h_8 => exact .error
  all_goals
    refine OfLen.isLen.gives fun _ => ?_
    repeat refine .step fun _ => ?_
    exact .ok rfl

theorem decClass_len (h : f.len ≠ 3#2) : Gives (LenIs f.len) (decClass f) :=
  .ite (fun _ => decInt_len h) fun _ => .ite (fun _ => decFp_len) fun _ => .ite (fun _ => decCtl_len h) fun _ =>
    .ite (fun _ => decMem_len) fun _ => .ite (fun _ => decVec_len) fun _ => .ite (fun _ => decMask_len) fun _ =>
    .ite (fun _ => decMatrix_len) fun _ => .ite (fun _ => decThread_len) fun _ => .ite (fun _ => decEng_len) fun _ =>
    decSys_len

end

/-- An instruction is as long as its word says, and its word is no reserved one (R81). -/
theorem decode_len {w : IWord} {i : Instr} (h : decode w = .ok i) :
    w.extractLsb' 0 2 ≠ 3#2 ∧ instrLen i = lenBytes (w.extractLsb' 0 2) := by
  unfold decode decodeF at h
  split at h
  · cases h
  · next h3 =>
    have hne : (Fields.unpack w).len ≠ 3#2 := fun e => h3 (beq_iff_eq.mpr e)
    refine ⟨hne, ?_⟩
    have hgives : Gives (LenIs (Fields.unpack w).len) (do
        let j ← decClass (Fields.unpack w)
        need j.wf .limits
        .ok j) := (decClass_len hne).bind fun _ hj => .need fun _ => .ok hj
    have hi : LenIs (Fields.unpack w).len i := hgives i h
    obtain ⟨f, hf, hlen⟩ := Option.map_eq_some_iff.mp hi
    rw [instrLen, hf]
    exact congrArg lenBytes hlen

end Sys2Proof
end

section
/-! The theorem that settles O49: a step runs the decoded instruction or the event whose turn it is (R34, R81, R82, R94,
R224, R238, R251). -/
namespace Sys2Proof.Machine

/-! ## What translation looks at (R128 to R135) -/

/-- Two states that translate addresses alike. -/
structure SameMaps (s t : State) : Prop where
  pkgs : t.pkgs = s.pkgs
  dies : t.dies = s.dies
  parts : t.parts = s.parts
  quads : t.quads = s.quads
  bytes : ∀ pa, t.byteAt pa = s.byteAt pa
  tlb : ∀ c, (t.coreAt c).tlb = (s.coreAt c).tlb
  csplit : ∀ c, (t.coreAt c).csplit = (s.coreAt c).csplit

namespace SameMaps

variable {s t : State} (h : SameMaps s t)
include h

theorem dieAt (d : Nat) : t.dieAt d = s.dieAt d := by simp only [State.dieAt, h.dies]
theorem pkgAt (p : Nat) : t.pkgAt p = s.pkgAt p := by simp only [State.pkgAt, h.pkgs]
theorem partAt (p : Nat) : t.partAt p = s.partAt p := by simp only [State.partAt, h.parts]
theorem quadAt (q : Nat) : t.quadAt q = s.quadAt q := by simp only [State.quadAt, h.quads]

theorem mappable (pa : Nat) : t.mappable pa = s.mappable pa := by
  simp only [State.mappable, h.pkgAt, h.csplit]

theorem forwardPa (pa : Nat) : t.forwardPa pa = s.forwardPa pa := by
  simp only [State.forwardPa, h.dieAt]

theorem tableEntry (table idx : Nat) : t.tableEntry table idx = s.tableEntry table idx := by
  simp only [State.tableEntry, h.forwardPa, State.readN_congr h.bytes]

theorem walkFrom (v n level table : Nat) : t.walkFrom v n level table = s.walkFrom v n level table := by
  induction n generalizing level table with
  | zero => rfl
  | succ n ih => simp only [State.walkFrom, h.tableEntry, h.mappable, h.forwardPa, ih]

theorem leafFor (c v : Nat) : t.leafFor c v = s.leafFor c v := by
  have hroot : t.rootOf c = s.rootOf c := by
    simp only [State.rootOf, State.partOfCore, State.partOfDie, h.dieAt, h.partAt]
  simp only [State.leafFor, hroot, h.tlb, h.quadAt, h.mappable, h.forwardPa, State.walk, h.dieAt, h.walkFrom]

theorem translate (c : Nat) (m : Mode) (x : Access) (va : Word) : t.translate c m x va = s.translate c m x va := by
  simp only [State.translate, h.leafFor, State.checkLeaf, h.forwardPa, h.mappable]

end SameMaps

/-! ## The issue cycle of a core (R34, R251) -/

/-- The state once a core and those below it in its quad have had their issue cycle. -/
def State.played (s : State) (core : Nat) : State :=
  (lowerCores core ++ [core]).foldl (fun s c => s.updCore c (fun x => { x with playedAt := some s.cycle })) s

/-- Nothing but the mark of the issue cycle has changed. -/
theorem State.played_frame (s : State) (core : Nat) :
    ∃ cores, s.played core = { s with cores := cores } ∧
      ∀ c, ∃ p, (s.played core).coreAt c = { s.coreAt c with playedAt := p } := by
  unfold State.played
  generalize lowerCores core ++ [core] = l
  induction l generalizing s with
  | nil => exact ⟨_, rfl, fun c => ⟨_, rfl⟩⟩
  | cons a l ih =>
    obtain ⟨cores, he, hc⟩ := ih (s.updCore a (fun x => { x with playedAt := some s.cycle }))
    refine ⟨cores, he, fun c => ?_⟩
    obtain ⟨p, hp⟩ := hc c
    rw [List.foldl_cons, hp, State.coreAt_updCore]
    split <;> exact ⟨_, rfl⟩

/-- The state in which the thread picked issues. -/
def State.issuing (s : State) (core tid : Nat) : State := { s.played core with cur := tid }

section

variable (s : State) (core tid : Nat)

theorem State.issuing_thread (k : Nat) : (s.issuing core tid).thread? k = s.thread? k := by
  obtain ⟨_, h, _⟩ := s.played_frame core
  simp only [State.issuing, h, State.thread?]

theorem State.issuing_sameMaps : SameMaps s (s.issuing core tid) := by
  obtain ⟨_, h, hc⟩ := s.played_frame core
  have hcore (c : Nat) : ∃ p, (s.issuing core tid).coreAt c = { s.coreAt c with playedAt := p } := hc c
  refine ⟨by simp only [State.issuing, h], by simp only [State.issuing, h], by simp only [State.issuing, h],
    by simp only [State.issuing, h], fun pa => by simp only [State.issuing, h, State.byteAt], fun c => ?_, fun c => ?_⟩
  · obtain ⟨_, hp⟩ := hcore c
    rw [hp]
  · obtain ⟨_, hp⟩ := hcore c
    rw [hp]

theorem State.issuing_icache (c : Nat) : ((s.issuing core tid).coreAt c).icache = (s.coreAt c).icache := by
  obtain ⟨_, _, hc⟩ := s.played_frame core
  obtain ⟨_, hp⟩ := hc c
  show ((s.played core).coreAt c).icache = _
  rw [hp]

end

/-- A thread whose work goes on is not ended (R191). -/
theorem State.mustEnd_false {s : State} {t : Thread} (h : t.ex.toNat % 4096 = 0 ∨ t.trapent = true) :
    s.mustEnd t = false := by
  rcases h with h | h
  · simp [State.mustEnd, State.tagLive, tagIndex, h]
  · simp [State.mustEnd, h]

/-- The thread that a core's issue cycle picks presents its instruction. -/
theorem State.play_issue {s : State} {core tid : Nat} (hp : (s.coreAt core).playedAt ≠ some s.cycle)
    (hl : ∀ c ∈ lowerCores core, s.mayIssue c = false) (hpick : (s.played core).pick core = some tid) :
    Turn.play s (.issue core) = (s.issuing core tid).present tid := by
  have hlow : (lowerCores core).find? (fun c => s.mayIssue c) = none :=
    List.find?_eq_none.mpr fun c hc => by simp [hl c hc]
  have hcore : s.issueCore core = (s.issuing core tid).present tid := by
    unfold State.issueCore
    rw [if_neg (by simpa using hp)]
    show (match (s.played core).pick core with
      | none => (none, s.played core)
      | some tid => State.present { s.played core with cur := tid } tid) = _
    rw [hpick]
    rfl
  show s.issueTurn core = _
  unfold State.issueTurn
  rw [hlow]
  exact hcore

theorem State.present_held {s : State} {tid : Nat} {t : Thread} {i : Instr} {b : Bool} (ht : s.thread? tid = some t)
    (he : s.mustEnd t = false) (hh : t.hold = some { what := .instr i, fromLatch := b }) : s.present tid = (some i, s) := by
  simp [State.present, ht, he, hh]

theorem State.present_fetched {s s1 : State} {tid : Nat} {t : Thread} {i : Instr} (ht : s.thread? tid = some t)
    (he : s.mustEnd t = false) (hh : t.hold = none) (hf : s.fetch tid = (s1, .instr i)) :
    s.present tid = (some i, s1) := by
  simp [State.present, ht, he, hh, hf]

/-! ## Fetching (R82, R94, R238) -/

/-- Fewer bytes touch no more granules. -/
theorem State.poisoned_mono {s : State} {pa n m : Nat} (h : s.poisoned pa m = false) (hn : n ≤ m) : s.poisoned pa n = false := by
  simp only [State.poisoned, List.any_eq_false] at h ⊢
  refine fun g hg => h g ?_
  simp only [granules, List.mem_map, List.mem_range] at hg ⊢
  obtain ⟨j, hj, rfl⟩ := hg
  refine ⟨j, hj.trans_le (Nat.div_le_div_right ?_), rfl⟩
  omega

/-- The bytes of an instruction in the block that a fetch reads. -/
theorem State.fetched_word (s : State) (pa : Nat) (h : pa % 32 + 16 ≤ 32) :
    (((BitVec.ofNat 512 (s.readN (pa / 64 * 64) 64)).extractLsb' (pa % 64 / 32 * 256) 256) >>> (8 * (pa % 32))).setWidth 128 =
      BitVec.ofNat 128 (s.readN pa 16) := by
  have hfield := s.readN_field (pa / 64 * 64) (pa % 64) 16 64 (by omega)
  rw [show pa / 64 * 64 + pa % 64 = pa by omega] at hfield
  rw [← hfield]
  refine BitVec.eq_of_getLsbD_eq fun i hi => ?_
  have hpos : pa % 64 / 32 * 256 + (8 * (pa % 32) + i) = i + 8 * (pa % 64) := by omega
  have hin : 8 * (pa % 32) + i < 256 := by omega
  have hin' : pa % 64 / 32 * 256 + (8 * (pa % 32) + i) < 512 := by omega
  simp only [BitVec.getLsbD_setWidth, BitVec.getLsbD_ushiftRight, BitVec.getLsbD_extractLsb', BitVec.getLsbD_ofNat,
    Nat.testBit_mod_two_pow, Nat.testBit_div_two_pow, hi, hin, hin', decide_true, Bool.true_and]
  rw [hpos]

/-- Nothing that was read earlier stands over a block. -/
theorem overlayAhead_nil (fresh : List Nat) (pa : Nat) (b : BitVec 256) : overlayAhead [] fresh pa b = b := by
  simp [overlayAhead]

theorem lenBytes_le (len : BitVec 2) : lenBytes len ≤ 16 := by
  unfold lenBytes
  split_ifs <;> omega

theorem fetchLen_le (b : BitVec 256) (o : Nat) : fetchLen b o ≤ 16 := by
  refine (Nat.min_le_right _ _).trans ?_
  split
  · omega
  · exact lenBytes_le _

/-! ## The length of a pattern (R81, R82) -/

section

variable {b : BitVec 256} {pc : Word}

/-- The pattern that starts at the pc's byte of a block. -/
def patternAt (b : BitVec 256) (pc : Word) : IWord := (b >>> (8 * (pc.toNat % 32))).setWidth 128

theorem parseBlock_reserved (h : (patternAt b pc).extractLsb' 0 2 = 3#2) :
    parseBlock b pc = .bad (mkTrap 0x02 0 0) (some (.bad 0x02 Config.reservedLength)) :=
  if_pos (beq_iff_eq.mpr h)

theorem parseBlock_passes (h : (patternAt b pc).extractLsb' 0 2 ≠ 3#2)
    (hn : 32 < pc.toNat % 32 + lenBytes ((patternAt b pc).extractLsb' 0 2)) :
    parseBlock b pc = .bad (mkTrap 0x03 0 0) (some (.bad 0x03 (lenBytes ((patternAt b pc).extractLsb' 0 2)))) :=
  (if_neg fun e => h (beq_iff_eq.mp e)).trans (if_pos hn)

theorem parseBlock_instr {i : Instr} (hd : decode (patternAt b pc) = .ok i)
    (hn : pc.toNat % 32 + lenBytes ((patternAt b pc).extractLsb' 0 2) ≤ 32) : parseBlock b pc = .instr i := by
  obtain ⟨h3, _⟩ := decode_len hd
  refine (if_neg fun e => h3 (beq_iff_eq.mp e)).trans ((if_neg (Nat.not_lt.mpr hn)).trans ?_)
  show (match decode (patternAt b pc) with
    | .ok i => Fetched.instr i
    | .error .illegalLength => _
    | .error (.illegal _) => _) = _
  rw [hd]

end

/-- A thread that fetches what its core does not hold yet. -/
theorem State.fetch_instr {s : State} {tid : Nat} {t : Thread} {p : Phys} {i : Instr} (ht : s.thread? tid = some t)
    (hbuf : t.fbuf = []) (hah : t.ahead = []) (hc : mapGet (s.coreAt (coreOfTid tid)).icache (p.pa / 64) = none)
    (htr : s.translate (coreOfTid tid) t.mode fetchA t.pc = .ok p) (hal : p.pa % 32 = t.pc.toNat % 32)
    (hpo : s.poisoned p.pa 16 = false) (h16 : t.pc.toNat % 32 + 16 ≤ 32)
    (hdec : decode (BitVec.ofNat 128 (s.readN p.pa 16)) = .ok i) :
    ∃ s1, s.fetch tid = (s1, .instr i) ∧ s1.cur = s.cur ∧ s1.mem = s.mem ∧ s1.slice = s.slice ∧ s1.cycle = s.cycle ∧
      s1.thread? tid = some { t with fresh := [], fbuf := [(p.pa / 32,
        (BitVec.ofNat 512 (s.readN (p.pa / 64 * 64) 64)).extractLsb' (p.pa % 64 / 32 * 256) 256)] } := by
  have hword : patternAt ((BitVec.ofNat 512 (s.readN (p.pa / 64 * 64) 64)).extractLsb' (p.pa % 64 / 32 * 256) 256) t.pc =
      BitVec.ofNat 128 (s.readN p.pa 16) := by
    rw [patternAt, ← hal]
    exact s.fetched_word p.pa (by omega)
  generalize hb : (BitVec.ofNat 512 (s.readN (p.pa / 64 * 64) 64)).extractLsb' (p.pa % 64 / 32 * 256) 256 = b at hword ⊢
  have hparse : parseBlock b t.pc = .instr i := by
    have hle := lenBytes_le ((patternAt b t.pc).extractLsb' 0 2)
    exact parseBlock_instr (hword ▸ hdec) (by omega)
  have hblock : ∃ s1, s.codeBlock tid p.pa = (s1, b) ∧ s1.cur = s.cur ∧ s1.mem = s.mem ∧ s1.slice = s.slice ∧
      s1.cycle = s.cycle ∧ s1.thread? tid = some { t with fresh := [], fbuf := [(p.pa / 32, b)] } := by
    obtain ⟨f, hline⟩ : ∃ f, s.codeLine (coreOfTid tid) (p.pa / 64) =
        (s.updCore (coreOfTid tid) f, s.homeLine (p.pa / 64)) := ⟨_, by unfold State.codeLine; rw [hc]⟩
    refine ⟨(s.updCore (coreOfTid tid) f).setThread tid { t with fbuf := [(p.pa / 32, b)], fresh := [] }, ?_, ?_⟩
    · simp [State.codeBlock, ht, hbuf, hah, hline, overlayAhead_nil, State.homeLine, hb, State.updThread]
    · simp
  obtain ⟨s1, hblock, hframe⟩ := hblock
  refine ⟨s1, ?_, hframe⟩
  unfold State.fetch
  simp [ht, htr, State.poisoned_mono hpo (show 1 ≤ 16 by omega), hblock, State.poisoned_mono hpo (fetchLen_le b _), hparse]

/-! ## The end of a cycle -/

namespace Served

variable {r s : State}

theorem settleEvents (h : Served r s) {qn : Nat} : Served r (s.settleEvents qn) := h.ite h.updQuad

theorem examineC (h : Served r s) {core : Nat} : Served r (s.examineC core) := h.foldl fun _ _ hu => hu.examine

theorem evictLine (h : Served r s) {die line : Nat} : Served r (s.evictLine die line) := by
  unfold State.evictLine
  split
  · next e => exact h.linesWait e
  · exact h.cleanHome.dropVisitor

theorem trimSlice (h : Served r s) {core : Nat} : Served r (s.trimSlice core) :=
  h.ite ((h.foldl fun _ _ hu => hu.evictLine).foldl fun _ _ hu => hu.cleanSlice.dropSlice)

end Served

/-- A cycle ends: the time goes on by one, and the turns stay. -/
theorem State.tick_frame (s : State) : s.tick.cycle = s.cycle + 1 ∧ s.tick.turns = s.turns := by
  have h1 : Served s (s.quads.foldl (fun s e => s.settleEvents e.1) s) :=
    (Served.refl s).foldl fun _ _ hu => hu.settleEvents
  unfold State.tick
  generalize s.quads.foldl (fun s e => s.settleEvents e.1) s = s1 at h1
  dsimp only
  generalize hs2 : State.mk (s1.cycle + 1) .. = s2
  have hall (l : List (Nat × Core)) (l' : List Nat) :
      Served s2 (l'.foldl (fun s c => s.trimSlice c) (l.foldl (fun s e => s.examineC e.1) s2)) :=
    ((Served.refl s2).foldl fun _ _ hu => hu.examineC).foldl fun _ _ hu => hu.trimSlice
  rw [(hall _ _).cycle, (hall _ _).turns, ← hs2]
  exact ⟨congrArg (· + 1) h1.cycle, h1.turns⟩

/-- An instruction of the class of events has no word. -/
theorem isEvent_of_cls {i : Instr} (h : i.cls = .event) : isEvent i = true := by
  unfold Instr.cls at h
  split at h
  · next e => exact Option.isNone_iff_eq_none.mpr e
  · next f _ =>
    generalize f.major.toNat = m at h
    dsimp only at h
    repeat' split at h
    all_goals cases h

/-- Settles O49: what the turn chosen plays, and the length of a fetched pattern. -/
theorem stepRunsInstruction : Obligations.StepRunsInstruction := by
  unfold Obligations.StepRunsInstruction
  refine ⟨⟨fun s rest core tid t i hturn hplayed => ?_, fun s rest i hturn hi => ?_, fun s rest n hturn => ?_⟩,
    fun b pc => ?_⟩
  · intro s0 s1 hlow hpick ht hex s2
    have hplay : s.plan = (s0.issuing core tid).present tid := by
      rw [State.plan, hturn]
      exact State.play_issue hplayed hlow hpick
    have hs2 : s2 = s0.issuing core tid := rfl
    have ht2 : s2.thread? tid = some t := hs2 ▸ (s0.issuing_thread core tid tid).trans ht
    have hend : s2.mustEnd t = false := State.mustEnd_false hex
    clear_value s2
    refine ⟨fun b hh => ?_, fun p hh hbuf hah hcore hc htr hal hpo h16 hdec => ?_⟩
    · rw [step, hplay, ← hs2, State.present_held ht2 hend hh]
    · have hmaps : SameMaps s s2 := by
        obtain ⟨hp, hd, hpt, hq, hb, hl, hcs⟩ := s0.issuing_sameMaps core tid
        rw [hs2]
        exact ⟨hp, hd, hpt, hq, hb, hl, hcs⟩
      obtain ⟨hmem, hslice, hcyc, hpois, hcur⟩ : s2.mem = s.mem ∧ s2.slice = s.slice ∧ s2.cycle = s.cycle ∧
          s2.poison = s.poison ∧ s2.cur = tid := by
        obtain ⟨_, he, _⟩ := s0.played_frame core
        rw [hs2, State.issuing, he]
        exact ⟨rfl, rfl, rfl, rfl, rfl⟩
      have hread (pa n : Nat) : s2.readN pa n = s.readN pa n := State.readN_congr hmaps.bytes pa n
      have hicache : mapGet (s2.coreAt core).icache (p.pa / 64) = none := by
        rw [hs2, State.issuing_icache]
        exact hc
      have hpo2 : s2.poisoned p.pa 16 = false := by
        rw [State.poisoned, hpois]
        exact hpo
      have hdec2 : decode (BitVec.ofNat 128 (s2.readN p.pa 16)) = .ok i := by
        rw [hread]
        exact hdec
      rw [← hcore] at hicache htr
      obtain ⟨u, hf, hu⟩ := State.fetch_instr (tid := tid) ht2 hbuf hah hicache ((hmaps.translate ..).trans htr) hal
        hpo2 h16 hdec2
      refine ⟨u, ?_, ?_⟩
      · rw [step, hplay, ← hs2, State.present_fetched ht2 hend hh hf]
      · simpa only [hcur, hmem, hslice, hcyc, hread] using hu
  · rw [step, State.plan, hturn]
    show (match (if isEvent i then some i else none, _) with
      | (some i, s1) => exec i s1
      | (none, s1) => .next s1) = _
    rw [isEvent_of_cls hi]
    rfl
  · intro s0
    have hplan : s.plan = s0.pass (n + 1) := by
      rw [State.plan, hturn]
      rfl
    have hs : ({ s0 with turns := .tick (n + 1) :: s0.turns } : State) = s := by
      rw [show s0.turns = rest from rfl, ← hturn]
    refine ⟨fun i hi => ?_, fun hi hc => ?_⟩
    · rw [step, hplan, State.pass]
      simp [hi, hs]
    · obtain ⟨hcyc, hturns⟩ := State.tick_frame (if n = 0 then s0 else { s0 with turns := .tick n :: rest })
      refine ⟨_, ?_, hcyc.trans ?_, hturns.trans ?_⟩
      · rw [step, hplan, State.pass]
        simp [hi, hc, s0]
      · split <;> rfl
      · split <;> rfl
  · intro w
    refine ⟨fun h3 => ⟨_, parseBlock_reserved h3⟩, fun n hlen => ?_⟩
    obtain ⟨h3, hn⟩ : w.extractLsb' 0 2 ≠ 3#2 ∧ lenBytes (w.extractLsb' 0 2) = n := by
      rcases hlen with ⟨hl, rfl⟩ | ⟨hl, rfl⟩ | ⟨hl, rfl⟩ <;> rw [hl] <;> decide
    subst hn
    refine ⟨fun h => ⟨_, parseBlock_passes h3 h⟩, fun h i hd => ⟨parseBlock_instr hd h, ?_⟩⟩
    obtain ⟨_, hi⟩ := decode_len hd
    exact hi

end Sys2Proof.Machine
end

section
/-! SUPPORT. Shared registers as their writes land (R42), and the bytes that a write at a local store leaves (R3, R129,
R150). -/
namespace Sys2Proof.Machine

/-! ## Writes to shared registers (R42) -/

/-- A write that lands in a core's registers. -/
def Core.land (c : Core) (w : CWrite) : Core := match w.v with
  | some v => { c with c := c.c.set w.n v, cFull := setBit c.cFull w.n.val, cPoison := clrBit c.cPoison w.n.val }
  | none => { c with cFull := clrBit c.cFull w.n.val }

theorem State.landC_coreAt (s : State) (core : Nat) : (s.landC core).coreAt core =
    ((s.coreAt core).cWrites.filter (landed s.cycle)).foldl Core.land
      { s.coreAt core with cWrites := (s.coreAt core).cWrites.filter (fun w => !landed s.cycle w) } :=
  State.coreAt_updCore_self ..

section

variable (c : Core) (w : CWrite)

theorem Core.land_cWrites : (c.land w).cWrites = c.cWrites := by
  unfold Core.land
  split <;> rfl

theorem Core.land_self : (c.land w).c.get w.n = w.v.getD (c.c.get w.n) ∧ (c.land w).cFull.getLsbD w.n.val = w.v.isSome ∧
    (c.land w).cPoison.getLsbD w.n.val = (c.cPoison.getLsbD w.n.val && !w.v.isSome) := by
  unfold Core.land
  cases w.v with
  | none => exact ⟨rfl, getLsbD_clrBit_self .., (Bool.and_true _).symm⟩
  | some v =>
    refine ⟨Vector.getElem_set_self w.n.isLt, getLsbD_setBit_self _ w.n.isLt, ?_⟩
    rw [Option.isSome_some, Bool.not_true, Bool.and_false]
    exact getLsbD_clrBit_self ..

theorem Core.land_ne {n : Fin 16} (h : w.n ≠ n) : (c.land w).c.get n = c.c.get n ∧
    (c.land w).cFull.getLsbD n.val = c.cFull.getLsbD n.val ∧
    (c.land w).cPoison.getLsbD n.val = c.cPoison.getLsbD n.val := by
  have hv : w.n.val ≠ n.val := fun e => h (Fin.ext e)
  unfold Core.land
  cases w.v with
  | none => exact ⟨rfl, getLsbD_clrBit_ne _ hv, rfl⟩
  | some v => exact ⟨Vector.getElem_set_ne w.n.isLt n.isLt hv, getLsbD_setBit_ne _ hv, getLsbD_clrBit_ne _ hv⟩

end

/-- What writes leave in a register, each in turn. -/
theorem Core.land_foldl (l : List CWrite) (c : Core) (n : Fin 16) :
    (l.foldl Core.land c).cWrites = c.cWrites ∧
      (l.foldl Core.land c).c.get n = (l.filter (fun w => w.n == n)).foldl (fun v w => w.v.getD v) (c.c.get n) ∧
      (l.foldl Core.land c).cFull.getLsbD n.val =
        (l.filter (fun w => w.n == n)).foldl (fun _ w => w.v.isSome) (c.cFull.getLsbD n.val) ∧
      (l.foldl Core.land c).cPoison.getLsbD n.val =
        (c.cPoison.getLsbD n.val && !l.any (fun w => w.n == n && w.v.isSome)) := by
  induction l generalizing c with
  | nil => simp
  | cons w l ih =>
    obtain ⟨hw, hv, hf, hp⟩ := ih (c.land w)
    simp only [List.foldl_cons, hw, hv, hf, hp, Core.land_cWrites]
    by_cases h : w.n = n
    · subst h
      obtain ⟨hc, hfull, hpois⟩ := c.land_self w
      rw [hc, hfull, hpois]
      simp [-BitVec.getLsbD_eq_getElem, Bool.and_assoc]
    · obtain ⟨hc, hfull, hpois⟩ := c.land_ne w h
      have hb : (w.n == n) = false := beq_false_of_ne h
      rw [hc, hfull, hpois]
      simp [-BitVec.getLsbD_eq_getElem, hb]

/-- The registers once what has landed is put into them. -/
theorem State.landC_registers (s : State) (core : Nat) :
    (∀ w ∈ ((s.landC core).coreAt core).cWrites, s.cycle < w.issued + 8) ∧
      ∀ n : Fin 16, ((s.landC core).coreAt core).c.get n = s.cVal core n ∧
        ((s.landC core).coreAt core).cFull.getLsbD n.val = s.cFull core n ∧
        ((s.landC core).coreAt core).cPoison.getLsbD n.val = s.cPois core n := by
  rw [State.landC_coreAt]
  refine ⟨fun w hw => ?_, fun n => ?_⟩
  · obtain ⟨hl, _⟩ := Core.land_foldl ((s.coreAt core).cWrites.filter (landed s.cycle))
      { s.coreAt core with cWrites := (s.coreAt core).cWrites.filter (fun w => !landed s.cycle w) } 0
    rw [hl] at hw
    simpa [landed] using (List.mem_filter.mp hw).2
  · obtain ⟨_, hv, hf, hp⟩ := Core.land_foldl ((s.coreAt core).cWrites.filter (landed s.cycle))
      { s.coreAt core with cWrites := (s.coreAt core).cWrites.filter (fun w => !landed s.cycle w) } n
    rw [List.filter_filter] at hv hf
    refine ⟨hv, hf, hp.trans ?_⟩
    simp only [State.cPois, List.any_filter, Bool.and_comm]

/-! ## Bytes in a local store (R3, R129, R150) -/

/-- HBM lies below the local stores of its package (R129). -/
theorem isHbm_low {pa : Nat} (h : isHbm pa = true) : pa % 2 ^ 45 < 2 ^ 40 := by
  by_contra hlow
  unfold isHbm placeOf at h
  dsimp only at h
  rw [if_neg hlow] at h
  generalize pa % 2 ^ 45 = la at h
  split at h
  · next he =>
    split at he
    · split at he <;> cases he
    · split at he
      · split at he <;> cases he
      · split at he <;> cases he
  · cases h

/-- A local store and what stands past it are outside HBM. -/
theorem isHbm_lsBase (core : Nat) {o : Nat} (h : o < 2 ^ 20) : isHbm (lsBase core + o) = false := by
  rw [Bool.eq_false_iff]
  intro hh
  have hlow := isHbm_low hh
  unfold lsBase at hlow
  omega

/-- A state whose bytes, tags, seam fields and poison alone differ. -/
def BytesOnly (r s : State) : Prop :=
  ∃ mem tags seams poison, s = { r with mem := mem, tags := tags, seams := seams, poison := poison }

theorem BytesOnly.refl (s : State) : BytesOnly s s := ⟨_, _, _, _, rfl⟩

theorem BytesOnly.trans {r s t : State} (h : BytesOnly r s) (g : BytesOnly s t) : BytesOnly r t := by
  obtain ⟨_, _, _, _, rfl⟩ := h
  obtain ⟨mem, tags, seams, poison, rfl⟩ := g
  exact ⟨mem, tags, seams, poison, rfl⟩

theorem BytesOnly.retry {r s : State} (h : BytesOnly r s) : s.retry = r.retry := by obtain ⟨_, _, _, _, rfl⟩ := h; rfl
theorem BytesOnly.slice {r s : State} (h : BytesOnly r s) : s.slice = r.slice := by obtain ⟨_, _, _, _, rfl⟩ := h; rfl
theorem BytesOnly.coreAt {r s : State} (h : BytesOnly r s) (c : Nat) : s.coreAt c = r.coreAt c := by
  obtain ⟨_, _, _, _, rfl⟩ := h; rfl

theorem BytesOnly.setTag (s : State) (pa : Nat) (full : Bool) : BytesOnly s (s.setTag pa full) := ⟨_, _, _, _, rfl⟩

/-- The home slices hold bytes of HBM only (R150). -/
def State.SliceHbm (s : State) : Prop := ∀ c ∈ s.slice, isHbm c.1 = true

theorem BytesOnly.sliceHbm {r s : State} (h : BytesOnly r s) (hr : r.SliceHbm) : s.SliceHbm := by
  rw [State.SliceHbm, h.slice]
  exact hr

/-- Outside HBM a byte is what memory holds. -/
theorem State.byteAt_mem {s : State} (h : s.SliceHbm) {pa : Nat} (hp : isHbm pa = false) : s.byteAt pa = Memory.read s.mem pa := by
  have hn : mapGet s.slice pa = none := by
    cases hg : mapGet s.slice pa with
    | none => rfl
    | some b => exact absurd (h (pa, b) (mem_of_mapGet hg)) (by simp [hp])
  simp only [State.byteAt, hn]

section

variable {s : State} {pa : Nat}

theorem State.setByte_stored (hp : isHbm pa = false) (b : Byte) : BytesOnly s (s.setByte pa b) := by
  rw [State.setByte, hp]
  exact ⟨_, _, _, _, rfl⟩

theorem State.byteAt_setByte (hs : s.SliceHbm) (hp : isHbm pa = false) (b : Byte) (q : Nat) :
    (s.setByte pa b).byteAt q = if q = pa then b else s.byteAt q := by
  split
  · next h =>
    subst h
    rw [State.byteAt_mem ((State.setByte_stored hp b).sliceHbm hs) hp, State.setByte, hp]
    exact Memory.read_write_self ..
  · next h =>
    rw [State.setByte, hp]
    simp only [State.byteAt, Bool.false_eq_true, if_false, Memory.read_write_ne b (Ne.symm h)]

theorem State.setBytes_stored {n : Nat} (hp : ∀ j < n, isHbm (pa + j) = false) (v : Nat) : BytesOnly s (s.setBytes pa n v) := by
  induction n generalizing s pa v with
  | zero => exact .refl s
  | succ n ih =>
    have h0 := hp 0 (by omega)
    exact (State.setByte_stored h0 _).trans (ih (fun j hj => by rw [Nat.add_assoc, Nat.add_comm 1]; exact hp (j + 1) (by omega)) _)

/-- Bytes elsewhere stay. -/
theorem State.byteAt_setBytes_ne {n : Nat} (hs : s.SliceHbm) (hp : ∀ j < n, isHbm (pa + j) = false) (v : Nat) {q : Nat}
    (hq : q < pa ∨ pa + n ≤ q) : (s.setBytes pa n v).byteAt q = s.byteAt q := by
  induction n generalizing s pa v with
  | zero => rfl
  | succ n ih =>
    have h0 := hp 0 (by omega)
    have hrest := ih (s := s.setByte pa (BitVec.ofNat 8 v)) (pa := pa + 1) ((State.setByte_stored h0 _).sliceHbm hs)
      (fun j hj => by rw [Nat.add_assoc, Nat.add_comm 1]; exact hp (j + 1) (by omega)) (v / 256) (by omega)
    exact hrest.trans ((State.byteAt_setByte hs h0 _ q).trans (if_neg (by omega)))

/-- Bytes written are read back. -/
theorem State.readN_setBytes {n : Nat} (hs : s.SliceHbm) (hp : ∀ j < n, isHbm (pa + j) = false) (v : Nat) :
    (s.setBytes pa n v).readN pa n = v % 2 ^ (8 * n) := by
  induction n generalizing s pa v with
  | zero => simp [State.readN, Nat.mod_one]
  | succ n ih =>
    have h0 : isHbm pa = false := hp 0 (by omega)
    have hs1 := (State.setByte_stored (s := s) h0 (BitVec.ofNat 8 v)).sliceHbm hs
    have hp1 (j : Nat) (hj : j < n) : isHbm (pa + 1 + j) = false := by
      rw [Nat.add_assoc, Nat.add_comm 1]; exact hp (j + 1) (by omega)
    rw [State.setBytes, State.readN, ih hs1 hp1, State.byteAt_setBytes_ne hs1 hp1 _ (.inl (by omega)),
      State.byteAt_setByte hs h0, if_pos rfl, BitVec.toNat_ofNat, show 8 * (n + 1) = 8 + 8 * n by omega, Nat.pow_add,
      Nat.mod_mul]

end

/-- Bytes that are the same are read the same. -/
theorem State.readN_eq {s t : State} {pa n : Nat} (h : ∀ j < n, t.byteAt (pa + j) = s.byteAt (pa + j)) :
    t.readN pa n = s.readN pa n := by
  induction n generalizing pa with
  | zero => rfl
  | succ n ih =>
    have h0 := h 0 (by omega)
    rw [State.readN, State.readN, ih fun j hj => by rw [Nat.add_assoc, Nat.add_comm 1]; exact h (j + 1) (by omega)]
    rw [Nat.add_zero] at h0
    rw [h0]

section

variable {s : State} {pa n : Nat} (hs : s.SliceHbm) (hp : ∀ j < n, isHbm (pa + j) = false) (hn : n ≠ 0)
include hp hn

theorem State.homeWrite_stored (v : Nat) : BytesOnly s (s.homeWrite pa n v) := by
  have h := State.setBytes_stored (s := s) hp v
  rw [State.homeWrite, if_neg (by simpa using hn)]
  exact h.trans ⟨_, _, _, _, rfl⟩

include hs

theorem State.byteAt_homeWrite_ne (v : Nat) {q : Nat} (hq : q < pa ∨ pa + n ≤ q) :
    (s.homeWrite pa n v).byteAt q = s.byteAt q := by
  rw [State.homeWrite, if_neg (by simpa using hn)]
  exact State.byteAt_setBytes_ne hs hp v hq

theorem State.readN_homeWrite (v : Nat) : (s.homeWrite pa n v).readN pa n = v % 2 ^ (8 * n) := by
  rw [State.homeWrite, if_neg (by simpa using hn)]
  exact (State.readN_congr (s := s.setBytes pa n v) (t := (s.setBytes pa n v).wrote pa n) (fun _ => rfl) pa n).trans (State.readN_setBytes hs hp v)

end

/-! ## Tags of words (R136) -/

theorem mem_setIns (l : List Nat) (n k : Nat) : k ∈ setIns l n ↔ k = n ∨ k ∈ l := by
  induction l with
  | nil => simp [setIns]
  | cons a l ih =>
    unfold setIns
    split
    · simp
    · split
      · next h =>
        obtain rfl : a = n := by simpa using h
        simp
      · rw [List.mem_cons, ih, List.mem_cons, or_left_comm]

theorem State.tagAt_setTag (s : State) (pa q : Nat) (full : Bool) :
    (s.setTag pa full).tagAt q = if q / 8 = pa / 8 then full else s.tagAt q := by
  rw [State.tagAt, State.setTag, State.tagAt, Bool.eq_iff_iff, List.contains_iff_mem]
  cases full with
  | true =>
    rw [if_pos rfl, mem_setIns]
    by_cases h : q / 8 = pa / 8 <;> simp [h]
  | false =>
    rw [if_neg Bool.false_ne_true, setDel, List.mem_filter]
    by_cases h : q / 8 = pa / 8 <;> simp [h]

end Sys2Proof.Machine
end

section
/-! SUPPORT. An entry written in the message queue of a core (R40, R41), and what an answer leaves with a thread (R48,
R202). -/
namespace Sys2Proof.Machine

/-! ## The words of an entry (R40, R41) -/

/-- The words written one after another, each with its number. -/
def State.putWords (s : State) (b : Nat) (l : List (Nat × Nat)) : State :=
  l.foldl (fun s e => s.homeWrite (b + 8 * e.2) 8 e.1) s

/-- Words of different numbers are read back, and bytes elsewhere stay. -/
theorem State.putWords_reads {b : Nat} (hb : ∀ o < 48, isHbm (b + o) = false) {l : List (Nat × Nat)}
    (hl : (l.map (fun e => e.2)).Nodup) (h6 : ∀ e ∈ l, e.2 < 6) {s : State} (hs : s.SliceHbm) :
    BytesOnly s (s.putWords b l) ∧ (∀ e ∈ l, (s.putWords b l).readN (b + 8 * e.2) 8 = e.1 % 2 ^ 64) ∧
      ∀ q, (∀ e ∈ l, q < b + 8 * e.2 ∨ b + 8 * e.2 + 8 ≤ q) → (s.putWords b l).byteAt q = s.byteAt q := by
  induction l generalizing s with
  | nil => exact ⟨.refl s, by simp, fun _ _ => rfl⟩
  | cons a l ih =>
    obtain ⟨hnot, hl⟩ := List.nodup_cons.mp hl
    have ha := h6 a (by simp)
    have hp (j : Nat) (hj : j < 8) : isHbm (b + 8 * a.2 + j) = false := by
      rw [Nat.add_assoc]
      exact hb _ (by omega)
    have hone : BytesOnly s (s.homeWrite (b + 8 * a.2) 8 a.1) := State.homeWrite_stored hp (by omega) a.1
    obtain ⟨hrest, hread, hstay⟩ := ih hl (fun e he => h6 e (by simp [he])) (hone.sliceHbm hs)
    refine ⟨hone.trans hrest, fun e he => ?_, fun q hq => ?_⟩
    · rcases List.mem_cons.mp he with rfl | he
      · have hsame (j : Nat) (hj : j < 8) : (State.putWords s b (e :: l)).byteAt (b + 8 * e.2 + j) =
            (s.homeWrite (b + 8 * e.2) 8 e.1).byteAt (b + 8 * e.2 + j) := by
          refine hstay _ fun x hx => ?_
          have hne : x.2 ≠ e.2 := fun h => hnot (List.mem_map.mpr ⟨x, hx, h⟩)
          omega
        rw [State.readN_eq hsame, State.readN_homeWrite hs hp (by omega)]
      · exact hread e he
    · exact (hstay q fun e he => hq e (by simp [he])).trans
        (State.byteAt_homeWrite_ne hs hp (by omega) a.1 (hq a (by simp)))

/-- The words of an entry, by number. -/
theorem MqMsg.words_length (m : MqMsg) : m.words.length = 6 := by
  unfold MqMsg.words
  split <;> rfl

theorem MqMsg.mem_words (m : MqMsg) {j : Nat} (hj : j < 6) : ((m.words[j]?).getD 0, j) ∈ m.words.zip (List.range 6) := by
  have hl := m.words_length
  rw [List.mem_iff_getElem]
  refine ⟨j, by simp [hl, hj], ?_⟩
  simp [hl, hj]

/-- Bytes written at a home leave the tags. -/
theorem State.homeWrite_tags (s : State) (pa n v : Nat) : (s.homeWrite pa n v).tags = s.tags := by
  have hbytes (s : State) (n pa v : Nat) : (s.setBytes pa n v).tags = s.tags := by
    induction n generalizing s pa v with
    | zero => rfl
    | succ n ih =>
      refine (ih _ _ _).trans ?_
      unfold State.setByte
      split <;> rfl
  unfold State.homeWrite
  split
  · rfl
  · exact hbytes s n pa v

theorem State.readN_setTag (s : State) (q : Nat) (b : Bool) (pa n : Nat) : (s.setTag q b).readN pa n = s.readN pa n :=
  State.readN_congr (s := s) (t := s.setTag q b) (fun _ => rfl) pa n

/-- Without waiters nothing is looked at. -/
theorem State.examineSpan_nil {s : State} (h : s.retry = []) (lo n : Nat) : s.examineSpan lo n = s := by
  simp [State.examineSpan, h]

/-- The head of an entry: REPLY emptied, then HDR written and full. -/
def State.putHead (s : State) (a kind : Nat) : State :=
  ((((((s.examineSpan (a + 16) 48).setTag (a + 8) false).examine ((a + 8) / 8)).homeWrite a 8 kind).setTag a true).examine (a / 8))

theorem State.putHead_nil {s : State} {a kind : Nat} (h8 : ∀ j < 8, isHbm (a + j) = false) (hr : s.retry = []) :
    s.putHead a kind = ((s.setTag (a + 8) false).homeWrite a 8 kind).setTag a true := by
  have htag : (s.setTag (a + 8) false).retry = [] := hr
  have hhdr := State.homeWrite_stored (s := s.setTag (a + 8) false) (v := kind) h8 (by omega)
  have hend : (((s.setTag (a + 8) false).homeWrite a 8 kind).setTag a true).retry = [] := by
    rw [State.setTag_retry, hhdr.retry, htag]
  rw [State.putHead, State.examineSpan_nil hr, State.examine_nil htag, State.examine_nil hend]

/-- An entry of the queue as it is written (R41). -/
theorem State.writeEntry_entry {s : State} {a : Nat} (hs : s.SliceHbm) (hr : s.retry = [])
    (ha : ∀ o < 64, isHbm (a + o) = false) (hal : a % 8 = 0) (m : MqMsg) :
    BytesOnly s (s.writeEntry a m) ∧ (s.writeEntry a m).readN a 8 = m.kind % 2 ^ 64 ∧ (s.writeEntry a m).tagAt a = true ∧
      (s.writeEntry a m).tagAt (a + 8) = false ∧
      ∀ j < 6, (s.writeEntry a m).readN (a + 16 + 8 * j) 8 = (m.words[j]?).getD 0 % 2 ^ 64 := by
  have h8 (j : Nat) (hj : j < 8) : isHbm (a + j) = false := ha j (by omega)
  have hsnd : (m.words.zip (List.range 6)).map (fun e => e.2) = List.range 6 := by
    rw [show (fun e : Nat × Nat => e.2) = Prod.snd from rfl, List.map_snd_zip]
    simp [m.words_length]
  obtain ⟨hput, hread, _⟩ := State.putWords_reads (b := a + 16) (l := m.words.zip (List.range 6))
    (fun o ho => by rw [Nat.add_assoc]; exact ha _ (by omega)) (by rw [hsnd]; exact List.nodup_range)
    (fun e he => by
      have := List.mem_map_of_mem (f := fun e : Nat × Nat => e.2) he
      rw [hsnd] at this
      exact List.mem_range.mp this) hs
  have hentry : s.writeEntry a m = (s.putWords (a + 16) (m.words.zip (List.range 6))).putHead a m.kind := rfl
  rw [hentry]
  generalize s.putWords (a + 16) (m.words.zip (List.range 6)) = s1 at hput hread
  rw [State.putHead_nil h8 (hput.retry.trans hr)]
  have hs2 : (s1.setTag (a + 8) false).SliceHbm := hput.sliceHbm hs
  have hhdr := State.homeWrite_stored (s := s1.setTag (a + 8) false) (v := m.kind) h8 (by omega)
  have hframe := ((hput.trans (.setTag s1 (a + 8) false)).trans hhdr).trans (.setTag _ a true)
  refine ⟨hframe, ?_, ?_, ?_, fun j hj => ?_⟩
  · rw [State.readN_setTag, State.readN_homeWrite hs2 h8 (by omega)]
  · rw [State.tagAt_setTag, if_pos rfl]
  · rw [State.tagAt_setTag, if_neg (by omega), State.tagAt, State.homeWrite_tags]
    exact (State.tagAt_setTag ..).trans (if_pos rfl)
  · rw [State.readN_setTag]
    rw [← hread _ (m.mem_words hj)]
    refine State.readN_eq fun i hi => ?_
    exact State.byteAt_homeWrite_ne hs2 h8 (by omega) _ (by omega)

end Sys2Proof.Machine
end

section
/-! SUPPORT. The message queue of a core (R40, R41), its refusals, and what an answer leaves with a thread (R48, R202). -/
namespace Sys2Proof.Machine

/-! ## The next entry of a queue (R40) -/

/-- A queue that stands has between 16 and 1,024 entries. -/
theorem Core.mqEntries_le {c : Core} (h : c.mqEntries ≠ 0) : c.mqEntries ≤ 2 ^ 10 := by
  unfold Core.mqEntries at h ⊢
  dsimp only at h ⊢
  split
  · next hq => exact Nat.pow_le_pow_right (by omega) hq.2.1
  · next hq => rw [if_neg hq] at h; exact absurd rfl h

/-- An entry is a line of the core's local store. -/
theorem Core.mqAddr_place {c : Core} (h : c.mqEntries ≠ 0) (core i : Nat) :
    c.mqAddr core i % 8 = 0 ∧ ∀ o < 64, isHbm (c.mqAddr core i + o) = false := by
  have hfield : field c.mq 18 6 < 2 ^ 13 := Nat.mod_lt _ (by decide)
  have hmod : i % c.mqEntries < 2 ^ 10 := (Nat.mod_lt _ (Nat.pos_of_ne_zero h)).trans_le (Core.mqEntries_le h)
  unfold Core.mqAddr
  generalize field c.mq 18 6 = f at hfield
  generalize i % c.mqEntries = e at hmod
  refine ⟨?_, fun o ho => ?_⟩
  · unfold lsBase
    omega
  · rw [Nat.add_assoc, Nat.add_assoc]
    exact isHbm_lsBase core (by omega)

/-- The next entry of a queue is free (R40). -/
theorem State.mqFree_some {s : State} {core a : Nat} (ha : (s.coreAt core).mqAddr core (s.coreAt core).mqIndex = a)
    (he : (s.coreAt core).mqEntries ≠ 0) (ht : s.tagAt a = false) (ho : ∀ e ∈ (s.coreAt core).mqOut, e.idx ≠ a) :
    s.mqFree core = some a := by
  have hany : (s.coreAt core).mqOut.any (fun e => e.idx == a) = false := by simpa using ho
  unfold State.mqFree
  simp only [ha, ht, hany, beq_eq_false_iff_ne.mpr he, Bool.or_self, Bool.false_eq_true, if_false]

/-- The entry of a message stands, and its reply is awaited unless it is of kind 3. -/
def Core.queued (c : Core) (a : Nat) (m : MqMsg) (k cycle : Nat) : Core :=
  { c with
    mqIndex := c.mqIndex + 1
    mqOut := if k == 3 then c.mqOut else c.mqOut ++ [{ idx := a, msg := m, since := cycle }] }

/-- A message that finds an entry is written in it (R41). -/
theorem doMessage_entry {s : State} {core k a : Nat} {m : MqMsg} {rest : List MqMsg}
    (hq : (s.coreAt core).mqIn = m :: rest) (hk : m.kind = k) (hact : s.coreActs core = true)
    (hh : s.hasHandler core = true) (ha : (s.coreAt core).mqAddr core (s.coreAt core).mqIndex = a)
    (he : (s.coreAt core).mqEntries ≠ 0) (ht : s.tagAt a = false) (ho : ∀ e ∈ (s.coreAt core).mqOut, e.idx ≠ a) :
    doMessage k core s =
      ((s.updCore core (fun c => { c with mqIn := rest })).writeEntry a m).updCore core (fun c => c.queued a m k s.cycle) := by
  have hcore : (s.updCore core (fun c => { c with mqIn := rest })).coreAt core = { s.coreAt core with mqIn := rest } :=
    State.coreAt_updCore_self ..
  have hhand : (s.updCore core (fun c => { c with mqIn := rest })).hasHandler core = true := by
    rw [State.hasHandler, hcore]
    exact hh
  have hfree : (s.updCore core (fun c => { c with mqIn := rest })).mqFree core = some a := by
    refine State.mqFree_some ?_ ?_ ht ?_
    · rw [hcore]
      exact ha
    · rw [hcore]
      exact he
    · rw [hcore]
      exact ho
  unfold doMessage
  simp only [hq, hk, hact, bne_self_eq_false, Bool.not_true, Bool.or_self, Bool.false_eq_true, if_false, hhand, if_true,
    hfree]
  rfl

/-- A message that finds no entry (R41). -/
theorem doMessage_noEntry {s : State} {core k : Nat} {m : MqMsg} {rest : List MqMsg} (hq : (s.coreAt core).mqIn = m :: rest)
    (hk : m.kind = k) (hact : s.coreActs core = true) (hh : s.hasHandler core = false) :
    doMessage k core s = (s.updCore core (fun c => { c with mqIn := rest })).noEntry core m := by
  have hhand : (s.updCore core (fun c => { c with mqIn := rest })).hasHandler core = false := by
    simpa [State.hasHandler] using hh
  unfold doMessage
  simp only [hq, hk, hact, bne_self_eq_false, Bool.not_true, Bool.or_self, Bool.false_eq_true, if_false, hhand]

/-! ## A write to an overflowed line goes on (R152) -/

/-- The write's answer, once the copies of its line are invalidated. -/
def State.writeDone (s : State) (core : Nat) (m : MqMsg) (rep : Option Reply) : State := match rep with
  | none => s
  | some .listed => if m.remote then s.sendReply (pkgOfCore core) m.waiter .listed else s
  | some r => s.answer (pkgOfCore core) m.waiter r

theorem State.invalidated_none (s : State) (core : Nat) (m : MqMsg) : s.invalidated core m none =
    (State.coherent { s with dirs := mapDel s.dirs (m.line / 64) } m.waiter).1.writeDone core m
      (State.coherent { s with dirs := mapDel s.dirs (m.line / 64) } m.waiter).2 := by
  unfold State.invalidated
  dsimp only
  generalize State.coherent _ m.waiter = r
  generalize mapGet s.dirs (m.line / 64) = o
  cases o <;> rfl

theorem Served.writeDone {r s : State} (h : Served r s) {core : Nat} {m : MqMsg} {rep : Option Reply} :
    Served r (s.writeDone core m rep) := by
  unfold State.writeDone
  split
  · exact h
  · split
    · exact h.sendReply
    · exact h
  · exact h.answer

/-- With every copy invalidated the line has no sharers. -/
theorem State.invalidated_unshared (s : State) (core : Nat) (m : MqMsg) :
    mapGet (s.invalidated core m none).dirs (m.line / 64) = none := by
  rw [State.invalidated_none]
  exact (Served.refl _).coherent.writeDone.unshared (mapGet_del_self s.dirs (m.line / 64))

/-! ## What an answer leaves (R202) -/

/-- A thread that has been answered: its answers, and whether it waits. -/
theorem Thread.wake_eq (t : Thread) : ∃ park, t.wake = { t with park := park } := by
  unfold Thread.wake
  split <;> exact ⟨_, rfl⟩

theorem Thread.turnedAway_eq (t : Thread) (m : Mail) : ∃ park, t.turnedAway m = { t with park := park, mail := t.mail ++ [m] } := by
  unfold Thread.turnedAway
  split
  · exact ⟨_, rfl⟩
  · exact ⟨_, rfl⟩
  · obtain ⟨park, h⟩ := Thread.wake_eq { t with mail := t.mail ++ [m] }
    exact ⟨park, h⟩

/-- What an answer leaves: threads but for their answers and their waits, and the queues of the cores. -/
structure Answers (s t : State) : Prop where
  thread : ∀ k u, s.thread? k = some u → ∃ mail park, t.thread? k = some { u with mail := mail, park := park }
  mqOut : ∀ c, (t.coreAt c).mqOut = (s.coreAt c).mqOut

theorem Answers.of_eq {s t : State} (hthreads : t.threads = s.threads) (hcores : t.cores = s.cores) : Answers s t :=
  ⟨fun _ _ h => ⟨_, _, by rw [State.thread?, hthreads]; exact h⟩, fun _ => by simp only [State.coreAt, hcores]⟩

theorem State.send_answers (s : State) (m : Msg) : Answers s (s.send m) := by
  unfold State.send
  split <;> exact .of_eq rfl rfl

theorem State.uncleaned_frame (s : State) (core k : Nat) (q : Req) : ∃ visitors, s.uncleaned core k q = { s with visitors := visitors } := by
  unfold State.uncleaned State.redirty
  split
  · dsimp only
    split <;> exact ⟨_, rfl⟩
  · exact ⟨_, rfl⟩

/-- A thread's new answer. -/
def Thread.mailed (t : Thread) (m : Mail) : Thread :=
  if m.rep == .refused then t.turnedAway m else { t with mail := t.mail ++ [m] }.wake

theorem Thread.mailed_eq (t : Thread) (m : Mail) : ∃ mail park, t.mailed m = { t with mail := mail, park := park } := by
  unfold Thread.mailed
  split
  · obtain ⟨park, h⟩ := t.turnedAway_eq m
    exact ⟨_, park, h⟩
  · obtain ⟨park, h⟩ := Thread.wake_eq { t with mail := t.mail ++ [m] }
    exact ⟨_, park, h⟩

theorem State.mailTo_none {s : State} {uid : Nat} (ht : s.tidOf uid = none) (m : Mail) : s.mailTo (.thread uid) m = s := by
  show (match s.tidOf uid with
    | some tid => _
    | none => s) = s
  rw [ht]

/-- An answer for a thread reaches that thread. -/
theorem State.mailTo_thread {s : State} {uid tid : Nat} (ht : s.tidOf uid = some tid) (m : Mail) :
    ∃ visitors, s.mailTo (.thread uid) m = State.updThread { s with visitors := visitors } tid (fun t => t.mailed m) := by
  obtain ⟨visitors, hv⟩ : ∃ visitors, (if m.rep.isFault then s.uncleaned (coreOfTid tid) m.k m.req else s) =
      { s with visitors := visitors } := by
    split
    · exact s.uncleaned_frame ..
    · exact ⟨_, rfl⟩
  refine ⟨visitors, ?_⟩
  rw [← hv]
  show (match s.tidOf uid with
    | some tid => State.updThread (if m.rep.isFault then s.uncleaned (coreOfTid tid) m.k m.req else s) tid
      (fun t => t.mailed m)
    | none => s) = _
  rw [ht]

theorem State.updThread_some {s : State} {k : Nat} {u : Thread} (h : s.thread? k = some u) (f : Thread → Thread) :
    s.updThread k f = s.setThread k (f u) := by
  simp only [State.updThread, h]

/-- A thread whose answers and wait alone change. -/
theorem State.updThread_answers {s : State} {k : Nat} {f : Thread → Thread}
    (hf : ∀ t, ∃ mail park, f t = { t with mail := mail, park := park }) : Answers s (s.updThread k f) := by
  cases hu : s.thread? k with
  | none =>
    have : s.updThread k f = s := by simp only [State.updThread, hu]
    rw [this]
    exact .of_eq rfl rfl
  | some u =>
    rw [State.updThread_some hu]
    refine ⟨fun j v hv => ?_, fun _ => rfl⟩
    rw [State.thread_setThread]
    split
    · next e =>
      subst e
      obtain rfl : u = v := Option.some.inj (hu.symm.trans hv)
      obtain ⟨mail, park, h⟩ := hf u
      exact ⟨mail, park, congrArg some h⟩
    · exact ⟨_, _, hv⟩

theorem State.mailTo_answers (s : State) (who : Who) (m : Mail) : Answers s (s.mailTo who m) := by
  cases who with
  | thread uid =>
    cases ht : s.tidOf uid with
    | none =>
      rw [State.mailTo_none ht]
      exact .of_eq rfl rfl
    | some tid =>
      obtain ⟨visitors, hm⟩ := State.mailTo_thread ht m
      obtain ⟨hthread, hout⟩ := State.updThread_answers (s := { s with visitors := visitors }) (k := tid)
        fun t => t.mailed_eq m
      rw [hm]
      exact ⟨hthread, hout⟩
  | channel c =>
    refine ⟨fun _ u h => ⟨_, _, h⟩, fun d => ?_⟩
    show ((s.updCore c (fun x => { x with cpMail := x.cpMail ++ [m] })).coreAt d).mqOut = _
    rw [State.coreAt_updCore]
    split <;> rfl
  | matrix c =>
    refine ⟨fun _ u h => ⟨_, _, h⟩, fun d => ?_⟩
    show ((s.updCore c (fun x => { x with mxMail := x.mxMail ++ [m] })).coreAt d).mqOut = _
    rw [State.coreAt_updCore]
    split <;> rfl
  | hub p => exact .of_eq rfl rfl

theorem State.answer_answers (s : State) (pkg : Nat) (w : Waiter) (rep : Reply) : Answers s (s.answer pkg w rep) := by
  unfold State.answer
  split
  · dsimp only
    split
    · obtain ⟨hthread, hout⟩ := State.send_answers (s.recordReplay pkg w.core w.rtag w.gen rep)
        { dst := pkgOfCore w.core, src := pkg, cls := 1, core := w.core, rtag := w.rtag, gen := w.gen, exp := w.exp,
          resend := false, body := .reply (w.req.sized rep) }
      exact ⟨hthread, hout⟩
    · exact State.send_answers ..
  · exact State.mailTo_answers ..

/-! ## A refusal (R48, R50) -/

/-- What a refused thread waits for. -/
def Park.refusal : Park → Option Park
  | .spawn => some .refused
  | .migr _ => some (.migr true)
  | _ => none

/-- A thread of this package whose spawn or migration is refused. -/
theorem State.refuseMsg_waits {s : State} {core tid : Nat} {m : MqMsg} {p q : Park} (hr : m.remote = false)
    (hw : s.waits tid m.who p) (hq : p.refusal = some q) :
    ∃ u, (s.refuseMsg core m).thread? tid = some u ∧ u.park = some q := by
  obtain ⟨u, hu, hp, hwho, htid⟩ := hw
  have hnot : s.waitsParked m = false := by
    have : p ≠ .spawnParked := by rintro rfl; cases hq
    simp [State.waitsParked, hwho, htid, hu, hp, this]
  have hans : s.answer (pkgOfCore core) m.waiter .refused =
      s.mailTo (.thread u.uid) { k := m.k, epoch := 0, req := m.req, rep := .refused } := by
    rw [← hwho]
    exact if_neg (Bool.not_eq_true _ ▸ hr)
  obtain ⟨visitors, hmail⟩ := State.mailTo_thread htid { k := m.k, epoch := 0, req := m.req, rep := .refused }
  refine ⟨u.mailed { k := m.k, epoch := 0, req := m.req, rep := .refused }, ?_, ?_⟩
  · rw [State.refuseMsg, if_neg (by simp [hnot]), hans, hmail, State.updThread_some (s := { s with visitors := visitors }) hu]
    exact State.thread_setThread_self ..
  · show (u.turnedAway { k := m.k, epoch := 0, req := m.req, rep := .refused }).park = some q
    unfold Thread.turnedAway
    rw [hp]
    cases p with
    | spawn | migr => cases hq; rfl
    | _ => cases hq

end Sys2Proof.Machine
end

section
/-! The theorem that settles O51: what a core's units do on their own (R39 to R42, R47 to R50, R152, R178, R183,
R226). -/
namespace Sys2Proof.Machine

/-! ## The handler's start (R39) -/

theorem doHandlerStart_due {s : State} {core : Nat} (hv : (s.coreAt core).hvec ≠ 0) (hh : s.hasHandler core = false)
    (hr : s.coreRuns core = true)
    (ht : Nat.max (((s.coreAt core).emptied[(s.coreAt core).ovh]?).getD 0) (s.coreAt core).hvecAt +
      Config.nsToCycles 1000 ≤ s.cycle) :
    ∃ h, (doHandlerStart core s).thread? (core * 8 + (s.coreAt core).ovh) = some h ∧ h.pc = (s.coreAt core).hvec ∧
      h.mode = .super ∧ h.ex = 0 ∧ h.alot = 0 ∧ ∀ n, h.g.get n = 0 := by
  have hdue : s.handlerDue core = true := by
    simp only [State.handlerDue, hh, hr, bne_iff_ne.mpr hv, Bool.not_false, Bool.and_self, decide_eq_true_eq, Bool.true_and]
    exact ht
  rw [doHandlerStart, if_pos hdue, State.startThread_thread, if_pos rfl]
  refine ⟨_, rfl, rfl, rfl, rfl, rfl, fun n => ?_⟩
  simp [Thread.started, Vector.get]

/-! ## Messages (R40, R41, R152) -/

section

variable {s : State} {core k tid : Nat} {m : MqMsg} {rest : List MqMsg} (hq : (s.coreAt core).mqIn = m :: rest)
  (hk : m.kind = k) (hact : s.coreActs core = true)
include hq hk hact

/-- A message enters the queue with its words. -/
theorem doMessage_enters {a : Nat} (hk4 : k ≤ 4) (hc : s.calm = true) (hh : s.hasHandler core = true)
    (ha : (s.coreAt core).mqAddr core (s.coreAt core).mqIndex = a) (he : (s.coreAt core).mqEntries ≠ 0)
    (ht : s.tagAt a = false) (ho : ∀ e ∈ (s.coreAt core).mqOut, e.idx ≠ a) :
    (doMessage k core s).readN a 8 = k ∧ (doMessage k core s).tagAt a = true ∧
      (doMessage k core s).tagAt (a + 8) = false ∧
      (∀ j < 6, (doMessage k core s).readN (a + 16 + 8 * j) 8 = ((m.words[j]?).getD 0) % 2 ^ 64) ∧
      ((doMessage k core s).coreAt core).mqIn = rest ∧
      ((doMessage k core s).coreAt core).mqIndex = (s.coreAt core).mqIndex + 1 ∧
      (k ≠ 3 → ((doMessage k core s).coreAt core).mqOut =
        (s.coreAt core).mqOut ++ [{ idx := a, msg := m, since := s.cycle }]) := by
  obtain ⟨hretry, _, _, hslice⟩ := State.calm_iff.mp hc
  obtain ⟨hal, hplace⟩ := Core.mqAddr_place he core (s.coreAt core).mqIndex
  rw [ha] at hal hplace
  obtain ⟨hframe, hhdr, hfull, hreply, hwords⟩ := State.writeEntry_entry
    (s := s.updCore core (fun c => { c with mqIn := rest })) hslice hretry hplace hal m
  have hcore := (hframe.coreAt core).trans (State.coreAt_updCore_self ..)
  rw [doMessage_entry hq hk hact hh ha he ht ho]
  generalize (s.updCore core (fun c => { c with mqIn := rest })).writeEntry a m = w at *
  have hread (pa n : Nat) (f : Core → Core) : (w.updCore core f).readN pa n = w.readN pa n :=
    State.readN_congr (s := w) (t := w.updCore core f) (fun _ => rfl) pa n
  refine ⟨?_, hfull, hreply, fun j hj => ?_, ?_, ?_, fun h3 => ?_⟩
  · rw [hread, hhdr, hk, Nat.mod_eq_of_lt (by omega)]
  · rw [hread, hwords j hj]
  · rw [State.coreAt_updCore_self, hcore]
    rfl
  · rw [State.coreAt_updCore_self, hcore]
    rfl
  · rw [State.coreAt_updCore_self, hcore]
    exact if_neg (by simpa using h3)

/-- Without a handler a spawn or a migration is refused. -/
theorem doMessage_refuses (hk2 : k ≤ 2) (hh : s.hasHandler core = false) (hr : m.remote = false) {p q : Park}
    (hw : s.waits tid m.who p) (hp : p.refusal = some q) :
    ∃ u, (doMessage k core s).thread? tid = some u ∧ u.park = some q := by
  rw [doMessage_noEntry hq hk hact hh, State.noEntry, if_neg (by simp; omega), if_neg (by simp; omega)]
  exact State.refuseMsg_waits hr hw hp

/-- Without a handler every core becomes a sharer. -/
theorem doMessage_broadcasts (hk3 : k = 3) (hh : s.hasHandler core = false) {d : Dir}
    (hd : mapGet s.dirs (m.line / 64) = some d) :
    mapGet (doMessage k core s).dirs (m.line / 64) = some { d with bcast := true } := by
  have hd' : mapGet (s.updCore core (fun c => { c with mqIn := rest })).dirs (m.line / 64) = some d := hd
  rw [doMessage_noEntry hq hk hact hh, State.noEntry, if_pos (by simp [hk, hk3])]
  simp only [hd']
  exact mapGet_put_self ..

/-- Without a handler a write invalidates every copy. -/
theorem doMessage_invalidates (hk4 : k = 4) (hh : s.hasHandler core = false) :
    mapGet (doMessage k core s).dirs (m.line / 64) = none := by
  rw [doMessage_noEntry hq hk hact hh, State.noEntry, if_neg (by simp [hk, hk4]), if_pos (by simp [hk, hk4])]
  exact State.invalidated_unshared ..

end

/-! ## Replies (R41, R47, R50) -/

/-- The state in which the core acts on an entry: the entry awaits no reply any more. -/
def State.acting (s : State) (core : Nat) (e : MqEnt) : State :=
  s.updCore core (fun c => { c with mqOut := c.mqOut.erase e })

section

variable {s : State} {core tid : Nat} {e : MqEnt} {rest : List MqEnt}

theorem State.acting_coreAt (s : State) (core : Nat) (e : MqEnt) :
    (s.acting core e).coreAt core = { s.coreAt core with mqOut := (s.coreAt core).mqOut.erase e } :=
  State.coreAt_updCore_self ..

theorem State.acting_freeSlot (s : State) (core : Nat) (e : MqEnt) : (s.acting core e).freeSlot core = s.freeSlot core := by
  unfold State.freeSlot
  rw [State.acting_coreAt]
  rfl

section

variable (hq : (s.coreAt core).mqOut = e :: rest)
include hq

theorem State.acting_mqOut : ((s.acting core e).coreAt core).mqOut = rest := by
  rw [State.acting_coreAt, hq]
  exact List.erase_cons_head ..

/-- The first entry's reply is taken once it is full. -/
theorem doReplyTaken_first (hact : s.coreActs core = true) (ht : s.tagAt (e.idx + 8) = true) :
    doReplyTaken core s = (s.acting core e).actOn core e.idx e.msg (s.readN (e.idx + 8) 8) := by
  have hfind : (s.coreAt core).mqOut.find? (fun e => s.replied e) = some e := by
    rw [hq, List.find?_cons_of_pos (p := fun e => s.replied e) ht]
  unfold doReplyTaken
  simp only [hfind, hact, Bool.not_true, Bool.false_eq_true, if_false]
  rfl

/-- A reply that has not come is taken as a refusal, or as a broadcast. -/
theorem doReplyTimeout_first (hact : s.coreActs core = true) (ht : s.tagAt (e.idx + 8) = false)
    (hl : e.since + Config.nsToCycles 100000 ≤ s.cycle) :
    doReplyTimeout core s = (s.acting core e).actOn core e.idx e.msg (if e.msg.kind == 4 then 15 else 2) := by
  have hlate : s.replyLate e = true := by simp [State.replyLate, State.replied, ht, hl]
  have hfind : (s.coreAt core).mqOut.find? (fun e => s.replyLate e) = some e := by
    rw [hq, List.find?_cons_of_pos hlate]
  unfold doReplyTimeout
  simp only [hfind, hact, Bool.not_true, Bool.false_eq_true, if_false]
  rfl

end

variable {m : MqMsg} {a v j : Nat}

/-- Without named sharers every copy is invalidated. -/
theorem State.actOn_invalidates (hk : m.kind = 4) (hn : s.namedSharers a v = none) :
    mapGet (s.actOn core a m v).dirs (m.line / 64) = none := by
  rw [State.actOn, if_pos (by simp [hk]), hn]
  exact State.invalidated_unshared ..

/-- A reply other than 1 refuses. -/
theorem State.actOn_refuses (hk : m.kind ≠ 4) (hv : v ≠ 1) (hr : m.remote = false) (hw : s.waits tid m.who .spawn) :
    ∃ u, (s.actOn core a m v).thread? tid = some u ∧ u.park = some .refused := by
  rw [State.actOn, if_neg (by simpa using hk), if_pos (by simpa using hv)]
  exact State.refuseMsg_waits hr hw rfl

/-- An accepted spawn starts its thread in the free slot (R47). -/
theorem State.actOn_spawns (hk : m.kind ≠ 4) (hj : s.freeSlot core = some j) {x src : Nat} {pc : Word} {tag : Tag}
    {g : List Word} (hm : m.req = .spawn x src pc tag g) :
    (∃ h, (s.actOn core a m 1).thread? (core * 8 + j) = some h ∧ h.pc = pc ∧ h.ex = tag ∧
      ∀ n : Fin 16, h.g.get n = (g[n.val]?).getD 0) ∧
      ((s.actOn core a m 1).coreAt core).mqOut = (s.coreAt core).mqOut := by
  have hact : s.actOn core a m 1 = (s.startThread (core * 8 + j) pc tag g id).answer (pkgOfCore core) m.waiter .ok := by
    rw [State.actOn, if_neg (by simpa using hk), if_neg (by simp), hj, hm]
  obtain ⟨hthread, hout⟩ := State.answer_answers (s.startThread (core * 8 + j) pc tag g id) (pkgOfCore core) m.waiter .ok
  obtain ⟨mail, park, ht⟩ := hthread (core * 8 + j) _ ((State.startThread_thread ..).trans (if_pos rfl))
  rw [hact]
  refine ⟨⟨_, ht, rfl, rfl, fun n => ?_⟩, ?_⟩
  · exact Vector.getElem_ofFn ..
  · rw [hout, State.startThread_coreAt]
    split <;> rfl

/-- An accepted arrival stands in the free slot, and its source slot is vacant (R50). -/
theorem State.actOn_migrates (hk : m.kind ≠ 4) (hj : s.freeSlot core = some j) {x src from_ : Nat} {ctx : MigrCtx}
    {old : Thread} (hm : m.req = .migr x src ctx) (hf : s.tidOf ctx.uid = some from_) (ho : s.thread? from_ = some old)
    {b : Bool} (hp : old.park = some (.migr b)) (hne : from_ ≠ core * 8 + j) :
    (∃ h, (s.actOn core a m 1).thread? (core * 8 + j) = some h ∧ h = ctx.arrive old s.cycle) ∧
      (s.actOn core a m 1).thread? from_ = none := by
  have hact : s.actOn core a m 1 = s.acceptMigr core j ctx := by
    rw [State.actOn, if_neg (by simpa using hk), if_neg (by simp), hj, hm]
  rw [hact]
  unfold State.acceptMigr
  simp only [hf, ho, hp, Bool.not_true, Bool.false_eq_true, if_false, State.progress_thread]
  refine ⟨⟨_, State.thread_setThread_self .., rfl⟩, ?_⟩
  rw [State.thread_updCore, State.thread_setThread_ne _ _ hne.symm]
  exact mapGet_del_self ..

end

/-! ## At the requester (R48, R50, R183, R226, R330) -/

section

variable {s : State} {tid x src : Nat} {h : Thread} (ht : s.thread? tid = some h)
include ht

/-- Below depth 4 the caller runs the child inline. -/
theorem doSpawnRefused_inline {pc : Word} {tag : Tag} {g : List Word} (hp : h.park = some .refused)
    (hr : h.refusedReq = some (.spawn x src pc tag g)) (hd : h.idepth < 4) (htr : h.trapent = false) :
    (doSpawnRefused tid s).thread? tid = some (h.inlineChild pc s.cycle) := by
  unfold doSpawnRefused
  simp only [ht, hp, hr, hd, htr, decide_true, Bool.not_false, Bool.and_self, if_true, State.progress_thread]
  exact State.thread_setThread_self ..

/-- The message of a parked spawn. -/
def Thread.parkedSpawn (t : Thread) (tid : Nat) (req : Req) (cycle : Nat) : MqMsg :=
  { kind := 1, who := .thread t.uid, core := coreOfTid tid, rtag := 0, gen := 0, remote := false, k := 0, req := req,
    line := 0, peer := 0, exp := t.reqTag, limit := 0, born := cycle, va := 0 }

/-- From depth 4 on the spawn waits at its target. -/
theorem doSpawnRefused_parks {pc : Word} {tag : Tag} {g : List Word} (hp : h.park = some .refused)
    (hr : h.refusedReq = some (.spawn x src pc tag g)) (hd : 4 ≤ h.idepth ∨ h.trapent = true) :
    (doSpawnRefused tid s).thread? tid = some { h with park := some .spawnParked, mail := [] } ∧
      h.parkedSpawn tid (.spawn x src pc tag g) s.cycle ∈
        ((doSpawnRefused tid s).coreAt (s.forwardCore x)).parked := by
  have hno : ¬ (decide (h.idepth < 4) && !h.trapent) = true := by
    rcases hd with hd | hd
    · simp [Nat.not_lt.mpr hd]
    · simp [hd]
  have hstep : doSpawnRefused tid s = (s.setThread tid { h with park := some .spawnParked, mail := [] }).updCore
      (s.forwardCore x) (fun c => { c with parked := c.parked ++ [h.parkedSpawn tid (.spawn x src pc tag g) s.cycle] }) := by
    unfold doSpawnRefused
    simp only [ht, hp, hr]
    exact if_neg hno
  rw [hstep]
  refine ⟨State.thread_setThread_self .., ?_⟩
  rw [State.coreAt_updCore_self]
  simp

/-- A migration is sent again once its target has room. -/
theorem doMigrResend_sends {ctx : MigrCtx} (hp : h.park = some (.migr true)) (hr : h.refusedReq = some (.migr x src ctx))
    (hf : (s.freeSlot (s.forwardCore x)).isSome = true) (hh : s.hasHandler (s.forwardCore x) = true)
    (he : (s.coreAt (s.forwardCore x)).mqEntries ≠ 0) :
    (doMigrResend tid s).thread? tid = some { h with park := none, mail := [] } := by
  unfold doMigrResend
  simp only [ht, hp, hr, hf, hh, bne_iff_ne.mpr he, Bool.and_self, if_true]
  exact State.thread_setThread_self ..

/-- A linear port reads its next vector ahead. -/
theorem doReadAhead_reads {v : VReg} {p : Port} {w : Nat} (hv : h.port? v = some p) (hk : p.kind = 0)
    (ha : p.ahead.length < 4)
    (hc : (p.m + p.ahead.length) * p.ty.lanes < p.count)
    (hw : s.peekSpan (coreOfTid tid) h (pieces (linearAddr { p with m := p.m + p.ahead.length })
      (Nat.min p.ty.lanes (p.count - (p.m + p.ahead.length) * p.ty.lanes) * p.ty.bits / 8 + 1)
      (Nat.min p.ty.lanes (p.count - (p.m + p.ahead.length) * p.ty.lanes) * p.ty.bits / 8)) = some w) :
    (doReadAhead tid v s).thread? tid =
      some { h with ports := mapPut h.ports v.val { p with ahead := p.ahead ++ [BitVec.ofNat 2048 w] } } := by
  have hno : ¬ (p.kind != 0 || decide (4 ≤ p.ahead.length) ||
      decide (p.count ≤ (p.m + p.ahead.length) * p.ty.lanes)) = true := by
    simp [hk, Nat.not_le.mpr ha, Nat.not_le.mpr hc]
  unfold doReadAhead
  simp only [ht, hv, if_neg hno, hw]
  exact State.thread_setThread_self ..

theorem doManagementEnd_ends (hd : h.df = true) : (doManagementEnd tid s).thread? tid = none := by
  unfold doManagementEnd
  simp only [ht, hd, if_true]
  exact Served.endThread.2

theorem doManagementEnd_stays (hd : h.df = false) : doManagementEnd tid s = s := by
  unfold doManagementEnd
  simp only [ht, hd, Bool.false_eq_true, if_false]

end

/-! ## Task dispatch (R178) -/

/-- No ready task has a higher priority than the top one. -/
theorem topPri_le {l : List Task} {k : Task} (h : k ∈ l) : topPri l ≤ k.pri := by
  induction l with
  | nil => cases h
  | cons a l ih =>
    rcases List.mem_cons.mp h with rfl | h
    · exact Nat.min_le_left ..
    · exact (Nat.min_le_right ..).trans (ih h)

/-- The task dispatched next is ready, and of the top priority while the streak is short. -/
theorem Quad.nextTask_ready {q : Quad} {cycle st : Nat} {k : Task} (h : q.nextTask? cycle = some (k, st)) :
    k ∈ q.readyTasks cycle ∧ (q.streak < 15 → ∀ x ∈ q.readyTasks cycle, k.pri ≤ x.pri) := by
  have htop {n : Nat} (hf : ((q.readyTasks cycle).find? (fun k => k.pri == topPri (q.readyTasks cycle))).map
      (fun k => (k, n)) = some (k, st)) : k ∈ q.readyTasks cycle ∧ ∀ x ∈ q.readyTasks cycle, k.pri ≤ x.pri := by
    obtain ⟨y, hy, hyk⟩ := Option.map_eq_some_iff.mp hf
    obtain rfl : y = k := congrArg Prod.fst hyk
    have hpri : y.pri = topPri (q.readyTasks cycle) := by simpa using List.find?_some hy
    exact ⟨List.mem_of_find?_eq_some hy, fun x hx => hpri ▸ topPri_le hx⟩
  unfold Quad.nextTask? at h
  dsimp only at h
  split at h
  · obtain ⟨hk, hall⟩ := htop h
    exact ⟨hk, fun _ => hall⟩
  · next l r hl =>
    split at h
    · next hs =>
      obtain rfl : l = k := congrArg Prod.fst (Option.some.inj h)
      have hmem : l ∈ (q.readyTasks cycle).filter (fun k => decide (topPri (q.readyTasks cycle) < k.pri)) := by
        rw [hl]
        simp
      exact ⟨(List.mem_filter.mp hmem).1, fun hlt => absurd hs (Nat.not_le.mpr hlt)⟩
    · obtain ⟨hk, hall⟩ := htop h
      exact ⟨hk, fun _ => hall⟩

theorem Quad.mem_readyTasks {q : Quad} {cycle : Nat} {k : Task} (h : k ∈ q.readyTasks cycle) :
    k ∈ q.tasks ∧ k.run = none ∧ k.since < cycle ∧ q.shown &&& k.kw = k.kw := by
  simpa [Quad.readyTasks, and_assoc] using h

/-- The quad once a task of it is dispatched. -/
def Quad.dispatched (q : Quad) (k : Task) (streak uid cycle : Nat) : Quad :=
  { q with
    streak := streak, dispatchedAt := some cycle
    tasks := q.tasks.map (fun x => if x.serial == k.serial then { x with run := some uid } else x) }

/-- The thread that a dispatch starts. -/
theorem doTaskDispatch_starts {s : State} {quad st y sl : Nat} {k : Task}
    (hd : (s.quadAt quad).dispatchedAt ≠ some s.cycle) (hk : (s.quadAt quad).nextTask? s.cycle = some (k, st))
    (hs : s.quadSlot quad = some (y, sl)) :
    (∃ park, (doTaskDispatch quad s).thread? (y * 8 + sl) =
      some { Thread.started s.nextUid k.pc k.exp k.args with task := some (quad, k.serial), park := park }) ∧
      (doTaskDispatch quad s).quadAt quad = (s.quadAt quad).dispatched k st s.nextUid s.cycle := by
  obtain ⟨park, hstep⟩ : ∃ park : State → Thread → Option Park, doTaskDispatch quad s =
      (s.setQuad quad ((s.quadAt quad).dispatched k st s.nextUid s.cycle)).startThread (y * 8 + sl) k.pc k.exp k.args
        (fun t => { t with task := some (quad, k.serial), park := park s t }) := by
    refine ⟨fun s t => if (s.setQuad quad ((s.quadAt quad).dispatched k st s.nextUid s.cycle)).eventsOwed y t k.kw then
      some (.owed k.kw) else none, ?_⟩
    unfold doTaskDispatch
    simp only [hk, hs, beq_eq_false_iff_ne.mpr hd, Bool.false_eq_true, if_false]
    rfl
  rw [hstep]
  refine ⟨⟨_, (State.startThread_thread ..).trans (if_pos rfl)⟩, ?_⟩
  exact State.quadAt_setQuad_self ..

/-- Settles O51: each event by the lemma about it. -/
theorem coreEvents : Obligations.CoreEvents := by
  unfold Obligations.CoreEvents
  intro s core tid c ev a
  refine ⟨?_, fun hv hh hr ht => ?_, fun k m rest hk1 hk4 hq hk hact hcalm => ?_, fun e rest hq hact => ?_,
    fun h ht => ?_, ?_⟩
  · exact ⟨_, rfl, State.landC_registers s core⟩
  · obtain ⟨h, hstart⟩ := doHandlerStart_due hv hh hr ht
    exact ⟨_, h, rfl, hstart⟩
  · have hev : exec (ev k) s = .next (doMessage k core s) := by
      interval_cases k <;> rfl
    refine ⟨fun hh he htag ho => ⟨_, hev, ?_⟩, fun hh hk2 hr => ⟨fun hw => ?_, fun b hw => ?_⟩, fun hh hk3 d hd => ?_,
      fun hh hk4 => ?_⟩
    · exact doMessage_enters hq hk hact hk4 hcalm hh rfl he htag ho
    · obtain ⟨u, hu⟩ := doMessage_refuses hq hk hact hk2 hh hr hw rfl
      exact ⟨_, u, hev, hu⟩
    · obtain ⟨u, hu⟩ := doMessage_refuses hq hk hact hk2 hh hr hw rfl
      exact ⟨_, u, hev, hu⟩
    · exact ⟨_, hev, doMessage_broadcasts hq hk hact hk3 hh hd⟩
    · exact ⟨_, hev, doMessage_invalidates hq hk hact hk4 hh⟩
  · refine ⟨fun htag hk hv j hj => ⟨fun x src pc tag g hm => ?_, fun x src ctx from_ old hm hf ho hp hne => ?_⟩,
      fun htag hk hn => ?_, fun htag hk hv hr hw => ?_, fun htag hl => ⟨fun hk hr hw => ?_, fun hk => ?_⟩⟩
    · obtain ⟨⟨h, hh, hpc, hex, hg⟩, hout⟩ := State.actOn_spawns (s := s.acting core e) (a := e.idx) hk
        ((s.acting_freeSlot core e).trans hj) hm
      refine ⟨_, h, rfl, ?_, hpc, hex, hg, ?_⟩
      · rw [doReplyTaken_first hq hact htag, hv]
        exact hh
      · rw [doReplyTaken_first hq hact htag, hv, hout]
        exact State.acting_mqOut hq
    · obtain ⟨b, hp⟩ := hp
      obtain ⟨⟨h, hh, rfl⟩, hgone⟩ := State.actOn_migrates (s := s.acting core e) (a := e.idx) hk
        ((s.acting_freeSlot core e).trans hj) hm hf ho hp hne
      refine ⟨_, ctx.arrive old s.cycle, rfl, ?_, rfl, rfl, rfl, rfl, rfl, rfl, rfl, ?_⟩
      · rw [doReplyTaken_first hq hact htag, hv]
        exact hh
      · rw [doReplyTaken_first hq hact htag, hv]
        exact hgone
    · refine ⟨_, rfl, ?_⟩
      rw [doReplyTaken_first hq hact htag]
      exact State.actOn_invalidates hk hn
    · obtain ⟨u, hu⟩ := State.actOn_refuses (s := s.acting core e) (core := core) (a := e.idx) hk hv hr hw
      refine ⟨_, u, rfl, ?_⟩
      rw [doReplyTaken_first hq hact htag]
      exact hu
    · obtain ⟨u, hu⟩ := State.actOn_refuses (s := s.acting core e) (core := core) (a := e.idx) (v := 2) hk (by decide) hr hw
      refine ⟨_, u, rfl, ?_⟩
      rw [doReplyTimeout_first hq hact htag hl, if_neg (by simpa using hk)]
      exact hu
    · refine ⟨_, rfl, ?_⟩
      rw [doReplyTimeout_first hq hact htag hl]
      exact State.actOn_invalidates hk (by simp [State.namedSharers, hk])
  · refine ⟨fun x src pc tag g hp hr => ⟨fun hd htr => ?_, fun hd => ?_⟩, fun x src ctx hp hr hf hh he => ?_,
      fun v p w hv hk ha hc hw => ?_, fun hd => ?_, fun hd => ?_⟩
    · refine ⟨_, _, rfl, doSpawnRefused_inline ht hp hr hd htr, rfl, rfl, ?_, rfl, fun n hn => ?_⟩
      · exact Thread.putG_get_self ..
      · exact Thread.putG_get_ne _ _ hn.symm
    · obtain ⟨hthread, hmsg⟩ := doSpawnRefused_parks ht hp hr hd
      exact ⟨_, _, rfl, hthread, rfl, rfl, _, hmsg, rfl, rfl⟩
    · exact ⟨_, _, rfl, doMigrResend_sends ht hp hr hf hh he, rfl, rfl, rfl⟩
    · exact ⟨_, _, _, rfl, doReadAhead_reads ht hv hk ha hc hw, mapGet_put_self .., rfl, rfl⟩
    · exact ⟨_, rfl, doManagementEnd_ends ht hd⟩
    · exact congrArg Host.Outcome.next (doManagementEnd_stays ht hd)
  · intro q k st y sl hd hk hs
    obtain ⟨hready, hpri⟩ := Quad.nextTask_ready hk
    obtain ⟨hmem, hrun, hsince, hshown⟩ := Quad.mem_readyTasks hready
    obtain ⟨⟨park, hthread⟩, hquad⟩ := doTaskDispatch_starts hd hk hs
    refine ⟨hrun, hsince, hshown, hpri, _, _, rfl, hthread, rfl, rfl, fun n => ?_, rfl, ?_, ?_⟩
    · exact Vector.getElem_ofFn ..
    · rw [hquad]
      rfl
    · rw [hquad]
      refine ⟨_, List.mem_map_of_mem hmem, ?_⟩
      rw [if_pos (beq_self_eq_true _)]
      rfl

end Sys2Proof.Machine
end

section
/-! SUPPORT. Slots given back and shed, and the displacement of a thread (R58 to R61, R70, R112). -/
namespace Sys2Proof.Machine

/-! ## Power grants (R58, R61) -/

theorem mem_dieCores {die c : Nat} : c ∈ dieCores die ↔ ∃ n < Config.coresPerDie, die * 2048 + n = c := by
  simp [dieCores]

theorem dieOfCore_of_mem {die c : Nat} (h : c ∈ dieCores die) : dieOfCore c = die := by
  obtain ⟨n, hn, rfl⟩ := mem_dieCores.mp h
  have : n < 1152 := hn
  unfold dieOfCore
  omega

/-- Two states that agree on a die and its cores. -/
structure SameDie (die : Nat) (s t : State) : Prop where
  entry : t.dieAt die = s.dieAt die
  core : ∀ c ∈ dieCores die, t.coreAt c = s.coreAt c

theorem SameDie.trans {die : Nat} {s t u : State} (h : SameDie die s t) (g : SameDie die t u) : SameDie die s u :=
  ⟨g.entry.trans h.entry, fun c hc => (g.core c hc).trans (h.core c hc)⟩

/-- The slot that comes back is one of the die's. -/
theorem State.enableNext_mem {s : State} {die x l : Nat} {cool : List Nat} (h : s.enableNext die cool = some (x, l)) :
    x ∈ dieCores die := by
  obtain ⟨j, _, hj⟩ := List.exists_of_findSome?_eq_some h
  obtain ⟨c, hc, he⟩ := Option.map_eq_some_iff.mp hj
  obtain rfl : c = x := congrArg Prod.fst he
  exact List.mem_of_find?_eq_some hc

theorem SameDie.enableNext {die : Nat} {s t : State} (h : SameDie die s t) (cool : List Nat) :
    t.enableNext die cool = s.enableNext die cool := by
  refine congrArg (fun p => (List.range 8).findSome? p) (funext fun j => ?_)
  exact congrArg (Option.map fun c => (c, j)) (List.find?_congr fun c hc => by rw [h.core c hc])

/-- A die's part of a grant has taken effect. -/
structure Granted (die grant avg : Nat) (cool : List Nat) (s t : State) : Prop where
  grant : (t.dieAt die).grant = grant
  back : ∀ x l, 100 * avg ≤ 95 * (s.dieAt die).grant → s.enableNext die cool = some (x, l) →
    (t.coreAt x).disabled = clrBit (s.coreAt x).disabled l
  stay : 95 * (s.dieAt die).grant < 100 * avg → ∀ x ∈ dieCores die, t.coreAt x = s.coreAt x

section

variable {die grant avg : Nat} {cool : List Nat} {s t : State}

theorem Granted.before {r : State} (h : Granted die grant avg cool s t) (hs : SameDie die r s) :
    Granted die grant avg cool r t := by
  refine ⟨h.grant, fun x l ha he => ?_, fun ha x hx => ?_⟩
  · rw [← hs.core x (State.enableNext_mem he)]
    exact h.back x l (by rw [hs.entry]; exact ha) ((hs.enableNext cool).trans he)
  · rw [← hs.core x hx]
    exact h.stay (by rw [hs.entry]; exact ha) x hx

theorem Granted.after {u : State} (h : Granted die grant avg cool s t) (hu : SameDie die t u) :
    Granted die grant avg cool s u := by
  refine ⟨by rw [hu.entry]; exact h.grant, fun x l ha he => ?_, fun ha x hx => ?_⟩
  · rw [hu.core x (State.enableNext_mem he)]
    exact h.back x l ha he
  · rw [hu.core x hx]
    exact h.stay ha x hx

/-- A slot comes back, where one does. -/
def State.slotBack (s : State) (o : Option (Nat × Nat)) : State := match o with
  | some (c, j) => s.updCore c (fun x =>
      { (if (s.thread? (c * 8 + j)).isNone then x.serveParked else x) with disabled := clrBit x.disabled j })
  | none => s

theorem State.slotBack_dieAt (s : State) (o : Option (Nat × Nat)) (d : Nat) : (s.slotBack o).dieAt d = s.dieAt d := by
  cases o <;> rfl

theorem State.grantDie_eq (s : State) (die grant avg : Nat) (cool : List Nat) : s.grantDie die grant avg cool =
    (s.updDie die (fun d => { d with grant := grant })).slotBack
      (if 100 * avg ≤ 95 * (s.dieAt die).grant then s.enableNext die cool else none) := by
  unfold State.grantDie
  simp only [decide_eq_true_eq]
  rfl

theorem State.grantDie_granted (s : State) (die grant avg : Nat) (cool : List Nat) :
    Granted die grant avg cool s (s.grantDie die grant avg cool) ∧
      (∀ d, d ≠ die → SameDie d s (s.grantDie die grant avg cool)) ∧
      (s.grantDie die grant avg cool).pkgs = s.pkgs := by
  rw [State.grantDie_eq]
  have hdie (d : Nat) (hd : d ≠ die) : (s.updDie die (fun d => { d with grant := grant })).dieAt d = s.dieAt d :=
    State.dieAt_updDie_ne _ _ hd.symm
  have hself : (s.updDie die (fun d => { d with grant := grant })).dieAt die = { s.dieAt die with grant := grant } :=
    State.dieAt_updDie_self ..
  split
  · next hlow =>
    cases he : s.enableNext die cool with
    | none =>
      refine ⟨⟨by rw [State.slotBack, hself], fun x l _ h => ?_, fun h => absurd hlow (by omega)⟩, fun d hd => ⟨hdie d hd, fun _ _ => rfl⟩, rfl⟩
      rw [he] at h
      cases h
    | some e =>
      obtain ⟨c, j⟩ := e
      refine ⟨⟨by rw [State.slotBack_dieAt, hself], fun x l _ h => ?_, fun h => absurd hlow (by omega)⟩,
        fun d hd => ⟨hdie d hd, fun x hx => ?_⟩, rfl⟩
      · obtain ⟨rfl, rfl⟩ : c = x ∧ j = l := by
          rw [he] at h
          simpa using h
        exact congrArg Core.disabled (State.coreAt_updCore_self ..)
      · refine State.coreAt_updCore_ne _ _ fun hc => hd ?_
        rw [← dieOfCore_of_mem hx, ← hc, dieOfCore_of_mem (State.enableNext_mem he)]
  · next hlow =>
    exact ⟨⟨by rw [State.slotBack, hself], fun x l h => absurd h hlow, fun _ _ _ => rfl⟩, fun d hd => ⟨hdie d hd, fun _ _ => rfl⟩, rfl⟩

end

/-- The parts of a grant, die by die. -/
def State.grantDies (s : State) (pkg : Nat) (cool : List Nat) (l : List ((Nat × Nat) × Nat)) : State :=
  l.foldl (fun s e => s.grantDie (pkg * 4 + e.2) e.1.1 e.1.2 cool) s

theorem State.grantDies_granted {pkg : Nat} {cool : List Nat} {l : List ((Nat × Nat) × Nat)}
    (hl : (l.map (fun e => e.2)).Nodup) (s : State) :
    (∀ e ∈ l, Granted (pkg * 4 + e.2) e.1.1 e.1.2 cool s (s.grantDies pkg cool l)) ∧
      (∀ d, (∀ e ∈ l, d ≠ pkg * 4 + e.2) → SameDie d s (s.grantDies pkg cool l)) ∧
      (s.grantDies pkg cool l).pkgs = s.pkgs := by
  induction l generalizing s with
  | nil => exact ⟨by simp, fun _ _ => ⟨rfl, fun _ _ => rfl⟩, rfl⟩
  | cons a l ih =>
    obtain ⟨hnot, hl⟩ := List.nodup_cons.mp hl
    obtain ⟨hone, hother, hpkgs⟩ := s.grantDie_granted (pkg * 4 + a.2) a.1.1 a.1.2 cool
    obtain ⟨hrest, hsame, hp⟩ := ih hl (s.grantDie (pkg * 4 + a.2) a.1.1 a.1.2 cool)
    have hne (e : (Nat × Nat) × Nat) (he : e ∈ l) : e.2 ≠ a.2 := fun h => hnot (List.mem_map.mpr ⟨e, he, h⟩)
    refine ⟨fun e he => ?_, fun d hd => ?_, hp.trans hpkgs⟩
    · rcases List.mem_cons.mp he with rfl | he
      · exact hone.after (hsame _ fun x hx => by have := hne x hx; omega)
      · exact (hrest e he).before (hother _ (by have := hne e he; omega))
    · exact (hother d (hd a (by simp))).trans (hsame d fun e he => hd e (by simp [he]))

/-- The parts of a grant by number. -/
theorem grants_zip {grants avgs : List Nat} (hg : grants.length = 4) (ha : avgs.length = 4) :
    ((grants.zip avgs).zip (List.range 4)).map (fun e => e.2) = List.range 4 ∧
      ∀ j < 4, (((grants[j]?).getD 0, (avgs[j]?).getD 0), j) ∈ (grants.zip avgs).zip (List.range 4) := by
  constructor
  · rw [show (fun e : (Nat × Nat) × Nat => e.2) = Prod.snd from rfl, List.map_snd_zip]
    simp [hg, ha]
  · intro j hj
    rw [List.mem_iff_getElem]
    exact ⟨j, by simp [hg, ha, hj], by simp [hg, ha, hj]⟩

/-- What a grant asks for (R58). -/
def grantOk (grants avgs : List Nat) (reserve : Nat) : Prop :=
  grants.length = 4 ∧ avgs.length = 4 ∧ (∀ g ∈ grants, 350 ≤ g) ∧ grants.foldl (· + ·) reserve ≤ 4200

theorem grantOk_iff (grants avgs : List Nat) (reserve : Nat) : grantOk grants avgs reserve ↔
    (grants.length == 4 && avgs.length == 4 && grants.all (fun g => decide (350 ≤ g)) &&
      decide (grants.foldl (· + ·) reserve ≤ powerRating)) = true := by
  simp only [grantOk, Bool.and_eq_true, beq_iff_eq, List.all_eq_true, decide_eq_true_eq, and_assoc]
  rfl

section

variable {s : State} {pkg reserve : Nat} {grants avgs cool : List Nat}

theorem doPowerGrant_grants (hok : grantOk grants avgs reserve)
    (hd : ∀ b, (s.pkgAt pkg).grantAt = some b → b + Config.nsToCycles 10000 ≤ s.cycle) :
    doPowerGrant pkg grants avgs reserve cool s =
      (s.updPkg pkg (fun p => { p with grantAt := some s.cycle })).grantDies pkg cool
        ((grants.zip avgs).zip (List.range 4)) := by
  have hdue : (match (s.pkgAt pkg).grantAt with
    | none => true
    | some c => decide (c + Config.nsToCycles 10000 ≤ s.cycle)) = true := by
    cases h : (s.pkgAt pkg).grantAt with
    | none => rfl
    | some b => exact decide_eq_true (hd b h)
  exact if_pos (Bool.and_eq_true_iff.mpr ⟨(grantOk_iff ..).mp hok, hdue⟩)

theorem doPowerGrant_stays (hok : ¬ grantOk grants avgs reserve) : doPowerGrant pkg grants avgs reserve cool s = s :=
  if_neg fun h => hok ((grantOk_iff ..).mpr (Bool.and_eq_true_iff.mp h).1)

end

/-! ## Slots that are shed (R59) -/

/-- The highest slot of a core that may go. -/
def Core.sheds (c : Core) (j : Nat) : Prop :=
  j < 8 ∧ j ≠ 0 ∧ j ≠ c.ovh ∧ c.disabled.getLsbD j = false ∧
    ∀ l < 8, j < l → l = c.ovh ∨ c.disabled.getLsbD l = true

theorem Core.sheds_of_shedSlot {c : Core} {j : Nat} (h : c.shedSlot = some j) : c.sheds j := by
  obtain ⟨hp, as, bs, hl, hfail⟩ := List.find?_eq_some_iff_append.mp h
  have hj : j < 8 := by
    have : j ∈ (List.range 8).reverse := by simp [hl]
    simpa using this
  have hsorted : (as ++ j :: bs).Pairwise (fun a b => b < a) := by
    rw [← hl, List.pairwise_reverse]
    exact List.pairwise_lt_range
  obtain ⟨⟨h0, hovh⟩, hdis⟩ : (j ≠ 0 ∧ j ≠ c.ovh) ∧ c.disabled.getLsbD j = false := by
    simpa [-BitVec.getLsbD_eq_getElem] using hp
  refine ⟨hj, h0, hovh, hdis, fun l hl8 hlt => ?_⟩
  have hmem : l ∈ as := by
    have hin : l ∈ as ++ j :: bs := by
      rw [← hl]
      simpa using hl8
    rcases List.mem_append.mp hin with ha | hb
    · exact ha
    · rcases List.mem_cons.mp hb with rfl | hb
      · omega
      · have := (List.pairwise_cons.mp (List.pairwise_append.mp hsorted).2.1).1 l hb
        omega
  have hno := hfail l hmem
  have hl0 : l ≠ 0 := by omega
  by_contra hkeep
  obtain ⟨hlo, hld⟩ := not_or.mp hkeep
  simp [-BitVec.getLsbD_eq_getElem, hl0, hlo, hld] at hno

/-- The better of a core and the best one so far. -/
def State.shedBest (s : State) (best : Option Nat) (c : Nat) : Option Nat :=
  if (s.coreAt c).shedSlot.isNone then best
  else
    match best with
    | none => some c
    | some b => if enabledSlots (s.coreAt b) ≤ enabledSlots (s.coreAt c) then some c else some b

/-- A core that has a slot to give up, with no fewer enabled slots than any other such core of the list and than the
best before it. -/
def State.Sheds (s : State) (l : List Nat) (best : Option Nat) (x : Nat) : Prop :=
  (x ∈ l ∨ best = some x) ∧ (s.coreAt x).shedSlot.isSome = true ∧
    (∀ y ∈ l, (s.coreAt y).shedSlot.isSome = true → enabledSlots (s.coreAt y) ≤ enabledSlots (s.coreAt x)) ∧
    ∀ y, best = some y → enabledSlots (s.coreAt y) ≤ enabledSlots (s.coreAt x)

theorem State.shedBest_foldl {s : State} (l : List Nat) (best : Option Nat)
    (hb : ∀ b, best = some b → (s.coreAt b).shedSlot.isSome = true)
    (h : (∃ y ∈ l, (s.coreAt y).shedSlot.isSome = true) ∨ best.isSome = true) :
    ∃ x, l.foldl s.shedBest best = some x ∧ s.Sheds l best x := by
  induction l generalizing best with
  | nil =>
    rcases h with ⟨y, hy, _⟩ | h
    · cases hy
    · obtain ⟨b, rfl⟩ := Option.isSome_iff_exists.mp h
      exact ⟨b, rfl, .inr rfl, hb b rfl, by simp, fun y hy => by cases hy; exact le_rfl⟩
  | cons a l ih =>
    rw [List.foldl_cons]
    by_cases ha : (s.coreAt a).shedSlot.isSome = true
    · have hstep : ∃ c, s.shedBest best a = some c ∧ (c = a ∨ best = some c) ∧
          enabledSlots (s.coreAt a) ≤ enabledSlots (s.coreAt c) ∧
          ∀ y, best = some y → enabledSlots (s.coreAt y) ≤ enabledSlots (s.coreAt c) := by
        have hno : ¬ (s.coreAt a).shedSlot.isNone = true := by simpa [Option.isSome_iff_ne_none] using ha
        unfold State.shedBest
        rw [if_neg hno]
        cases best with
        | none => exact ⟨a, rfl, .inl rfl, le_rfl, by simp⟩
        | some b =>
          dsimp only
          split
          · next hle => exact ⟨a, rfl, .inl rfl, le_rfl, fun y hy => by cases hy; exact hle⟩
          · next hle => exact ⟨b, rfl, .inr rfl, by omega, fun y hy => by cases hy; exact le_rfl⟩
      obtain ⟨c, hc, hfrom, hac, hbest⟩ := hstep
      rw [hc]
      obtain ⟨x, hx, hin, hsome, hall, hge⟩ := ih (some c) (fun b hcb => by
        cases hcb
        rcases hfrom with rfl | hf
        · exact ha
        · exact hb c hf) (.inr rfl)
      refine ⟨x, hx, ?_, hsome, fun y hy hys => ?_, fun y hy => (hbest y hy).trans (hge c rfl)⟩
      · rcases hin with hin | hin
        · exact .inl (List.mem_cons_of_mem _ hin)
        · obtain rfl : c = x := Option.some.inj hin
          rcases hfrom with rfl | hf
          · exact .inl (by simp)
          · exact .inr hf
      · rcases List.mem_cons.mp hy with rfl | hy
        · exact hac.trans (hge c rfl)
        · exact hall y hy hys
    · have hstep : s.shedBest best a = best := if_pos (by simpa using ha)
      rw [hstep]
      obtain ⟨x, hx, hin, hsome, hall, hge⟩ := ih best hb (h.imp_left fun ⟨y, hy, hys⟩ => by
        rcases List.mem_cons.mp hy with rfl | hy
        · exact absurd hys ha
        · exact ⟨y, hy, hys⟩)
      refine ⟨x, hx, hin.imp_left (List.mem_cons_of_mem _), hsome, fun y hy hys => ?_, hge⟩
      rcases List.mem_cons.mp hy with rfl | hy
      · exact absurd hys ha
      · exact hall y hy hys

section

variable {s : State} {die core avg : Nat}

/-- The current exceeds the grant: the highest slot that may go, on the core with the most (R59). -/
theorem doCurrentDisable_sheds (hg : (s.dieAt die).grant < avg) (hm : microPassed s.cycle (s.dieAt die).disableAt = true)
    (hx : ∃ x ∈ dieCores die, (s.coreAt x).shedSlot.isSome = true) :
    ∃ x j, x ∈ dieCores die ∧ (s.coreAt x).sheds j ∧
      (∀ y ∈ dieCores die, (s.coreAt y).shedSlot.isSome = true → enabledSlots (s.coreAt y) ≤ enabledSlots (s.coreAt x)) ∧
      doCurrentDisable die avg s = (s.disableSlot x j).updDie die (fun d => { d with disableAt := some s.cycle }) := by
  obtain ⟨x, hcore, hin, hsome, hall, _⟩ := State.shedBest_foldl (s := s) (dieCores die) none (by simp) (.inl hx)
  obtain ⟨j, hj⟩ := Option.isSome_iff_exists.mp hsome
  have hshed : s.shedCore die = some x := hcore
  refine ⟨x, j, hin.resolve_right (by simp), Core.sheds_of_shedSlot hj, hall, ?_⟩
  unfold doCurrentDisable
  simp only [Nat.not_le.mpr hg, hm, decide_false, Bool.not_true, Bool.or_self, Bool.false_eq_true, if_false, hshed, hj]

theorem doCurrentDisable_stays (hg : avg ≤ (s.dieAt die).grant) : doCurrentDisable die avg s = s :=
  if_pos (by simp [hg])

theorem doThermalDisable_sheds (hm : microPassed s.cycle (s.coreAt core).heatAt = true)
    (hx : (s.coreAt core).shedSlot.isSome = true) :
    ∃ j, (s.coreAt core).sheds j ∧
      doThermalDisable core s = (s.disableSlot core j).updCore core (fun c => { c with heatAt := some s.cycle }) := by
  obtain ⟨j, hj⟩ := Option.isSome_iff_exists.mp hx
  refine ⟨j, Core.sheds_of_shedSlot hj, ?_⟩
  unfold doThermalDisable
  simp only [hm, hj, Bool.not_true, Bool.false_eq_true, if_false]

end

/-! ## Displacement (R60, R70, R112) -/

/-- A table without a number has no entry under it. -/
theorem ne_of_mapGet_none {α : Type} {m : List (Nat × α)} {n : Nat} (h : mapGet m n = none) {e : Nat × α} (he : e ∈ m) :
    e.1 ≠ n := by
  induction m with
  | nil => cases he
  | cons a t ih =>
    obtain ⟨k, v⟩ := a
    rw [mapGet_cons] at h
    split at h
    · cases h
    · next hk =>
      rcases List.mem_cons.mp he with rfl | he
      · exact hk
      · exact ih h he

/-- A thread that no grant of registers of a core can reach: it stands alone in its place, and its number is not in the
core's queue. -/
structure State.Apart (s : State) (core k : Nat) (u : Thread) : Prop where
  here : s.thread? k = some u
  alone : ∀ e ∈ s.threads, e.1 = k → e.2.uid = u.uid
  unqueued : u.uid ∉ (s.coreAt core).growQ

theorem State.Apart.grantGrow {s : State} {core k : Nat} {u : Thread} (h : s.Apart core k u) :
    (s.grantGrow core).Apart core k u := by
  unfold State.grantGrow
  generalize (s.coreAt core).growQ.length = fuel
  induction fuel generalizing s with
  | zero => exact h
  | succ n ih =>
    unfold State.grantGrow.go
    split
    · exact h
    · next uid rest hq =>
      split
      · next tid t htid =>
        have hne : tid ≠ k := by
          obtain ⟨i, hi, hj⟩ := Option.bind_eq_some_iff.mp htid
          obtain ⟨y, _, hy⟩ := Option.map_eq_some_iff.mp hj
          obtain rfl : i = tid := congrArg Prod.fst hy
          obtain ⟨e, he, rfl⟩ := Option.map_eq_some_iff.mp hi
          intro hk
          refine h.unqueued ?_
          rw [hq, ← h.alone e (List.mem_of_find?_eq_some he) hk, show e.2.uid = uid by simpa using List.find?_some he]
          simp
        split
        · split
          · refine ih ⟨?_, fun e he hek => ?_, ?_⟩
            · rw [State.thread_setThread_ne _ _ hne]
              exact h.here
            · rcases mem_mapPut he with rfl | he
              · exact absurd hek hne
              · exact h.alone e he hek
            · show u.uid ∉ ((s.updCore core (fun c => { c with growQ := rest })).coreAt core).growQ
              rw [State.coreAt_updCore_self]
              exact fun hm => h.unqueued (by rw [hq]; exact List.mem_cons_of_mem _ hm)
          · exact h
        · exact h
      · exact h

/-- What a displaced thread takes with it. -/
theorem Thread.displaced_eq (t : Thread) (same : Bool) : ∃ mail park,
    t.displaced same = { t with fbuf := [], ahead := [], mail := mail, park := park } := by
  unfold Thread.displaced
  dsimp only
  split
  · exact ⟨_, _, rfl⟩
  · split <;> exact ⟨_, _, rfl⟩
  · exact ⟨_, _, rfl⟩
  · exact ⟨_, _, rfl⟩
  · exact ⟨_, _, rfl⟩
  · exact ⟨_, _, rfl⟩
  · split <;> exact ⟨_, _, rfl⟩
  · exact ⟨_, _, rfl⟩

theorem State.freeSlot_vacant {s : State} {core j : Nat} (h : s.freeSlot core = some j) : s.thread? (core * 8 + j) = none := by
  unfold State.freeSlot at h
  dsimp only at h
  split at h
  · cases h
  · have := List.find?_some h
    simp_all

theorem State.coolCore_vacant {s : State} {die alot x j : Nat} (h : s.coolCore die alot = some (x, j)) :
    s.thread? (x * 8 + j) = none := by
  obtain ⟨n, _, hn⟩ := List.exists_of_findSome?_eq_some h
  dsimp only at hn
  split at hn
  · obtain ⟨i, hi, he⟩ := Option.map_eq_some_iff.mp hn
    cases he
    exact State.freeSlot_vacant hi
  · cases hn

/-- The thread has moved, and its old slot is free. -/
def State.displacing (s : State) (tid x j : Nat) (h : Thread) (same : Bool) : State :=
  let core := coreOfTid tid
  let s1 : State := { s with threads := mapDel s.threads tid }
  let s2 := s1.updCore core (fun c => { c with growQ := setDel c.growQ h.uid })
  let s3 := if same then s2 else s2.updQuad (quadOfCore core) (fun q => { q with posts := setDel q.posts h.uid })
  ((s3.setThread (x * 8 + j) (h.displaced same)).updCore x (fun c => { c with lsOn := true })).slotFreed core (slotOfTid tid)

theorem State.displacing_frame (s : State) (tid x j : Nat) (h : Thread) (same : Bool) :
    (s.displacing tid x j h same).threads = mapPut (mapDel s.threads tid) (x * 8 + j) (h.displaced same) ∧
      ((s.displacing tid x j h same).coreAt (coreOfTid tid)).growQ = setDel (s.coreAt (coreOfTid tid)).growQ h.uid := by
  unfold State.displacing
  refine ⟨by split <;> rfl, ?_⟩
  have hq : ∀ u : State, (u.coreAt (coreOfTid tid)).growQ = setDel (s.coreAt (coreOfTid tid)).growQ h.uid →
      ((((u.setThread (x * 8 + j) (h.displaced same)).updCore x (fun c => { c with lsOn := true })).slotFreed (coreOfTid tid)
        (slotOfTid tid)).coreAt (coreOfTid tid)).growQ = setDel (s.coreAt (coreOfTid tid)).growQ h.uid := by
    intro u hu
    rw [State.slotFreed, State.coreAt_updCore_self]
    show (State.coreAt (State.updCore ..) (coreOfTid tid)).growQ = _
    rw [State.coreAt_updCore]
    split <;> exact hu
  have hcore : ((State.updCore { s with threads := mapDel s.threads tid } (coreOfTid tid)
      (fun c => { c with growQ := setDel c.growQ h.uid })).coreAt (coreOfTid tid)).growQ =
        setDel (s.coreAt (coreOfTid tid)).growQ h.uid := congrArg Core.growQ (State.coreAt_updCore_self ..)
  split
  · exact hq _ hcore
  · exact hq _ hcore

/-- A displaced thread stands in its new slot, and its old slot is vacant. -/
theorem doDisplacement_moves {s : State} {tid x j : Nat} {h : Thread} (ht : s.thread? tid = some h)
    (hd : (s.coreAt (coreOfTid tid)).disabled.getLsbD (slotOfTid tid) = true) (hr : s.coreRuns (coreOfTid tid) = true)
    (hl : s.mayLeave (coreOfTid tid) h = true) (hc : s.coolCore (dieOfCore (coreOfTid tid)) h.alot = some (x, j)) :
    (doDisplacement tid s).thread? tid = none ∧
      ∃ same, (doDisplacement tid s).thread? (x * 8 + j) = some (h.displaced same) := by
  have hvac := State.coolCore_vacant hc
  have hne : x * 8 + j ≠ tid := fun e => by simp [e, ht] at hvac
  have huid (same : Bool) : (h.displaced same).uid = h.uid := by
    obtain ⟨_, _, e⟩ := h.displaced_eq same
    rw [e]
  obtain ⟨same, hstep⟩ : ∃ same, doDisplacement tid s = (s.displacing tid x j h same).grantGrow (coreOfTid tid) := by
    refine ⟨quadOfCore x == quadOfCore (coreOfTid tid), ?_⟩
    unfold doDisplacement
    simp only [ht, hd, hr, hl, hc, Bool.not_true, Bool.or_self, Bool.false_eq_true, if_false]
    rfl
  obtain ⟨hthreads, hqueue⟩ := s.displacing_frame tid x j h same
  have hapart : (s.displacing tid x j h same).Apart (coreOfTid tid) (x * 8 + j) (h.displaced same) := by
    refine ⟨?_, fun e he hek => ?_, ?_⟩
    · rw [State.thread?, hthreads]
      exact mapGet_put_self ..
    · rw [hthreads] at he
      rcases mem_mapPut he with rfl | he
      · rfl
      · exact absurd hek (ne_of_mapGet_none hvac (mem_mapDel he))
    · rw [hqueue, huid]
      simp [setDel]
  refine ⟨?_, same, ?_⟩
  · rw [hstep]
    refine (Served.refl _).grantGrow.vacant ?_
    rw [State.thread?, hthreads, mapGet_put_ne _ _ hne]
    exact mapGet_del_self ..
  · rw [hstep]
    exact hapart.grantGrow.here

end Sys2Proof.Machine
end

section
/-! SUPPORT. The local store of a core as it moves to another core of its die (R236). -/
namespace Sys2Proof.Machine

/-! ## Bytes of memory (R3) -/

/-- Entries chosen by their numbers. -/
theorem mapGet_filter_key {α : Type} (m : List (Nat × α)) (p : Nat → Bool) (a : Nat) :
    mapGet (m.filter (fun c => p c.1)) a = if p a then mapGet m a else none := by
  induction m with
  | nil => simp
  | cons c m ih =>
    obtain ⟨k, v⟩ := c
    rw [List.filter_cons]
    by_cases hk : k = a
    · subst hk
      by_cases hp : p k = true <;> simp [hp, mapGet_cons, ih]
    · by_cases hp : p k = true <;> simp [hp, mapGet_cons, ih, hk]

theorem Memory.read_clear (m : List Host.Cell) (lo hi a : Nat) :
    Memory.read (Memory.clear m lo hi) a = if lo ≤ a ∧ a < hi then Config.coldByte else Memory.read m a := by
  unfold Memory.read Memory.clear
  rw [mapGet_filter_key m (fun k => !(decide (lo ≤ k) && decide (k < hi)))]
  by_cases h : lo ≤ a ∧ a < hi
  · simp [h]
  · rw [if_neg h, if_pos (by simp; omega)]

/-- Bytes written elsewhere leave a byte. -/
theorem Memory.read_writeBack_ne {m l : List Host.Cell} {a : Nat} (h : ∀ c ∈ l, c.1 ≠ a) :
    Memory.read (writeBack m l) a = Memory.read m a := by
  induction l with
  | nil => rfl
  | cons c l ih =>
    exact (Memory.read_write_ne c.2 (h c (by simp))).trans (ih fun x hx => h x (by simp [hx]))

/-- Bytes written under other addresses are read there. -/
theorem Memory.read_moved {f : Nat → Nat} {a : Nat} {l : List Host.Cell} (hn : (l.map Prod.fst).Nodup)
    (hf : ∀ c ∈ l, f c.1 = f a → c.1 = a) (m : List Host.Cell) :
    Memory.read (l.foldl (fun m c => Memory.write m (f c.1) c.2) m) (f a) = (mapGet l a).getD (Memory.read m (f a)) := by
  induction l generalizing m with
  | nil => rfl
  | cons c l ih =>
    obtain ⟨hnot, hn⟩ := List.nodup_cons.mp hn
    rw [List.foldl_cons, ih hn fun x hx => hf x (by simp [hx])]
    obtain ⟨k, v⟩ := c
    rw [mapGet_cons]
    by_cases hk : k = a
    · subst hk
      have hnone : mapGet l k = none := by
        cases hg : mapGet l k with
        | none => rfl
        | some b => exact absurd (List.mem_map_of_mem (f := Prod.fst) (mem_of_mapGet hg)) hnot
      rw [hnone, if_pos rfl]
      exact Memory.read_write_self ..
    · rw [if_neg hk, Memory.read_write_ne v fun e => hk (hf (k, v) (by simp) e)]

/-! ## A slice without visitor lines gives up its lines (R151, R352) -/

/-- Bytes outside HBM, and all that is no memory, are as before. -/
structure Emptied (s t : State) : Prop where
  frame : ∃ mem slice dirs, t = { s with mem := mem, slice := slice, dirs := dirs }
  sliceHbm : t.SliceHbm
  read : ∀ pa, isHbm pa = false → Memory.read t.mem pa = Memory.read s.mem pa

theorem Emptied.trans {s t u : State} (h : Emptied s t) (g : Emptied t u) : Emptied s u := by
  obtain ⟨⟨_, _, _, rfl⟩, _, hread⟩ := h
  obtain ⟨⟨mem, slice, dirs, rfl⟩, hs, gread⟩ := g
  exact ⟨⟨mem, slice, dirs, rfl⟩, hs, fun pa hp => (gread pa hp).trans (hread pa hp)⟩

theorem Emptied.refl {s : State} (h : s.SliceHbm) : Emptied s s := ⟨⟨_, _, _, rfl⟩, h, fun _ _ => rfl⟩

theorem State.dropLine_emptied {s : State} (h : s.SliceHbm) (line : Nat) :
    Emptied s ((s.cleanSlice line).dropSlice line) := by
  refine ⟨⟨_, _, _, rfl⟩, fun c hc => ?_, fun pa hp => ?_⟩
  · exact h c (List.mem_of_mem_filter (List.mem_of_mem_filter hc))
  · refine Memory.read_writeBack_ne fun c hc e => ?_
    rw [← e, h c (List.mem_of_mem_filter hc)] at hp
    cases hp

theorem State.emptySlice_emptied {s : State} (h : s.SliceHbm) (hv : s.visitors = []) (core : Nat) :
    Emptied s (s.emptySlice core) := by
  have hnone : s.sliceVisitors core = [] := by simp [State.sliceVisitors, hv]
  have hall (l : List Nat) : ∀ u : State, Emptied s u → Emptied s (l.foldl (fun s l => (s.cleanSlice l).dropSlice l) u) := by
    induction l with
    | nil => exact fun u hu => hu
    | cons a l ih => exact fun u hu => ih _ (hu.trans (State.dropLine_emptied hu.sliceHbm a))
  unfold State.emptySlice
  dsimp only
  rw [hnone, List.foldl_nil]
  obtain ⟨⟨mem, slice, dirs, he⟩, hs, hread⟩ :=
    hall (firsts ((s.slice.filter (fun c => homeCore c.1 == some core)).map (fun c => c.1 / 64))) s (.refl h)
  rw [he] at hs hread ⊢
  exact ⟨⟨mem, slice, _, rfl⟩, hs, hread⟩

/-- Nothing is waited for where no visitor line stands. -/
theorem State.sliceWait_none {s : State} (hv : s.visitors = []) (core : Nat) : s.sliceWait core = none := by
  simp [State.sliceWait, State.sliceVisitors, hv, State.linesWait, State.askLines, State.firstAsked]

/-! ## The bytes of a local store move (R236) -/

section

variable {src dst : Nat} (hne : src ≠ dst) (hdie : dieOfCore dst = dieOfCore src)
include hne hdie

/-- The local stores of two cores of a die lie apart. -/
theorem lsBase_apart : lsBase src + 2 ^ 19 ≤ lsBase dst ∨ lsBase dst + 2 ^ 19 ≤ lsBase src := by
  unfold dieOfCore at hdie
  unfold lsBase
  omega

end

theorem moveAddr_inside {src dst o : Nat} (h : o < 2 ^ 19) : moveAddr src dst (lsBase src + o) = lsBase dst + o := by
  have hin : (decide (lsBase src ≤ lsBase src + o) && decide (lsBase src + o < lsBase src + 2 ^ 19)) = true := by
    simp only [Bool.and_eq_true, decide_eq_true_eq]
    omega
  rw [moveAddr, if_pos hin, Nat.add_sub_cancel_left]

/-- The cells of a core's local store. -/
def hereIn (src size pa : Nat) : Bool := decide (lsBase src ≤ pa) && decide (pa < lsBase src + size)

/-- The bytes once a local store has moved. -/
def movedMem (src dst size : Nat) (m : List Host.Cell) : List Host.Cell :=
  Memory.clear ((m.filter (fun c => hereIn src size c.1)).foldl (fun m c => Memory.write m (moveAddr src dst c.1) c.2)
    (Memory.clear m (lsBase dst) (lsBase dst + size))) (lsBase src) (lsBase src + size)

/-- A byte of the target is what the source's was. -/
theorem read_movedMem {src dst size o : Nat} {m : List Host.Cell} (hw : Memory.wf m = true) (hs : size ≤ 2 ^ 19)
    (hap : lsBase src + 2 ^ 19 ≤ lsBase dst ∨ lsBase dst + 2 ^ 19 ≤ lsBase src) (ho : o < size) :
    Memory.read (movedMem src dst size m) (lsBase dst + o) = Memory.read m (lsBase src + o) := by
  have hrise : ((m.filter (fun c => hereIn src size c.1)).map Prod.fst).Pairwise (· < ·) := by
    rw [← mapRising_iff]
    exact mapRising_filter ((Memory.wf_iff m).mp hw).1 _
  have hnodup : ((m.filter (fun c => hereIn src size c.1)).map Prod.fst).Nodup := hrise.imp fun h => Nat.ne_of_lt h
  have hinj : ∀ c ∈ m.filter (fun c => hereIn src size c.1),
      moveAddr src dst c.1 = moveAddr src dst (lsBase src + o) → c.1 = lsBase src + o := by
    intro c hc he
    have hin : hereIn src size c.1 = true := (List.mem_filter.mp hc).2
    obtain ⟨hlo, hhi⟩ : lsBase src ≤ c.1 ∧ c.1 < lsBase src + size := by simpa [hereIn] using hin
    obtain ⟨k, hk⟩ := Nat.exists_eq_add_of_le hlo
    rw [hk, moveAddr_inside (by omega), moveAddr_inside (by omega)] at he
    omega
  have hget : mapGet (m.filter (fun c => hereIn src size c.1)) (lsBase src + o) = mapGet m (lsBase src + o) := by
    rw [mapGet_filter_key, if_pos]
    simp only [hereIn, Bool.and_eq_true, decide_eq_true_eq]
    omega
  have haddr : moveAddr src dst (lsBase src + o) = lsBase dst + o := moveAddr_inside (by omega)
  have hmoved := Memory.read_moved hnodup hinj (Memory.clear m (lsBase dst) (lsBase dst + size))
  rw [haddr, hget, Memory.read_clear, if_pos ⟨by omega, by omega⟩] at hmoved
  rw [movedMem, Memory.read_clear, if_neg (by omega), hmoved]
  rfl

/-- A state whose tags, seam fields and poison alone differ. -/
def TagsOnly (r s : State) : Prop := ∃ tags seams poison, s = { r with tags := tags, seams := seams, poison := poison }

theorem TagsOnly.refl (s : State) : TagsOnly s s := ⟨_, _, _, rfl⟩

theorem TagsOnly.trans {r s t : State} (h : TagsOnly r s) (g : TagsOnly s t) : TagsOnly r t := by
  obtain ⟨_, _, _, rfl⟩ := h
  obtain ⟨tags, seams, poison, rfl⟩ := g
  exact ⟨tags, seams, poison, rfl⟩

theorem TagsOnly.foldl {α : Type} {r s : State} {f : State → α → State} (h : TagsOnly r s)
    (hf : ∀ u a, TagsOnly u (f u a)) (l : List α) : TagsOnly r (l.foldl f s) := by
  induction l generalizing s with
  | nil => exact h
  | cons a l ih => exact ih (h.trans (hf s a))

theorem State.setSeam_tagsOnly (s : State) (pa : Nat) (v : BitVec 16) : TagsOnly s (s.setSeam pa v) := by
  unfold State.setSeam
  split <;> exact ⟨_, _, _, rfl⟩

/-- The tags, seam fields and poison of a local store, moved. -/
def State.moveTags (s : State) (src dst size : Nat) (u : State) : State :=
  (s.poison.filter (hereIn src size)).foldl (fun (u : State) g => { u with poison := setIns u.poison (moveAddr src dst g) })
    ((s.seams.filter (fun e => hereIn src size (e.1 * 64))).foldl
      (fun (u : State) e => u.setSeam (moveAddr src dst (e.1 * 64)) e.2)
      ((s.tags.filter (fun w => hereIn src size (w * 8))).foldl
        (fun (u : State) w => u.setTag (moveAddr src dst (w * 8)) true) u))

theorem State.moveTags_tagsOnly (s : State) (src dst size : Nat) (u : State) : TagsOnly u (s.moveTags src dst size u) :=
  TagsOnly.foldl (TagsOnly.foldl (TagsOnly.foldl (.refl u) (fun _ _ => ⟨_, _, _, rfl⟩) _)
    (fun u _ => u.setSeam_tagsOnly ..) _) (fun _ _ => ⟨_, _, _, rfl⟩) _

/-- The bytes of a local store written to their new addresses. -/
def State.moveCells (s : State) (src dst size : Nat) (u : State) : State :=
  { u with
    mem := (s.mem.filter (fun c => hereIn src size c.1)).foldl (fun m c => Memory.write m (moveAddr src dst c.1) c.2) u.mem }

theorem State.moveStore_eq (s : State) (src dst size : Nat) : s.moveStore src dst size =
    (s.moveTags src dst size (s.moveCells src dst size (s.clearStore dst 0 size))).clearStore src 0 size := by
  have hmem (l : List Host.Cell) : ∀ u : State,
      l.foldl (fun (s : State) c => { s with mem := Memory.write s.mem (moveAddr src dst c.1) c.2 }) u =
        { u with mem := l.foldl (fun m c => Memory.write m (moveAddr src dst c.1) c.2) u.mem } := by
    induction l with
    | nil => exact fun _ => rfl
    | cons c l ih => exact fun u => ih _
  unfold State.moveStore State.moveTags State.moveCells hereIn
  dsimp only
  rw [hmem]

theorem TagsOnly.bytesOnly {r s : State} (h : TagsOnly r s) : BytesOnly r s := by
  obtain ⟨tags, seams, poison, rfl⟩ := h
  exact ⟨_, tags, seams, poison, rfl⟩

theorem TagsOnly.mem {r s : State} (h : TagsOnly r s) : s.mem = r.mem := by
  obtain ⟨_, _, _, rfl⟩ := h
  rfl

theorem State.clearStore_bytesOnly (s : State) (core lo hi : Nat) : BytesOnly s (s.clearStore core lo hi) := ⟨_, _, _, _, rfl⟩

theorem State.clearStore_mem (s : State) (core lo hi : Nat) :
    (s.clearStore core lo hi).mem = Memory.clear s.mem (lsBase core + lo) (lsBase core + hi) := rfl

theorem State.moveCells_bytesOnly (s : State) (src dst size : Nat) (u : State) : BytesOnly u (s.moveCells src dst size u) :=
  ⟨_, _, _, _, rfl⟩

theorem State.moveCells_mem (s : State) (src dst size : Nat) (u : State) : (s.moveCells src dst size u).mem =
    (s.mem.filter (fun c => hereIn src size c.1)).foldl (fun m c => Memory.write m (moveAddr src dst c.1) c.2) u.mem := rfl

/-- What a move of local store changes. -/
theorem State.moveStore_frame (s : State) (src dst size : Nat) :
    BytesOnly s (s.moveStore src dst size) ∧ (s.moveStore src dst size).mem = movedMem src dst size s.mem := by
  have htags := s.moveTags_tagsOnly src dst size (s.moveCells src dst size (s.clearStore dst 0 size))
  rw [State.moveStore_eq]
  refine ⟨?_, ?_⟩
  · exact (((s.clearStore_bytesOnly dst 0 size).trans (s.moveCells_bytesOnly ..)).trans htags.bytesOnly).trans
      (State.clearStore_bytesOnly ..)
  · rw [State.clearStore_mem, htags.mem, State.moveCells_mem, State.clearStore_mem, Nat.add_zero, Nat.add_zero, movedMem]

end Sys2Proof.Machine
end

section
/-! The theorem that settles O52: power grants, slot shedding, displacement and the migration of a core (R58 to R61,
R112, R236, R237). -/
namespace Sys2Proof.Machine

/-! ## The threads of a core move (R236) -/

/-- A thread of the source, moved to the slot of the target. -/
def State.moveThread (w : Thread → Option Park) (dst : Nat) (s : State) (e : Nat × Thread) : State :=
  State.setThread { s with threads := mapDel s.threads e.1 } (dst * 8 + slotOfTid e.1) { e.2 with fbuf := [], park := w e.2 }

theorem State.moveThread_thread (w : Thread → Option Park) (dst : Nat) (s : State) (e : Nat × Thread) (k : Nat) :
    (s.moveThread w dst e).thread? k = if dst * 8 + slotOfTid e.1 = k then some { e.2 with fbuf := [], park := w e.2 }
      else if e.1 = k then none else s.thread? k := by
  rw [State.moveThread, State.thread_setThread]
  split
  · rfl
  · split
    · next h => subst h; exact mapGet_del_self ..
    · next h => exact mapGet_del_ne _ h

/-- Threads of one core moved to another, slot by slot. -/
theorem State.moveThread_foldl {src dst : Nat} (hne : src ≠ dst) (w : Thread → Option Park) {l : List (Nat × Thread)}
    (hc : ∀ e ∈ l, coreOfTid e.1 = src) (hn : (l.map (fun e => slotOfTid e.1)).Nodup) (s : State) :
    (∀ e ∈ l, (l.foldl (State.moveThread w dst) s).thread? (dst * 8 + slotOfTid e.1) =
        some { e.2 with fbuf := [], park := w e.2 } ∧ (l.foldl (State.moveThread w dst) s).thread? e.1 = none) ∧
      ∀ k, (∀ e ∈ l, dst * 8 + slotOfTid e.1 ≠ k ∧ e.1 ≠ k) → (l.foldl (State.moveThread w dst) s).thread? k = s.thread? k := by
  induction l generalizing s with
  | nil => exact ⟨by simp, fun _ _ => rfl⟩
  | cons a l ih =>
    obtain ⟨hnot, hn⟩ := List.nodup_cons.mp hn
    obtain ⟨hmoved, hother⟩ := ih (fun e he => hc e (by simp [he])) hn (s.moveThread w dst a)
    have hca : coreOfTid a.1 = src := hc a (by simp)
    have hslot : a.1 % 8 < 8 := Nat.mod_lt _ (by decide)
    have hne' (e : Nat × Thread) (he : e ∈ l) : slotOfTid e.1 ≠ slotOfTid a.1 := fun h => hnot (List.mem_map.mpr ⟨e, he, h⟩)
    refine ⟨fun e he => ?_, fun k hk => ?_⟩
    · rcases List.mem_cons.mp he with rfl | he
      · rw [List.foldl_cons, hother, hother, State.moveThread_thread, State.moveThread_thread, if_pos rfl, if_neg, if_pos rfl]
        · exact ⟨rfl, rfl⟩
        · unfold slotOfTid
          unfold coreOfTid at hca
          omega
        · intro x hx
          have hcx := hc x (by simp [hx])
          have := hne' x hx
          unfold slotOfTid at *
          unfold coreOfTid at *
          omega
        · intro x hx
          have hcx := hc x (by simp [hx])
          have := hne' x hx
          unfold slotOfTid at *
          unfold coreOfTid at *
          omega
      · exact hmoved e he
    · rw [List.foldl_cons, hother k fun e he => hk e (by simp [he]), State.moveThread_thread, if_neg (hk a (by simp)).1,
        if_neg (hk a (by simp)).2]

theorem State.mem_coreThreads {s : State} {core : Nat} {e : Nat × Thread} :
    e ∈ s.coreThreads core ↔ ∃ j < 8, s.thread? (core * 8 + j) = some e.2 ∧ core * 8 + j = e.1 := by
  obtain ⟨k, t⟩ := e
  simp only [State.coreThreads, List.mem_filterMap, List.mem_range, Option.map_eq_some_iff, Prod.mk.injEq]
  constructor
  · rintro ⟨j, hj, u, hu, hk, rfl⟩
    exact ⟨j, hj, hu, hk⟩
  · rintro ⟨j, hj, hu, hk⟩
    exact ⟨j, hj, t, hu, hk, rfl⟩

theorem State.coreThreads_slots (s : State) (core : Nat) : ((s.coreThreads core).map (fun e => slotOfTid e.1)).Nodup := by
  have hsub : (s.coreThreads core).map (fun e => slotOfTid e.1) =
      (List.range 8).filterMap (fun j => (s.thread? (core * 8 + j)).map (fun _ => j)) := by
    rw [State.coreThreads, List.map_filterMap]
    refine List.filterMap_congr fun j hj => ?_
    have hj8 : j < 8 := List.mem_range.mp hj
    have : slotOfTid (core * 8 + j) = j := by unfold slotOfTid; omega
    cases s.thread? (core * 8 + j) with
    | none => rfl
    | some t => simp [this]
  rw [hsub]
  refine List.Nodup.filterMap (fun a b c ha hb => ?_) List.nodup_range
  obtain ⟨_, _, rfl⟩ := Option.map_eq_some_iff.mp ha
  obtain ⟨_, _, rfl⟩ := Option.map_eq_some_iff.mp hb
  rfl

/-- What a thread waits for in another quad. -/
def Thread.waitMoved (same : Bool) (t : Thread) : Option Park := match t.park with
  | some (.task since) => if same then some (.task since) else none
  | some .unit => if same then some .unit else none
  | p => p

/-- The posts of a quad that its threads leave. -/
def State.leavePosts (s : State) (src : Nat) (same : Bool) : State :=
  if same then s
  else s.updQuad (quadOfCore src) (fun q =>
    { q with posts := q.posts.filter (fun u => !((s.coreThreads src).map (fun e => e.2.uid)).contains u) })

theorem State.leavePosts_quads (s : State) (src : Nat) (same : Bool) : ∃ quads, s.leavePosts src same = { s with quads := quads } := by
  unfold State.leavePosts
  split <;> exact ⟨_, rfl⟩

theorem State.moveThreads_eq (s : State) (src dst : Nat) : s.moveThreads src dst =
    (s.coreThreads src).foldl (State.moveThread (Thread.waitMoved (quadOfCore src == quadOfCore dst)) dst)
      (s.leavePosts src (quadOfCore src == quadOfCore dst)) := rfl

theorem State.moveThreads_frame (s : State) (src dst : Nat) :
    ∃ threads quads, s.moveThreads src dst = { s with threads := threads, quads := quads } := by
  have hfold (w : Thread → Option Park) (l : List (Nat × Thread)) : ∀ u : State,
      ∃ threads, l.foldl (State.moveThread w dst) u = { u with threads := threads } := by
    induction l with
    | nil => exact fun u => ⟨_, rfl⟩
    | cons a l ih =>
      intro u
      obtain ⟨threads, h⟩ := ih (u.moveThread w dst a)
      exact ⟨threads, h⟩
  obtain ⟨quads, hq⟩ := s.leavePosts_quads src (quadOfCore src == quadOfCore dst)
  obtain ⟨threads, ht⟩ := hfold (Thread.waitMoved (quadOfCore src == quadOfCore dst)) (s.coreThreads src) { s with quads := quads }
  exact ⟨threads, quads, by rw [State.moveThreads_eq, hq, ht]⟩

/-- The source's slots are vacant, and the target's hold their threads. -/
theorem State.moveThreads_moved (s : State) {src dst : Nat} (hne : src ≠ dst) {j : Nat} (hj : j < 8) :
    (s.moveThreads src dst).thread? (src * 8 + j) = none ∧ ∀ h, s.thread? (src * 8 + j) = some h →
      ∃ park, (s.moveThreads src dst).thread? (dst * 8 + j) = some { h with fbuf := [], park := park } := by
  have hcore : ∀ e ∈ s.coreThreads src, coreOfTid e.1 = src := by
    intro e he
    obtain ⟨i, hi, _, hk⟩ := State.mem_coreThreads.mp he
    unfold coreOfTid
    omega
  obtain ⟨hmoved, hother⟩ := State.moveThread_foldl hne (Thread.waitMoved (quadOfCore src == quadOfCore dst)) hcore
    (s.coreThreads_slots src) (s.leavePosts src (quadOfCore src == quadOfCore dst))
  rw [State.moveThreads_eq]
  have hsame : (s.leavePosts src (quadOfCore src == quadOfCore dst)).thread? (src * 8 + j) = s.thread? (src * 8 + j) := by
    obtain ⟨_, hq⟩ := s.leavePosts_quads src (quadOfCore src == quadOfCore dst)
    rw [hq]
    rfl
  have hin (h : Thread) (hh : s.thread? (src * 8 + j) = some h) : (src * 8 + j, h) ∈ s.coreThreads src :=
    State.mem_coreThreads.mpr ⟨j, hj, hh, rfl⟩
  refine ⟨?_, fun h hh => ?_⟩
  · cases hh : s.thread? (src * 8 + j) with
    | some h => exact (hmoved _ (hin h hh)).2
    | none =>
      refine (hother _ fun e he => ?_).trans (hsame.trans hh)
      obtain ⟨i, hi, hi2, hk⟩ := State.mem_coreThreads.mp he
      refine ⟨by unfold slotOfTid; omega, fun hek => ?_⟩
      rw [hk, hek, hh] at hi2
      cases hi2
  · have hslot : slotOfTid (src * 8 + j) = j := by unfold slotOfTid; omega
    have hm := (hmoved _ (hin h hh)).1
    rw [hslot] at hm
    exact ⟨_, hm⟩

/-! ## Barriers of a core and of its quad (R236) -/

/-- What the move of barriers changes: whether threads wait, and the slot tables that a barrier stages. -/
structure Rejoined (s t : State) : Prop where
  vacant : ∀ k, s.thread? k = none → t.thread? k = none
  thread : ∀ k u, s.thread? k = some u → ∃ park, t.thread? k = some { u with park := park }
  core : ∀ c, ∃ tab staged due, t.coreAt c = { s.coreAt c with slotTab := tab, staged := staged, due := due }
  mem : t.mem = s.mem
  slice : t.slice = s.slice
  retry : s.retry = [] → t.retry = []

namespace Rejoined

theorem refl (s : State) : Rejoined s s :=
  ⟨fun _ => id, fun _ _ h => ⟨_, h⟩, fun _ => ⟨_, _, _, rfl⟩, rfl, rfl, id⟩

theorem trans {s t u : State} (h : Rejoined s t) (g : Rejoined t u) : Rejoined s u := by
  refine ⟨fun k hk => g.vacant k (h.vacant k hk), fun k x hk => ?_, fun c => ?_, g.mem.trans h.mem, g.slice.trans h.slice,
    fun hr => g.retry (h.retry hr)⟩
  · obtain ⟨_, h1⟩ := h.thread k x hk
    obtain ⟨_, h2⟩ := g.thread k _ h1
    exact ⟨_, h2⟩
  · obtain ⟨_, _, _, h1⟩ := h.core c
    obtain ⟨tab, staged, due, h2⟩ := g.core c
    exact ⟨tab, staged, due, by rw [h2, h1]⟩

theorem foldl {α : Type} {f : State → α → State} (hf : ∀ u a, u.retry = [] → Rejoined u (f u a)) (l : List α) {s : State}
    (hr : s.retry = []) : Rejoined s (l.foldl f s) := by
  induction l generalizing s with
  | nil => exact refl s
  | cons a l ih => exact (hf s a hr).trans (ih ((hf s a hr).retry hr))

/-- Threads that wait at another barrier, and other members. -/
theorem rename (s : State) (b : List (Nat × Barrier)) (c : Nat × Thread → Bool) (p : Park) (g : Waiter → Waiter) :
    Rejoined s { s with
      barriers := b
      threads := s.threads.map (fun e => if c e then (e.1, { e.2 with park := some p }) else e)
      retry := s.retry.map g } := by
  have hmap : s.threads.map (fun e => if c e then (e.1, { e.2 with park := some p }) else e) =
      s.threads.map (fun e => (e.1, if c e then { e.2 with park := some p } else e.2)) :=
    List.map_congr_left fun e _ => by split <;> rfl
  rw [hmap]
  have hget (k : Nat) : mapGet (s.threads.map (fun e => (e.1, if c e then { e.2 with park := some p } else e.2))) k = _ :=
    mapGet_map ..
  refine ⟨fun k hk => ?_, fun k u hk => ?_, fun _ => ⟨_, _, _, rfl⟩, rfl, rfl, fun hr => by simp [hr]⟩
  · rw [State.thread?] at hk ⊢
    rw [hget, hk]
    rfl
  · rw [State.thread?] at hk ⊢
    rw [hget, hk]
    by_cases hc : c (k, u) = true
    · exact ⟨some p, by simp [hc]⟩
    · exact ⟨u.park, by simp [hc]⟩

/-- The members of a barrier of which none has a listed wait are released. -/
theorem barrierCheck {s : State} (hr : s.retry = []) (key : Nat) : Rejoined s (s.barrierCheck key) := by
  have hdone (u : State) : Rejoined u (u.barrierDone key) := by
    unfold State.barrierDone
    split
    · refine ⟨fun _ => id, fun _ _ h => ⟨_, h⟩, fun c => ?_, rfl, rfl, id⟩
      rw [State.coreAt_updCore]
      split
      · split
        · split <;> exact ⟨_, _, _, rfl⟩
        · exact ⟨_, _, _, rfl⟩
      · exact ⟨_, _, _, rfl⟩
    · exact refl u
  unfold State.barrierCheck
  dsimp only
  split
  · rw [hr]
    refine trans ?_ (hdone _)
    exact ⟨fun _ => id, fun _ _ h => ⟨_, h⟩, fun _ => ⟨_, _, _, rfl⟩, rfl, rfl, fun _ => rfl⟩
  · exact refl s

theorem barrierChecks {r s : State} (h : Rejoined r s) (hr : s.retry = []) (a b : Nat) :
    Rejoined r ((s.barrierCheck a).barrierCheck b) :=
  (h.trans (barrierCheck hr a)).trans (barrierCheck ((barrierCheck hr a).retry hr) b)

theorem moveBarriers {s : State} (hr : s.retry = []) (src dst : Nat) : Rejoined s (s.moveBarriers src dst) := by
  unfold State.moveBarriers
  refine foldl (fun u id hu => ?_) _ hr
  dsimp only
  split
  · exact refl u
  · exact rename u ..

theorem moveQuadBarriers {s : State} (hr : s.retry = []) (src dst : Nat) : Rejoined s (s.moveQuadBarriers src dst) := by
  unfold State.moveQuadBarriers
  split
  · exact refl s
  · refine foldl (fun u id hu => ?_) _ hr
    dsimp only
    split
    · exact refl u
    · exact (rename u _ _ _ _).barrierChecks (by simp [hu]) _ _

end Rejoined

/-! ## The move of a core (R236, R237) -/

/-- What a move leaves of a thread. -/
def Thread.Same (h u : Thread) : Prop :=
  u.uid = h.uid ∧ u.pc = h.pc ∧ u.g = h.g ∧ u.v = h.v ∧ u.k = h.k ∧ u.ex = h.ex ∧ u.alot = h.alot ∧ u.mode = h.mode

/-- The registers, the wait lists and the addresses of a moved core, and its forwarding entry. -/
def State.takeOver (s : State) (c : Core) (src dst cycle : Nat) : State :=
  let s4 := (s.updCore dst (fun d => d.takeFrom c)).updCore src (fun _ => c.vacated)
  let s5 : State :=
    { s4 with
      retry := s4.retry.map (fun w => if w.home == src then { w with home := dst } else w)
      threads := s4.threads.map (fun e => if coreOfTid e.1 == dst then (e.1, { e.2 with lastIssue := some cycle }) else e) }
  (s5.moveAddrs (moveAddr src dst)).updDie (dieOfCore src) (fun d => { d with forward := mapPut d.forward src dst })

/-- The pod once bytes and threads have moved. -/
def State.carried (s : State) (src dst : Nat) : State :=
  ((((if (s.coreAt dst).csplit < (s.coreAt src).csplit then s.emptySlice dst else s).clearStore dst 0
    (65536 * Nat.max (s.coreAt src).csplit (s.coreAt dst).csplit)).moveStore src dst
      (65536 * (s.coreAt src).csplit)).moveThreads src dst)

theorem State.moveCore_eq (s : State) (src dst : Nat) : s.moveCore src dst =
    ((((s.carried src dst).moveBarriers src dst).moveQuadBarriers src dst).takeOver (s.coreAt src) src dst
      s.cycle).examineSpan (lsBase dst) (65536 * (s.coreAt src).csplit) := rfl

section

variable (s : State) (c : Core) (src dst cycle : Nat)

theorem State.takeOver_mem : (s.takeOver c src dst cycle).mem = s.mem ∧ (s.takeOver c src dst cycle).slice = s.slice := ⟨rfl, rfl⟩

theorem State.takeOver_retry (h : s.retry = []) : (s.takeOver c src dst cycle).retry = [] := by
  show (s.retry.map _).map _ = []
  rw [h]
  rfl

theorem State.takeOver_forward :
    mapGet ((s.takeOver c src dst cycle).dieAt (dieOfCore src)).forward src = some dst := by
  unfold State.takeOver
  dsimp only
  rw [State.dieAt_updDie_self]
  exact mapGet_put_self ..

theorem State.takeOver_coreAt (hne : src ≠ dst) :
    (s.takeOver c src dst cycle).coreAt dst = ((s.coreAt dst).takeFrom c).moveAddrs (moveAddr src dst) := by
  have hget : ((s.updCore dst (fun d => d.takeFrom c)).updCore src (fun _ => c.vacated)).coreAt dst =
      (s.coreAt dst).takeFrom c := by
    rw [State.coreAt_updCore_ne _ _ hne, State.coreAt_updCore_self]
  have hmap : (mapGet ((s.updCore dst (fun d => d.takeFrom c)).updCore src (fun _ => c.vacated)).cores dst) =
      some ((s.coreAt dst).takeFrom c) := by
    have : (mapGet ((s.updCore dst (fun d => d.takeFrom c)).updCore src (fun _ => c.vacated)).cores dst).isSome = true := by
      show (mapGet (mapPut (mapPut s.cores dst _) src _) dst).isSome = true
      rw [mapGet_put_ne _ _ hne, mapGet_put_self]
      rfl
    obtain ⟨x, hx⟩ := Option.isSome_iff_exists.mp this
    rw [State.coreAt, hx] at hget
    rw [hx]
    exact congrArg some hget
  show (mapGet (((s.updCore dst (fun d => d.takeFrom c)).updCore src (fun _ => c.vacated)).cores.map
    (fun e => (e.1, e.2.moveAddrs (moveAddr src dst)))) dst).getD Core.reset = _
  have hmoved := mapGet_map ((s.updCore dst (fun d => d.takeFrom c)).updCore src (fun _ => c.vacated)).cores
    (fun e => e.2.moveAddrs (moveAddr src dst)) dst
  rw [hmap] at hmoved
  exact congrArg (fun o => o.getD Core.reset) hmoved

theorem State.takeOver_thread (k : Nat) :
    (s.thread? k = none → (s.takeOver c src dst cycle).thread? k = none) ∧
      ∀ h, s.thread? k = some h → ∃ u, (s.takeOver c src dst cycle).thread? k = some u ∧ h.Same u := by
  have hissue : s.threads.map (fun e => if coreOfTid e.1 == dst then (e.1, { e.2 with lastIssue := some cycle }) else e) =
      s.threads.map (fun e => (e.1, if coreOfTid e.1 == dst then { e.2 with lastIssue := some cycle } else e.2)) :=
    List.map_congr_left fun e _ => by split <;> rfl
  have hget : (s.takeOver c src dst cycle).thread? k = ((s.thread? k).map (fun v =>
      if coreOfTid k == dst then { v with lastIssue := some cycle } else v)).map (fun v => v.moveAddrs (moveAddr src dst)) := by
    show mapGet ((s.threads.map (fun e => if coreOfTid e.1 == dst then (e.1, { e.2 with lastIssue := some cycle }) else e)).map
      (fun e => (e.1, e.2.moveAddrs (moveAddr src dst)))) k = _
    rw [hissue]
    have hin := mapGet_map s.threads (fun e => if coreOfTid e.1 == dst then { e.2 with lastIssue := some cycle } else e.2) k
    have hout := mapGet_map (s.threads.map (fun e => (e.1, if coreOfTid e.1 == dst then { e.2 with lastIssue := some cycle }
      else e.2))) (fun e => e.2.moveAddrs (moveAddr src dst)) k
    exact hout.trans (congrArg (Option.map _) hin)
  rw [hget]
  refine ⟨fun hn => by rw [hn]; rfl, fun h hh => ⟨_, by rw [hh]; rfl, ?_⟩⟩
  split <;> exact ⟨rfl, rfl, rfl, rfl, rfl, rfl, rfl, rfl⟩

end

section

variable {s : State} {src dst : Nat} (hne : src ≠ dst) (hdie : dieOfCore dst = dieOfCore src) (hcan : s.canonical)
  (hv : s.visitors = [])

/-- The target's slice, where its split grows. -/
def State.roomMade (s : State) (src dst : Nat) : State :=
  if (s.coreAt dst).csplit < (s.coreAt src).csplit then s.emptySlice dst else s

include hcan hv in
theorem State.roomMade_emptied : Emptied s (s.roomMade src dst) ∧ Memory.wf (s.roomMade src dst).mem = true := by
  obtain ⟨hwf', _⟩ := State.canonical.emptySlice (core := dst) hcan
  obtain ⟨hwf, _, hslice⟩ := hcan
  unfold State.roomMade
  split
  · exact ⟨State.emptySlice_emptied hslice hv dst, hwf'⟩
  · exact ⟨.refl hslice, hwf⟩

/-- The target's local store, and with it the source's bytes. -/
def State.storeMoved (s : State) (src dst : Nat) : State :=
  ((s.roomMade src dst).clearStore dst 0 (65536 * Nat.max (s.coreAt src).csplit (s.coreAt dst).csplit)).moveStore src dst
    (65536 * (s.coreAt src).csplit)

theorem State.carried_eq (s : State) (src dst : Nat) : s.carried src dst = (s.storeMoved src dst).moveThreads src dst := rfl

theorem State.storeMoved_bytesOnly (s : State) (src dst : Nat) : BytesOnly (s.roomMade src dst) (s.storeMoved src dst) :=
  (State.clearStore_bytesOnly ..).trans (State.moveStore_frame ..).1

include hcan hv in
/-- Threads and cores stay while bytes move. -/
theorem State.storeMoved_frame : (∀ k, (s.storeMoved src dst).thread? k = s.thread? k) ∧
    (∀ c, (s.storeMoved src dst).coreAt c = s.coreAt c) ∧ (s.storeMoved src dst).retry = s.retry ∧
    (s.storeMoved src dst).SliceHbm := by
  obtain ⟨⟨⟨mem, slice, dirs, he⟩, hslice, _⟩, _⟩ := State.roomMade_emptied (src := src) (dst := dst) hcan hv
  obtain ⟨_, _, _, _, hb⟩ := s.storeMoved_bytesOnly src dst
  rw [he] at hslice
  rw [hb, he]
  exact ⟨fun _ => rfl, fun _ => rfl, rfl, hslice⟩

include hne hdie hcan hv in
/-- The bytes of the source's local store stand at the target's. -/
theorem State.storeMoved_read (hc : (s.coreAt src).csplit ≤ 6) (hd : (s.coreAt dst).csplit ≤ 6) {o : Nat}
    (ho : o < 65536 * (s.coreAt src).csplit) :
    Memory.read (s.storeMoved src dst).mem (lsBase dst + o) = Memory.read s.mem (lsBase src + o) := by
  obtain ⟨hroom, hwf⟩ := State.roomMade_emptied (src := src) (dst := dst) hcan hv
  have hap := lsBase_apart hne hdie
  have hmax : Nat.max (s.coreAt src).csplit (s.coreAt dst).csplit ≤ 6 := Nat.max_le.mpr ⟨hc, hd⟩
  rw [State.storeMoved, (State.moveStore_frame ..).2, read_movedMem _ (by omega) hap ho, State.clearStore_mem,
    Memory.read_clear, if_neg (by omega), hroom.read _ (isHbm_lsBase src (by omega))]
  rw [State.clearStore_mem]
  exact Memory.wf_clear hwf _ _

end

/-- What a core's move leaves (R236, R237). -/
structure Moved (s t : State) (src dst : Nat) : Prop where
  threads : ∀ j < 8, t.thread? (src * 8 + j) = none ∧ ∀ h, s.thread? (src * 8 + j) = some h →
    ∃ u, t.thread? (dst * 8 + j) = some u ∧ h.Same u
  core : (t.coreAt dst).c = (s.coreAt src).c ∧ (t.coreAt dst).tvec = (s.coreAt src).tvec ∧
    (t.coreAt dst).hvec = (s.coreAt src).hvec ∧ (t.coreAt dst).mq = (s.coreAt src).mq ∧
    (t.coreAt dst).acc = (s.coreAt src).acc ∧ (t.coreAt dst).csplit = (s.coreAt src).csplit
  bytes : ∀ o < 65536 * (s.coreAt src).csplit, t.byteAt (lsBase dst + o) = s.byteAt (lsBase src + o)
  forward : mapGet (t.dieAt (dieOfCore src)).forward src = some dst

theorem State.moveCore_moved {s : State} {src dst : Nat} (hne : src ≠ dst) (hdie : dieOfCore dst = dieOfCore src)
    (hcan : s.canonical) (hv : s.visitors = []) (hr : s.retry = []) (hc : (s.coreAt src).csplit ≤ 6)
    (hd : (s.coreAt dst).csplit ≤ 6) : Moved s (s.moveCore src dst) src dst := by
  obtain ⟨hthread, _, hretry, hslice⟩ := State.storeMoved_frame (src := src) (dst := dst) hcan hv
  obtain ⟨threads, quads, hmoved⟩ := (s.storeMoved src dst).moveThreads_frame src dst
  have hr1 : (s.carried src dst).retry = [] := by
    rw [State.carried_eq, hmoved]
    exact hretry.trans hr
  have hb1 := Rejoined.moveBarriers hr1 src dst
  have hb2 := Rejoined.moveQuadBarriers (hb1.retry hr1) src dst
  have hb := hb1.trans hb2
  generalize hs3 : ((s.carried src dst).moveBarriers src dst).moveQuadBarriers src dst = s3 at hb
  have hr3 : s3.retry = [] := hb.retry hr1
  have heq : s.moveCore src dst = s3.takeOver (s.coreAt src) src dst s.cycle := by
    rw [State.moveCore_eq, hs3, State.examineSpan_nil (State.takeOver_retry _ _ _ _ _ hr3)]
  rw [heq]
  refine ⟨fun j hj => ?_, ?_, fun o ho => ?_, State.takeOver_forward ..⟩
  · obtain ⟨hgone, hhere⟩ := (s.storeMoved src dst).moveThreads_moved hne hj
    refine ⟨((s3.takeOver_thread (s.coreAt src) src dst s.cycle _).1) (hb.vacant _ hgone), fun h hh => ?_⟩
    obtain ⟨park, hp⟩ := hhere h ((hthread _).trans hh)
    obtain ⟨park', hp'⟩ := hb.thread _ _ hp
    obtain ⟨u, hu, hsame⟩ := (s3.takeOver_thread (s.coreAt src) src dst s.cycle _).2 _ hp'
    exact ⟨u, hu, hsame⟩
  · rw [State.takeOver_coreAt _ _ _ _ _ hne]
    exact ⟨rfl, rfl, rfl, rfl, rfl, rfl⟩
  · have hmem : s3.mem = (s.storeMoved src dst).mem := by
      rw [hb.mem, State.carried_eq, hmoved]
    have hsl : s3.slice = (s.storeMoved src dst).slice := by
      rw [hb.slice, State.carried_eq, hmoved]
    have hs3hbm : (s3.takeOver (s.coreAt src) src dst s.cycle).SliceHbm := by
      rw [State.SliceHbm, (s3.takeOver_mem (s.coreAt src) src dst s.cycle).2, hsl]
      exact hslice
    rw [State.byteAt_mem hs3hbm (isHbm_lsBase dst (by omega)), (s3.takeOver_mem (s.coreAt src) src dst s.cycle).1, hmem,
      State.storeMoved_read hne hdie hcan hv hc hd ho]
    obtain ⟨_, _, hs⟩ := hcan
    exact (State.byteAt_mem hs (isHbm_lsBase src (by omega))).symm

/-! ## `CORE_MIGRATION_REQUEST` (R236) -/

section

variable {s : State} {src dst : Nat}

/-- The source issues no more. -/
def State.leaving (s : State) (src dst : Nat) : State := s.updCore src (fun c => { c with moving := some dst })

theorem State.leaving_coreAt (s : State) (src dst : Nat) :
    (s.leaving src dst).coreAt src = { s.coreAt src with moving := some dst } := State.coreAt_updCore_self ..

theorem State.mayMove_cores (h : s.mayMove src dst = true) : src ≠ dst ∧ dieOfCore dst = dieOfCore src := by
  simp only [State.mayMove, Bool.and_eq_true, bne_iff_ne, beq_iff_eq, and_assoc] at h
  exact ⟨h.1, h.2.1⟩

/-- The conditions of a move do not look at what the source waits for. -/
theorem State.leaving_mayMove (hne : src ≠ dst) : (s.leaving src dst).mayMove src dst = s.mayMove src dst := by
  have hdst : (s.leaving src dst).coreAt dst = s.coreAt dst := State.coreAt_updCore_ne _ _ hne
  unfold State.mayMove
  rw [hdst]
  rfl

theorem doCoreMigration_refused (hm : (s.coreAt src).moving = none) (hno : s.mayMove src dst = false) :
    doCoreMigration src dst s = s := if_pos (by simp [hm, hno])

theorem doCoreMigration_begins (hm : (s.coreAt src).moving = none ∨ (s.coreAt src).moving = some dst)
    (hok : s.mayMove src dst = true) : doCoreMigration src dst s =
      if !((s.leaving src dst).coreAt src).drained then s.leaving src dst
      else if (s.leaving src dst).mayMove src dst then
        match (if ((s.leaving src dst).coreAt dst).csplit < ((s.leaving src dst).coreAt src).csplit then
          (s.leaving src dst).sliceWait dst else none) with
        | some s2 => s2
        | none => (s.leaving src dst).moveCore src dst
      else (s.leaving src dst).updCore src (fun c => { c with moving := none }) := by
  have h1 : ¬ ((s.coreAt src).moving.isNone && !s.mayMove src dst) = true := by simp [hok]
  have h2 : ¬ ((s.coreAt src).moving != none && (s.coreAt src).moving != some dst) = true := by
    rcases hm with hm | hm <;> simp [hm]
  exact (if_neg h1).trans (if_neg h2)

theorem doCoreMigration_waits (hm : (s.coreAt src).moving = none) (hok : s.mayMove src dst = true)
    (hd : (s.coreAt src).drained = false) : doCoreMigration src dst s = s.leaving src dst := by
  have hdrained : ((s.leaving src dst).coreAt src).drained = false := by
    rw [State.leaving_coreAt]
    exact hd
  rw [doCoreMigration_begins (.inl hm) hok, if_pos (by simp [hdrained])]

theorem doCoreMigration_moves (hm : (s.coreAt src).moving = none ∨ (s.coreAt src).moving = some dst)
    (hok : s.mayMove src dst = true) (hd : (s.coreAt src).drained = true) (hv : s.visitors = []) :
    doCoreMigration src dst s = (s.leaving src dst).moveCore src dst := by
  obtain ⟨hne, _⟩ := State.mayMove_cores hok
  have hdrained : ((s.leaving src dst).coreAt src).drained = true := by
    rw [State.leaving_coreAt]
    exact hd
  have hwait : (s.leaving src dst).sliceWait dst = none := State.sliceWait_none (s := s.leaving src dst) hv dst
  have hmay : (s.leaving src dst).mayMove src dst = true := (State.leaving_mayMove hne).trans hok
  rw [doCoreMigration_begins hm hok, if_neg (by simp [hdrained]), if_pos hmay, hwait]
  split
  · next h => split at h <;> cases h
  · rfl

/-- A drained core that may move, moves. -/
theorem doCoreMigration_moved (hm : (s.coreAt src).moving = none ∨ (s.coreAt src).moving = some dst)
    (hok : s.mayMove src dst = true) (hd : (s.coreAt src).drained = true) (hcan : s.canonical) (hv : s.visitors = [])
    (hr : s.retry = []) (hc : (s.coreAt src).csplit ≤ 6) (hcd : (s.coreAt dst).csplit ≤ 6) :
    Moved s (doCoreMigration src dst s) src dst := by
  obtain ⟨hne, hdie⟩ := State.mayMove_cores hok
  have hsrc := s.leaving_coreAt src dst
  have hdst : (s.leaving src dst).coreAt dst = s.coreAt dst := State.coreAt_updCore_ne _ _ hne
  rw [doCoreMigration_moves hm hok hd hv]
  obtain ⟨hthreads, hcore, hbytes, hforward⟩ := State.moveCore_moved (s := s.leaving src dst) hne hdie hcan hv hr
    (by rw [hsrc]; exact hc) (by rw [hdst]; exact hcd)
  rw [hsrc] at hcore hbytes
  exact ⟨hthreads, hcore, hbytes, hforward⟩

end

/-- Settles O52: each event by the lemma about it. -/
theorem powerEvents : Obligations.PowerEvents := by
  unfold Obligations.PowerEvents
  intro s pkg die core tid avg grants avgs cool cores reserve src dst ok shed c
  refine ⟨fun hok hdue => ?_, fun hok => ?_, fun hg hm hx => ?_, fun hg => ?_, fun hm hx => ?_, ?_, fun h x j ht hd hr hl hc => ?_,
    fun hm hno => ?_, fun hm hok hd => ?_, fun hm hok hd hcan hv hr hc hcd => ?_, ?_⟩
  · obtain ⟨hlen, halen, _⟩ := id hok
    obtain ⟨hsnd, hmem⟩ := grants_zip hlen halen
    obtain ⟨hgranted, _, hpkgs⟩ := State.grantDies_granted (pkg := pkg) (cool := cool)
      (hsnd ▸ List.nodup_range) (s.updPkg pkg (fun p => { p with grantAt := some s.cycle }))
    refine ⟨_, congrArg Host.Outcome.next (doPowerGrant_grants hok hdue), ?_, fun j hj => ?_⟩
    · rw [State.pkgAt, hpkgs]
      exact congrArg Pkg.grantAt (State.pkgAt_updPkg_self ..)
    · obtain ⟨hgrant, hback, hstay⟩ := hgranted _ (hmem j hj)
      exact ⟨hgrant, hback, hstay⟩
  · exact congrArg Host.Outcome.next (doPowerGrant_stays hok)
  · obtain ⟨x, j, hin, hshed, hall, hstep⟩ := doCurrentDisable_sheds hg hm hx
    refine ⟨_, x, j, congrArg Host.Outcome.next hstep, hin, hshed, hall, ?_, fun y hy => ?_, ?_⟩
    · exact State.coreAt_updCore_self s x (fun c => { c with disabled := setBit c.disabled j })
    · exact State.coreAt_updCore_ne s (fun c => { c with disabled := setBit c.disabled j }) hy.symm
    · exact congrArg Die.disableAt (State.dieAt_updDie_self ..)
  · exact congrArg Host.Outcome.next (doCurrentDisable_stays hg)
  · obtain ⟨j, hshed, hstep⟩ := doThermalDisable_sheds hm hx
    refine ⟨_, j, congrArg Host.Outcome.next hstep, hshed, ?_, ?_⟩
    · rw [State.coreAt_updCore_self]
      exact congrArg Core.disabled (State.coreAt_updCore_self ..)
    · exact congrArg Core.heatAt (State.coreAt_updCore_self ..)
  · exact ⟨_, rfl, congrArg Die.ranking (State.dieAt_updDie_self ..)⟩
  · obtain ⟨hgone, same, hhere⟩ := doDisplacement_moves ht hd hr hl hc
    obtain ⟨mail, park, he⟩ := h.displaced_eq same
    rw [he] at hhere
    exact ⟨_, _, rfl, hgone, hhere, rfl, rfl, rfl, rfl, rfl, rfl, rfl, rfl, rfl, rfl, rfl⟩
  · exact congrArg Host.Outcome.next (doCoreMigration_refused hm hno)
  · exact congrArg Host.Outcome.next (doCoreMigration_waits hm hok hd)
  · obtain ⟨hthreads, ⟨hc1, htvec, hhvec, hmq, hacc, hsplit⟩, hbytes, hforward⟩ :=
      doCoreMigration_moved hm hok hd hcan hv hr hc hcd
    exact ⟨_, rfl, hthreads, hc1, htvec, hhvec, hmq, hacc, hsplit, hbytes, hforward⟩
  · refine ⟨_, rfl, ?_⟩
    show mapGet ((s.updDie (dieOfCore src) (fun d => { d with forward := mapDel d.forward src })).dieAt
      (dieOfCore src)).forward src = none
    rw [State.dieAt_updDie_self]
    exact mapGet_del_self ..

end Sys2Proof.Machine
end

section
/-! SUPPORT. Decoding and encoding (R81 to R93): each field is read as it was written and no other word reads so; from
the fields to the parts of a word, to the classes, and to whole words. -/
namespace Sys2Proof

/-! ## The decoder's checks -/

theorem Dec.bind_ok {α β : Type} {x : Dec α} {k : α → Dec β} {b : β} :
    (x >>= k) = .ok b ↔ ∃ a, x = .ok a ∧ k a = .ok b := by
  cases x with
  | error e => exact ⟨nofun, nofun⟩
  | ok a => exact ⟨fun h => ⟨a, rfl, h⟩, fun ⟨_, ha, h⟩ => by cases ha; exact h⟩

@[simp] theorem Dec.ok_bind {α β : Type} (a : α) (k : α → Dec β) : ((.ok a : Dec α) >>= k) = k a := rfl

theorem need_ok {c : Bool} {w : Illegal} {u : Unit} : need c w = .ok u ↔ c = true := by
  cases c
  · exact ⟨nofun, nofun⟩
  · exact ⟨fun _ => rfl, fun _ => rfl⟩

@[simp] theorem need_true (w : Illegal) : need true w = .ok () := rfl

theorem isLen_ok {f : Fields} {l : BitVec 2} {u : Unit} : isLen f l = .ok u ↔ f.len = l :=
  need_ok.trans beq_iff_eq

theorem zeroOf_ok {c : Bool} {u : Unit} : zeroOf c = .ok u ↔ c = true := need_ok

@[simp] theorem isLen_self {f : Fields} {l : BitVec 2} (h : f.len = l) : isLen f l = .ok () := isLen_ok.mpr h

@[simp] theorem zeroOf_true : zeroOf true = .ok () := rfl

/-! ## Bit fields -/

/-- A word is the two parts it is cut into. -/
theorem eq_append_iff {m n : Nat} {x : BitVec (m + n)} {hi : BitVec m} {lo : BitVec n} :
    x = hi ++ lo ↔ x.extractLsb' n m = hi ∧ x.extractLsb' 0 n = lo := by
  constructor
  · rintro rfl
    exact ⟨BitVec.extractLsb'_append_eq_left, BitVec.extractLsb'_append_eq_right⟩
  · rintro ⟨rfl, rfl⟩
    exact BitVec.extractLsb'_append_extractLsb'.symm

/-- A field of an upper part. -/
theorem extractLsb'_extractLsb'_zero {w n m k l : Nat} {x : BitVec w} (h : l + k ≤ m) :
    (x.extractLsb' n m).extractLsb' l k = x.extractLsb' (n + l) k := by
  ext i hi
  simp [Nat.add_assoc]
  omega

theorem extractLsb'_one {w n : Nat} {x : BitVec w} {b : Bool} :
    x.extractLsb' n 1 = BitVec.ofBool b ↔ x.getLsbD n = b := by
  constructor
  · intro h
    have := congrArg (BitVec.getLsbD · 0) h
    simpa using this
  · rintro rfl
    ext i hi
    have : i = 0 := by omega
    simp [this]

/-! ## Operand fields: what is read is what was written, and nothing else reads so (R83, R85 to R88, R90) -/

/-- A field whose reader undoes its writer, and reads a word only as what writes that word. -/
theorem field_iff {α : Type} {n : Nat} {dec : BitVec n → Dec α} {enc : α → BitVec n} (back : ∀ a, dec (enc a) = .ok a)
    (into : ∀ v, (dec v).toOption.all (fun a => enc a == v) = true) {v : BitVec n} {a : α} :
    dec v = .ok a ↔ v = enc a := by
  refine ⟨fun h => ?_, fun h => h ▸ back a⟩
  have := into v
  rw [h] at this
  exact (beq_iff_eq.mp this).symm

theorem decSc_ok {v : BitVec 6} {r : Sc} : decSc v = .ok r ↔ v = encSc r := by
  refine field_iff (fun r => ?_) (by decide)
  cases r with
  | g n => revert n; decide
  | c n => revert n; decide
  | i n => revert n; decide
  | zr => rfl

theorem decK_ok {v : BitVec 6} {k : KReg} : decK v = .ok k ↔ v = encK k := field_iff (by decide) (by decide)

theorem decA_ok {v : BitVec 6} {n : AReg} : decA v = .ok n ↔ v = encA n := field_iff (by decide) (by decide)

theorem decScope_ok {v : BitVec 3} {sc : Option Scope} : decScope v = .ok sc ↔ v = encScope sc :=
  field_iff (by rintro (_ | _ | _ | _ | _ | _) <;> rfl) (by decide)

theorem decScopeReq_ok {v : BitVec 3} {sc : Scope} : decScopeReq v = .ok sc ↔ v = encScope (some sc) :=
  field_iff (enc := fun sc => encScope (some sc)) (by rintro (_ | _ | _ | _ | _) <;> rfl) (by decide)

theorem decTy_ok {v : BitVec 4} {t : ETy} : decTy v = .ok t ↔ v = encTy t :=
  field_iff (by intro t; cases t <;> rfl) (by decide)

theorem decCond_ok {v : BitVec 4} {cc : Cond} : decCond v.toNat = .ok cc ↔ v = encCond cc :=
  field_iff (dec := fun v => decCond v.toNat) (by intro cc; cases cc <;> rfl) (by decide)

/-- A condition in the field C. -/
theorem decCond_ok_c {v : BitVec 6} {cc : Cond} : decCond v.toNat = .ok cc ↔ v = 0#2 ++ encCond cc :=
  field_iff (dec := fun v => decCond v.toNat) (enc := fun cc => 0#2 ++ encCond cc) (by intro cc; cases cc <;> rfl)
    (by decide)

theorem decAmoOp_ok {v : BitVec 3} {op : AmoOp} : decAmoOp v = .ok op ↔ v = encAmoOp op :=
  field_iff (by intro op; cases op <;> rfl) (by decide)

theorem decLdMode_ok {v : BitVec 2} {m : LdMode} : decLdMode v = .ok m ↔ v = encLdMode m :=
  field_iff (by intro m; cases m <;> rfl) (by decide)

theorem decStMode_ok {v : BitVec 2} {m : StMode} : decStMode v = .ok m ↔ v = encStMode m :=
  field_iff (by intro m; cases m <;> rfl) (by decide)

theorem decCmoOp_ok {v : BitVec 2} {op : CmoOp} : decCmoOp v = .ok op ↔ v = encCmoOp op :=
  field_iff (by intro op; cases op <;> rfl) (by decide)

theorem decSgnOp_ok {v : BitVec 6} {op : SgnOp} : decSgnOp v = .ok op ↔ v = encSgnOp op :=
  field_iff (by intro op; cases op <;> rfl) (by decide)

theorem decRedOp_ok {v : BitVec 6} {op : RedOp} : decRedOp v = .ok op ↔ v = encRedOp op :=
  field_iff (by intro op; cases op <;> rfl) (by decide)

theorem decCbufOp_ok {v : BitVec 4} {op : CbufOp} : decCbufOp v = .ok op ↔ v = encCbufOp op :=
  field_iff (by intro op; cases op <;> rfl) (by decide)

theorem decCollKind_ok {v : BitVec 4} {k : CollKind} : decCollKind v = .ok k ↔ v = encCollKind k :=
  field_iff (by intro k; cases k <;> rfl) (by decide)

/-! Fields whose every value is an operand. -/

@[simp] theorem encV_decV (v : BitVec 6) : encV (decV v) = v := by
  revert v
  decide

@[simp] theorem decV_encV (r : VReg) : decV (encV r) = r := by
  revert r
  decide

theorem decV_eq {v : BitVec 6} {r : VReg} : decV v = r ↔ v = encV r :=
  ⟨fun h => h ▸ (encV_decV v).symm, fun h => h ▸ decV_encV r⟩

@[simp] theorem encLm_decLm (v : BitVec 3) : encLm (decLm v) = v := by
  revert v
  decide

@[simp] theorem decLm_encLm (k : KReg) : decLm (encLm k) = k := by
  revert k
  decide

@[simp] theorem encWidth_decWidth (v : BitVec 2) : encWidth (decWidth v) = v := by
  revert v
  decide

@[simp] theorem decWidth_encWidth (w : Width) : decWidth (encWidth w) = w := by
  cases w <;> rfl

@[simp] theorem encCmoLvl_decCmoLvl (v : BitVec 2) : encCmoLvl (decCmoLvl v) = v := by
  revert v
  decide

@[simp] theorem decCmoLvl_encCmoLvl (l : CmoLvl) : decCmoLvl (encCmoLvl l) = l := by
  cases l <;> rfl

/-! ## The fields of a word (R81) -/

/-- The fields of a word that is an instruction's length, and no bit beyond. -/
structure Fields.Canon (f : Fields) : Prop where
  len : f.len ≠ 3#2
  y : f.y &&& yMask f.len = f.y

namespace Fields

variable {f : Fields} {M : BitVec 8} {d a b sub c : BitVec 6} {k : BitVec 3} {x : BitVec 27}

theorem Canon.eq_f64w (hc : f.Canon) : f = f64w M d a b sub k x ↔
    f.len = 0#2 ∧ f.major = M ∧ f.d = d ∧ f.a = a ∧ f.b = b ∧ f.sub = sub ∧ f.k = k ∧ f.x = x := by
  constructor
  · rintro rfl
    exact ⟨rfl, rfl, rfl, rfl, rfl, rfl, rfl, rfl⟩
  · have hy := hc.y
    obtain ⟨len, major, d, a, b, sub, k, x, y⟩ := f
    rintro ⟨rfl, rfl, rfl, rfl, rfl, rfl, rfl, rfl⟩
    have hy : 0#64 = y := by simpa [yMask] using hy
    rw [← hy]
    rfl

theorem Canon.eq_f96w (hc : f.Canon) {y : BitVec 32} : f = f96w M d a b sub k x y ↔
    f.len = 1#2 ∧ f.major = M ∧ f.d = d ∧ f.a = a ∧ f.b = b ∧ f.sub = sub ∧ f.k = k ∧ f.x = x ∧ f.y32 = y := by
  constructor
  · rintro rfl
    refine ⟨rfl, rfl, rfl, rfl, rfl, rfl, rfl, rfl, ?_⟩
    ext i hi
    simp [y32, f96w, hi]
    omega
  · have hy := hc.y
    obtain ⟨len, major, d, a, b, sub, k, x, y⟩ := f
    rintro ⟨rfl, rfl, rfl, rfl, rfl, rfl, rfl, rfl, rfl⟩
    have hy : y.toNat &&& (2 ^ 32 - 1) = y.toNat := congrArg BitVec.toNat hy
    rw [Nat.and_two_pow_sub_one_eq_mod] at hy
    have : y = (y32 ⟨1#2, major, d, a, b, sub, k, x, y⟩).setWidth 64 := by
      apply BitVec.eq_of_toNat_eq
      simp only [y32, BitVec.toNat_setWidth, BitVec.extractLsb'_toNat, Nat.shiftRight_zero]
      omega
    unfold f96w
    rw [← this]

theorem Canon.eq_f128w (_ : f.Canon) {y : BitVec 64} : f = f128w M d a b sub k x y ↔
    f.len = 2#2 ∧ f.major = M ∧ f.d = d ∧ f.a = a ∧ f.b = b ∧ f.sub = sub ∧ f.k = k ∧ f.x = x ∧ f.y = y := by
  constructor
  · rintro rfl
    exact ⟨rfl, rfl, rfl, rfl, rfl, rfl, rfl, rfl, rfl⟩
  · obtain ⟨len, major, d, a, b, sub, k, x, y⟩ := f
    rintro ⟨rfl, rfl, rfl, rfl, rfl, rfl, rfl, rfl, rfl⟩
    rfl

/-- X27 in the C form, part by part (R83). -/
theorem x_eq_cForm {t2 : BitVec 4} {sat win seam : Bool} : f.x = cForm c t2 sat win seam ↔
    f.c = c ∧ f.t2 = t2 ∧ f.sat = sat ∧ f.win = win ∧ f.seam = seam ∧ f.xRest = 0#14 := by
  unfold cForm
  rw [eq_append_iff (m := 21) (n := 6), eq_append_iff (m := 17) (n := 4), eq_append_iff (m := 16) (n := 1),
    eq_append_iff (m := 15) (n := 1), eq_append_iff (m := 14) (n := 1)]
  simp only [extractLsb'_extractLsb'_zero, extractLsb'_one, Nat.reduceAdd, Nat.reduceLeDiff]
  show (((((f.xRest = 0#14 ∧ f.seam = seam) ∧ f.win = win) ∧ f.sat = sat) ∧ f.t2 = t2) ∧ f.c = c) ↔ _
  tauto

theorem sub_eq_mkSub {i z : Bool} {lo : BitVec 4} : f.sub = mkSub i z lo ↔ f.i = i ∧ f.z = z ∧ f.lo4 = lo := by
  unfold mkSub
  rw [eq_append_iff (m := 2) (n := 4), eq_append_iff (m := 1) (n := 1)]
  simp only [extractLsb'_extractLsb'_zero, extractLsb'_one, Nat.reduceAdd, Nat.reduceLeDiff]
  exact and_assoc

/-! SUB in its other forms (R90, R91) -/

theorem sub_eq_memSub {hi : BitVec 4} {w : Width} : f.sub = memSub hi w ↔
    f.op = hi ∧ f.sub.extractLsb' 0 2 = encWidth w := eq_append_iff (m := 4) (n := 2)

theorem sub_eq_engSub {op : BitVec 4} {rl aq : Bool} : f.sub = engSub op rl aq ↔ f.op = op ∧ f.rel = rl ∧ f.acq = aq := by
  unfold engSub
  rw [eq_append_iff (m := 5) (n := 1), eq_append_iff (m := 4) (n := 1)]
  simp only [extractLsb'_extractLsb'_zero, extractLsb'_one, Nat.reduceAdd, Nat.reduceLeDiff]
  exact and_assoc

theorem op_eq_ld {aq z : Bool} : f.op = 0#2 ++ BitVec.ofBool aq ++ BitVec.ofBool z ↔
    f.i = false ∧ f.z = false ∧ f.sub.getLsbD 3 = aq ∧ f.sub.getLsbD 2 = z := by
  rw [eq_append_iff (m := 3) (n := 1), eq_append_iff (m := 2) (n := 1),
    show (0#2 : BitVec 2) = BitVec.ofBool false ++ BitVec.ofBool false from rfl, eq_append_iff (m := 1) (n := 1)]
  simp only [op, extractLsb'_extractLsb'_zero, extractLsb'_one, Nat.reduceAdd, Nat.reduceLeDiff]
  show ((f.i = false ∧ f.z = false) ∧ _) ∧ _ ↔ _
  tauto

theorem op_eq_zero : f.op = 0#4 ↔ f.sub.extractLsb' 2 4 = 0#4 := Iff.rfl

theorem op_eq_st {rl : Bool} : f.op = 0#1 ++ BitVec.ofBool rl ++ 0#2 ↔
    f.i = false ∧ f.z = rl ∧ f.sub.extractLsb' 2 2 = 0#2 := by
  rw [eq_append_iff (m := 2) (n := 2), show (0#1 : BitVec 1) = BitVec.ofBool false from rfl,
    eq_append_iff (m := 1) (n := 1)]
  simp only [op, extractLsb'_extractLsb'_zero, extractLsb'_one, Nat.reduceAdd, Nat.reduceLeDiff]
  exact and_assoc

/-- The full/empty loads. -/
theorem op_eq_lds {m : BitVec 2} {z : Bool} : f.op = 0#1 ++ m ++ BitVec.ofBool z ↔
    f.i = false ∧ f.sub.extractLsb' 3 2 = m ∧ f.sub.getLsbD 2 = z := by
  rw [eq_append_iff (m := 3) (n := 1), eq_append_iff (m := 1) (n := 2),
    show (0#1 : BitVec 1) = BitVec.ofBool false from rfl]
  simp only [op, extractLsb'_extractLsb'_zero, extractLsb'_one, Nat.reduceAdd, Nat.reduceLeDiff]
  exact and_assoc

/-- The full/empty stores. -/
theorem op_eq_sts {m : BitVec 2} : f.op = 0#1 ++ m ++ 0#1 ↔
    f.i = false ∧ f.sub.extractLsb' 3 2 = m ∧ f.sub.getLsbD 2 = false := op_eq_lds (z := false)

theorem op_eq_amo {op : BitVec 3} {z : Bool} : f.op = op ++ BitVec.ofBool z ↔
    f.sub.extractLsb' 3 3 = op ∧ f.sub.getLsbD 2 = z := by
  rw [eq_append_iff (m := 3) (n := 1)]
  simp only [Fields.op, extractLsb'_extractLsb'_zero, extractLsb'_one, Nat.reduceAdd, Nat.reduceLeDiff]

theorem sub_eq_cmo {op lvl : BitVec 2} : f.sub = 0#2 ++ op ++ lvl ↔
    f.sub.extractLsb' 4 2 = 0#2 ∧ f.sub.extractLsb' 2 2 = op ∧ f.sub.extractLsb' 0 2 = lvl := by
  rw [eq_append_iff (m := 4) (n := 2), eq_append_iff (m := 2) (n := 2)]
  simp only [extractLsb'_extractLsb'_zero, Nat.reduceAdd, Nat.reduceLeDiff]
  exact and_assoc

/-! Numbers in X27, Y32 and Y64 -/

theorem x_eq_bfx {width : BitVec 7} {pos : BitVec 6} : f.x = 0#14 ++ width ++ pos ↔
    f.x.extractLsb' 13 14 = 0#14 ∧ f.x.extractLsb' 6 7 = width ∧ f.x.extractLsb' 0 6 = pos := by
  rw [eq_append_iff (m := 21) (n := 6), eq_append_iff (m := 14) (n := 7)]
  simp only [extractLsb'_extractLsb'_zero, Nat.reduceAdd, Nat.reduceLeDiff]
  exact and_assoc

theorem y32_eq_mma {tag : BitVec 16} {depth : BitVec 9} : f.y32 = tag ++ 0#7 ++ depth ↔
    f.y32.extractLsb' 16 16 = tag ∧ f.y32.extractLsb' 9 7 = 0#7 ∧ f.y32.extractLsb' 0 9 = depth := by
  rw [eq_append_iff (m := 23) (n := 9), eq_append_iff (m := 16) (n := 7)]
  simp only [extractLsb'_extractLsb'_zero, Nat.reduceAdd, Nat.reduceLeDiff]
  exact and_assoc

theorem y32_eq_cpy {t : BitVec 4} {tag : BitVec 16} : f.y32 = 0#12 ++ t ++ tag ↔
    f.y32.extractLsb' 20 12 = 0#12 ∧ f.y32.extractLsb' 16 4 = t ∧ f.y32.extractLsb' 0 16 = tag := by
  rw [eq_append_iff (m := 16) (n := 16), eq_append_iff (m := 12) (n := 4)]
  simp only [extractLsb'_extractLsb'_zero, Nat.reduceAdd, Nat.reduceLeDiff]
  exact and_assoc

theorem y32_eq_coll {root : BitVec 7} {id : BitVec 10} : f.y32 = 0#15 ++ root ++ id ↔
    f.y32.extractLsb' 17 15 = 0#15 ∧ f.y32.extractLsb' 10 7 = root ∧ f.y32.extractLsb' 0 10 = id := by
  rw [eq_append_iff (m := 22) (n := 10), eq_append_iff (m := 15) (n := 7)]
  simp only [extractLsb'_extractLsb'_zero, Nat.reduceAdd, Nat.reduceLeDiff]
  exact and_assoc

theorem y32_eq_tag {tag : BitVec 16} : f.y32 = 0#16 ++ tag ↔
    f.y32.extractLsb' 16 16 = 0#16 ∧ f.y32.extractLsb' 0 16 = tag := eq_append_iff (m := 16) (n := 16)

theorem y_eq_id {id : BitVec 10} : f.y = 0#54 ++ id ↔ f.y.extractLsb' 10 54 = 0#54 ∧ f.y.extractLsb' 0 10 = id :=
  eq_append_iff (m := 54) (n := 10)

theorem x_eq_4 {n : BitVec 4} : f.x = 0#23 ++ n ↔ f.x.extractLsb' 4 23 = 0#23 ∧ f.x.extractLsb' 0 4 = n :=
  eq_append_iff (m := 23) (n := 4)

theorem x_eq_8 {n : BitVec 8} : f.x = 0#19 ++ n ↔ f.x.extractLsb' 8 19 = 0#19 ∧ f.x.extractLsb' 0 8 = n :=
  eq_append_iff (m := 19) (n := 8)

theorem x_eq_sys {n : BitVec 12} : f.x = 0#15 ++ n ↔ f.x.extractLsb' 12 15 = 0#15 ∧ f.x.extractLsb' 0 12 = n :=
  eq_append_iff (m := 15) (n := 12)

theorem a_eq_id {n : BitVec 4} : f.a = 0#2 ++ n ↔ f.a.extractLsb' 4 2 = 0#2 ∧ f.a.extractLsb' 0 4 = n :=
  eq_append_iff (m := 2) (n := 4)

/-- A zero SUB, part by part. -/
theorem sub_zero_iff : f.sub = 0#6 ↔ f.i = false ∧ f.z = false ∧ f.lo4 = 0#4 :=
  sub_eq_mkSub (i := false) (z := false) (lo := 0#4)

theorem x_zero_iff : f.x = 0#27 ↔
    f.c = 0#6 ∧ f.t2 = 0#4 ∧ f.sat = false ∧ f.win = false ∧ f.seam = false ∧ f.xRest = 0#14 :=
  x_eq_cForm (c := 0#6) (t2 := 0#4) (sat := false) (win := false) (seam := false)

end Fields

@[simp] theorem decSc_encSc (r : Sc) : decSc (encSc r) = .ok r := decSc_ok.mpr rfl
@[simp] theorem decK_encK (r : KReg) : decK (encK r) = .ok r := decK_ok.mpr rfl
@[simp] theorem decA_encA (r : AReg) : decA (encA r) = .ok r := decA_ok.mpr rfl
@[simp] theorem decScope_encScope (r : Option Scope) : decScope (encScope r) = .ok r := decScope_ok.mpr rfl
@[simp] theorem decScopeReq_encScope (r : Scope) : decScopeReq (encScope (some r)) = .ok r := decScopeReq_ok.mpr rfl
@[simp] theorem decTy_encTy (r : ETy) : decTy (encTy r) = .ok r := decTy_ok.mpr rfl
@[simp] theorem decCond_encCond (r : Cond) : decCond (encCond r).toNat = .ok r := decCond_ok.mpr rfl
@[simp] theorem decCond_encCond_c (r : Cond) : decCond (0#2 ++ encCond r).toNat = .ok r := decCond_ok_c.mpr rfl
@[simp] theorem decAmoOp_enc (r : AmoOp) : decAmoOp (encAmoOp r) = .ok r := decAmoOp_ok.mpr rfl
@[simp] theorem decLdMode_enc (r : LdMode) : decLdMode (encLdMode r) = .ok r := decLdMode_ok.mpr rfl
@[simp] theorem decStMode_enc (r : StMode) : decStMode (encStMode r) = .ok r := decStMode_ok.mpr rfl
@[simp] theorem decCmoOp_enc (r : CmoOp) : decCmoOp (encCmoOp r) = .ok r := decCmoOp_ok.mpr rfl
@[simp] theorem decSgnOp_enc (r : SgnOp) : decSgnOp (encSgnOp r) = .ok r := decSgnOp_ok.mpr rfl
@[simp] theorem decRedOp_enc (r : RedOp) : decRedOp (encRedOp r) = .ok r := decRedOp_ok.mpr rfl
@[simp] theorem decCbufOp_enc (r : CbufOp) : decCbufOp (encCbufOp r) = .ok r := decCbufOp_ok.mpr rfl
@[simp] theorem decCollKind_enc (r : CollKind) : decCollKind (encCollKind r) = .ok r := decCollKind_ok.mpr rfl

@[simp] theorem encSc_zr : encSc .zr = 63#6 := rfl

@[simp] theorem decSc_zr : decSc 63#6 = .ok .zr := rfl
@[simp] theorem decTy_zero : decTy 0#4 = .ok .f64 := rfl
@[simp] theorem encLm_zero : encLm 0 = 0#3 := rfl

/-! ## From a decoded instruction back to its word -/

open Fields

variable {f : Fields} {i : Instr}

namespace Fields

/-- Fields one by one. -/
theorem eq_iff {g : Fields} : f = g ↔ f.len = g.len ∧ f.major = g.major ∧ f.d = g.d ∧ f.a = g.a ∧ f.b = g.b ∧
    f.sub = g.sub ∧ f.k = g.k ∧ f.x = g.x ∧ f.y = g.y := by
  constructor
  · rintro ⟨⟩
    exact ⟨rfl, rfl, rfl, rfl, rfl, rfl, rfl, rfl, rfl⟩
  · obtain ⟨len, major, d, a, b, sub, k, x, y⟩ := f
    rintro ⟨rfl, rfl, rfl, rfl, rfl, rfl, rfl, rfl, rfl⟩
    rfl

/-- The three lengths, and what Y64 holds of each. -/
theorem Canon.cases (hc : f.Canon) :
    (f.len = 0#2 ∧ f.y = 0#64) ∨ (f.len = 1#2 ∧ f.y = f.y32.setWidth 64) ∨ f.len = 2#2 := by
  have hy := hc.y
  have h3 := hc.len
  have hl : ∀ l : BitVec 2, l ≠ 3#2 → l = 0#2 ∨ l = 1#2 ∨ l = 2#2 := by decide
  rcases hl _ h3 with h | h | h
  · rw [h] at hy
    exact .inl ⟨h, by simpa [yMask] using hy.symm⟩
  · rw [h] at hy
    refine .inr (.inl ⟨h, ?_⟩)
    replace hy : f.y.toNat &&& (2 ^ 32 - 1) = f.y.toNat := congrArg BitVec.toNat hy
    rw [Nat.and_two_pow_sub_one_eq_mod] at hy
    apply BitVec.eq_of_toNat_eq
    simp only [y32, BitVec.toNat_setWidth, BitVec.extractLsb'_toNat, Nat.shiftRight_zero]
    omega
  · exact .inr (.inr h)

end Fields

theorem setWidth_inj {x y : BitVec 32} : x.setWidth 64 = y.setWidth 64 ↔ x = y := by
  refine ⟨fun h => ?_, fun h => h ▸ rfl⟩
  have := congrArg BitVec.toNat h
  simp only [BitVec.toNat_setWidth] at this
  exact BitVec.eq_of_toNat_eq (by omega)

/-- The rows of `SWR` are the words of one major. -/
theorem encodeF_swrOf (sys : BitVec 12) (a : Sc) :
    encodeF (swrOf sys a) = some (f64w 0xF4 0 (encSc a) 0 0 0 (0#15 ++ sys)) := by
  unfold swrOf
  simp only [beq_iff_eq]
  split_ifs <;> subst_vars <;> rfl

/-- The scalar integer class: what its second source is read as fixes the rest of the word (R84, R89). -/
theorem Fields.Canon.eq_encAlu (hc : f.Canon) {M : BitVec 8} {z : Bool} {lo : BitVec 4} {d a : Sc} {b : Src2} :
    f = encAlu M z lo d a b ↔ f.major = M ∧ f.z = z ∧ f.lo4 = lo ∧ f.k = 0#3 ∧ f.d = encSc d ∧ f.a = encSc a ∧
      decSrc2 f = .ok b := by
  rw [eq_iff]
  rcases hc.cases with ⟨hl, hy⟩ | ⟨hl, hy⟩ | hl <;> rcases b with r | v | v | v
  all_goals
    simp [decSrc2, Dec.bind_ok, isLen_ok, zeroOf_ok, decSc_ok, encAlu, f64w, f96w, f128w, ite_eq_iff,
      sub_eq_mkSub, setWidth_inj, *]
  all_goals tauto

/-- The vector class with a second source: what that is read as fixes the rest of the word (R337). -/
theorem Fields.Canon.eq_encVS (hc : f.Canon) {M : BitVec 8} {z : Bool} {t : ETy} {d a : BitVec 6} {b : VSrc} {k : KReg}
    {x : BitVec 27} : f = encVS M z t d a b k x ↔ f.major = M ∧ f.i = false ∧ f.z = z ∧ f.lo4 = encTy t ∧ f.d = d ∧
      f.a = a ∧ f.k = encLm k ∧ f.x = x ∧ decVSrc f = .ok b := by
  rw [eq_iff]
  rcases hc.cases with ⟨hl, hy⟩ | ⟨hl, hy⟩ | hl <;> rcases b with r | v
  all_goals
    simp [decVSrc, Dec.bind_ok, isLen_ok, zeroOf_ok, decV_eq, encVS, f64w, f96w, sub_eq_mkSub,
      setWidth_inj, *]
  all_goals tauto

theorem eq_ofNat_of_toNat {w n : Nat} {v : BitVec w} (h : v.toNat = n) : v = BitVec.ofNat w n := by
  rw [← h, BitVec.ofNat_toNat, BitVec.setWidth_eq]

theorem encodeF_of_decInt (hc : f.Canon) (h : decInt f = .ok i) : encodeF i = some f := by
  unfold decInt at h
  split at h
  case h_26 => cases h
  case h_1 | h_2 | h_3 | h_4 | h_5 | h_6 | h_7 | h_8 | h_9 | h_10 | h_11 | h_12 | h_13 | h_14 | h_15 | h_16 =>
    rename_i hm
    replace hm := eq_ofNat_of_toNat hm
    simp only [decAlu, Dec.bind_ok, need_ok, decSc_ok, decCond_ok, Bool.and_eq_true, beq_iff_eq, Bool.or_eq_true,
      Bool.not_eq_true', Bool.false_eq_true, false_or, exists_const, Except.ok.injEq, Prod.exists, Prod.mk.injEq, true_or,
      and_true] at h
    casesm* _ ∧ _, ∃ _, _
    subst_vars
    refine congrArg some (Eq.symm (hc.eq_encAlu.mpr ?_))
    simp [*]
  all_goals
    rename_i hm
    replace hm := eq_ofNat_of_toNat hm
    rcases hc.cases with ⟨hl, hy⟩ | ⟨hl, hy⟩ | hl
    all_goals
      simp [decSelSrc, decDA, Dec.bind_ok, isLen_ok, need_ok, zeroOf_ok, decSc_ok, ite_eq_iff, hl] at h
  all_goals
    casesm* _ ∧ _, ∃ _, _, _ ∨ _
  all_goals
    subst_vars
    refine congrArg some (Eq.symm (eq_iff.mpr ?_))
    simp [f64w, f96w, f128w, encDA, cOnly, sub_eq_mkSub, sub_zero_iff, x_eq_cForm, x_eq_bfx, *]

theorem encodeF_of_decFp (hc : f.Canon) (h : decFp f = .ok i) : encodeF i = some f := by
  unfold decFp at h
  split at h
  case h_13 => cases h
  all_goals
    rename_i hm
    replace hm := eq_ofNat_of_toNat hm
    rcases hc.cases with ⟨hl, hy⟩ | ⟨hl, hy⟩ | hl
    all_goals
      simp [decFp2, decFp1, decFpHead, decTy_ok, decSgnOp_ok, decCond_ok_c, Dec.bind_ok, isLen_ok, need_ok, zeroOf_ok,
        decSc_ok, hl] at h
  all_goals
    casesm* _ ∧ _, ∃ _, _, _ ∨ _
  all_goals
    subst_vars
    refine congrArg some (Eq.symm (eq_iff.mpr ?_))
    simp [f64w, encFp, sub_eq_mkSub, x_eq_cForm, *]

theorem encodeF_of_decCtl (hc : f.Canon) (h : decCtl f = .ok i) : encodeF i = some f := by
  unfold decCtl at h
  split at h
  case h_8 => cases h
  case h_5 hm =>
    replace hm := eq_ofNat_of_toNat hm
    simp only [decBare, Dec.bind_ok, need_ok, zeroOf_ok, beq_iff_eq, Bool.and_eq_true, exists_const] at h
    obtain ⟨⟨hs, hk, ⟨hd, ha⟩, hb⟩, ⟨hx, hy⟩, h⟩ := h
    rcases hc.cases with ⟨hl, -⟩ | ⟨hl, -⟩ | hl <;> simp only [hl] at h <;> cases h <;>
      exact congrArg some (eq_iff.mpr ⟨hl, hm, hd, ha, hb, hs, hk, hx, hy⟩).symm
  all_goals
    rename_i hm
    replace hm := eq_ofNat_of_toNat hm
    rcases hc.cases with ⟨hl, hy⟩ | ⟨hl, hy⟩ | hl
    all_goals
      simp [decDA, decBare, decCond_ok, Dec.bind_ok, isLen_ok, need_ok, zeroOf_ok, decSc_ok, ite_eq_iff, hl] at h
  all_goals
    casesm* _ ∧ _, ∃ _, _, _ ∨ _
  all_goals
    subst_vars
    refine congrArg some (Eq.symm (eq_iff.mpr ?_))
    simp [f64w, f96w, encDA, sub_eq_mkSub, *]

theorem encodeF_of_decMem (hc : f.Canon) (h : decMem f = .ok i) : encodeF i = some f := by
  unfold decMem at h
  split at h
  case h_15 => cases h
  all_goals
    rename_i hm
    replace hm := eq_ofNat_of_toNat hm
    rcases hc.cases with ⟨hl, hy⟩ | ⟨hl, hy⟩ | hl
    all_goals
      simp [decBare, decScope_ok, decScopeReq_ok, decLdMode_ok, decStMode_ok, decAmoOp_ok, decCmoOp_ok, Dec.bind_ok,
        isLen_ok, need_ok, zeroOf_ok, decSc_ok, hl] at h
  all_goals
    casesm* _ ∧ _, ∃ _, _, _ ∨ _
  all_goals
    subst_vars
    refine congrArg some (Eq.symm (eq_iff.mpr ?_))
    simp [f64w, f96w, f128w, cOnly, x_eq_cForm, sub_eq_memSub, op_eq_ld, op_eq_st, op_eq_lds, op_eq_sts, op_eq_amo,
      sub_eq_cmo, op_eq_zero, *]

theorem encodeF_of_decVec (hc : f.Canon) (h : decVec f = .ok i) : encodeF i = some f := by
  unfold decVec at h
  split at h
  case h_42 => cases h
  case h_7 | h_8 | h_9 | h_10 | h_11 | h_12 | h_14 | h_20 | h_21 | h_22 | h_23 | h_24 | h_25 | h_26 | h_27 | h_28 | h_30 =>
    rename_i hm
    replace hm := eq_ofNat_of_toNat hm
    simp [decVC, Dec.bind_ok, need_ok, zeroOf_ok, decTy_ok, decK_ok, decCond_ok_c] at h
    casesm* _ ∧ _, ∃ _, _
    subst_vars
    refine congrArg some (Eq.symm (hc.eq_encVS.mpr ?_))
    simp [x_eq_cForm, x_zero_iff, *]
  all_goals
    rename_i hm
    replace hm := eq_ofNat_of_toNat hm
    rcases hc.cases with ⟨hl, hy⟩ | ⟨hl, hy⟩ | hl
    all_goals
      simp [decVM, decVC, decTy_ok, decSgnOp_ok, decK_ok, decRedOp_ok, Dec.bind_ok, isLen_ok, need_ok, zeroOf_ok,
        decSc_ok, hl] at h
  all_goals
    casesm* _ ∧ _, ∃ _, _, _ ∨ _
  all_goals
    subst_vars
    refine congrArg some (Eq.symm (eq_iff.mpr ?_))
    simp [f64w, encV3, cOnly, sub_eq_mkSub, x_eq_cForm, x_zero_iff, *]

theorem encodeF_of_decMask (hc : f.Canon) (h : decMask f = .ok i) : encodeF i = some f := by
  simp only [decMask, Dec.bind_ok, isLen_ok, need_ok, zeroOf_ok, beq_iff_eq, exists_const] at h
  obtain ⟨hl, hs, hk, hx, h⟩ := h
  split at h
  case h_8 => cases h
  all_goals
    rename_i hm
    replace hm := eq_ofNat_of_toNat hm
    simp only [Dec.bind_ok, zeroOf_ok, decSc_ok, decK_ok, beq_iff_eq, exists_const, Except.ok.injEq] at h
    casesm* _ ∧ _, ∃ _, _
    subst_vars
    refine congrArg some (Eq.symm (hc.eq_f64w.mpr ?_))
    simp [*]

theorem encodeF_of_decMatrix (hc : f.Canon) (h : decMatrix f = .ok i) : encodeF i = some f := by
  unfold decMatrix at h
  split at h
  case h_9 => cases h
  all_goals
    rename_i hm
    replace hm := eq_ofNat_of_toNat hm
    rcases hc.cases with ⟨hl, hy⟩ | ⟨hl, hy⟩ | hl
    all_goals
      simp [decBare, decK_ok, decA_ok, decTy_ok, Dec.bind_ok, isLen_ok, need_ok, zeroOf_ok, decSc_ok, hl] at h
  all_goals
    casesm* _ ∧ _, ∃ _, _, _ ∨ _
  all_goals
    subst_vars
    refine congrArg some (Eq.symm (eq_iff.mpr ?_))
    simp [f64w, f96w, x_eq_cForm, x_eq_4, y32_eq_mma, sub_eq_mkSub, setWidth_inj, *]

theorem encodeF_of_decThread (hc : f.Canon) (h : decThread f = .ok i) : encodeF i = some f := by
  unfold decThread at h
  split at h
  case h_16 => cases h
  all_goals
    rename_i hm
    replace hm := eq_ofNat_of_toNat hm
    rcases hc.cases with ⟨hl, hy⟩ | ⟨hl, hy⟩ | hl
    all_goals
      simp [decK_ok, decScopeReq_ok, decAB64, decKA64, decA64, decBar, Dec.bind_ok, isLen_ok, need_ok, zeroOf_ok,
        decSc_ok, ite_eq_iff, hl] at h
  all_goals
    casesm* _ ∧ _, ∃ _, _, _ ∨ _
  all_goals
    subst_vars
    refine congrArg some (Eq.symm (eq_iff.mpr ?_))
    simp [f64w, f96w, x_eq_cForm, cOnly, a_eq_id, sub_eq_mkSub, sub_zero_iff, *]

/-- A zero SUB of the engine class. -/
theorem Fields.sub_zero_iff_eng : f.sub = 0#6 ↔ f.op = 0#4 ∧ f.rel = false ∧ f.acq = false :=
  sub_eq_engSub (op := 0#4) (rl := false) (aq := false)

theorem encodeF_of_decCpy (hc : f.Canon) (hm : f.major = 0xD8#8) (h : decCpy f = .ok i) : encodeF i = some f := by
  simp only [decCpy, Dec.bind_ok, isLen_ok, zeroOf_ok, decScope_ok, decEngC, decTy_ok, beq_iff_eq, decSc_ok,
    exists_const, Bool.and_eq_true, Bool.not_eq_true'] at h
  obtain ⟨hl, sc, hk, c, ⟨⟨⟨⟨⟨hr, ht2⟩, hsat⟩, hwin⟩, hseam⟩, hc'⟩, a, ha, t, ht, hy, h⟩ := h
  split at h
  case h_7 => cases h
  all_goals
    rename_i ho
    replace ho := eq_ofNat_of_toNat ho
    simp only [Dec.bind_ok, zeroOf_ok, decSc_ok, Bool.and_eq_true, beq_iff_eq, Bool.not_eq_true', exists_const,
      Except.ok.injEq] at h
    casesm* _ ∧ _, ∃ _, _
    subst_vars
    refine congrArg some (Eq.symm (hc.eq_f96w.mpr ?_))
    simp only [sub_eq_engSub, cOnly, x_eq_cForm, y32_eq_cpy, encCpyOp, encTy, encV_decV,
      BitVec.ofNat_eq_ofNat, and_self, *]

theorem encodeF_of_decEng (hc : f.Canon) (h : decEng f = .ok i) : encodeF i = some f := by
  unfold decEng at h
  split at h
  case h_16 => cases h
  case h_6 hm => exact encodeF_of_decCpy hc (eq_ofNat_of_toNat hm) h
  all_goals
    rename_i hm
    replace hm := eq_ofNat_of_toNat hm
    rcases hc.cases with ⟨hl, hy⟩ | ⟨hl, hy⟩ | hl
    all_goals
      simp [decEx, decA64, decScope_ok, decEngC, decTag16, decTy_ok, decCollKind_ok, decCbufOp_ok, decEng64, decK_ok,
        Dec.bind_ok, isLen_ok, need_ok, zeroOf_ok, decSc_ok, ite_eq_iff, hl] at h
  all_goals
    casesm* _ ∧ _, ∃ _, _, _ ∨ _
  all_goals
    subst_vars
    refine congrArg some (Eq.symm (eq_iff.mpr ?_))
    simp [f64w, f96w, f128w, encDA, cOnly, sub_eq_engSub, sub_zero_iff_eng, y32_eq_coll, y32_eq_tag, y_eq_id,
      x_eq_cForm, setWidth_inj, *]

theorem encodeF_of_decSys (hc : f.Canon) (h : decSys f = .ok i) : encodeF i = some f := by
  unfold decSys at h
  split at h
  case h_8 => cases h
  case h_5 hm =>
    replace hm := eq_ofNat_of_toNat hm
    simp only [Dec.bind_ok, isLen_ok, need_ok, zeroOf_ok, decSc_ok, Bool.and_eq_true, beq_iff_eq, exists_const,
      Except.ok.injEq] at h
    obtain ⟨hl, hs, hk, ⟨hd, hb⟩, hx, a, ha, rfl⟩ := h
    exact (encodeF_swrOf _ a).trans
      (congrArg some (hc.eq_f64w.mpr ⟨hl, hm, hd, ha, hb, hs, hk, x_eq_sys.mpr ⟨hx, rfl⟩⟩).symm)
  all_goals
    rename_i hm
    replace hm := eq_ofNat_of_toNat hm
    rcases hc.cases with ⟨hl, hy⟩ | ⟨hl, hy⟩ | hl
    all_goals
      simp [decBare, Dec.bind_ok, isLen_ok, need_ok, zeroOf_ok, decSc_ok, ite_eq_iff, hl] at h
  all_goals
    casesm* _ ∧ _, ∃ _, _, _ ∨ _
  all_goals
    subst_vars
    refine congrArg some (Eq.symm (eq_iff.mpr ?_))
    simp [f64w, x_eq_sys, x_eq_8, *]

/-! ## From a word to the instruction it stands for -/

theorem encodeF_of_isEvent (h : i.isEvent = true) : encodeF i = none := by
  unfold Instr.isEvent at h
  split at h
  case h_81 => cases h
  all_goals rfl

/-- Every well-formed instruction has fields, events apart. -/
theorem encodeF_isSome (hw : i.wf = true) (he : i.isEvent = false) : (encodeF i).isSome = true := by
  cases i with
  | sel d a b c =>
    rcases b with r | v | v | v
    case imm.i27 => cases hw
    all_goals rfl
  | lea d b => rcases b with r | v | v | v <;> rfl
  | _ => cases he <;> rfl

/-- The vector class and its memory forms: the instructions that name vector registers. -/
theorem decClass_of_vector (hv : i.vnames ≠ none) (hc : f.Canon) (h : encodeF i = some f) : decClass f = .ok i := by
  cases i with
  | vld _ _ _ _ _ | vst _ _ _ _ _ | vgath _ _ _ _ _ _ | vscat _ _ _ _ _ _
  | vsgn _ _ _ _ _ _ | vexp2 _ _ _ _ | vlog2 _ _ _ _ | vrcp _ _ _ _ | vrsq _ _ _ _ | vtanh _ _ _ _
  | vcvt _ _ _ _ _ _ _ _ | vsel _ _ _ _ _ _ | vred _ _ _ _ _ _ _ | vscan _ _ _ _ _ _ _ | vperm _ _ _ _ _
  | vbcast _ _ _ _ | vslide _ _ _ _ _ _ | vext _ _ _ _ _ | vins _ _ _ _ | vtopk _ _ _ _ _ _ | vidx _ _ _ _
  | vrand _ _ _ _ _ =>
    have h := hc.eq_f64w.mp (Option.some.inj h).symm
    simp [cOnly, sub_eq_mkSub, x_eq_cForm, x_zero_iff] at h
    casesm* _ ∧ _
    simp [decClass, decVec, decVC, decVM, isLen, zeroOf, *]
  | vadd _ _ _ _ _ | vsub _ _ _ _ _ | vmul _ _ _ _ _ | vfma _ _ _ _ _ _ _ | vmin _ _ _ _ _ _ | vmax _ _ _ _ _ _
  | vdiv _ _ _ _ _ | viadd _ _ _ _ _ _ _ | visub _ _ _ _ _ _ _ | vimul _ _ _ _ _ | vand _ _ _ _ _ | vor _ _ _ _ _
  | vxor _ _ _ _ _ | vshl _ _ _ _ _ | vshr _ _ _ _ _ | vsar _ _ _ _ _ | vsetc _ _ _ _ _ _ _ =>
    have h := hc.eq_encVS.mp (Option.some.inj h).symm
    simp [x_eq_cForm, x_zero_iff] at h
    casesm* _ ∧ _
    simp [decClass, decVec, decVC, zeroOf, *]
  | _ => exact absurd rfl hv

theorem decClass_of_encodeF (hc : f.Canon) (hw : i.wf = true) (h : encodeF i = some f) : decClass f = .ok i := by
  by_cases hv : i.vnames = none
  case neg => exact decClass_of_vector hv hc h
  cases i with
  | add _ _ _ | sub _ _ _ | mul _ _ _ | mulh _ _ _ _ | div _ _ _ _ | rem _ _ _ _ | and _ _ _ | or _ _ _ | xor _ _ _ | andn _ _ _
  | shl _ _ _ | shr _ _ _ | sar _ _ _ | min _ _ _ _ | max _ _ _ _ | setc _ _ _ _ _ =>
    have h := hc.eq_encAlu.mp (Option.some.inj h).symm
    simp at h
    casesm* _ ∧ _
    simp [decClass, decInt, decAlu, *]
  | clz _ _ | ctz _ _ | popc _ _ | mov _ _ | bfx _ _ _ _ | bfxImm _ _ _ _ _ | bfi _ _ _ _ | li _ _ =>
    have h := hc.eq_f64w.mp (Option.some.inj h).symm
    simp [cOnly, sub_eq_mkSub, x_eq_cForm, x_eq_bfx] at h
    casesm* _ ∧ _
    simp [decClass, decInt, decDA, isLen, zeroOf, *]
  | li96 _ _ =>
    have h := hc.eq_f96w.mp (Option.some.inj h).symm
    simp [sub_eq_mkSub] at h
    casesm* _ ∧ _
    simp [decClass, decInt, zeroOf, *]
  | li128 _ _ =>
    have h := hc.eq_f128w.mp (Option.some.inj h).symm
    simp [sub_eq_mkSub] at h
    casesm* _ ∧ _
    simp [decClass, decInt, zeroOf, *]
  | sel d a b c =>
    rcases b with r | v | v | v
    case imm.i27 => cases h
    case reg =>
      have h := hc.eq_f64w.mp (Option.some.inj h).symm
      simp [cOnly, sub_zero_iff, x_eq_cForm] at h
      simp [decClass, decInt, decSelSrc, isLen, zeroOf, h]
    case imm.i32 =>
      have h := hc.eq_f96w.mp (Option.some.inj h).symm
      simp [cOnly, sub_eq_mkSub, x_eq_cForm] at h
      simp [decClass, decInt, decSelSrc, zeroOf, h]
    case imm.i64 =>
      have h := hc.eq_f128w.mp (Option.some.inj h).symm
      simp [cOnly, sub_eq_mkSub, x_eq_cForm] at h
      simp [decClass, decInt, decSelSrc, zeroOf, h]
  | lea d b =>
    rcases b with r | v | v | v
    case reg =>
      have h := hc.eq_f64w.mp (Option.some.inj h).symm
      simp [sub_zero_iff] at h
      simp [decClass, decInt, isLen, zeroOf, h]
    case imm.i27 =>
      have h := hc.eq_f64w.mp (Option.some.inj h).symm
      simp [sub_eq_mkSub] at h
      simp [decClass, decInt, zeroOf, h]
    case imm.i32 =>
      have h := hc.eq_f96w.mp (Option.some.inj h).symm
      simp [sub_eq_mkSub] at h
      simp [decClass, decInt, zeroOf, h]
    case imm.i64 =>
      have h := hc.eq_f128w.mp (Option.some.inj h).symm
      simp [sub_eq_mkSub] at h
      simp [decClass, decInt, zeroOf, h]
  | fadd _ _ _ _ | fsub _ _ _ _ | fmul _ _ _ _ | ffma _ _ _ _ _ | fdiv _ _ _ _ | fsqrt _ _ _ | fmin _ _ _ _
  | fmax _ _ _ _ | fsetc _ _ _ _ _ | fcvt _ _ _ _ _ _ | fclass _ _ _ | fsgn _ _ _ _ _ =>
    have h := hc.eq_f64w.mp (Option.some.inj h).symm
    simp [sub_eq_mkSub, x_eq_cForm] at h
    casesm* _ ∧ _
    simp [decClass, decFp, decFp2, decFp1, decFpHead, isLen, zeroOf, *]
  | br _ _ _ _ _ | j _ | jl _ _ | jr _ _ | halt | haltKeep _ | yield =>
    have h := hc.eq_f64w.mp (Option.some.inj h).symm
    simp [sub_eq_mkSub] at h
    casesm* _ ∧ _
    simp [decClass, decCtl, decDA, decBare, isLen, zeroOf, *]
  | j96 _ | jl96 _ _ =>
    have h := hc.eq_f96w.mp (Option.some.inj h).symm
    simp at h
    casesm* _ ∧ _
    simp [decClass, decCtl, decBare, isLen, zeroOf, *]
  | nop | nop96 | nop128 =>
    have h := eq_iff.mp (Option.some.inj h).symm
    simp [f64w, f96w, f128w] at h
    simp [decClass, decCtl, decBare, zeroOf, h]
  | ld _ _ _ _ _ _ _ | st _ _ _ _ _ _ | lds _ _ _ _ _ _ _ | sts _ _ _ _ _ _ | amo _ _ _ _ _ _ _ _ | fence _
  | acq _ _ _ _ _ | rel _ _ _ _ | unbind _ _ | cmo _ _ _ _ _ | fbar =>
    have h := hc.eq_f64w.mp (Option.some.inj h).symm
    simp [sub_eq_memSub, op_eq_ld, op_eq_st, op_eq_lds, op_eq_sts, op_eq_amo, sub_eq_cmo] at h
    casesm* _ ∧ _
    simp [decClass, decMem, decBare, isLen, zeroOf, *]
  | cas _ _ _ _ _ _ _ | bind _ _ _ _ _ | mcast _ _ _ _ _ _ =>
    have h := hc.eq_f96w.mp (Option.some.inj h).symm
    simp [cOnly, x_eq_cForm, sub_eq_memSub, op] at h
    casesm* _ ∧ _
    simp [decClass, decMem, isLen, zeroOf, *]
  | mcast128 _ _ _ _ _ _ =>
    have h := hc.eq_f128w.mp (Option.some.inj h).symm
    simp [cOnly, x_eq_cForm] at h
    casesm* _ ∧ _
    simp [decClass, decMem, isLen, zeroOf, *]
  | kand _ _ _ | kor _ _ _ | kxor _ _ _ | knot _ _ | kpopc _ _ | kfirst _ _ | kmov _ _ =>
    have h := hc.eq_f64w.mp (Option.some.inj h).symm
    simp at h
    casesm* _ ∧ _
    simp [decClass, decMask, isLen, zeroOf, *]
  | mxbeg | mxend | mxzero _ _ | mxld _ _ _ | mxst _ _ _ _ _ | mxflg _ _ | mxwait _ =>
    have h := hc.eq_f64w.mp (Option.some.inj h).symm
    simp [sub_eq_mkSub, x_eq_cForm, x_eq_4] at h
    casesm* _ ∧ _
    simp [decClass, decMatrix, decBare, isLen, zeroOf, *]
  | mma _ _ _ _ _ _ _ _ _ =>
    have h := hc.eq_f96w.mp (Option.some.inj h).symm
    simp [sub_eq_mkSub, x_eq_cForm, y32_eq_mma] at h
    casesm* _ ∧ _
    simp [decClass, decMatrix, isLen, zeroOf, *]
  | spawn _ _ | evset _ | evclr _ | evwait _ | migr _ | bar _ _ | bjoin _ _ _ | bleave _ _ | slotw _ _
  | sbind _ _ _ | sfree _ =>
    have h := hc.eq_f64w.mp (Option.some.inj h).symm
    simp [a_eq_id] at h
    casesm* _ ∧ _
    simp [decClass, decThread, decAB64, decKA64, decA64, decBar, isLen, zeroOf, *]
  | grow _ _ _ | growReg _ _ _ | shrink _ _ | rfillSend _ _ _ _ =>
    have h := hc.eq_f64w.mp (Option.some.inj h).symm
    simp [cOnly, x_eq_cForm, sub_eq_mkSub] at h
    casesm* _ ∧ _
    simp [decClass, decThread, isLen, zeroOf, *]
  | shrinkReg _ _ | rfillArm _ =>
    have h := hc.eq_f64w.mp (Option.some.inj h).symm
    simp [sub_zero_iff] at h
    simp [Instr.wf] at hw
    simp [decClass, decThread, isLen, zeroOf, h, hw]
  | task _ _ _ _ _ _ =>
    have h := hc.eq_f96w.mp (Option.some.inj h).symm
    simp [x_eq_cForm, sub_eq_mkSub] at h
    casesm* _ ∧ _
    simp [decClass, decThread, isLen, zeroOf, *]
  | vspill _ _ _ _ | vfill _ _ _ _ =>
    have h := hc.eq_f64w.mp (Option.some.inj h).symm
    simp at h
    casesm* _ ∧ _
    simp [decClass, decVec, isLen, zeroOf, *]
  | vld | vst | vgath | vscat | vsgn | vexp2 | vlog2 | vrcp | vrsq | vtanh | vcvt | vsel | vred | vscan | vperm
  | vbcast | vslide | vext | vins | vtopk | vidx | vrand | vadd | vsub | vmul | vfma | vmin | vmax | vdiv | viadd
  | visub | vimul | vand | vor | vxor | vshl | vshr | vsar | vsetc => cases hv
  | exnew _ _ | exjoin _ _ _ | exset _ | exchk _ _ | exfree _ | launch _ =>
    have h := hc.eq_f64w.mp (Option.some.inj h).symm
    simp at h
    casesm* _ ∧ _
    simp [decClass, decEng, decEx, decA64, isLen, zeroOf, *]
  | cpwait _ _ | gmload _ | gmstep _ _ _ | gmstepRst _ _ | gmmask _ _ _ | gmmaskK _ _ _ =>
    have h := hc.eq_f64w.mp (Option.some.inj h).symm
    simp [sub_zero_iff_eng, sub_eq_engSub] at h
    casesm* _ ∧ _
    simp [decClass, decEng, decEng64, isLen, zeroOf, *]
  | cpyRfg _ _ _ _ _ | cpyRfv _ _ _ _ _ | cpgb _ _ _ _ _ _ _ | kvapp _ _ _ _ _ _ | coll _ _ _ _ _ _ _ =>
    have h := hc.eq_f96w.mp (Option.some.inj h).symm
    simp [cOnly, x_eq_cForm, sub_eq_engSub, y32_eq_tag, y32_eq_coll] at h
    casesm* _ ∧ _
    simp [decClass, decEng, decCpy, decEngC, decTag16, isLen, zeroOf, *]
  | cbuf _ _ _ _ =>
    have h := hc.eq_f128w.mp (Option.some.inj h).symm
    simp [x_eq_cForm, sub_eq_engSub, y_eq_id] at h
    casesm* _ ∧ _
    simp [decClass, decEng, isLen, zeroOf, *]
  | trap _ | brk _ | tret | tretSkip | track | srd _ _ | rdtime _ =>
    have h := hc.eq_f64w.mp (Option.some.inj h).symm
    simp [x_eq_8, x_eq_sys] at h
    casesm* _ ∧ _
    simp [decClass, decSys, decBare, isLen, zeroOf, *]
  | swrEx _ | swrCsplit _ | swrOvh _ | swrHvec _ | swrMq _ | swrWdog _ =>
    have h := hc.eq_f64w.mp (Option.some.inj h).symm
    simp at h
    casesm* _ ∧ _
    simp [decClass, decSys, swrOf, isLen, zeroOf, *]
  | swr sys _ =>
    have h := hc.eq_f64w.mp (Option.some.inj h).symm
    simp [x_eq_sys] at h
    simp [Instr.wf, swrOwnRow] at hw
    simp [decClass, decSys, isLen, zeroOf, swrOf, h, hw]
  | cpy op t _ _ _ _ _ _ _ _ =>
    have h := hc.eq_f96w.mp (Option.some.inj h).symm
    simp only [cOnly, x_eq_cForm, sub_eq_engSub, y32_eq_cpy] at h
    simp only [Instr.wf, Bool.and_eq_true] at hw
    rcases op with _ | _ | _ | _ <;> rcases t with _ | t <;> simp at hw
    all_goals
      simp [encCpyOp] at h
      simp [decClass, decEng, decCpy, decEngC, isLen, zeroOf, h]
  | _ => cases h

namespace Fields

@[simp] theorem canon_f64w {M : BitVec 8} {d a b sub : BitVec 6} {k : BitVec 3} {x : BitVec 27} :
    (f64w M d a b sub k x).Canon := ⟨nofun, BitVec.zero_and⟩

@[simp] theorem canon_f96w {M : BitVec 8} {d a b sub : BitVec 6} {k : BitVec 3} {x : BitVec 27} {y : BitVec 32} :
    (f96w M d a b sub k x y).Canon := by
  refine ⟨nofun, ?_⟩
  apply BitVec.eq_of_toNat_eq
  show (y.setWidth 64).toNat &&& (2 ^ 32 - 1) = (y.setWidth 64).toNat
  rw [Nat.and_two_pow_sub_one_eq_mod, BitVec.toNat_setWidth]
  omega

@[simp] theorem canon_f128w {M : BitVec 8} {d a b sub : BitVec 6} {k : BitVec 3} {x : BitVec 27} {y : BitVec 64} :
    (f128w M d a b sub k x y).Canon := ⟨nofun, BitVec.and_allOnes⟩

@[simp] theorem canon_encAlu {M : BitVec 8} {z : Bool} {lo : BitVec 4} {d a : Sc} {b : Src2} :
    (encAlu M z lo d a b).Canon := by
  rcases b with r | v | v | v <;> simp [encAlu]

@[simp] theorem canon_encVS {M : BitVec 8} {z : Bool} {t : ETy} {d a : BitVec 6} {b : VSrc} {k : KReg} {x : BitVec 27} :
    (encVS M z t d a b k x).Canon := by
  rcases b with r | v <;> simp [encVS]

/-- The fields of a word of a length the encoding knows. -/
theorem canon_unpack {w : IWord} (h : (unpack w).len ≠ 3#2) : (unpack w).Canon :=
  ⟨h, by simp only [unpack, BitVec.and_assoc, BitVec.and_self]⟩

/-- The parts of a word of fields are those fields. -/
theorem Canon.unpack_pack (hc : f.Canon) : unpack f.pack = f := by
  have h : f.pack = f.pack := rfl
  conv at h => rhs; unfold pack
  rw [eq_append_iff (m := 126) (n := 2), eq_append_iff (m := 118) (n := 8), eq_append_iff (m := 112) (n := 6),
    eq_append_iff (m := 106) (n := 6), eq_append_iff (m := 100) (n := 6), eq_append_iff (m := 94) (n := 6),
    eq_append_iff (m := 91) (n := 3), eq_append_iff (m := 64) (n := 27)] at h
  simp only [extractLsb'_extractLsb'_zero, Nat.reduceAdd, Nat.reduceLeDiff] at h
  obtain ⟨⟨⟨⟨⟨⟨⟨⟨hy, hx⟩, hk⟩, hsub⟩, hb⟩, ha⟩, hd⟩, hm⟩, hl⟩ := h
  simp only [unpack, hy, hx, hk, hsub, hb, ha, hd, hm, hl, hc.y]

/-- The word of a word's fields has the bits of Y64 that the length has, over the word's low half. -/
theorem pack_unpack {w : IWord} :
    (unpack w).pack = ((w.extractLsb' 64 64 &&& yMask (unpack w).len) ++ w.extractLsb' 0 64 : BitVec (64 + 64)) := by
  symm
  unfold pack
  rw [eq_append_iff (m := 126) (n := 2), eq_append_iff (m := 118) (n := 8), eq_append_iff (m := 112) (n := 6),
    eq_append_iff (m := 106) (n := 6), eq_append_iff (m := 100) (n := 6), eq_append_iff (m := 94) (n := 6),
    eq_append_iff (m := 91) (n := 3), eq_append_iff (m := 64) (n := 27)]
  simp only [extractLsb'_extractLsb'_zero, Nat.reduceAdd, Nat.reduceLeDiff]
  refine ⟨⟨⟨⟨⟨⟨⟨⟨BitVec.extractLsb'_append_eq_left, ?_⟩, ?_⟩, ?_⟩, ?_⟩, ?_⟩, ?_⟩, ?_⟩, ?_⟩ <;>
    rw [BitVec.extractLsb'_append_eq_of_add_le (by decide), extractLsb'_extractLsb'_zero (by decide)] <;> rfl

/-- The word of a word's fields keeps the bits of its length. -/
theorem toNat_pack_unpack {w : IWord} (h : (unpack w).len ≠ 3#2) :
    (unpack w).pack = BitVec.ofNat 128 (w.toNat % 2 ^ (8 * lenBytes (unpack w).len)) := by
  have hl : ∀ l : BitVec 2, l ≠ 3#2 → l = 0#2 ∨ l = 1#2 ∨ l = 2#2 := by decide
  have hw := w.isLt
  have hp := congrArg BitVec.toNat (pack_unpack (w := w))
  rw [BitVec.toNat_append, BitVec.toNat_and, ← Nat.shiftLeft_add_eq_or_of_lt (by simp; omega), Nat.shiftLeft_eq] at hp
  simp only [BitVec.extractLsb'_toNat, Nat.shiftRight_eq_div_pow] at hp
  apply BitVec.eq_of_toNat_eq
  rw [hp, BitVec.toNat_ofNat]
  rcases hl _ h with h | h | h <;> rw [h]
  · simp [yMask, lenBytes]
    omega
  · rw [show (yMask 1#2).toNat = 2 ^ 32 - 1 from rfl, Nat.and_two_pow_sub_one_eq_mod]
    simp [lenBytes]
    omega
  · rw [show (yMask 2#2).toNat = 2 ^ 64 - 1 from rfl, Nat.and_two_pow_sub_one_eq_mod]
    simp [lenBytes]
    omega

end Fields

/-- The encoder writes nothing beyond a word's length. -/
theorem encodeF_canon (h : encodeF i = some f) : f.Canon := by
  cases i with
  | sel d a b c => rcases b with r | v | v | v <;> cases h <;> simp
  | lea d b => rcases b with r | v | v | v <;> cases h <;> simp
  | _ => cases h <;> simp [encDA, encFp, encV3]

/-- A class reads what its words write. -/
theorem encodeF_of_decClass (hc : f.Canon) (h : decClass f = .ok i) : encodeF i = some f := by
  unfold decClass at h
  simp only at h
  split_ifs at h
  · exact encodeF_of_decInt hc h
  · exact encodeF_of_decFp hc h
  · exact encodeF_of_decCtl hc h
  · exact encodeF_of_decMem hc h
  · exact encodeF_of_decVec hc h
  · exact encodeF_of_decMask hc h
  · exact encodeF_of_decMatrix hc h
  · exact encodeF_of_decThread hc h
  · exact encodeF_of_decEng hc h
  · exact encodeF_of_decSys hc h

/-- Fields decode to the well-formed instruction that they encode, and to no other. -/
theorem decodeF_iff (hc : f.Canon) : decodeF f = .ok i ↔ i.wf = true ∧ encodeF i = some f := by
  have h3 : (f.len == 3#2) = false := beq_eq_false_iff_ne.mpr hc.len
  simp only [decodeF, h3, Dec.bind_ok, need_ok, exists_const, Except.ok.injEq, Bool.false_eq_true, if_false]
  constructor
  · rintro ⟨a, h, hw, rfl⟩
    exact ⟨hw, encodeF_of_decClass hc h⟩
  · rintro ⟨hw, h⟩
    exact ⟨i, decClass_of_encodeF hc hw h, hw, rfl⟩

theorem encode_eq {w : IWord} : encode i = some w ↔ i.wf = true ∧ ∃ f, encodeF i = some f ∧ f.pack = w := by
  unfold encode
  split <;> simp [*]

/-! ## The obligations -/

/-- Settles O1: the fields of a word are those it was packed from, and they decode to the instruction that they
encode. -/
theorem decodeOfEncode : Obligations.DecodeOfEncode := by
  unfold Obligations.DecodeOfEncode
  refine ⟨fun i w h => ?_, fun i hw he => ?_, fun i he => ?_⟩
  · obtain ⟨hw, f, hf, rfl⟩ := encode_eq.mp h
    have hc := encodeF_canon hf
    rw [decode, hc.unpack_pack]
    exact (decodeF_iff hc).mpr ⟨hw, hf⟩
  · obtain ⟨f, hf⟩ := Option.isSome_iff_exists.mp (encodeF_isSome hw he)
    simp [encode, hw, hf]
  · unfold encode
    rw [encodeF_of_isEvent he]
    split <;> rfl

/-- Settles O2: what decodes encodes to the same fields, and these keep every bit of the word's length. -/
theorem encodeOfDecode : Obligations.EncodeOfDecode := by
  unfold Obligations.EncodeOfDecode
  intro w i h
  have h3 : (unpack w).len ≠ 3#2 := by
    intro h3
    rw [decode, decodeF, h3] at h
    cases h
  obtain ⟨hw, hf⟩ := (decodeF_iff (canon_unpack h3)).mp h
  refine ⟨hw, encode_eq.mpr ⟨hw, _, hf, ?_⟩⟩
  rw [toNat_pack_unpack h3, instrLen, hf]

end Sys2Proof
end

section
/-! SUPPORT. What an instruction of the register classes may touch (`Within`), as a relation between two states that each
step of a meaning keeps, and the predicates of states that a whole meaning keeps (`Preserves`). -/
namespace Sys2Proof.Machine

/-! ## Predicates of states that a meaning keeps -/

/-- The state that a meaning hands on has the property: where it completes, and where it faults with its progress kept.
What a wait or another fault has done is taken back. -/
def HandsOn {α : Type} (Q : State → Prop) : EStateM.Result Stop State α → Prop
  | .ok _ t => Q t
  | .error (.trap _ true) t => Q t
  | .error _ _ => True

/-- From a state with the property, the state that the meaning hands on has it. -/
def Preserves {α : Type} (Q : State → Prop) (x : M α) : Prop := ∀ s, Q s → HandsOn Q (x s)

namespace Preserves

variable {α β : Type} {Q : State → Prop} {x : M α}

theorem ok (h : Preserves Q x) {s t : State} {a : α} (hs : Q s) (he : x s = .ok a t) : Q t := by
  simpa [he, HandsOn] using h s hs

theorem kept (h : Preserves Q x) {s t : State} {tr : Trap} (hs : Q s) (he : x s = .error (.trap tr true) t) : Q t := by
  simpa [he, HandsOn] using h s hs

/-- An early end hands on the same state, whatever the meaning would have returned. -/
theorem handsOn_error {e : Stop} {t : State} (h : HandsOn Q (.error e t : EStateM.Result Stop State α)) :
    HandsOn Q (.error e t : EStateM.Result Stop State β) := by
  cases e with
  | trap tr keep => cases keep <;> exact h
  | park p => trivial
  | fault f => trivial

theorem pure {a : α} : Preserves Q (Pure.pure a : M α) := fun _ h => h

theorem bind (hx : Preserves Q x) {f : α → M β} (hf : ∀ a, Preserves Q (f a)) : Preserves Q (x >>= f) := by
  intro s hs
  have h := hx s hs
  rw [M.bind_apply]
  cases he : x s with
  | ok a t => rw [he] at h; exact hf a t h
  | error e t => rw [he] at h; exact handsOn_error h

theorem map (hx : Preserves Q x) {f : α → β} : Preserves Q (f <$> x) := by
  intro s hs
  have h := hx s hs
  rw [M.map_apply]
  cases he : x s with
  | ok a t => rw [he] at h; exact h
  | error e t => rw [he] at h; exact handsOn_error h

/-- A meaning that leaves the state as it found it. -/
theorem of_const (h : ∀ s, endState (x s) = s) : Preserves Q x := by
  intro s hs
  have e := h s
  cases he : x s with
  | ok a t => rw [he] at e; exact (show t = s from e) ▸ hs
  | error st t =>
    rw [he] at e
    have ht : Q t := (show t = s from e) ▸ hs
    cases st with
    | trap tr keep =>
      cases keep
      · trivial
      · exact ht
    | park p => trivial
    | fault f => trivial

theorem modified {f : State → State} (hf : ∀ s, Q s → Q (f s)) : Preserves Q (modify f : M PUnit) := hf

theorem ite {y : M α} {c : Prop} [Decidable c] (hx : Preserves Q x) (hy : Preserves Q y) :
    Preserves Q (if c then x else y) := by
  split
  · exact hx
  · exact hy

theorem forM {l : List α} {f : α → M PUnit} (hf : ∀ a ∈ l, Preserves Q (f a)) : Preserves Q (l.forM f) := by
  induction l with
  | nil => exact pure
  | cons a l ih =>
    exact bind (hf a List.mem_cons_self) fun _ => ih fun b hb => hf b (List.mem_cons_of_mem _ hb)

/-- What follows a reading of the state starts in a state that has the property. -/
theorem get {f : State → M α} (hf : ∀ s, Q s → Preserves Q (f s)) : Preserves Q ((MonadState.get : M State) >>= f) :=
  fun s hs => hf s hs s hs

theorem getThr {f : Thread → M α} (hf : ∀ s, Q s → Preserves Q (f s.thr)) : Preserves Q (Machine.getThr >>= f) :=
  fun s hs => hf s hs s hs

theorem rdS (r : Sc) : Preserves Q (Machine.rdS r) := of_const fun _ => rfl
theorem rdK (k : KReg) : Preserves Q (Machine.rdK k) := of_const fun _ => rfl
theorem raiseAt {c a i : Nat} : Preserves Q (Machine.raiseAt c a i : M α) := of_const fun _ => rfl
theorem raise {c : Nat} : Preserves Q (Machine.raise c : M α) := of_const fun _ => rfl
theorem park {p : Park} : Preserves Q (Machine.park p : M α) := of_const fun _ => rfl
theorem rdSrc2 (b : Src2) : Preserves Q (Machine.rdSrc2 b) := of_const fun s => by rw [rdSrc2_apply]; rfl

end Preserves

/-! ## An instruction that ran neither trapped nor waits -/

/-- The bytes that a trap frame writes leave the table of threads. -/
@[simp] theorem State.setBytes_threads (s : State) (pa n v : Nat) : (s.setBytes pa n v).threads = s.threads := by
  induction n generalizing s pa v with
  | zero => rfl
  | succ n ih =>
    rw [State.setBytes, ih]
    unfold State.setByte
    split <;> rfl

@[simp] theorem State.homeWrite_threads (s : State) (pa n v : Nat) : (s.homeWrite pa n v).threads = s.threads := by
  unfold State.homeWrite
  split
  · rfl
  · exact s.setBytes_threads pa n v

@[simp] theorem State.putByte_threads (s : State) (core : Nat) (p : Phys) (b : Byte) :
    (s.putByte core p b).threads = s.threads := by
  unfold State.putByte
  dsimp only
  split
  · split <;> split <;> rfl
  · split <;> simp [State.flushSpan]

/-- A trap frame stored leaves the table of threads. -/
theorem State.frameStore_threads {s t : State} {core : Nat} {va v : Word} {bad : Bool}
    (h : s.frameStore core va v bad = .ok t) : t.threads = s.threads := by
  unfold State.frameStore at h
  split at h
  · cases h
  · split at h
    · cases h
    · cases h
      exact List.foldlRecOn (motive := fun u : State => u.threads = s.threads) _ _ rfl
        fun u hu e _ => (u.putByte_threads ..).trans hu

/-- A double fault leaves a thread that waits. -/
theorem State.doubleFault_park {s : State} {tid : Nat} {tr : Trap} (h : (s.thread? tid).isSome = true) :
    ∃ u, (s.doubleFault tid tr).thread? tid = some u ∧ u.park = some .halted := by
  obtain ⟨t, ht⟩ := Option.isSome_iff_exists.mp h
  unfold State.doubleFault
  rw [ht]
  exact ⟨_, mapGet_put_self .., rfl⟩

/-- After its entry into a trap, a thread waits or has TRAPENT set. -/
theorem State.enterTrap_trapent {s : State} {tid : Nat} {w : Option Latched} {tr : Trap}
    (h : (s.thread? tid).isSome = true) :
    ∃ u, (s.enterTrap tid w tr).thread? tid = some u ∧ (u.park.isSome = true ∨ u.trapent = true) := by
  obtain ⟨t, ht⟩ := Option.isSome_iff_exists.mp h
  have halted {u : State} {tr : Trap} (hu : u.threads = (s.setThread tid (t.trapRegs w tr)).threads) :
      ∀ tr2, ∃ x, (u.doubleFault tid tr2).thread? tid = some x ∧ (x.park.isSome = true ∨ x.trapent = true) := by
    intro tr2
    have hs : (u.thread? tid).isSome = true := by rw [State.thread?, hu]; simp
    obtain ⟨x, hx, hp⟩ := State.doubleFault_park (tr := tr2) hs
    exact ⟨x, hx, .inl (by simp [hp])⟩
  unfold State.enterTrap
  simp only [ht]
  split
  · exact halted rfl _
  · split
    · exact halted rfl _
    · next h2 =>
      have e2 := State.frameStore_threads h2
      split
      · exact halted e2 _
      · next h3 =>
        have e3 := (State.frameStore_threads h3).trans e2
        rw [State.updThread_some (u := t.trapRegs w tr) (by rw [State.thread?, e3]; exact mapGet_put_self ..)]
        exact ⟨_, mapGet_put_self .., .inr rfl⟩

/-- A thread that takes a trap waits or has TRAPENT set anew: it has not run its instruction, unless it was in the
double-fault state, in which nothing happens. -/
theorem takeTrap_of_ran {s s1 : State} {w : Option Latched} {tr : Trap} (hcur : s1.cur = s.cur)
    (htr : s1.thr.trapent = s.thr.trapent) (h : Ran s (s1.takeTrap s.cur w tr)) : s1.takeTrap s.cur w tr = s1 := by
  obtain ⟨hc, hsome, hpark, htrap⟩ := h
  have no (u : Thread) (hu : (s1.takeTrap s.cur w tr).thread? s.cur = some u) :
      u.park = none ∧ u.trapent = s.thr.trapent := by
    have : (s1.takeTrap s.cur w tr).thr = u := by simp [State.thr, hc, hu]
    rw [this] at hpark htrap
    exact ⟨hpark, htrap⟩
  cases ht : s1.thread? s.cur with
  | none => simp [State.takeTrap, ht]
  | some t =>
    have hthr : s1.thr = t := by simp [State.thr, hcur, ht]
    have hs : (s1.thread? s.cur).isSome = true := by simp [ht]
    simp only [State.takeTrap, ht] at no ⊢
    by_cases hdf : t.df = true
    · simp [hdf]
    · rw [if_neg hdf] at no ⊢
      by_cases hte : t.trapent = true
      · rw [if_pos hte] at no
        obtain ⟨u, hu, hp⟩ := State.doubleFault_park (tr := tr) hs
        simp [(no u hu).1] at hp
      · rw [if_neg hte] at no
        by_cases hg : t.gPend.getLsbD 15 = true
        · rw [if_pos hg] at no
          simpa using (no _ (mapGet_put_self ..)).1
        · rw [if_neg hg] at no
          obtain ⟨u, hu, hp⟩ := State.enterTrap_trapent (w := w) (tr := tr) hs
          obtain ⟨h1, h2⟩ := no u hu
          rw [← htr, hthr] at h2
          simp [h1, h2, hte] at hp

/-! ## What stays, over two spans -/

section
variable {r s t : State}

theorem SameMemory.trans (h : SameMemory r s) (g : SameMemory s t) : SameMemory r t := by
  obtain ⟨a1, a2, a3, a4, a5⟩ := h
  obtain ⟨b1, b2, b3, b4, b5⟩ := g
  exact ⟨fun p => (b1 p).trans (a1 p), fun p => (b2 p).trans (a2 p), fun p => (b3 p).trans (a3 p),
    fun k => (b4 k).trans (a4 k), b5.trans a5⟩

theorem SameOthers.trans (h : SameOthers r s) (hc : s.cur = r.cur) (g : SameOthers s t) : SameOthers r t := by
  obtain ⟨a1, a2, q1, q2, q3, q4, q5, q6, q7⟩ := h
  obtain ⟨b1, b2, p1, p2, p3, p4, p5, p6, p7⟩ := g
  have hcore : s.core = r.core := by rw [State.core, State.core, hc]
  rw [hc] at b1
  rw [hcore] at b2
  exact ⟨fun k hk => (b1 k hk).trans (a1 k hk), fun c hc => (b2 c hc).trans (a2 c hc), p1.trans q1, p2.trans q2,
    p3.trans q3, p4.trans q4, p5.trans q5, p6.trans q6, p7.trans q7⟩

theorem SameG.trans {d : Option Sc} (h : SameG r s d) (g : SameG s t d) : SameG r t d := fun n hn => by
  obtain ⟨a1, a2, a3⟩ := h n hn
  obtain ⟨b1, b2, b3⟩ := g n hn
  exact ⟨b1.trans a1, b2.trans a2, b3.trans a3⟩

theorem SameC.trans {d : Option Sc} (h : SameC r s d) (hc : s.core = r.core) (g : SameC s t d) : SameC r t d := by
  obtain ⟨a1, a2, a3, a4⟩ := h
  obtain ⟨b1, b2, b3, b4⟩ := g
  rw [hc] at b1 b2 b3 b4
  exact ⟨b1.trans a1, b2.trans a2, b3.trans a3, fun n hn => (b4 n hn).trans (a4 n hn)⟩

theorem SamePart.trans (h : SamePart r s) (g : SamePart s t) : SamePart r t := fun p => by
  have a := h p
  have b := g p
  rw [← b] at a
  exact a

end

/-! ## What an instruction may touch -/

/-- The flags that an operation can raise (R75): NV, DZ, OF, UF and NX. -/
def IsFlags (fl : Nat) : Prop := fl &&& 0x7C = fl

/-- What an instruction of the register classes may write: a scalar destination, vector registers, a mask register, and
the sticky flags of `fcsr`. -/
structure Touch where
  d : Option Sc := none
  vs : List VReg := []
  k : Option KReg := none
  flags : Bool := false

/-- From `s` to `t`, nothing but what the instruction may touch has changed, and the bookkeeping of issue. -/
structure Within (w : Touch) (s t : State) : Prop where
  cur : t.cur = s.cur
  memory : SameMemory s t
  others : SameOthers s t
  g : SameG s t w.d
  c : SameC s t w.d
  special : SameSpecial s t
  core : SameCore s t
  part : SamePart s t
  sticky : t.thr.fcsr &&& s.thr.fcsr = s.thr.fcsr
  modes : t.thr.fcsr &&& 0x383#10 = s.thr.fcsr &&& 0x383#10
  quiet : w.flags = false → t.thr.fcsr = s.thr.fcsr
  v : ∀ v : VReg, v ∉ w.vs → t.thr.v.get v = s.thr.v.get v ∧ t.thr.vFull.getLsbD v.val = s.thr.vFull.getLsbD v.val ∧
    t.thr.vPoison.getLsbD v.val = s.thr.vPoison.getLsbD v.val ∧ t.thr.vPend.getLsbD v.val = s.thr.vPend.getLsbD v.val
  k : ∀ k : KReg, w.k ≠ some k → t.thr.k.get k = s.thr.k.get k ∧ t.thr.kPoison.getLsbD k.val = s.thr.kPoison.getLsbD k.val

namespace Within

variable {w : Touch} {r s t : State}

theorem core_eq (h : Within w s t) : t.core = s.core := by rw [State.core, State.core, h.cur]

theorem ports (h : Within w s t) : t.thr.ports = s.thr.ports := by
  obtain ⟨_, _, _, _, _, _, _, _, _, _, _, _, _, _, _, hports, _⟩ := h.special
  exact hports

theorem trapent (h : Within w s t) : t.thr.trapent = s.thr.trapent := by
  obtain ⟨_, _, _, _, _, htr, _⟩ := h.special
  exact htr

theorem refl (w : Touch) (s : State) : Within w s s where
  cur := rfl
  memory := by simp [SameMemory]
  others := by simp [SameOthers]
  g := by simp [SameG]
  c := by simp [SameC]
  special := by simp [SameSpecial]
  core := by simp [SameCore]
  part := fun _ => rfl
  sticky := BitVec.and_self
  modes := rfl
  quiet := fun _ => rfl
  v := fun _ _ => ⟨rfl, rfl, rfl, rfl⟩
  k := fun _ _ => ⟨rfl, rfl⟩

theorem trans (h : Within w r s) (g : Within w s t) : Within w r t where
  cur := g.cur.trans h.cur
  memory := h.memory.trans g.memory
  others := h.others.trans h.cur g.others
  g := h.g.trans g.g
  c := h.c.trans h.core_eq g.c
  special := by
    have a := h.special
    have b := g.special
    simp only [SameSpecial] at *
    simp only [b, a, and_self]
  core := by
    have a := h.core
    have b := g.core
    simp only [SameCore, h.core_eq] at *
    simp only [b, a, and_self, implies_true]
  part := h.part.trans g.part
  sticky := by
    have a := h.sticky
    have b := g.sticky
    rw [← a, ← BitVec.and_assoc, b]
  modes := g.modes.trans h.modes
  quiet := fun hf => (g.quiet hf).trans (h.quiet hf)
  v := fun v hv => by
    obtain ⟨a1, a2, a3, a4⟩ := h.v v hv
    obtain ⟨b1, b2, b3, b4⟩ := g.v v hv
    exact ⟨b1.trans a1, b2.trans a2, b3.trans a3, b4.trans a4⟩
  k := fun k hk => by
    obtain ⟨a1, a2⟩ := h.k k hk
    obtain ⟨b1, b2⟩ := g.k k hk
    exact ⟨b1.trans a1, b2.trans a2⟩

/-- A write of the thread alone, of which the parts of the frame that speak of the thread are given. -/
theorem setThr {x : Thread} (hg : SameG s (s.setThr x) w.d) (hs : SameSpecial s (s.setThr x))
    (hsticky : x.fcsr &&& s.thr.fcsr = s.thr.fcsr) (hmodes : x.fcsr &&& 0x383#10 = s.thr.fcsr &&& 0x383#10)
    (hquiet : w.flags = false → x.fcsr = s.thr.fcsr)
    (hv : ∀ v : VReg, v ∉ w.vs → x.v.get v = s.thr.v.get v ∧ x.vFull.getLsbD v.val = s.thr.vFull.getLsbD v.val ∧
      x.vPoison.getLsbD v.val = s.thr.vPoison.getLsbD v.val ∧ x.vPend.getLsbD v.val = s.thr.vPend.getLsbD v.val)
    (hk : ∀ k : KReg, w.k ≠ some k → x.k.get k = s.thr.k.get k ∧ x.kPoison.getLsbD k.val = s.thr.kPoison.getLsbD k.val) :
    Within w s (s.setThr x) where
  cur := rfl
  memory := ⟨fun _ => rfl, fun _ => rfl, fun _ => rfl, fun _ => rfl, rfl⟩
  others := ⟨fun _ hn => State.thread_setThr_ne s x hn, fun _ _ => rfl, rfl, rfl, rfl, rfl, rfl, rfl, rfl⟩
  g := hg
  c := ⟨rfl, rfl, rfl, fun _ _ => rfl⟩
  special := hs
  core := ⟨rfl, rfl, rfl, rfl, rfl, rfl, rfl, rfl, fun _ _ => rfl⟩
  part := fun _ => rfl
  sticky := by simpa using hsticky
  modes := by simpa using hmodes
  quiet := by simpa using hquiet
  v := by simpa using hv
  k := by simpa using hk

/-- The end of an instruction. -/
theorem retired (w : Touch) (s : State) (n : Nat) (nx : Next) : Within w s (s.setThr (s.thr.retire n nx s.cycle)) := by
  refine setThr ?_ ?_ ?_ rfl (fun _ => rfl) (fun _ _ => ⟨rfl, rfl, rfl, rfl⟩) fun _ _ => ⟨rfl, rfl⟩
  · simp [SameG]
  · simp [SameSpecial]
  · exact BitVec.and_self

theorem progress (w : Touch) (s : State) (c : Nat) : Within w s (s.progress c) where
  cur := by simp
  memory := by simp [SameMemory, State.tagAt, State.seamAt]
  others := by simp [SameOthers]
  g := by simp [SameG]
  c := by simp [SameC]
  special := by simp [SameSpecial]
  core := by simp [SameCore, State.ident]
  part := fun p => by
    obtain ⟨_, _, h⟩ := s.progress_eq c
    obtain ⟨n, hn⟩ := h p
    rw [hn]
  sticky := by simp
  modes := by simp
  quiet := by simp
  v := by simp
  k := by simp

theorem retire (h : Within w r s) (n : Nat) (nx : Next) : Within w r (s.retire n nx) := by
  have hgo : Within w r ((s.setThr (s.thr.retire n nx s.cycle)).progress s.core) :=
    (h.trans (retired w s n nx)).trans (progress w _ _)
  cases nx with
  | gone => exact h.trans (progress w s _)
  | seq | jump | yielded => exact hgo

/-! ## The writes -/

theorem putSc (h : Within w r s) {d : Sc} (hd : w.d = some d) (v : Word) : Within w r (s.putSc d v) := by
  refine h.trans ?_
  cases d with
  | i n | zr => exact refl w s
  | g n =>
    refine setThr ?_ ?_ BitVec.and_self rfl (fun _ => rfl) (fun _ _ => ⟨rfl, rfl, rfl, rfl⟩) fun _ _ => ⟨rfl, rfl⟩
    · intro m hm
      have hne : n ≠ m := by rintro rfl; exact hm hd
      have hv : n.val ≠ m.val := fun e => hne (Fin.ext e)
      rw [State.thr_setThr]
      exact ⟨Thread.putG_get_ne _ _ hne, getLsbD_setBit_ne _ hv, getLsbD_clrBit_ne _ hv⟩
    · simp [SameSpecial, Thread.putG]
  | c n =>
    have hat (c : Nat) := State.putSc_coreAt s (.c n) v c
    refine { refl w s with others := ?_, c := ?_, core := ?_ }
    · exact ⟨fun _ _ => rfl, fun c hc => by rw [hat c]; simp [hc], rfl, rfl, rfl, rfl, rfl, rfl, rfl⟩
    · simp only [SameC, hat, true_and]
      intro m hm
      have hne : n ≠ m := by rintro rfl; exact hm hd
      simpa using cInsert_filter_ne _ { n := n, v := some v, issued := s.cycle, fill := false } hne
    · simp [SameCore, hat, State.ident]

theorem putV (h : Within w r s) {v : VReg} (hv : v ∈ w.vs) (x : Vec) : Within w r (s.setThr (s.thr.putV v x)) := by
  refine h.trans (setThr ?_ ?_ BitVec.and_self rfl (fun _ => rfl) ?_ fun _ _ => ⟨rfl, rfl⟩)
  · simp [SameG, Thread.putV]
  · simp [SameSpecial, Thread.putV]
  · intro u hu
    have hne : v ≠ u := by rintro rfl; exact hu hv
    have hval : v.val ≠ u.val := fun e => hne (Fin.ext e)
    exact ⟨Vector.getElem_set_ne v.isLt u.isLt hval, getLsbD_setBit_ne _ hval, getLsbD_clrBit_ne _ hval, rfl⟩

theorem putK (h : Within w r s) {k : KReg} (hk : w.k = some k) (x : Mask) : Within w r (s.setThr (s.thr.putK k x)) := by
  refine h.trans (setThr ?_ ?_ ?_ ?_ ?_ ?_ ?_)
  · simp [SameG]
  · simp [SameSpecial]
  · simp
  · simp
  · simp
  · simp
  · intro j hj
    have hne : k ≠ j := by rintro rfl; exact hj hk
    have hval : k.val ≠ j.val := fun e => hne (Fin.ext e)
    unfold Thread.putK
    split
    · exact ⟨rfl, rfl⟩
    · exact ⟨Vector.getElem_set_ne k.isLt j.isLt hval, getLsbD_clrBit_ne _ hval⟩

theorem addFlags (h : Within w r s) (hw : w.flags = true) {fl : Nat} (hf : IsFlags fl) : Within w r (s.withFlags fl) := by
  refine h.trans (setThr ?_ ?_ ?_ ?_ (by simp [hw]) (fun _ _ => ⟨rfl, rfl, rfl, rfl⟩) fun _ _ => ⟨rfl, rfl⟩)
  · simp [SameG]
  · simp [SameSpecial]
  · ext j hj; simp +contextual
  · have : BitVec.ofNat 10 fl &&& 0x383#10 = 0#10 := by
      rw [← hf]
      apply BitVec.eq_of_getLsbD_eq
      intro j hj
      interval_cases j <;> simp
    rw [BitVec.and_comm, BitVec.and_or_distrib_left, BitVec.and_comm _ (BitVec.ofNat 10 fl), this, BitVec.or_zero,
      BitVec.and_comm]

end Within

namespace Within

variable {w : Touch} {r s t : State}

/-- An instruction of which only the destination may be touched, and flags. -/
theorem onlyDest {d : Option Sc} {b : Bool} (h : Within { d := d, flags := b } s t) : OnlyDest s t d := by
  refine ⟨h.memory, h.others, h.g, h.c, ⟨?_, ?_, ?_, ?_, ?_⟩, h.special, h.core, h.part⟩
  · exact Vector.ext fun n hn => (h.v ⟨n, hn⟩ (by simp)).1
  · exact BitVec.eq_of_getLsbD_eq fun n hn => (h.v ⟨n, hn⟩ (by simp)).2.1
  · exact BitVec.eq_of_getLsbD_eq fun n hn => (h.v ⟨n, hn⟩ (by simp)).2.2.1
  · exact Vector.ext fun n hn => (h.k ⟨n, hn⟩ (by simp)).1
  · exact BitVec.eq_of_getLsbD_eq fun n hn => (h.k ⟨n, hn⟩ (by simp)).2

end Within

namespace Preserves

variable {w : Touch} {r : State}

theorem wrS {d : Sc} (hd : w.d = some d) {v : Word} : Preserves (Within w r) (Machine.wrS d v) := fun _ h => h.putSc hd v

theorem wrK {k : KReg} (hk : w.k = some k) {x : Mask} : Preserves (Within w r) (Machine.wrK k x) := fun _ h => h.putK hk x

theorem raiseFlags (hw : w.flags = true) {fl : Nat} (hf : IsFlags fl) : Preserves (Within w r) (Machine.raiseFlags fl) := by
  intro s h
  unfold Machine.raiseFlags
  dsimp only
  split <;> exact h.addFlags hw hf

end Preserves

/-- A property of states that says what has stayed since a state in which an instruction began. -/
structure Stays (s : State) (Q : State → Prop) : Prop where
  start : Q s
  cur : ∀ {t}, Q t → t.cur = s.cur
  trapent : ∀ {t}, Q t → t.thr.trapent = s.thr.trapent
  ports : ∀ {t}, Q t → t.thr.ports = s.thr.ports
  retire : ∀ {t}, Q t → ∀ n nx, Q (t.retire n nx)

/-- After an instruction that ran, what its own operation keeps has stayed. -/
theorem run_keeps {Q : State → Prop} {i : Instr} {u : Uses} {body : M Next} {s t : State} (hQ : Stays s Q)
    (hb : Preserves Q body) (h : run i u body s = .next t) (hr : Ran s t) : Q t := by
  have waits {x : State} (p : Park) (hx : t = x) : x.thr.park ≠ some p := by
    obtain ⟨_, _, hpark, _⟩ := hr
    rw [← hx, hpark]
    simp
  rcases run_cases h with ⟨tr, _, _, rfl⟩ | ⟨p, _, e⟩ | ⟨nx, s1, _, hs, rfl⟩ | ⟨tr, keep, s1, _, hs, e⟩ | ⟨p, s1, _, _, e⟩
  · rw [takeTrap_of_ran rfl rfl hr]
    exact hQ.start
  · exact absurd (by simp [State.parkHere]) (waits p e)
  · exact hQ.retire (hb.ok hQ.start hs) _ _
  · have hkeep : Q (if keep then s1.undrawSince s else s) := by
      split
      · next hk =>
        subst hk
        have h1 := hb.kept hQ.start hs
        have hu : s1.undrawSince s = s1 := by simp [State.undrawSince, hQ.ports h1]
        exact hu.symm ▸ h1
      · exact hQ.start
    subst e
    rw [takeTrap_of_ran (hQ.cur hkeep) (hQ.trapent hkeep) hr]
    exact hkeep
  · exact absurd (State.parkBegun_park ..) (waits p e)

theorem stays_within (w : Touch) (s : State) : Stays s (Within w s) where
  start := .refl w s
  cur h := h.cur
  trapent h := h.trapent
  ports h := h.ports
  retire h := h.retire

/-- An instruction that ran has touched no more than the steps of its own operation. -/
theorem run_within {w : Touch} {i : Instr} {u : Uses} {body : M Next} {s t : State}
    (hb : Preserves (Within w s) body) (h : run i u body s = .next t) (hr : Ran s t) : Within w s t :=
  run_keeps (stays_within w s) hb h hr

end Sys2Proof.Machine
end

section
/-! The theorem that settles O14: branches and jumps, `NOP` and `YIELD`, and the mask instructions (R88, R271, R302, R303,
R319, R351). -/
namespace Sys2Proof.Machine

/-! ## Branches and jumps -/

theorem offVal_eq {n : Nat} (off : BitVec n) : offVal off = BitVec.ofInt 64 off.toInt := rfl

/-- The condition of a comparison, by the order of the signed values. -/
theorem condHolds_signed (x y : Word) (lt eq : Bool) (hlt : lt = decide (x.toInt < y.toInt)) (heq : eq = decide (x = y)) :
    (condHolds .eq lt eq = true ↔ x = y) ∧ (condHolds .ne lt eq = true ↔ x ≠ y) ∧
    (condHolds .lt lt eq = true ↔ x.toInt < y.toInt) ∧ (condHolds .le lt eq = true ↔ x.toInt ≤ y.toInt) ∧
    (condHolds .gt lt eq = true ↔ y.toInt < x.toInt) ∧ (condHolds .ge lt eq = true ↔ y.toInt ≤ x.toInt) := by
  have hxy : x = y ↔ x.toInt = y.toInt := BitVec.toInt_inj.symm
  subst hlt heq
  simp only [condHolds, Bool.not_eq_true', Bool.or_eq_true, Bool.or_eq_false_iff, decide_eq_true_eq,
    decide_eq_false_iff_not, ne_eq, true_and]
  rw [hxy]
  omega

theorem exec_br (cc : Cond) (z : Bool) (a b : Sc) (off : BitVec 27) (s : State) :
    exec (.br cc z a b off) s = execBr cc z a b off s := rfl

theorem br_jumped {s : State} {a b : Sc} (h : s.readable [a, b] = true) (cc : Cond) (z : Bool) (off : BitVec 27) :
    execBr cc z a b off s = .next (s.jumped (.br cc z a b off)
      (if compare cc z (s.sc a) (s.sc b) then s.thr.pc + offVal off else s.thr.pc + 8)) := by
  unfold execBr
  have ha := State.readable_operand h (r := a) (by simp)
  have hb := State.readable_operand h (r := b) (by simp)
  by_cases hc : compare cc z (s.sc a) (s.sc b) = true
  · refine (run_ok (s1 := s) (nx := .jump (s.thr.pc + offVal off)) (State.readable_thread h)
      (State.readable_checks h (by simp)) ?_).trans (by simp [hc, State.jumped])
    have hc' : condHolds cc (if z then (s.sc a).ult (s.sc b) else (s.sc a).slt (s.sc b)) (s.sc a == s.sc b) = true := hc
    simp [M.bind_apply, ha, hb, hc']
  · refine (run_ok (s1 := s) (nx := .seq) (State.readable_thread h)
      (State.readable_checks h (by simp)) ?_).trans ?_
    · have hc' : ¬ condHolds cc (if z then (s.sc a).ult (s.sc b) else (s.sc a).slt (s.sc b)) (s.sc a == s.sc b) = true := hc
      simp [M.bind_apply, ha, hb, hc']
    · rw [if_neg hc]; rfl

/-- The condition of a branch in the words of R88. -/
theorem compare_eq (cc : Cond) (z : Bool) (x y : Word) :
    compare cc z x y =
      (let lt : Bool := if z then decide (x.toNat < y.toNat) else decide (x.toInt < y.toInt)
       match cc with
       | .eq => decide (x = y)
       | .ne => decide (x ≠ y)
       | .lt => lt
       | .le => lt || decide (x = y)
       | .gt => !lt && decide (x ≠ y)
       | .ge => !lt) := by
  have hb : below z x y = if z then decide (x.toNat < y.toNat) else decide (x.toInt < y.toInt) := by
    cases z <;> rfl
  unfold compare condHolds
  rw [hb]
  cases cc <;> simp [beq_eq_decide]

/-- A jump by an offset, without a link. -/
theorem jumpBy_jumped {s : State} (h : s.readable [] = true) (i : Instr) (off : Word) :
    jumpBy i none off s = .next (s.jumped i (s.thr.pc + off)) := by
  unfold jumpBy
  exact run_ok (s1 := s) (State.readable_thread h) (State.readable_checks h (by simp)) (by simp [M.bind_apply])

/-- A jump by an offset, the link written. -/
theorem jumpBy_linked {s : State} {d : Sc} (h : s.readable [] = true) (hd : Sc.isI d = false) (i : Instr) (off : Word) :
    jumpBy i (some d) off s = .next ((s.putSc d (s.thr.pc + BitVec.ofNat 64 (instrLen i))).jumped i (s.thr.pc + off)) := by
  unfold jumpBy
  exact run_ok (State.readable_thread h) (State.readable_checks h (by simp [hd])) (by simp [M.bind_apply, M.map_apply])

section
variable {s : State} {d a : Sc} (h : s.readable [a] = true) (hd : Sc.isI d = false)
include h hd

theorem jr_jumped (hal : (s.sc a).toNat % 4 = 0) :
    execJr d a s = .next ((s.putSc d (s.thr.pc + 8)).jumped (.jr d a) (s.sc a)) := by
  unfold execJr
  refine run_ok (State.readable_thread h) (State.readable_checks h (by simp [hd])) ?_
  simp [M.bind_apply, M.map_apply, State.readable_operand h (r := a) (by simp), hal]

theorem jr_misaligned (hal : (s.sc a).toNat % 4 ≠ 0) :
    execJr d a s = .next (s.trapped (.jr d a) 0x06 (s.sc a).toNat 0) := by
  unfold execJr
  refine run_trap (s1 := s) (State.readable_thread h) (State.readable_checks h (by simp [hd])) ?_
  simp [M.bind_apply, State.readable_operand h (r := a) (by simp), hal]

end

/-! ## Instructions without operands -/

theorem checkUses_empty (s : State) : checkUses {} s = none :=
  checkUses_scalar (l := []) (d := none) (p := false) (by simp) (by simp) (by simp)

theorem exec_nop {s : State} (h : (s.thread? s.cur).isSome = true) : exec .nop s = .next (s.goesOn .nop) :=
  run_ok (s1 := s) (body := pure .seq) h (checkUses_empty s) rfl

theorem exec_nop96 {s : State} (h : (s.thread? s.cur).isSome = true) : exec .nop96 s = .next (s.goesOn .nop96) :=
  run_ok (s1 := s) (body := pure .seq) h (checkUses_empty s) rfl

theorem exec_nop128 {s : State} (h : (s.thread? s.cur).isSome = true) : exec .nop128 s = .next (s.goesOn .nop128) :=
  run_ok (s1 := s) (body := pure .seq) h (checkUses_empty s) rfl

theorem exec_yield {s : State} (h : (s.thread? s.cur).isSome = true) :
    exec .yield s = .next (s.retire 8 (.yielded (s.cycle + 32))) := by
  show execYield s = _
  exact run_ok (s1 := s) h (checkUses_empty s) rfl

/-- An instruction that has only its end: nothing changes but the pc, and the bookkeeping of issue. -/
theorem retire_untouched {s : State} (n : Nat) {nx : Next} (hn : nx ≠ .gone) :
    OnlyDest s (s.retire n nx) none ∧ (s.retire n nx).thr.fcsr = s.thr.fcsr ∧ Ran s (s.retire n nx) := by
  have hw : Within {} s (s.retire n nx) := (Within.refl {} s).retire n nx
  have he : s.retire n nx = (s.setThr (s.thr.retire n nx s.cycle)).progress s.core := by
    cases nx with
    | gone => exact absurd rfl hn
    | seq | jump | yielded => rfl
  exact ⟨hw.onlyDest, hw.quiet rfl, hw.cur, by simp [he], by simp [he], hw.trapent⟩

/-! ## Masks -/

theorem State.kreadable_iff {s : State} {l : List KReg} : s.kreadable l = true ↔ ∀ k ∈ l, s.thr.maskBad k = false := by
  simp [State.kreadable]

/-- The checks of an instruction that names scalar and mask registers only. -/
theorem checkUses_masks {s : State} {l : List KReg} {d : Option Sc} (hd : ∀ r, d = some r → Sc.isI r = false)
    (hk : s.kreadable l = true) : checkUses { dst := d, krd := l } s = none := by
  have hfind : l.find? (fun k => s.thr.maskBad k) = none :=
    List.find?_eq_none.mpr fun k hkl => by simp [State.kreadable_iff.mp hk k hkl]
  unfold checkUses
  cases d with
  | none => simp [hfind]
  | some r => simp [hfind, hd r rfl]

theorem mask2_done {s : State} {a b : KReg} (h : s.readable [] = true) (hk : s.kreadable [a, b] = true) (i : Instr)
    (d : KReg) (f : Mask → Mask → Mask) :
    mask2 i d a b f s = .next (s.kdone i d (f (s.thr.mask a) (s.thr.mask b))) := by
  unfold mask2
  refine run_ok (s1 := s.setThr (s.thr.putK d (f (s.thr.mask a) (s.thr.mask b)))) (nx := .seq) (State.readable_thread h)
    (checkUses_masks (by simp) hk) ?_
  simp [M.bind_apply, M.map_apply]

theorem kpopc_done {s : State} {g : Sc} {a : KReg} (h : s.readable [] = true) (hk : s.kreadable [a] = true)
    (hg : Sc.isI g = false) :
    execKpopc g a s = .next (s.done (.kpopc g a) g
      (BitVec.ofNat 64 (((List.range 256).filter (fun j => (s.thr.mask a).getLsbD j)).length))) := by
  unfold execKpopc popCount
  exact run_ok (State.readable_thread h) (checkUses_masks (by simp [hg]) hk) (by simp [M.bind_apply, M.map_apply])

/-- The number of the lowest set bit of a mask, 256 when there is none (R303). -/
def firstBit (m : Mask) : Nat := ((List.range 256).find? (fun j => m.getLsbD j)).getD 256

theorem kfirst_done {s : State} {g : Sc} {a : KReg} (h : s.readable [] = true) (hk : s.kreadable [a] = true)
    (hg : Sc.isI g = false) :
    execKfirst g a s = .next (s.done (.kfirst g a) g (BitVec.ofNat 64 (firstBit (s.thr.mask a)))) := by
  unfold execKfirst
  refine run_ok (State.readable_thread h) (checkUses_masks (by simp [hg]) hk) ?_
  simp only [M.bind_apply, rdK_apply, wrS_apply, M.pure_apply, firstBit]
  cases (List.range 256).find? (fun j => (s.thr.mask a).getLsbD j) <;> rfl

theorem firstBit_spec (m : Mask) : firstBit m ≤ 256 ∧ (∀ j, j < firstBit m → m.getLsbD j = false) ∧
    (firstBit m < 256 → m.getLsbD (firstBit m) = true) := by
  unfold firstBit
  cases hf : (List.range 256).find? (fun j => m.getLsbD j) with
  | none =>
    rw [List.find?_eq_none] at hf
    exact ⟨le_rfl, fun j hj => by simpa using hf j (List.mem_range.mpr hj), fun h => absurd h (by simp)⟩
  | some n =>
    rw [List.find?_range_eq_some] at hf
    obtain ⟨hn, hmem, hlow⟩ := hf
    exact ⟨(List.mem_range.mp hmem).le, fun j hj => by simpa using hlow j hj, fun _ => hn⟩

theorem kdone_mask {s : State} {i : Instr} {d : KReg} (hd : d ≠ 0) (x : Mask) :
    (s.kdone i d x).thr.k.get d = x ∧ ∀ n, n ≠ d → (s.kdone i d x).thr.k.get n = s.thr.k.get n := by
  have hk : (s.kdone i d x).thr.k = s.thr.k.set d x := by simp [State.kdone, Thread.putK, hd]
  rw [hk]
  exact ⟨Vector.getElem_set_self d.isLt, fun n hn =>
    Vector.getElem_set_ne d.isLt n.isLt fun e => hn (Fin.ext e).symm⟩

theorem exec_kand (d a b : KReg) (s : State) : exec (.kand d a b) s = execKand d a b s := rfl
theorem exec_kor (d a b : KReg) (s : State) : exec (.kor d a b) s = execKor d a b s := rfl
theorem exec_kxor (d a b : KReg) (s : State) : exec (.kxor d a b) s = execKxor d a b s := rfl
theorem exec_knot (d a : KReg) (s : State) : exec (.knot d a) s = execKnot d a s := rfl
theorem exec_kmov (d a : KReg) (s : State) : exec (.kmov d a) s = execKmov d a s := rfl
theorem exec_kpopc (g : Sc) (a : KReg) (s : State) : exec (.kpopc g a) s = execKpopc g a s := rfl
theorem exec_kfirst (g : Sc) (a : KReg) (s : State) : exec (.kfirst g a) s = execKfirst g a s := rfl

/-- Settles O14: each instruction read off its operation, and what stays off the frame of its end. -/
theorem controlResults : Obligations.ControlResults := by
  unfold Obligations.ControlResults
  refine ⟨fun x y => condHolds_signed x y _ _ rfl rfl, fun s => ⟨?_, ?_, ?_⟩, fun s h => ⟨exec_nop h, exec_nop96 h,
    exec_nop128 h, ?_, ⟨_, exec_yield h, ?_⟩, ?_⟩, fun s d a b h hk hd => ?_⟩
  · intro cc z a b off h
    exact (br_jumped h cc z off).trans (by rw [compare_eq]; rfl)
  · exact fun h => ⟨fun off => jumpBy_jumped h _ _, fun off => jumpBy_jumped h _ _, fun d off hd => jumpBy_linked h hd _ _,
      fun d off hd => jumpBy_linked h hd _ _⟩
  · exact fun d a h hd => ⟨jr_jumped h hd, jr_misaligned h hd⟩
  · rintro t (rfl | rfl | rfl | he)
    · exact retire_untouched _ (by simp)
    · exact retire_untouched _ (by simp)
    · exact retire_untouched _ (by simp)
    · rw [exec_yield h] at he
      cases he
      exact retire_untouched _ (by simp)
  · have hr : s.retire 8 (.yielded (s.cycle + 32)) =
        (s.setThr (s.thr.retire 8 (.yielded (s.cycle + 32)) s.cycle)).progress s.core := rfl
    rw [hr, State.progress_thr, State.thr_setThr]
    exact ⟨rfl, rfl⟩
  · simp only [State.goesOn_thr, Thread.retire_pc_seq]
    exact ⟨rfl, rfl, rfl⟩
  · have ha : s.kreadable [a] = true := State.kreadable_iff.mpr fun k hk' =>
      State.kreadable_iff.mp hk k (by simpa using Or.inl (List.mem_singleton.mp hk'))
    have haa : s.kreadable [a, a] = true := State.kreadable_iff.mpr fun k hk' =>
      State.kreadable_iff.mp ha k (by simpa using hk')
    intro m
    have hm : m = s.thr.mask := by funext k; simp [m, Thread.mask]
    clear_value m
    subst hm
    exact ⟨exec_kand d a b s ▸ mask2_done h hk _ d _, exec_kor d a b s ▸ mask2_done h hk _ d _,
      exec_kxor d a b s ▸ mask2_done h hk _ d _, exec_knot d a s ▸ mask2_done h haa _ d _,
      exec_kmov d a s ▸ mask2_done h haa _ d _,
      fun g hg => ⟨exec_kpopc g a s ▸ kpopc_done h ha hg, _, exec_kfirst g a s ▸ kfirst_done h ha hg, firstBit_spec _⟩,
      fun x => kdone_mask hd x⟩

end Sys2Proof.Machine
end

section
/-! The theorem that settles O46: the system registers (R73 to R80, R320, R331). -/
namespace Sys2Proof.Machine

theorem exec_srd (d : Sc) (sys : BitVec 12) (s : State) : exec (.srd d sys) s = execSrd d sys s := rfl
theorem exec_swr (sys : BitVec 12) (a : Sc) (s : State) : exec (.swr sys a) s = execSwr sys a s := rfl
theorem exec_rdtime (d : Sc) (s : State) : exec (.rdtime d) s = execRdtime d s := rfl
theorem exec_swrEx (a : Sc) (s : State) : exec (.swrEx a) s = execSwrEx a s := rfl
theorem exec_swrCsplit (a : Sc) (s : State) : exec (.swrCsplit a) s = execSwrCsplit a s := rfl
theorem exec_swrOvh (a : Sc) (s : State) : exec (.swrOvh a) s = execSwrOvh a s := rfl
theorem exec_swrHvec (a : Sc) (s : State) : exec (.swrHvec a) s = execSwrHvec a s := rfl
theorem exec_swrMq (a : Sc) (s : State) : exec (.swrMq a) s = execSwrMq a s := rfl
theorem exec_swrWdog (a : Sc) (s : State) : exec (.swrWdog a) s = execSwrWdog a s := rfl

/-! ## Checks -/

/-- The checks of a privileged instruction in supervisor mode. -/
theorem State.readable_checks_priv {s : State} {l : List Sc} (h : s.readable l = true) {d : Option Sc} {p : Bool}
    (hd : ∀ r, d = some r → Sc.isI r = false) (hp : p = true → s.thr.mode = .super) :
    checkUses { dst := d, rd := l, priv := p } s = none :=
  checkUses_scalar ((s.readable_iff l).mp h).2 hd hp

/-- A privileged instruction in user mode takes the privilege fault before anything else (R95). -/
theorem checkUses_privilege {s : State} {u : Uses} (hu : u.priv = true) (hm : s.thr.mode = .user) :
    checkUses u s = some (.trap (mkTrap 0x1D 0 0) false) := by
  simp [checkUses, hu, hm]

theorem run_privilege {i : Instr} {u : Uses} {body : M Next} {s : State} (ht : (s.thread? s.cur).isSome = true)
    (hu : u.priv = true) (hm : s.thr.mode = .user) : run i u body s = .next (s.trapped i 0x1D 0 0) :=
  run_checked ht (checkUses_privilege hu hm)

/-! ## Reads (R73) -/

section
variable {s : State} {d a : Sc} {sys : BitVec 12} {x : Word} (ht : (s.thread? s.cur).isSome = true)
include ht

theorem State.readable_nil : s.readable [] = true := by simp [State.readable, ht]

theorem srd_gets (hd : Sc.isI d = false) (hx : s.sysReg sys = some x) (hp : userReads sys = true ∨ s.thr.mode = .super) :
    exec (.srd d sys) s = .next (s.done (.srd d sys) d x) := by
  rw [exec_srd]
  unfold execSrd
  rw [hx]
  refine run_ok ht (State.readable_checks_priv (State.readable_nil ht) (by simp [hd]) fun hu => ?_)
    (by simp [M.bind_apply])
  exact hp.resolve_left (by simpa using hu)

theorem srd_privilege (hx : s.sysReg sys = some x) (hu : userReads sys = false) (hm : s.thr.mode = .user) :
    exec (.srd d sys) s = .next (s.trapped (.srd d sys) 0x1D 0 0) := by
  rw [exec_srd]
  unfold execSrd
  rw [hx]
  exact run_privilege ht (by simp [hu]) hm

theorem srd_reserved (hx : s.sysReg sys = none) : exec (.srd d sys) s = .next (s.trapped (.srd d sys) 0x01 0 0) := by
  rw [exec_srd]
  unfold execSrd
  rw [hx]
  exact run_trap (s1 := s) ht (checkUses_empty s) rfl

theorem rdtime_gets (hd : Sc.isI d = false) :
    exec (.rdtime d) s = .next (s.done (.rdtime d) d (BitVec.ofNat 64 (s.cycle * 4 / 7))) := by
  rw [exec_rdtime]
  unfold execRdtime
  refine run_ok (s1 := s.putSc d _) ht (State.readable_checks (State.readable_nil ht) (by simp [hd])) ?_
  simp only [M.bind_apply, M.get_apply, wrS_apply, M.pure_apply]
  rfl

end

/-! ## Writes (R74 to R80) -/

theorem swr_fixed {s : State} {a : Sc} {sys : BitVec 12} (ht : (s.thread? s.cur).isSome = true)
    (hsys : sys = 0x003#12 ∨ sys = 0x005#12) (hm : s.thr.mode = .super) :
    exec (.swr sys a) s = .next (s.trapped (.swr sys a) 0x05 0 0) := by
  have hfix : (sys == 0x003#12 || sys == 0x005#12) = true := by simpa using hsys
  rw [exec_swr]
  unfold execSwr
  dsimp only
  rw [if_pos hfix]
  exact run_trap (s1 := s) ht (State.readable_checks_priv (State.readable_nil ht) nofun fun _ => hm) rfl

theorem swr_reserved {s : State} {a : Sc} {sys : BitVec 12} (ht : (s.thread? s.cur).isSome = true)
    (hsys : sys ≠ 0x003#12 ∧ sys ≠ 0x005#12) (hx : s.sysReg sys = none) :
    exec (.swr sys a) s = .next (s.trapped (.swr sys a) 0x01 0 0) := by
  rw [exec_swr]
  unfold execSwr
  simp only [beq_eq_false_iff_ne.mpr hsys.1, beq_eq_false_iff_ne.mpr hsys.2, Bool.or_self, Bool.false_eq_true, if_false, hx,
    Option.isNone_none, if_true]
  exact run_trap (s1 := s) ht (checkUses_empty s) rfl

section
variable {s : State} {a : Sc} {sys : BitVec 12} {x : Word} (hsys : sys ≠ 0x003#12 ∧ sys ≠ 0x005#12)
  (hx : s.sysReg sys = some x)
include hsys hx

/-- A register that is neither read-only nor reserved has its own check of privilege, and its own write. -/
theorem swr_eq : exec (.swr sys a) s = run (.swr sys a) { rd := [a], priv := !userWrites sys } (do
    let v ← rdS a
    let s ← get
    match s.setSysReg sys v with
    | none => raise 0x01
    | some s1 => do
      set s1
      pure .seq) s := by
  rw [exec_swr]
  unfold execSwr
  simp only [beq_eq_false_iff_ne.mpr hsys.1, beq_eq_false_iff_ne.mpr hsys.2, Bool.or_self, Bool.false_eq_true, if_false, hx,
    Option.isNone_some] <;> rfl

theorem swr_privilege (ht : (s.thread? s.cur).isSome = true) (hu : userWrites sys = false) (hm : s.thr.mode = .user) :
    exec (.swr sys a) s = .next (s.trapped (.swr sys a) 0x1D 0 0) := by
  rw [swr_eq hsys hx]
  exact run_privilege ht (by simp [hu]) hm

variable (h : s.readable [a] = true) (hp : userWrites sys = true ∨ s.thr.mode = .super)
include h hp

theorem swr_puts {s1 : State} (hs : s.setSysReg sys (s.sc a) = some s1) :
    exec (.swr sys a) s = .next (s1.goesOn (.swr sys a)) := by
  rw [swr_eq hsys hx]
  refine run_ok (State.readable_thread h) (State.readable_checks_priv h nofun fun hu => hp.resolve_left (by simpa using hu)) ?_
  simp [M.bind_apply, M.map_apply, State.readable_operand h (r := a) (by simp), hs]

theorem swr_refused (hs : s.setSysReg sys (s.sc a) = none) :
    exec (.swr sys a) s = .next (s.trapped (.swr sys a) 0x01 0 0) := by
  rw [swr_eq hsys hx]
  refine run_trap (s1 := s) (State.readable_thread h)
    (State.readable_checks_priv h nofun fun hu => hp.resolve_left (by simpa using hu)) ?_
  simp [M.bind_apply, State.readable_operand h (r := a) (by simp), hs]

end

/-- The slots of the core's slot table, by its entries' values. -/
theorem Core.slotEntry_eq_some (c : Core) (e n : Nat) (hn : n < 8) :
    (c.slotEntry e == some n) = true ↔ c.slotTab.toNat / 16 ^ e % 16 = 8 + n := by
  have hentry : c.slotEntry e = imageEntry c.slotTab e := rfl
  have hval : c.slotTab.toNat / 16 ^ e % 16 = imageVal c.slotTab e := rfl
  have hlt : imageVal c.slotTab e < 16 := Nat.mod_lt _ (by decide)
  rw [hentry, hval, imageEntry_eq]
  by_cases h8 : 8 ≤ imageVal c.slotTab e <;> simp [h8] <;> omega

theorem slotTab_owns (c : Core) (n : Nat) (hn : n < 8) :
    (List.range 32).any (fun e => c.slotEntry e == some n) = true ↔ ∃ e < 32, c.slotTab.toNat / 16 ^ e % 16 = 8 + n := by
  simp only [List.any_eq_true, List.mem_range, Core.slotEntry_eq_some _ _ n hn]

/-! ## The forms of SWR with checks of their own -/

section
variable {s : State} {a : Sc} (h : s.readable [a] = true) (hm : s.thr.mode = .super)
include h hm

/-- A privileged write whose operation, given its operand, ends well. -/
theorem run_swr {i : Instr} {f : Word → M Next} {s1 : State} (hf : f (s.sc a) s = .ok .seq s1) :
    run i { rd := [a], priv := true } (rdS a >>= f) s = .next (s1.goesOn i) := by
  refine run_ok (State.readable_thread h) (State.readable_checks_priv h nofun fun _ => hm) ?_
  rw [M.bind_ok (rdS_apply a s), State.readable_operand h (by simp)]
  exact hf

/-- A privileged write whose operand is refused. -/
theorem run_swr_trap {i : Instr} {f : Word → M Next} {c : Nat} (hf : f (s.sc a) s = raise c s) :
    run i { rd := [a], priv := true } (rdS a >>= f) s = .next (s.trapped i c 0 0) := by
  refine run_trap (s1 := s) (State.readable_thread h) (State.readable_checks_priv h nofun fun _ => hm) ?_
  rw [M.bind_ok (rdS_apply a s), State.readable_operand h (by simp)]
  exact hf

theorem swrEx_zero (hv : (s.sc a).toNat % 4096 = 0) :
    exec (.swrEx a) s = .next ((s.setThr { s.thr with ex := 0 }).goesOn (.swrEx a)) := by
  have hindex : tagIndex ((s.sc a).setWidth 19) = 0 := by
    simp only [tagIndex, BitVec.toNat_setWidth]
    omega
  refine run_swr h hm ?_
  simp [M.bind_apply, M.map_apply, Tag.canon, hindex]

theorem swrHvec_set : exec (.swrHvec a) s = .next ((s.updCore s.core (fun c =>
    { c with hvec := align4 (s.sc a), hvecAt := if align4 (s.sc a) == 0 then c.hvecAt else s.cycle })).goesOn (.swrHvec a)) := by
  rw [exec_swrHvec]
  unfold execSwrHvec
  exact run_swr h hm rfl

theorem swrMq_set (hv : (s.sc a).toNat / 2 ^ 28 % 16 = 0 ∨
      (4 ≤ (s.sc a).toNat / 2 ^ 28 % 16 ∧ (s.sc a).toNat / 2 ^ 28 % 16 ≤ 10)) :
    exec (.swrMq a) s = .next ((s.updCore s.core (fun c =>
      { c with mq := s.sc a &&& 0xF007FFC0#64, mqIndex := 0 })).goesOn (.swrMq a)) := by
  refine run_swr h hm ?_
  have hok : ((s.sc a).toNat / 2 ^ 28 % 16 != 0 &&
      ((s.sc a).toNat / 2 ^ 28 % 16 < 4 || 10 < (s.sc a).toNat / 2 ^ 28 % 16 : Bool)) = false := by
    grind
  simp only [hok]
  rfl

/-- The watchdog's partition gets its enable bit and its period from a word, and its count restarts (R80). -/
def State.watched (s : State) (v : Word) : State :=
  s.updPart s.partNum (fun p =>
    { p with wdEn := v.getLsbD 16, wdPeriod := v.toNat % 65536, wdAt := s.cycle, stallAt := s.cycle })

theorem swrWdog_set (hv : 1 ≤ (s.sc a).toNat % 65536) (hv' : (s.sc a).toNat % 65536 ≤ 60000) :
    exec (.swrWdog a) s = .next ((s.watched (s.sc a)).goesOn (.swrWdog a)) := by
  refine run_swr h hm ?_
  have hok : ((s.sc a).toNat % 2 ^ 16 == 0 || decide (60000 < (s.sc a).toNat % 2 ^ 16)) = false := by
    simp
    omega
  simp only [hok]
  rfl

theorem swrWdog_refused (hv : (s.sc a).toNat % 65536 = 0 ∨ 60000 < (s.sc a).toNat % 65536) :
    exec (.swrWdog a) s = .next (s.trapped (.swrWdog a) 0x01 0 0) := by
  refine run_swr_trap h hm ?_
  have hbad : ((s.sc a).toNat % 2 ^ 16 == 0 || decide (60000 < (s.sc a).toNat % 2 ^ 16)) = true := by
    simpa using hv
  simp only [hbad]
  rfl

theorem swrOvh_set (hv : ∃ e < 32, (s.coreAt s.core).slotTab.toNat / 16 ^ e % 16 = 8 + (s.sc a).toNat % 8) :
    exec (.swrOvh a) s = .next ((s.updCore s.core (fun c =>
      { c.serveParked with ovh := (s.sc a).toNat % 8 })).goesOn (.swrOvh a)) := by
  refine run_swr h hm ?_
  have hok := (slotTab_owns _ _ (Nat.mod_lt _ (by decide))).mpr hv
  rw [M.bind_ok (M.get_apply s), hok]
  rfl

theorem swrOvh_refused (hv : ∀ e < 32, (s.coreAt s.core).slotTab.toNat / 16 ^ e % 16 ≠ 8 + (s.sc a).toNat % 8) :
    exec (.swrOvh a) s = .next (s.trapped (.swrOvh a) 0x1C 0 0) := by
  refine run_swr_trap h hm ?_
  have hbad : (List.range 32).any (fun e => (s.coreAt s.core).slotEntry e == some ((s.sc a).toNat % 8)) = false := by
    rw [← Bool.not_eq_true, slotTab_owns _ _ (Nat.mod_lt _ (by decide))]
    rintro ⟨e, he, hx⟩
    exact hv e he hx
  rw [M.bind_ok (M.get_apply s), hbad]
  rfl

theorem swrCsplit_refused (hv : (s.sc a).toNat % 8 = 7) :
    exec (.swrCsplit a) s = .next (s.trapped (.swrCsplit a) 0x01 0 0) := by
  refine run_swr_trap h hm ?_
  simp only [hv]
  rfl

/-- The state in which a write of `csplit` ends: the slice gives up its lines where the store grows, and the bytes between
the two sizes are cleared (R79). -/
def State.splitAt (s : State) (n : Nat) : State :=
  ((if (s.coreAt s.core).csplit < n then s.emptySlice s.core else s).emptyStore s.core
    (65536 * min (s.coreAt s.core).csplit n) (65536 * max (s.coreAt s.core).csplit n)).updCore s.core
      (fun c => { c with csplit := n })

theorem swrCsplit_set (hv : (s.sc a).toNat % 8 ≤ 6) (hvis : s.visitors = []) :
    exec (.swrCsplit a) s = .next ((s.splitAt ((s.sc a).toNat % 8)).goesOn (.swrCsplit a)) := by
  refine run_swr h hm ?_
  have hok : ¬ 6 < (s.sc a).toNat % 8 := by omega
  simp only [if_neg hok]
  rw [M.bind_ok (M.get_apply s)]
  have hwait : (if (s.coreAt s.core).csplit < (s.sc a).toNat % 8 then s.sliceWait s.core else none) = none := by
    simp [State.sliceWait_none hvis]
  simp only [hwait]
  rfl

end

/-- A slice without lines has nothing to give up but its directory entries. -/
theorem State.emptySlice_nil {s : State} (hs : s.slice = []) (hv : s.visitors = []) (core : Nat) :
    ∃ dirs, s.emptySlice core = { s with dirs := dirs } := by
  refine ⟨s.dirs.filter (fun e => homeCore (e.1 * 64) != some core), ?_⟩
  simp [State.emptySlice, State.sliceVisitors, hv, hs, firsts]

/-- What a write of `csplit` leaves where no line is cached and nobody waits: the local store's bytes between the two sizes
read as zero, and every other byte as before. -/
theorem State.splitAt_spec {s : State} (hs : s.slice = []) (hv : s.visitors = []) (hr : s.retry = []) (n : Nat) :
    (s.splitAt n).threads = s.threads ∧ (s.splitAt n).cur = s.cur ∧ ((s.splitAt n).coreAt s.core).csplit = n ∧
    ∀ q, (s.splitAt n).byteAt q = if lsBase s.core + 65536 * min (s.coreAt s.core).csplit n ≤ q ∧
      q < lsBase s.core + 65536 * max (s.coreAt s.core).csplit n then 0 else s.byteAt q := by
  have hempty : ∃ dirs, (if (s.coreAt s.core).csplit < n then s.emptySlice s.core else s) = { s with dirs := dirs } := by
    split
    · exact State.emptySlice_nil hs hv _
    · exact ⟨_, rfl⟩
  obtain ⟨dirs, he⟩ := hempty
  unfold State.splitAt
  rw [he, State.emptyStore_nil (s := { s with dirs := dirs }) hr]
  refine ⟨rfl, rfl, by simp, fun q => ?_⟩
  have hbyte {u : State} (hu : u.slice = []) : u.byteAt q = Memory.read u.mem q := by simp [State.byteAt, hu]
  rw [hbyte hs, hbyte (by simpa [State.clearStore] using hs)]
  exact Memory.read_clear ..

/-- A write that leaves the thread alone completes. -/
theorem Completed.of_threads {s u : State} (i : Instr) (hcur : u.cur = s.cur) (ht : u.threads = s.threads) :
    Completed i s (u.goesOn i) := by
  have hthr : u.thr = s.thr := by simp [State.thr, State.thread?, hcur, ht]
  exact Completed.of_goesOn hcur (by rw [hthr]) (by rw [hthr])

/-- The numbers that R73 reserves. -/
theorem sysReg_reserved {s : State} {sys : BitVec 12}
    (h : (5 < sys.toNat ∧ sys.toNat < 16) ∨ (0x16 < sys.toNat ∧ sys.toNat < 0x20) ∨ 0x24 < sys.toNat) :
    s.sysReg sys = none := by
  unfold State.sysReg
  dsimp only
  split
  case h_19 => rfl
  all_goals omega

/-- The end of an instruction changes a partition in the time of its last progress alone. -/
theorem goesOn_partAt (s : State) (i : Instr) (p : Nat) : ∃ n, (s.goesOn i).partAt p = { s.partAt p with wdAt := n } := by
  obtain ⟨_, _, h⟩ := (s.setThr (s.thr.retire (instrLen i) .seq s.cycle)).progress_eq s.core
  exact h p

/-- Settles O46: each register's number picks its read and its write, and the forms with checks of their own follow
theirs. -/
theorem systemRegisters : Obligations.SystemRegisters := by
  unfold Obligations.SystemRegisters
  intro s d a h hd
  have ht := State.readable_thread h
  refine ⟨⟨srd_gets ht hd rfl (.inl rfl), srd_gets ht hd rfl (.inl rfl), srd_gets ht hd rfl (.inl rfl),
    srd_gets ht hd rfl (.inl rfl), srd_gets ht hd rfl (.inl rfl), srd_gets ht hd (by simp [State.sysReg]) (.inl rfl),
    srd_gets ht hd rfl (.inl rfl), srd_gets ht hd rfl (.inl rfl), srd_gets ht hd rfl (.inl rfl), rdtime_gets ht hd,
    swr_puts (by decide) rfl h (.inl rfl) rfl, swr_puts (by decide) rfl h (.inl rfl) rfl,
    swr_puts (by decide) rfl h (.inl rfl) rfl⟩, fun hm sys hsys => ?_, fun sys hsys => ?_, fun hm => ?_⟩
  · have hrow : ∃ x, s.sysReg sys = some x := by
      fin_cases hsys <;> exact ⟨_, rfl⟩
    obtain ⟨x, hx⟩ := hrow
    have hsup : userReads sys = false ∧ userWrites sys = false ∧ sys ≠ 0x003#12 ∧ sys ≠ 0x005#12 := by
      fin_cases hsys <;> decide
    obtain ⟨hr, hw, hro⟩ := hsup
    exact ⟨srd_privilege ht hx hr hm, swr_privilege hro hx ht hw hm⟩
  · have hx := sysReg_reserved (s := s) hsys
    have hro : sys ≠ 0x003#12 ∧ sys ≠ 0x005#12 := by
      constructor <;> rintro rfl <;> simp at hsys
    exact ⟨srd_reserved ht hx, swr_reserved ht hro hx⟩
  · refine ⟨srd_gets ht hd rfl (.inr hm), srd_gets ht hd rfl (.inr hm), srd_gets ht hd rfl (.inr hm),
      srd_gets ht hd rfl (.inr hm), srd_gets ht hd rfl (.inr hm), srd_gets ht hd rfl (.inr hm),
      srd_gets ht hd rfl (.inr hm), srd_gets ht hd rfl (.inr hm), srd_gets ht hd rfl (.inr hm),
      swr_fixed ht (.inl rfl) hm, swr_fixed ht (.inr rfl) hm, swr_puts (by decide) rfl h (.inr hm) rfl,
      swr_puts (by decide) rfl h (.inr hm) rfl, swr_puts (by decide) rfl h (.inr hm) rfl,
      swr_puts (by decide) rfl h (.inr hm) rfl, swr_puts (by decide) rfl h (.inr hm) rfl,
      swr_puts (by decide) rfl h (.inr hm) rfl, fun hv => ?_, fun hv => ?_, swrEx_zero h hm, fun hv hc hs hvis hr => ?_,
      swrCsplit_refused h hm, swrOvh_set h hm, swrOvh_refused h hm, ⟨_, swrHvec_set h hm, ?_, ?_⟩, swrMq_set h hm,
      fun hv hv' => ⟨_, swrWdog_set h hm hv hv', ?_, ?_⟩, swrWdog_refused h hm⟩
    · exact swr_puts (by decide) rfl h (.inr hm) (if_neg (Nat.not_lt.mpr hv))
    · exact swr_refused (by decide) rfl h (.inr hm) (if_pos hv)
    · obtain ⟨hth, hcur, hsplit, hbytes⟩ := State.splitAt_spec hs hvis hr ((s.sc a).toNat % 8)
      exact ⟨_, swrCsplit_set h hm hv hvis, Completed.of_threads _ hcur hth, by simpa using hsplit, by simpa using hbytes⟩
    · exact Completed.of_threads _ rfl rfl
    · simp [align4]
    · exact Completed.of_threads _ rfl rfl
    · obtain ⟨n, hn⟩ := goesOn_partAt (s.watched (s.sc a)) (.swrWdog a) s.partNum
      rw [hn]
      simp [State.watched]

end Sys2Proof.Machine
end

section
/-! The theorem that settles O47: what an instruction may not do (R68, R94, R95, R134). -/
namespace Sys2Proof.Machine

/-! ## Read-only destinations and privilege (R68, R95) -/

section
variable {s : State} {i : Instr} (ht : (s.thread? s.cur).isSome = true)
include ht

/-- A destination among the identity registers takes the read-only fault. -/
theorem run_readOnly {u : Uses} {body : M Next} {d : Sc} {n : Fin 16} (hd : d = .i n) (hu : u.dst = some d)
    (hp : u.priv = false) : run i u body s = .next (s.trapped i 0x05 0 0) := by
  subst hd
  refine run_checked (t := mkTrap 0x05 0 0) (b := false) ht ?_
  simp [checkUses, hu, hp, Sc.isI]

theorem exec_readOnly {d : Sc} {n : Fin 16} (hd : d = .i n) (h : ∃ rd vs vrd krd body, exec i s =
      run i { dst := some d, rd := rd, vs := vs, vrd := vrd, krd := krd } body s) :
    exec i s = .next (s.trapped i 0x05 0 0) := by
  obtain ⟨rd, vs, vrd, krd, body, he⟩ := h
  exact he.trans (run_readOnly ht hd rfl rfl)

theorem exec_privileged (hm : s.thr.mode = .user) (h : ∃ rd body, exec i s = run i { rd := rd, priv := true } body s) :
    exec i s = .next (s.trapped i 0x1D 0 0) := by
  obtain ⟨rd, body, he⟩ := h
  exact he.trans (run_privilege ht rfl hm)

theorem exec_scalarDest_readOnly {n : Fin 16} (hd : i.scalarDest = some (.i n)) (hsrd : ∀ d sys, i ≠ .srd d sys) :
    exec i s = .next (s.trapped i 0x05 0 0) := by
  cases i with
  | add | sub | mul | mulh | div | rem | and | or | xor | andn | shl | shr | sar | min | max | setc | sel | lea | fadd | fsub
  | fmul | ffma | fdiv | fsqrt | fmin | fmax | fsetc | fcvt | jr | vred | vext | exnew | exjoin | exchk =>
    exact exec_readOnly ht (Option.some.inj hd) ⟨_, _, _, _, _, rfl⟩
  | clz | ctz | popc | bfxImm | mov | bfx | bfi | li | li96 | li128 | fclass | fsgn | jl | jl96 | kpopc | kfirst | rdtime =>
    dsimp only [exec, execClz, execCtz, execPopc, execBfxImm, execMov, alu1, execBfx, alu, execBfi, execLi, execLi96,
      execLi128, loadConst, execFclass, execFsgn, execJl, execJl96, jumpBy, execKpopc, execKfirst, execRdtime]
    exact run_readOnly ht (Option.some.inj hd) rfl rfl
  | srd d sys => exact absurd rfl (hsrd d sys)
  | _ => cases hd

theorem exec_otherDest_readOnly {n : Fin 16} (hd : i.otherDest = some (.i n)) :
    exec i s = .next (s.trapped i 0x05 0 0) := by
  cases i with
  | ld | lds | amo | cas | acq | task | grow | growReg | shrink | shrinkReg | gmstep | gmstepRst | cpwait | cpyRfg =>
    exact exec_readOnly ht (Option.some.inj hd) ⟨_, _, _, _, _, rfl⟩
  | rfillArm =>
    dsimp only [exec, execRfillArm]
    exact run_readOnly ht (Option.some.inj hd) rfl rfl
  | _ => cases hd

theorem exec_privilege {a b : Sc} (hm : s.thr.mode = .user)
    (hi : i ∈ [.track, .tret, .tretSkip, .slotw a b, .swrEx a, .swrCsplit a, .swrOvh a, .swrHvec a, .swrMq a, .swrWdog a]) :
    exec i s = .next (s.trapped i 0x1D 0 0) := by
  simp only [List.mem_cons, List.not_mem_nil, or_false] at hi
  rcases hi with rfl | rfl | rfl | rfl | rfl | rfl | rfl | rfl | rfl | rfl
  case inr.inr.inr.inr.inr.inr.inr.inl => exact exec_swrHvec a s ▸ run_privilege ht rfl hm
  all_goals exact exec_privileged ht hm ⟨_, _, rfl⟩

end

/-! ## Translation (R134) -/

theorem translate_beyond {s : State} {va : Word} (h : 2 ^ 48 ≤ va.toNat) (c : Nat) (m : Mode) (x : Access) :
    s.translate c m x va = .error (mkTrap 0x08 va.toNat 7) := by
  simp only [State.translate, if_pos h, walkTrap, Nat.mul_zero, Nat.add_zero]

theorem translate_checkLeaf {s : State} {va : Word} {c : Nat} {l : Leaf} (h : va.toNat < 2 ^ 48)
    (hl : s.leafFor c va.toNat = .ok l) (m : Mode) (x : Access) :
    s.translate c m x va = s.checkLeaf m x va.toNat l := by
  simp only [State.translate, if_neg (Nat.not_le.mpr h), hl]

/-- An address of HBM is no address of a local store or of a host, and no forwarding entry concerns it. -/
theorem placeOf_hbm {pa : Nat} (h : isHbm pa = true) : isLs pa = false ∧ isHost pa = false ∧
    ∀ s : State, s.forwardPa pa = pa ∧ s.mappable pa = (s.pkgAt (pkgOfPa pa)).member := by
  unfold isHbm at h
  split at h
  · next hp => simp [isLs, isHost, State.forwardPa, State.mappable, hp]
  · cases h

/-- The access has the page's permissions (R134, row 7). -/
def Access.allowed (x : Access) (e : Word) : Prop :=
  (x.rd = true → e.getLsbD 1 = true) ∧ (x.wr = true → e.getLsbD 2 = true) ∧ (x.ex = true → e.getLsbD 3 = true)

theorem Access.allowed_iff (x : Access) (e : Word) :
    x.allowed e ↔ ((x.rd && !e.getLsbD 1) || (x.wr && !e.getLsbD 2) || (x.ex && !e.getLsbD 3)) = false := by
  simp [Access.allowed, and_assoc]

section
variable {s : State} {m : Mode} {x : Access} {v : Nat} {l : Leaf}
  (hhbm : isHbm (field l.entry 51 12 * 4096 + (v - l.vbase)) = true)
  (hmem : (s.pkgAt (pkgOfPa (field l.entry 51 12 * 4096 + (v - l.vbase)))).member = true) (hhome : l.home ≠ 2)
include hhbm hmem hhome

/-- On a page of HBM, rows 6 to 9 remain. -/
theorem checkLeaf_hbm : s.checkLeaf m x v l =
    if m == .user && !l.entry.getLsbD 4 then .error (walkTrap 0x08 v 5 l.level)
    else if (x.rd && !l.entry.getLsbD 1) || (x.wr && !l.entry.getLsbD 2) || (x.ex && !l.entry.getLsbD 3) then
      .error (walkTrap 0x08 v 4 l.level)
    else if x.fe && !l.fe then .error (walkTrap 0x08 v 8 l.level)
    else if x.wr && l.entry.getLsbD 62 && !x.laterCow then .error (mkTrap 0x0A v 0)
    else .ok { va := v, pa := field l.entry 51 12 * 4096 + (v - l.vbase), leaf := l } := by
  obtain ⟨hls, hhost, hs⟩ := placeOf_hbm hhbm
  obtain ⟨hfwd, hmap⟩ := hs s
  have hh : (l.home == 2) = false := by simpa using hhome
  unfold State.checkLeaf
  simp only [hfwd, hmap, hmem, hls, hhost, hh, Bool.not_true, Bool.false_eq_true, if_false, bne_self_eq_false, Bool.and_false]

theorem checkLeaf_user (hm : m = .user) (hu : l.entry.getLsbD 4 = false) :
    s.checkLeaf m x v l = .error (walkTrap 0x08 v 5 l.level) := by
  rw [checkLeaf_hbm hhbm hmem hhome, hm, hu]
  rfl

variable (hm : m = .super ∨ l.entry.getLsbD 4 = true)
include hm

theorem checkLeaf_denied (ha : ¬ x.allowed l.entry) : s.checkLeaf m x v l = .error (walkTrap 0x08 v 4 l.level) := by
  have hmode : (m == .user && !l.entry.getLsbD 4) = false := by rcases hm with rfl | h <;> simp [*]
  rw [checkLeaf_hbm hhbm hmem hhome, hmode, if_neg Bool.false_ne_true, if_pos]
  rwa [Access.allowed_iff, Bool.not_eq_false] at ha

variable (ha : x.allowed l.entry)
include ha

theorem checkLeaf_allowed : s.checkLeaf m x v l =
    if x.fe && !l.fe then .error (walkTrap 0x08 v 8 l.level)
    else if x.wr && l.entry.getLsbD 62 && !x.laterCow then .error (mkTrap 0x0A v 0)
    else .ok { va := v, pa := field l.entry 51 12 * 4096 + (v - l.vbase), leaf := l } := by
  have hmode : (m == .user && !l.entry.getLsbD 4) = false := by rcases hm with rfl | h <;> simp [*]
  rw [checkLeaf_hbm hhbm hmem hhome, hmode, if_neg Bool.false_ne_true, (Access.allowed_iff ..).mp ha, if_neg Bool.false_ne_true]

theorem checkLeaf_untagged (hx : x.fe = true) (he : l.entry.getLsbD 63 = false) :
    s.checkLeaf m x v l = .error (walkTrap 0x08 v 8 l.level) := by
  rw [checkLeaf_allowed hhbm hmem hhome hm ha, hx, Leaf.fe, he]
  rfl

variable (hfe : x.fe = true → l.entry.getLsbD 63 = true)
include hfe

theorem checkLeaf_tagged : s.checkLeaf m x v l =
    if x.wr && l.entry.getLsbD 62 && !x.laterCow then .error (mkTrap 0x0A v 0)
    else .ok { va := v, pa := field l.entry 51 12 * 4096 + (v - l.vbase), leaf := l } := by
  rw [checkLeaf_allowed hhbm hmem hhome hm ha, if_neg]
  simpa [Leaf.fe] using hfe

theorem checkLeaf_cow (hw : x.wr = true) (hl : x.laterCow = false) (hc : l.entry.getLsbD 62 = true) :
    s.checkLeaf m x v l = .error (mkTrap 0x0A v 0) := by
  rw [checkLeaf_tagged hhbm hmem hhome hm ha hfe, hw, hl, hc]
  rfl

theorem checkLeaf_ok (hw : x.wr = false ∨ l.entry.getLsbD 62 = false) :
    s.checkLeaf m x v l = .ok { va := v, pa := field l.entry 51 12 * 4096 + (v - l.vbase), leaf := l } := by
  rw [checkLeaf_tagged hhbm hmem hhome hm ha hfe, if_neg]
  rcases hw with h | h <;> simp only [h, Bool.false_and, Bool.and_false, Bool.false_eq_true, not_false_eq_true]

end

/-- Settles O47: the checks before an instruction's operation in their order, and the rows of R134 on a page of HBM. -/
theorem accessChecks : Obligations.AccessChecks := by
  unfold Obligations.AccessChecks
  refine ⟨fun s i n ht hd hsrd => hd.elim (fun h => exec_scalarDest_readOnly ht h hsrd) (exec_otherDest_readOnly ht),
    fun s a b i ht hm hi => exec_privilege ht hm hi, fun s c m x va h => translate_beyond h c m x,
    fun s c m x va l hva hl => ?_⟩
  intro e pa bad allowed hhbm hmem hhome
  have hfield (w : Word) : field w 51 12 = w.toNat / 2 ^ 12 % 2 ^ 40 := by simp [field, Nat.shiftRight_eq_div_pow]
  have hhome' : l.home ≠ 2 := by
    have : l.home = e.toNat / 2 ^ 53 % 4 := by simp [Leaf.home, field, Nat.shiftRight_eq_div_pow, e]
    rwa [this]
  rw [show pa = field l.entry 51 12 * 4096 + (va.toNat - l.vbase) by rw [hfield]] at hhbm hmem
  have htr := translate_checkLeaf hva hl m x
  refine ⟨fun hm hu => htr.trans (checkLeaf_user hhbm hmem hhome' hm hu), fun hm =>
    ⟨fun ha => htr.trans (checkLeaf_denied hhbm hmem hhome' hm ha),
      fun ha hx he => htr.trans (checkLeaf_untagged hhbm hmem hhome' hm ha hx he),
      fun ha hfe hw hl hc => htr.trans (checkLeaf_cow hhbm hmem hhome' hm ha hfe hw hl hc),
      fun ha hfe hw => ⟨_, htr.trans (checkLeaf_ok hhbm hmem hhome' hm ha hfe hw), ?_, rfl⟩⟩⟩
  rw [hfield]

end Sys2Proof.Machine
end

section
/-! SUPPORT. The frames of the classes that work on registers: what each instruction of them may touch. -/
namespace Sys2Proof.Machine

/-! ## The flags of a result (R75) -/

namespace IsFlags

theorem zero : IsFlags 0 := rfl

theorem or {a b : Nat} (ha : IsFlags a) (hb : IsFlags b) : IsFlags (a ||| b) := by
  unfold IsFlags at *
  rw [Nat.and_or_distrib_right, ha, hb]

theorem ite {c : Prop} [Decidable c] {a b : Nat} (ha : IsFlags a) (hb : IsFlags b) : IsFlags (if c then a else b) := by
  split
  · exact ha
  · exact hb

theorem nv : IsFlags flNV := rfl

theorem nvIf (b : Bool) : IsFlags (nvIf b) := by cases b <;> exact rfl

theorem foldl {α : Type} {l : List α} {f : Nat → α → Nat} (hf : ∀ x a, IsFlags x → IsFlags (f x a)) {x : Nat}
    (hx : IsFlags x) : IsFlags (l.foldl f x) :=
  List.foldlRecOn (motive := IsFlags) l f hx fun x hx a _ => hf x a hx

theorem dz : IsFlags flDZ := rfl
theorem nx : IsFlags flNX := rfl
theorem ofNx : IsFlags (flOF + flNX) := rfl

/-- A tiny result that is inexact raises UF and NX (R102). -/
theorem nxUf (b : Bool) : IsFlags ((if b then flNX else 0) + if b then flUF else 0) := by cases b <;> exact rfl

theorem of_ite {c : Prop} [Decidable c] {a b : FRes} (ha : IsFlags a.fl) (hb : IsFlags b.fl) :
    IsFlags (if c then a else b).fl := by
  split
  · exact ha
  · exact hb

theorem snd_ite {c : Prop} [Decidable c] {a b : Ex × Nat} (ha : IsFlags a.2) (hb : IsFlags b.2) :
    IsFlags (if c then a else b).2 := by
  split
  · exact ha
  · exact hb

theorem overflow (t : ETy) (mode : Nat) (sat neg : Bool) : IsFlags (overflow t mode sat neg).fl := ofNx

theorem roundNum (t : ETy) (mode : Nat) (sat neg : Bool) (m : Nat) (e : Int) (rest : Bool) :
    IsFlags (roundNum t mode sat neg m e rest).fl :=
  of_ite (nxUf _) (of_ite (overflow ..) (ite nx zero))

theorem roundTw8 (mode : Nat) (neg : Bool) (m : Nat) (e : Int) (rest : Bool) :
    IsFlags (roundTw8 mode neg m e rest).fl :=
  of_ite ofNx (of_ite zero nx)

theorem roundEx (t : ETy) (mode : Nat) (sat : Bool) (x : Ex) : IsFlags (roundEx t mode sat x).fl := by
  cases x with
  | nan =>
    cases t with
    | e2m1 | tw8 => exact nv
    | _ => exact zero
  | inf neg =>
    cases t with
    | e4m3 => exact of_ite zero nv
    | e2m1 | tw8 => exact ite zero nv
    | _ => exact of_ite zero zero
  | zero neg => exact zero
  | num neg m e rest => exact of_ite (roundTw8 ..) (roundNum ..)

theorem roundInt (w : Nat) (z : Bool) (mode : Nat) (sat : Bool) (x : Ex) : IsFlags (roundInt w z mode sat x).fl := by
  cases x with
  | nan => exact nv
  | inf neg => exact ite zero nv
  | zero neg => exact zero
  | num neg m e rest => exact of_ite (ite zero nv) (ite nx zero)

theorem convert (dt : ETy) (z sat : Bool) (mode : Nat) (v : FVal) : IsFlags (convert dt z sat mode v).fl :=
  or (of_ite (roundInt ..) (roundEx ..)) (ite nv zero)

theorem finishEx (t : ETy) (mode : Nat) {r : Ex × Nat} (h : IsFlags r.2) : IsFlags (finishEx t mode r).fl :=
  or (roundEx ..) h

theorem addEx (mode : Nat) (x y : FVal) : IsFlags (addEx mode x y).2 := by
  refine snd_ite (nvIf _) ?_
  split
  · exact snd_ite zero nv
  all_goals exact zero

theorem mulEx (x y : FVal) : IsFlags (mulEx x y).2 := snd_ite nv (snd_ite (nvIf _) zero)

theorem fmaEx (mode : Nat) (x y c : FVal) : IsFlags (fmaEx mode x y c).2 := snd_ite nv (snd_ite (nvIf _) (addEx ..))

theorem divEx (x y : FVal) : IsFlags (divEx x y).2 := by
  refine snd_ite (nvIf _) ?_
  dsimp only
  split
  · exact nv
  · exact zero
  · exact zero
  · exact snd_ite (snd_ite nv dz) (snd_ite zero zero)
  · exact zero

theorem sqrtEx (x : FVal) : IsFlags (sqrtEx x).2 := by
  cases x with
  | nan s => exact nvIf _
  | inf n => exact snd_ite nv zero
  | fin n m e => exact snd_ite zero (snd_ite nv zero)

theorem spEx (fn : SpFn) (x : FVal) : IsFlags (spEx fn x).2 := by
  cases x with
  | nan s => exact nvIf _
  | inf n =>
    cases fn with
    | exp2 => exact snd_ite zero zero
    | log2 | rsq => exact snd_ite nv zero
    | rcp | tanh => exact zero
  | fin n m e =>
    cases fn with
    | exp2 => exact snd_ite zero zero
    | log2 | rsq => exact snd_ite dz (snd_ite nv zero)
    | rcp => exact snd_ite dz (divEx ..)
    | tanh => exact snd_ite zero zero

theorem fAdd (t : ETy) (mode a b : Nat) : IsFlags (fAdd t mode a b).fl := finishEx _ _ (addEx ..)
theorem fSub (t : ETy) (mode a b : Nat) : IsFlags (fSub t mode a b).fl := finishEx _ _ (addEx ..)
theorem fMul (t : ETy) (mode a b : Nat) : IsFlags (fMul t mode a b).fl := finishEx _ _ (mulEx ..)
theorem fFma (t : ETy) (mode a b c : Nat) : IsFlags (fFma t mode a b c).fl := finishEx _ _ (fmaEx ..)
theorem fDiv (t : ETy) (mode a b : Nat) : IsFlags (fDiv t mode a b).fl := finishEx _ _ (divEx ..)
theorem fSqrt (t : ETy) (mode a : Nat) : IsFlags (fSqrt t mode a).fl := finishEx _ _ (sqrtEx ..)
theorem fSpecial (fn : SpFn) (t : ETy) (a : Nat) : IsFlags (fSpecial fn t a).fl := finishEx _ _ (spEx ..)

theorem fMaxMin (t : ETy) (max : Bool) (a b : Nat) : IsFlags (fMaxMin t max a b).fl :=
  of_ite (nvIf _) (of_ite (nvIf _) (of_ite (nvIf _) (of_ite (nvIf _) (nvIf _))))

theorem fCompare (t : ETy) (cc : Cond) (a b : Nat) : IsFlags (fCompare t cc a b).2 := by
  unfold Machine.fCompare
  dsimp only
  split
  · exact nvIf _
  · exact zero

end IsFlags

/-! ## The scalar classes -/

/-- The class, without a look at the word: of an instruction whose word depends on the kind of its second source. (A
`sel`
with a 27-bit immediate has no word; here it counts as of the integer class.) -/
def clsOf (i : Instr) : Cls :=
  match i with
  | .add .. | .sub .. | .mul .. | .mulh .. | .div .. | .rem .. | .and .. | .or .. | .xor .. | .andn .. | .shl ..
  | .shr ..
  | .sar .. | .min .. | .max .. | .setc .. | .sel .. | .lea .. => .int
  | .vadd .. | .vsub .. | .vmul .. | .vdiv .. | .vmin .. | .vmax .. | .viadd .. | .visub .. | .vimul .. | .vand ..
  | .vor ..
  | .vxor .. | .vshl .. | .vshr .. | .vsar .. | .vfma .. | .vsetc .. => .vec
  | i => i.cls

theorem clsOf_eq {i : Instr} {c : Cls} (h : i.cls = c) (hc : c ≠ .event) : clsOf i = c := by
  subst h
  cases i with
  | add _ _ b | sub _ _ b | mul _ _ b | mulh _ _ _ b | div _ _ _ b | rem _ _ _ b | and _ _ b | or _ _ b | xor _ _ b
  | andn _ _ b | shl _ _ b | shr _ _ b | sar _ _ b | min _ _ _ b | max _ _ _ b | setc _ _ _ _ b | lea _ b =>
    rcases b with _ | _ | _ | _ <;> rfl
  | sel _ _ b =>
    rcases b with _ | _ | _ | _
    · rfl
    · exact absurd rfl hc
    · rfl
    · rfl
  | vadd _ _ _ b | vsub _ _ _ b | vmul _ _ _ b | vdiv _ _ _ b | vmin _ _ _ _ b | vmax _ _ _ _ b | viadd _ _ _ _ _ b
  | visub _ _ _ _ _ b | vimul _ _ _ b | vand _ _ _ b | vor _ _ _ b | vxor _ _ _ b | vshl _ _ _ b | vshr _ _ _ b
  | vsar _ _ _ b | vfma _ _ _ _ b | vsetc _ _ _ _ _ b => cases b <;> rfl
  | _ => rfl

section
variable {s t : State} {i : Instr} {d a b : Sc} (hr : Ran s t)
include hr

/-- The steps of a meaning that ends with the write of the destination. -/
theorem alu_within {b : Src2} {f : Word → Word → Word} (h : alu i d a b f s = .next t) : Within { d := some d } s t :=
  run_within (.bind (.rdS _) fun _ => .bind (.rdSrc2 _) fun _ => .bind (.wrS rfl) fun _ => .pure) h hr

theorem alu1_within {f : Word → Word} (h : alu1 i d a f s = .next t) : Within { d := some d } s t :=
  run_within (.bind (.rdS _) fun _ => .bind (.wrS rfl) fun _ => .pure) h hr

theorem divide_within {b : Src2} {f : Word → Word → Word} (h : divide i d a b f s = .next t) :
    Within { d := some d } s t :=
  run_within (.bind (.rdS _) fun _ => .bind (.rdSrc2 _) fun _ => .ite .raise (.bind (.wrS rfl) fun _ => .pure)) h hr

theorem loadConst_within {v : Word} (h : loadConst i d v s = .next t) : Within { d := some d } s t :=
  run_within (.bind (.wrS rfl) fun _ => .pure) h hr

/-- The frame of the integer class. -/
theorem int_within (hi : i.cls = .int) (h : exec i s = .next t) : Within { d := i.scalarDest } s t := by
  replace hi := clsOf_eq hi (by decide)
  cases i with
  | add | sub | mul | mulh | and | or | xor | andn | shl | shr | sar | min | max | setc | bfx =>
    dsimp only [exec, execAdd, execSub, execMul, execMulh, execAnd, execOr, execXor, execAndn, execShl, execShr,
      execSar,
      execMin, execMax, execSetc, execBfx] at h
    exact alu_within hr h
  | clz | ctz | popc | mov | bfxImm =>
    dsimp only [exec, execClz, execCtz, execPopc, execMov, execBfxImm] at h
    exact alu1_within hr h
  | div | rem =>
    dsimp only [exec, execDiv, execRem] at h
    exact divide_within hr h
  | li | li96 | li128 =>
    dsimp only [exec, execLi, execLi96, execLi128] at h
    exact loadConst_within hr h
  | bfi =>
    dsimp only [exec, execBfi] at h
    exact run_within (.bind (.rdS _) fun _ => .bind (.rdS _) fun _ => .bind (.rdS _) fun _ =>
      .bind (.wrS rfl) fun _ => .pure) h hr
  | sel =>
    dsimp only [exec, execSel] at h
    exact run_within (.bind (.rdS _) fun _ => .bind (.rdSrc2 _) fun _ => .bind (.rdS _) fun _ =>
      .bind (.wrS rfl) fun _ => .pure) h hr
  | lea =>
    dsimp only [exec, execLea] at h
    exact run_within (.getThr fun _ _ => .bind (.rdSrc2 _) fun _ => .bind (.wrS rfl) fun _ => .pure) h hr
  | _ => cases hi

omit hr in
theorem fpDest_within {r : FRes} (hf : IsFlags r.fl) :
    Preserves (Within { d := some d, flags := true } s) (fpDest d r) :=
  .bind (.raiseFlags rfl hf) fun _ => .bind (.wrS rfl) fun _ => .pure

theorem fp2_within {ty : ETy} {f : Nat → Nat → Nat → FRes} (hf : ∀ m x y, IsFlags (f m x y).fl)
    (h : fp2 i ty d a b f s = .next t) : Within { d := some d, flags := true } s t :=
  run_within (.bind (.rdS _) fun _ => .bind (.rdS _) fun _ => .getThr fun _ _ => fpDest_within (hf ..)) h hr

/-- The frame of the scalar floating-point class. -/
theorem fp_within (hi : i.cls = .fp) (h : exec i s = .next t) : Within { d := i.scalarDest, flags := true } s t := by
  replace hi := clsOf_eq hi (by decide)
  cases i with
  | fadd =>
    dsimp only [exec, execFadd] at h
    exact fp2_within hr (fun _ _ _ => .fAdd ..) h
  | fsub =>
    dsimp only [exec, execFsub] at h
    exact fp2_within hr (fun _ _ _ => .fSub ..) h
  | fmul =>
    dsimp only [exec, execFmul] at h
    exact fp2_within hr (fun _ _ _ => .fMul ..) h
  | fdiv =>
    dsimp only [exec, execFdiv] at h
    exact fp2_within hr (fun _ _ _ => .fDiv ..) h
  | fmin | fmax =>
    dsimp only [exec, execFmin, execFmax] at h
    exact fp2_within hr (fun _ _ _ => .fMaxMin ..) h
  | fsetc =>
    dsimp only [exec, execFsetc] at h
    exact fp2_within hr (fun _ _ _ => .fCompare ..) h
  | ffma =>
    dsimp only [exec, execFfma] at h
    refine run_within ?_ h hr
    exact .bind (.rdS _) fun _ => .bind (.rdS _) fun _ => .bind (.rdS _) fun _ => .getThr fun _ _ =>
      fpDest_within (.fFma ..)
  | fsqrt =>
    dsimp only [exec, execFsqrt] at h
    refine run_within ?_ h hr
    exact .bind (.rdS _) fun _ => .getThr fun _ _ => fpDest_within (.fSqrt ..)
  | fcvt =>
    dsimp only [exec, execFcvt] at h
    exact run_within (.bind (.rdS _) fun _ => .getThr fun _ _ => .bind (.raiseFlags rfl (.convert ..)) fun _ =>
      .bind (.wrS rfl) fun _ => .pure) h hr
  | fclass =>
    dsimp only [exec, execFclass] at h
    exact run_within (.bind (.rdS _) fun _ => .bind (.wrS rfl) fun _ => .pure) h hr
  | fsgn =>
    dsimp only [exec, execFsgn] at h
    exact run_within (.bind (.rdS _) fun _ => .bind (.rdS _) fun _ => .bind (.wrS rfl) fun _ => .pure) h hr
  | _ => cases hi

/-- The mask register that an instruction of the mask class writes (R303). -/
def maskDest : Instr → Option KReg
  | .kand d _ _ | .kor d _ _ | .kxor d _ _ | .knot d _ | .kmov d _ => some d
  | _ => none

theorem mask2_within {d a b : KReg} {f : Mask → Mask → Mask} (h : mask2 i d a b f s = .next t) :
    Within { k := some d } s t :=
  run_within (.bind (.rdK _) fun _ => .bind (.rdK _) fun _ => .bind (.wrK rfl) fun _ => .pure) h hr

/-- The frame of the mask class. -/
theorem mask_within (hi : i.cls = .mask) (h : exec i s = .next t) :
    Within { d := i.scalarDest, k := maskDest i } s t := by
  replace hi := clsOf_eq hi (by decide)
  cases i with
  | kand | kor | kxor | knot | kmov =>
    dsimp only [exec, execKand, execKor, execKxor, execKnot, execKmov] at h
    exact mask2_within hr h
  | kpopc | kfirst =>
    dsimp only [exec, execKpopc, execKfirst] at h
    exact run_within (.bind (.rdK _) fun _ => .bind (.wrS rfl) fun _ => .pure) h hr
  | _ => cases hi

theorem jumpBy_within {link : Option Sc} {off : Word} (h : jumpBy i link off s = .next t) :
    Within { d := link } s t := by
  refine run_within (.getThr fun _ _ => ?_) h hr
  cases link with
  | none => exact .pure
  | some d => exact .bind (.wrS rfl) fun _ => .pure

/-- The frame of the control class, but for the ends of a thread. -/
theorem control_within (hi : i.cls = .control) (hh : i ≠ .halt) (hk : ∀ a, i ≠ .haltKeep a) (h : exec i s = .next t) :
    Within { d := i.scalarDest } s t := by
  replace hi := clsOf_eq hi (by decide)
  cases i with
  | br =>
    dsimp only [exec, execBr] at h
    exact run_within (.bind (.rdS _) fun _ => .bind (.rdS _) fun _ => .getThr fun _ _ => .ite .pure .pure) h hr
  | j | j96 | jl | jl96 =>
    dsimp only [exec, execJ, execJ96, execJl, execJl96] at h
    exact jumpBy_within hr h
  | jr =>
    dsimp only [exec, execJr] at h
    exact run_within (.bind (.rdS _) fun _ => .getThr fun _ _ => .ite .raiseAt (.bind (.wrS rfl) fun _ => .pure)) h hr
  | nop | nop96 | nop128 =>
    dsimp only [exec, execNop, execNop96, execNop128] at h
    exact run_within .pure h hr
  | yield =>
    dsimp only [exec, execYield] at h
    exact run_within (.get fun _ _ => .pure) h hr
  | halt => exact absurd rfl hh
  | haltKeep a => exact absurd rfl (hk a)
  | _ => cases hi

/-- The frame of the reads of the system registers. -/
theorem srd_within {d : Sc} {sys : BitVec 12} (h : exec (.srd d sys) s = .next t) : Within { d := some d } s t := by
  dsimp only [exec, execSrd] at h
  split at h
  · exact run_within .raise h hr
  · exact run_within (.bind (.wrS rfl) fun _ => .pure) h hr

theorem rdtime_within {d : Sc} (h : exec (.rdtime d) s = .next t) : Within { d := some d } s t := by
  dsimp only [exec, execRdtime] at h
  exact run_within (.get fun _ _ => .bind (.wrS rfl) fun _ => .pure) h hr

end

end Sys2Proof.Machine
end

section
/-! SUPPORT. What instructions beside the classes of `Within` leave: the frame of the system registers and of the expiry
table. -/
namespace Sys2Proof.Machine

/-! ## Requests of the expiry table change the packages alone (R191) -/

/-- Nothing but the packages has changed. -/
def PkgsMoved (s t : State) : Prop := ∃ p, t = { s with pkgs := p }

namespace PkgsMoved

variable {r s t : State}

theorem refl (s : State) : PkgsMoved s s := ⟨_, rfl⟩

theorem updPkg (h : PkgsMoved r s) {n : Nat} {f : Pkg → Pkg} : PkgsMoved r (s.updPkg n f) := by
  obtain ⟨p, rfl⟩ := h
  exact ⟨_, rfl⟩

theorem ite {c : Prop} [Decidable c] (hs : PkgsMoved r s) (ht : PkgsMoved r t) : PkgsMoved r (if c then s else t) := by
  split
  · exact hs
  · exact ht

theorem sendWave (h : PkgsMoved r s) {x : Tag} {n : Nat} : PkgsMoved r (s.sendWave x n) := ite h.updPkg h.updPkg

theorem setEx (h : PkgsMoved r s) {x : Tag} {e : ExEnt} : PkgsMoved r (s.setEx x e) := h.updPkg

theorem lapse (h : PkgsMoved r s) {x : Tag} : PkgsMoved r (s.lapse x) :=
  List.foldlRecOn (motive := PkgsMoved r) _ _ h.setEx fun _ hu _ _ => ite hu.sendWave hu

theorem reachAdd (h : PkgsMoved r s) {x : Tag} {n : Nat} : PkgsMoved r (s.reachAdd x n) :=
  ite h (ite h.setEx h.setEx.sendWave)

theorem joinDone (h : PkgsMoved r s) {x : Tag} {l : List (Tag × Nat)} : PkgsMoved r (s.joinDone x l) :=
  ite h.setEx.lapse h.setEx

theorem fst_ite {α : Type} {c : Prop} [Decidable c] {a b : State × α} (ha : PkgsMoved r a.1) (hb : PkgsMoved r b.1) :
    PkgsMoved r (if c then a else b).1 := by
  split
  · exact ha
  · exact hb

theorem exReq (s : State) (q : Req) : PkgsMoved s (s.exReq q).1 := by
  have h := refl s
  cases q with
  | exSet => exact fst_ite h (fst_ite h (fst_ite h h.reachAdd))
  | exChk => exact fst_ite h (fst_ite h h)
  | exFree =>
    refine fst_ite h (fst_ite h ?_)
    split
    · exact h.setEx.lapse
    · exact h.setEx
    · exact h.setEx
    · exact h
  | exParent => exact fst_ite h (fst_ite h h.reachAdd)
  | note => exact h.reachAdd
  | _ => exact h

end PkgsMoved

/-- The requests of the expiry instructions (R191). -/
def Req.isExpiry : Req → Bool
  | .exSet .. | .exChk .. | .exFree .. | .exParent .. => true
  | _ => false

/-- The home performs a request of the expiry instructions at once. -/
theorem applyBase_expiry {s : State} {w : Waiter} (h : w.req.isExpiry = true) : PkgsMoved s (s.applyBase w).1 := by
  unfold State.applyBase
  refine .fst_ite (.refl s) ?_
  cases hq : w.req with
  | exSet | exChk | exFree | exParent =>
    simp only [Req.base]
    exact .exReq s _
  | _ => simp [hq, Req.isExpiry] at h

theorem applyReq_expiry {s : State} {w : Waiter} (h : w.req.isExpiry = true) : PkgsMoved s (s.applyReq w).1 := by
  have hbase := applyBase_expiry (s := s) h
  suffices e : (s.applyReq w).1 = (s.applyBase w).1 by rwa [e]
  unfold State.applyReq State.applyAt
  cases hq : w.req with
  | exSet | exChk | exFree | exParent => rfl
  | _ => simp [hq, Req.isExpiry] at h

theorem ask_expiry {s t : State} {a : Asker} {k epoch home : Nat} {q : Req} {pk : Park} {r : Reply}
    (hq : q.isExpiry = true)
    (h : s.ask a k epoch home q pk = (t, .got r)) : PkgsMoved s t := by
  have happly := applyReq_expiry (s := s) (w := mkWaiter s a k epoch q) hq
  unfold State.ask at h
  split at h
  · cases h
    exact .refl s
  · split at h
    · cases h
    · split at h
      · cases h
      · split at h
        · split at h
          · cases h
          · next hs =>
            cases h
            rwa [hs] at happly
          · next hs =>
            split at h
            · cases h
              rwa [hs] at happly
            · cases h
        · split at h <;> cases h

/-- What a request of the expiry instructions leaves when it is answered, and when it is answered by a fault. -/
theorem rpc_expiry {s : State} {k home va : Nat} {q : Req} (hq : q.isExpiry = true) :
    (∀ r t, rpc k home q va s = .ok r t → ∃ u m, PkgsMoved s u ∧ t = u.setThr { u.thr with mail := m }) ∧
    (∀ tr b t, rpc k home q va s = .error (.trap tr b) t → b = false ∧ PkgsMoved s t) := by
  have hask {t : State} {r : Reply} := ask_expiry (s := s) (t := t) (r := r) (a := { s.thrAsker with va := va })
    (k := k) (epoch := 0)
    (home := home) (pk := .listed) hq
  unfold rpc rpcFor
  split
  · exact ⟨fun _ _ h => (nomatch h), fun _ _ _ h => nomatch h⟩
  · next hs =>
    refine ⟨fun _ _ h => (nomatch h), fun _ _ _ h => ?_⟩
    cases h
    exact ⟨rfl, hask hs⟩
  · next hs =>
    cases q with
    | exSet | exChk | exFree | exParent =>
      refine ⟨fun _ _ h => ?_, fun _ _ _ h => nomatch h⟩
      cases h
      exact ⟨_, _, hask hs, rfl⟩
    | _ => cases hq

/-! ## The frame of the instructions that write system registers or the expiry table -/

/-- From `s` to `t`: no byte and no tag of memory, no register but the scalar destination `d`, and no system register
but
number `n` has changed; and, where `out` says so, nothing else of memory and of the rest of the machine. -/
structure Apart (n : Nat) (d : Option Sc) (out : Bool) (s t : State) : Prop where
  cur : t.cur = s.cur
  ports : t.thr.ports = s.thr.ports
  bytes : ∀ q, t.byteAt q = s.byteAt q
  tags : t.tags = s.tags
  g : SameG s t d
  c : SameC s t d
  vk : SameVK s t
  system : SameSystem s t n
  outside : out = true → SameMemory s t ∧ SameOthers s t

theorem SameSystem.congr {n : Nat} {s t u : State} (h : SameSystem s t n) (ht : u.thr = t.thr)
    (hc : ∀ c, u.coreAt c = t.coreAt c) (hp : ∀ p, u.partAt p = t.partAt p) : SameSystem s u n := by
  simpa only [SameSystem, SamePart, State.ident, ht, hc, hp] using h

@[simp] theorem State.ident_setThr (s : State) (x : Thread) (c j : Nat) (k : Fin 16) :
    (s.setThr x).ident c j k = s.ident c j k := rfl

@[simp] theorem SamePart.setThr (s : State) (x : Thread) : SamePart s (s.setThr x) := fun _ => rfl
@[simp] theorem SamePart.updCore (s : State) (c : Nat) (f : Core → Core) : SamePart s (s.updCore c f) := fun _ => rfl

theorem SameSystem.refl (s : State) (n : Nat) : SameSystem s s n := by simp [SameSystem, SamePart]

theorem SameSystem.trans {n : Nat} {r s t : State} (h : SameSystem r s n) (hc : s.core = r.core)
    (g : SameSystem s t n) :
    SameSystem r t n := by
  obtain ⟨a00, a01, a02, a03, a04, a05, a10, a11, a12, a13, a14, a15, a16, atr, adf, a20, a21, a22, a23, a24, ast, aacc,
    aid⟩ := h
  obtain ⟨b00, b01, b02, b03, b04, b05, b10, b11, b12, b13, b14, b15, b16, btr, bdf, b20, b21, b22, b23, b24, bst, bacc,
    bid⟩ := g
  rw [hc] at b10 b20 b21 b23 b24 bst bacc bid
  exact ⟨fun k => (b00 k).trans (a00 k), fun k => (b01 k).trans (a01 k), fun k => (b02 k).trans (a02 k), b03.trans a03,
    fun k => (b04 k).trans (a04 k), b05.trans a05, fun k => (b10 k).trans (a10 k), fun k => (b11 k).trans (a11 k),
    fun k => (b12 k).trans (a12 k), fun k => (b13 k).trans (a13 k),
    fun k => ⟨(b14 k).1.trans (a14 k).1, (b14 k).2.trans (a14 k).2⟩, fun k => (b15 k).trans (a15 k),
    fun k => ⟨(b16 k).1.trans (a16 k).1, (b16 k).2.trans (a16 k).2⟩, btr.trans atr, bdf.trans adf,
    fun k => (b20 k).trans (a20 k), fun k => (b21 k).trans (a21 k), fun k => (a22 k).trans (b22 k),
    fun k => (b23 k).trans (a23 k), fun k => (b24 k).trans (a24 k), bst.trans ast, bacc.trans aacc,
    fun j k => (bid j k).trans (aid j k)⟩

namespace Apart

variable {n : Nat} {d : Option Sc} {out : Bool} {r s t : State}

theorem core_eq (h : Apart n d out s t) : t.core = s.core := by rw [State.core, State.core, h.cur]

theorem trapent (h : Apart n d out s t) : t.thr.trapent = s.thr.trapent := by
  obtain ⟨_, _, _, _, _, _, _, _, _, _, _, _, _, htr, _⟩ := h.system
  exact htr

theorem refl (s : State) : Apart n d out s s where
  cur := rfl
  ports := rfl
  bytes := fun _ => rfl
  tags := rfl
  g := by simp [SameG]
  c := by simp [SameC]
  vk := by simp [SameVK]
  system := .refl s n
  outside := by simp [SameMemory, SameOthers]

theorem trans (h : Apart n d out r s) (g : Apart n d out s t) : Apart n d out r t where
  cur := g.cur.trans h.cur
  ports := g.ports.trans h.ports
  bytes := fun q => (g.bytes q).trans (h.bytes q)
  tags := g.tags.trans h.tags
  g := h.g.trans g.g
  c := h.c.trans h.core_eq g.c
  vk := by
    have a := h.vk
    have b := g.vk
    simp only [SameVK] at *
    simp only [b, a, and_self]
  system := h.system.trans h.core_eq g.system
  outside := fun ho => ⟨(h.outside ho).1.trans (g.outside ho).1, (h.outside ho).2.trans h.cur (g.outside ho).2⟩

/-- A write of the thread alone. -/
theorem setThr {x : Thread} (h : Apart n d out r s) (hp : x.ports = s.thr.ports) (hg : SameG s (s.setThr x) d)
    (hvk : SameVK s (s.setThr x)) (hs : SameSystem s (s.setThr x) n) : Apart n d out r (s.setThr x) :=
  h.trans
    { cur := rfl, ports := by simpa using hp, bytes := fun _ => rfl, tags := rfl, g := hg,
      c := ⟨rfl, rfl, rfl, fun _ _ => rfl⟩, vk := hvk, system := hs
      outside := fun _ => ⟨⟨fun _ => rfl, fun _ => rfl, fun _ => rfl, fun _ => rfl, rfl⟩,
        fun _ hn => State.thread_setThr_ne s x hn, fun _ _ => rfl, rfl, rfl, rfl, rfl, rfl, rfl, rfl⟩ }

/-- A write of the thread's core alone. -/
theorem updCore {f : Core → Core} (h : Apart n d out r s) (hc : SameC s (s.updCore s.core f) d)
    (hs : SameSystem s (s.updCore s.core f) n) : Apart n d out r (s.updCore s.core f) :=
  h.trans
    { cur := rfl, ports := rfl, bytes := fun _ => rfl, tags := rfl, g := fun _ _ => ⟨rfl, rfl, rfl⟩, c := hc
      vk := ⟨rfl, rfl, rfl, rfl, rfl⟩, system := hs
      outside := fun _ => ⟨⟨fun _ => rfl, fun _ => rfl, fun _ => rfl, fun _ => rfl, rfl⟩,
        fun _ _ => rfl, fun _ hn => s.coreAt_updCore_ne f hn.symm, rfl, rfl, rfl, rfl, rfl, rfl, rfl⟩ }

theorem putSc {x : Sc} (h : Apart n d out r s) (hd : d = some x) (v : Word) : Apart n d out r (s.putSc x v) := by
  have w : Within { d := d } s (s.putSc x v) := (Within.refl _ s).putSc hd v
  refine h.trans
    { cur := w.cur, ports := w.ports, bytes := w.memory.1, tags := by cases x <;> rfl, g := w.g, c := w.c
      vk := ?_, system := ?_, outside := fun _ => ⟨w.memory, w.others⟩ }
  · cases x with
    | g m => simp [State.putSc, SameVK, Thread.putG]
    | c m | i m | zr => exact ⟨rfl, rfl, rfl, rfl, rfl⟩
  · cases x with
    | g m => simp [State.putSc, SameSystem, Thread.putG, SamePart]
    | c m =>
      have hat := State.putSc_coreAt s (.c m) v
      have hthr : (s.putSc (.c m) v).thr = s.thr := rfl
      have hpart : SamePart s (s.putSc (.c m) v) := fun _ => rfl
      simp [SameSystem, hat, hthr, hpart, State.ident]
    | i m | zr => exact .refl s n

theorem pkgsMoved (h : Apart n d false r s) (hp : PkgsMoved s t) : Apart n d false r t := by
  obtain ⟨p, rfl⟩ := hp
  exact h.trans
    { cur := rfl, ports := rfl, bytes := fun _ => rfl, tags := rfl, g := fun _ _ => ⟨rfl, rfl, rfl⟩
      c := ⟨rfl, rfl, rfl, fun _ _ => rfl⟩, vk := ⟨rfl, rfl, rfl, rfl, rfl⟩
      system := (SameSystem.refl s n).congr rfl (fun _ => rfl) fun _ => rfl
      outside := nofun }

theorem progress (h : Apart n d out r s) (c : Nat) : Apart n d out r (s.progress c) := by
  have w := Within.progress {} s c
  refine h.trans
    { cur := w.cur, ports := w.ports, bytes := w.memory.1, tags := by simp, g := by simp [SameG], c := by simp [SameC]
      vk := by simp [SameVK], system := ?_, outside := fun _ => ⟨w.memory, w.others⟩ }
  have hp : SamePart s (s.progress c) := w.part
  simp [SameSystem, State.ident, hp]

/-- A write of a partition, where it is the register written. -/
theorem updPart {p : Nat} {f : Partition → Partition} (h : Apart 0x022 d out r s) : Apart 0x022 d out r
    (s.updPart p f) :=
  h.trans
    { cur := rfl, ports := rfl, bytes := fun _ => rfl, tags := rfl, g := fun _ _ => ⟨rfl, rfl, rfl⟩
      c := ⟨rfl, rfl, rfl, fun _ _ => rfl⟩, vk := ⟨rfl, rfl, rfl, rfl, rfl⟩
      system := by
        have ht : (s.updPart p f).thr = s.thr := rfl
        have hc : ∀ c, (s.updPart p f).coreAt c = s.coreAt c := fun _ => rfl
        simp [SameSystem, State.ident, ht, hc]
      outside := fun _ => ⟨⟨fun _ => rfl, fun _ => rfl, fun _ => rfl, fun _ => rfl, rfl⟩,
        fun _ _ => rfl, fun _ _ => rfl, rfl, rfl, rfl, rfl, rfl, rfl, rfl⟩ }

/-- The end of an instruction. -/
theorem retire (h : Apart n d out r s) (len : Nat) (nx : Next) : Apart n d out r (s.retire len nx) := by
  have hgo : Apart n d out r ((s.setThr (s.thr.retire len nx s.cycle)).progress s.core) := by
    refine Apart.progress (h.setThr (x := s.thr.retire len nx s.cycle) rfl ?_ ?_ ?_) _
    · simp [SameG]
    · simp [SameVK]
    · simp [SameSystem, SamePart]
  cases nx with
  | gone => exact h.progress _
  | seq | jump | yielded => exact hgo

theorem stays (n : Nat) (d : Option Sc) (out : Bool) (s : State) : Stays s (Apart n d out s) where
  start := .refl s
  cur h := h.cur
  trapent h := h.trapent
  ports h := h.ports
  retire h := h.retire

end Apart

namespace Preserves

variable {α β : Type} {Q : State → Prop}

theorem trans {x : Access} {va : Word} : Preserves Q (Machine.trans x va) := of_const fun s => by
  unfold Machine.trans
  split <;> rfl

theorem mapM {l : List α} {f : α → M β} (hf : ∀ a ∈ l, Preserves Q (f a)) : Preserves Q (l.mapM f) := by
  induction l with
  | nil => exact pure
  | cons a l ih =>
    rw [List.mapM_cons]
    exact bind (hf a List.mem_cons_self) fun _ => bind (ih fun b hb => hf b (List.mem_cons_of_mem _ hb)) fun _ => pure

theorem rdS' (r : Sc) : Preserves Q (Machine.rdS r) := of_const fun _ => rfl

variable {n : Nat} {d : Option Sc} {out : Bool} {r : State}

theorem putSc {x : Sc} (hd : d = some x) {v : Word} : Preserves (Apart n d out r) (Machine.wrS x v) := fun _ h =>
    h.putSc hd v

theorem pkgs {f : State → State} (hf : ∀ s, PkgsMoved s (f s)) : Preserves (Apart n d false r) (modify f : M PUnit) :=
  .modified fun s h => h.pkgsMoved (hf s)

/-- Entry into a chain of matrix commands, and its end. -/
theorem chain (x : Bool) : Preserves (Apart n d out r) (Machine.updThr fun th => { th with chain := x }) := fun s h =>
  h.setThr (x := { s.thr with chain := x }) rfl (by simp [SameG]) (by simp [SameVK]) (by simp [SameSystem])

/-- The write of the tag, where it is the register written, as the end of an instruction. -/
theorem setTag (x : Tag) : Preserves (Apart 0x000 d out r) (do
    updThr (fun th => { th with ex := x })
    Pure.pure Next.seq) := by
  have hset : Preserves (Apart 0x000 d out r) (updThr fun th => { th with ex := x }) := fun s h =>
    h.setThr (x := { s.thr with ex := x }) rfl (by simp [SameG]) (by simp [SameVK]) (by simp [SameSystem])
  exact .bind hset fun _ => .pure

theorem rpcExpiry {k home va : Nat} {q : Req} (hq : q.isExpiry = true) :
    Preserves (Apart n d false r) (Machine.rpc k home q va) := by
  intro s h
  obtain ⟨hok, herr⟩ := rpc_expiry (s := s) (k := k) (home := home) (va := va) hq
  cases he : Machine.rpc k home q va s with
  | ok a t =>
    obtain ⟨u, m, hu, rfl⟩ := hok a t he
    refine (h.pkgsMoved hu).setThr rfl ?_ ?_ ?_
    · simp [SameG]
    · simp [SameVK]
    · simp [SameSystem, SamePart]
  | error e t =>
    cases e with
    | trap tr b =>
      obtain ⟨rfl, _⟩ := herr tr b t he
      trivial
    | park p => trivial
    | fault f => trivial

end Preserves

/-- The write of a plain system register. -/
theorem setSysReg_apart {s t : State} {sys : BitVec 12} {v : Word} (h : s.setSysReg sys v = some t) :
    Apart sys.toNat none true s t := by
  have r : Apart sys.toNat none true s s := .refl s
  unfold State.setSysReg at h
  dsimp only at h
  split at h
  case h_10 hn =>
    split at h
    · cases h
    · cases h
      rw [hn] at r ⊢
      exact r.setThr rfl (by simp [SameG]) (by simp [SameVK]) (by simp [SameSystem])
  case h_4 hn =>
    cases h
    rw [hn] at r ⊢
    exact r.updCore (by simp [SameC]) (by simp [SameSystem, State.ident])
  case h_11 => cases h
  all_goals
    next hn =>
      cases h
      rw [hn] at r ⊢
      exact r.setThr rfl (by simp [SameG]) (by simp [SameVK]) (by simp [SameSystem])

section
variable {s t : State} {i : Instr} (hr : Ran s t)
include hr

/-- A command takes its place in the queue of the matrix unit. -/
theorem mxIssue_apart {u : Uses} {body : M MxOp} (hb : ∀ Q, Preserves Q body) (h : mxIssue i u body s = .next t) :
    Apart 0x003 none true s t := by
  refine run_keeps (Apart.stays ..) ?_ h hr
  refine .getThr fun s hs => .ite .pure (.bind (hb _) fun op => ?_)
  intro s h
  unfold mxEnqueue
  dsimp only
  split
  · exact h.updCore (f := fun c => { c with mxQ := _ }) (by simp [SameC]) (by simp [SameSystem, State.ident])
  · trivial

/-- The frame of `SWR`, but for `csplit`. -/
theorem swr_apart {sys : BitVec 12} {a : Sc} (h : exec (.swr sys a) s = .next t) : Apart sys.toNat none true s t := by
  dsimp only [exec, execSwr] at h
  split at h
  · exact run_keeps (Apart.stays ..) .raise h hr
  · split at h
    · exact run_keeps (Apart.stays ..) .raise h hr
    · refine run_keeps (Apart.stays ..) (.bind (.rdS _) fun v => .get fun u hu => ?_) h hr
      split
      · exact .raise
      · next s1 hs =>
        have hset : Preserves (Apart sys.toNat none true s) (set s1 : M PUnit) := fun _ _ => hu.trans
          (setSysReg_apart hs)
        exact .bind hset fun _ => .pure

/-- The frame of the other forms of `SWR` that stay in the thread's core or its partition. -/
theorem swrOvh_apart {a : Sc} (h : exec (.swrOvh a) s = .next t) : Apart 0x021 none true s t := by
  dsimp only [exec, execSwrOvh] at h
  refine run_keeps (Apart.stays ..) (.bind (.rdS _) fun v => .get fun u hu => .ite .raise
    (.bind (.modified ?_) fun _ => .pure)) h hr
  intro x hx
  exact hx.updCore (by simp [SameC, Core.serveParked]) (by simp [SameSystem, State.ident, Core.serveParked])

theorem swrHvec_apart {a : Sc} (h : exec (.swrHvec a) s = .next t) : Apart 0x023 none true s t := by
  dsimp only [exec, execSwrHvec] at h
  refine run_keeps (Apart.stays ..) (.bind (.rdS _) fun v => .bind (.modified ?_) fun _ => .pure) h hr
  intro x hx
  exact hx.updCore (by simp [SameC]) (by simp [SameSystem, State.ident])

theorem swrMq_apart {a : Sc} (h : exec (.swrMq a) s = .next t) : Apart 0x024 none true s t := by
  dsimp only [exec, execSwrMq] at h
  refine run_keeps (Apart.stays ..) (.bind (.rdS _) fun v => .ite .raise (.bind (.modified ?_) fun _ => .pure)) h hr
  intro x hx
  exact hx.updCore (by simp [SameC]) (by simp [SameSystem, State.ident])

theorem swrWdog_apart {a : Sc} (h : exec (.swrWdog a) s = .next t) : Apart 0x022 none true s t := by
  dsimp only [exec, execSwrWdog] at h
  refine run_keeps (Apart.stays ..) (.bind (.rdS _) fun v => .ite .raise (.bind (.modified ?_) fun _ => .pure)) h hr
  intro x hx
  exact hx.updPart

theorem swrEx_apart {a : Sc} (h : exec (.swrEx a) s = .next t) : Apart 0x000 none false s t := by
  dsimp only [exec, execSwrEx] at h
  exact run_keeps (Apart.stays ..) (.bind (.rdS _) fun v => .get fun u hu => .ite (.setTag _)
    (.ite (.bind .raise fun _ => .setTag _)
    (.bind (.rpcExpiry rfl) fun _ => .setTag _))) h hr

end

/-! ## The expiry class -/

namespace Preserves

variable {s r : State} {d : Option Sc} {out : Bool}

theorem tagOperand {Q : State → Prop} {x : Word} : Preserves Q (Machine.tagOperand x) :=
  .get fun _ _ => .ite .raiseAt (.ite .raiseAt .pure)

theorem joinFault {α : Type} {n : Nat} {tag : Tag} {tr : Trap} :
    Preserves (Apart n d false r) (Machine.joinFault tag tr : M α) :=
  .bind (.pkgs fun s => (PkgsMoved.refl s).setEx) fun _ => fun _ h => h

theorem joinParent {n : Nat} {tag q : Tag} {part pkg j : Nat} :
    Preserves (Apart n d false r) (Machine.joinParent tag part pkg j q) := by
  refine .get fun u hu => .ite joinFault ?_
  intro s h
  dsimp only
  obtain ⟨_, herr⟩ := rpc_expiry (s := s) (k := j) (home := tagPkg q) (va := 0) (q := .exParent q part pkg) rfl
  have hrpc := rpcExpiry (n := n) (d := d) (r := r) (k := j) (home := tagPkg q) (va := 0) (q := .exParent q part pkg)
    rfl s h
  cases he : rpc j (tagPkg q) (.exParent q part pkg) 0 s with
  | ok a t => rwa [he] at hrpc
  | error e t =>
    cases e with
    | trap tr b => exact joinFault t (h.pkgsMoved (herr tr b t he).2)
    | park p => trivial
    | fault f => trivial

end Preserves

section
variable {s t : State} {i : Instr} (hr : Ran s t)
include hr

/-- The frame of the expiry class but for `EXSET`: no system register is written. -/
theorem expiry_apart (hi : i.cls = .expiry) (hx : ∀ a, i ≠ .exset a) (h : exec i s = .next t) :
    Apart 0x003 i.scalarDest false s t := by
  replace hi := clsOf_eq hi (by decide)
  cases i with
  | exnew d a =>
    dsimp only [exec, execExnew] at h
    refine run_keeps (Apart.stays ..) (.bind (.rdS _) fun x => .get fun u hu => ?_) h hr
    split
    · exact .raise
    · refine .bind (.pkgs fun s => (PkgsMoved.refl s).setEx) fun _ => .ite
        (.bind (.pkgs fun s => (PkgsMoved.refl s).lapse) fun _ => ?_) ?_
      all_goals exact .bind (.putSc rfl) fun _ => .pure
  | exjoin d a b =>
    dsimp only [exec, execExjoin] at h
    refine run_keeps (Apart.stays ..) (.bind (.rdS _) fun x => .bind (.rdS _) fun y => .ite .raiseAt
      (.ite (.bind (.putSc rfl) fun _ => .pure) (.get fun u hu => ?_))) h hr
    have hrest (l : List (Tag × Nat)) (i : Nat) : Preserves (Apart 0x003 (some d) false s) (do
        let vals ← l.mapM (fun e => do
          let v ← joinParent (mkTag (pkgOfCore u.core) i) u.partNum (pkgOfCore u.core) e.2 e.1
          pure (e.1, v))
        modify (fun s => s.joinDone (mkTag (pkgOfCore u.core) i) vals)
        wrS d ((mkTag (pkgOfCore u.core) i).setWidth 64)
        pure Next.seq) :=
      .bind (.mapM fun _ _ => .bind .joinParent fun _ => .pure) fun _ => .bind
        (.pkgs fun s => (PkgsMoved.refl s).joinDone) fun _ =>
        .bind (.putSc rfl) fun _ => .pure
    split
    · exact hrest _ _
    · split
      · exact .bind .raise fun _ => hrest _ _
      · exact .bind (.pkgs fun s => (PkgsMoved.refl s).setEx) fun _ => hrest _ _
  | exset a => exact absurd rfl (hx a)
  | exchk d a =>
    dsimp only [exec, execExchk] at h
    exact run_keeps (Apart.stays ..) (.bind (.rdS _) fun x => .bind .tagOperand fun _ => .get fun u hu =>
      .ite (.bind (.putSc rfl) fun _ => .pure) (.bind (.rpcExpiry rfl) fun _ => .bind (.putSc rfl) fun _ => .pure)) h hr
  | exfree a =>
    dsimp only [exec, execExfree] at h
    exact run_keeps (Apart.stays ..) (.bind (.rdS _) fun x => .bind .tagOperand fun _ => .get fun u hu =>
      .ite .pure (.bind (.rpcExpiry rfl) fun _ => .pure)) h hr
  | _ => cases hi

theorem exset_apart {a : Sc} (h : exec (.exset a) s = .next t) : Apart 0x000 none false s t := by
  dsimp only [exec, execExset] at h
  exact run_keeps (Apart.stays ..) (.bind (.rdS _) fun x => .bind .tagOperand fun _ => .get fun u hu =>
    .ite (.ite (.bind .raiseAt fun _ => .setTag _) (.setTag _)) (.bind (.rpcExpiry rfl) fun _ => .setTag _)) h hr

end

/-! ## The matrix class -/

namespace Preserves

variable {Q : State → Prop}

theorem transSpan {x : Access} {va : Word} {n : Nat} : Preserves Q (Machine.transSpan x va n) := by
  refine .bind .trans fun p => ?_
  split
  · exact .ite (.bind .trans fun _ => .pure) .pure
  · exact .pure

theorem mxLines {x : Access} {va : Word} {n : Nat} : Preserves Q (Machine.mxLines x va n) := .mapM fun _ _ => .transSpan

theorem mmaOperand {va : Word} {t : ETy} {n : Nat} : Preserves Q (Machine.mmaOperand va t n) := .bind .trans fun _ =>
    .mxLines

theorem mmaFormat {va : Word} {t : ETy} {l : List Phys} : Preserves Q (Machine.mmaFormat va t l) := by
  cases l with
  | nil => exact .pure
  | cons p l => exact .ite .pure .raiseAt

theorem seamCheck {va : Word} {tag : BitVec 16} {l : List Phys} : Preserves Q (Machine.seamCheck va tag l) := by
  refine .of_const fun s => ?_
  cases l with
  | nil => rfl
  | cons p l =>
    unfold Machine.seamCheck
    dsimp only
    split <;> rfl

theorem rawPages {va : Word} {l : List Phys} : Preserves Q (Machine.rawPages va l) := .ite .pure .raiseAt
theorem cowCheck {p : Phys} : Preserves Q (Machine.cowCheck p) := .ite .raiseAt .pure

end Preserves

section
variable {s t : State} {i : Instr} (hr : Ran s t)
include hr

/-- The frame of the matrix class, but for the mask that `MXFLG` writes. -/
theorem matrix_apart (hi : i.cls = .matrix) (hf : ∀ d n, i ≠ .mxflg d n) (h : exec i s = .next t) :
    Apart 0x003 none true s t := by
  replace hi := clsOf_eq hi (by decide)
  cases i with
  | mma =>
    dsimp only [exec, execMma] at h
    refine mxIssue_apart hr (fun Q => ?_) h
    refine .bind (.rdS _) fun x => .bind (.rdS _) fun y => .ite .raiseAt (.ite .raiseAt ?_)
    refine .bind .mmaOperand fun la => .bind .mmaOperand fun lb => .bind .mmaFormat fun _ => .bind .mmaFormat fun _ =>
      .ite ?_ ?_
    · exact .bind .seamCheck fun _ => .bind .seamCheck fun _ => .getThr fun _ _ => .bind (.rdK _) fun _ =>
        .get fun _ _ => .pure
    · exact .getThr fun _ _ => .bind (.rdK _) fun _ => .get fun _ _ => .pure
  | mxzero =>
    dsimp only [exec, execMxzero] at h
    exact mxIssue_apart hr (fun Q => .bind (.rdK _) fun _ => .pure) h
  | mxld =>
    dsimp only [exec, execMxld] at h
    exact mxIssue_apart hr (fun Q => .bind (.rdS _) fun x => .ite .raiseAt
      (.bind .mxLines fun l => .bind .rawPages fun _ =>
      .bind (.rdK _) fun _ => .get fun _ _ => .pure)) h
  | mxst =>
    dsimp only [exec, execMxst] at h
    exact mxIssue_apart hr (fun Q => .bind (.rdS _) fun x => .ite .raiseAt (.bind .mxLines fun l =>
      .bind (.forM fun _ _ => .cowCheck) fun _ => .bind .rawPages fun _ => .get fun _ _ => .ite .raiseAt
        (.bind (.rdK _) fun _ => .getThr fun _ _ => .pure))) h
  | mxwait =>
    dsimp only [exec, execMxwait] at h
    refine run_keeps (Apart.stays ..) (.getThr fun _ _ => ?_) h hr
    exact .get fun _ _ => .ite .park .pure
  | mxbeg =>
    dsimp only [exec, execMxbeg] at h
    exact run_keeps (Apart.stays ..) (.getThr fun _ _ => .ite .raise (.bind (.chain _) fun _ => .pure)) h hr
  | mxend =>
    dsimp only [exec, execMxend] at h
    exact run_keeps (Apart.stays ..) (.getThr fun _ _ => .ite .raise (.bind (.chain _) fun _ => .pure)) h hr
  | mxflg d n => exact absurd rfl (hf d n)
  | _ => cases hi

theorem mxflg_within {d : KReg} {n : AReg} (h : exec (.mxflg d n) s = .next t) : Within { k := some d } s t := by
  dsimp only [exec, execMxflg] at h
  refine run_within (.getThr fun _ _ => ?_) h hr
  exact .get fun _ _ => .ite .park (.ite .raiseAt (.bind (.wrK rfl) fun _ => .pure))

end

/-! ## The frames of the register classes, in the words of R63, R75, R267, R289 and R303 -/

theorem SameSystem.weaken {s t : State} (h : SameSystem s t 0x003) (n : Nat) : SameSystem s t n := by
  simp only [SameSystem] at *
  simp [h]

section
variable {s t : State} {i : Instr} (hr : Ran s t)
include hr

theorem int_frame (hi : i.cls = .int) (h : exec i s = .next t) : OnlyDest s t i.scalarDest ∧
    t.thr.fcsr = s.thr.fcsr := by
  have w := int_within hr hi h
  exact ⟨w.onlyDest, w.quiet rfl⟩

theorem fp_frame (hi : i.cls = .fp) (h : exec i s = .next t) : OnlyDest s t i.scalarDest ∧
    t.thr.fcsr &&& s.thr.fcsr = s.thr.fcsr ∧ t.thr.fcsr &&& 0x383#10 = s.thr.fcsr &&& 0x383#10 := by
  have w := fp_within hr hi h
  exact ⟨w.onlyDest, w.sticky, w.modes⟩

theorem maskControl_within (hi : i.cls = .mask ∨ (i.cls = .control ∧ i ≠ .halt ∧ (∀ a, i ≠ .haltKeep a)))
    (h : exec i s = .next t) : Within { d := i.scalarDest, k := maskDest i } s t := by
  rcases hi with hi | ⟨hi, hh, hk⟩
  · exact mask_within hr hi h
  · have w := control_within hr hi hh hk h
    exact { w with k := fun k _ => w.k k nofun }

theorem maskControl_frame (hi : i.cls = .mask ∨ (i.cls = .control ∧ i ≠ .halt ∧ (∀ a, i ≠ .haltKeep a)))
    (h : exec i s = .next t) :
    SameMemory s t ∧ SameOthers s t ∧ SameG s t i.scalarDest ∧ SameC s t i.scalarDest ∧ SameSpecial s t ∧
    SameCore s t ∧ SamePart s t ∧ t.thr.fcsr = s.thr.fcsr ∧ t.thr.v = s.thr.v ∧
    ∀ n : KReg, (∀ a b, i ≠ .kand n a b ∧ i ≠ .kor n a b ∧ i ≠ .kxor n a b ∧ i ≠ .knot n a ∧ i ≠ .kmov n a) →
      t.thr.k.get n = s.thr.k.get n ∧ t.thr.kPoison.getLsbD n.val = s.thr.kPoison.getLsbD n.val := by
  have w := maskControl_within hr hi h
  refine ⟨w.memory, w.others, w.g, w.c, w.special, w.core, w.part, w.quiet rfl,
    Vector.ext fun n hn => (w.v ⟨n, hn⟩ (by simp)).1, fun n hn => w.k n fun hd => ?_⟩
  cases i with
  | kand d a b => cases hd; exact (hn a b).1 rfl
  | kor d a b => cases hd; exact (hn a b).2.1 rfl
  | kxor d a b => cases hd; exact (hn a b).2.2.1 rfl
  | knot d a => cases hd; exact (hn a a).2.2.2.1 rfl
  | kmov d a => cases hd; exact (hn a a).2.2.2.2 rfl
  | _ => cases hd

theorem matrix_frame (hi : i.cls = .matrix) (h : exec i s = .next t) :
    SameMemory s t ∧ SameG s t none ∧ SameC s t none ∧ t.thr.v = s.thr.v ∧ t.thr.fcsr = s.thr.fcsr ∧
    t.thr.ex = s.thr.ex ∧ t.thr.alot = s.thr.alot ∧ t.thr.mode = s.thr.mode ∧
    (t.coreAt s.core).acc = (s.coreAt s.core).acc ∧ ((∀ d n, i ≠ .mxflg d n) → t.thr.k = s.thr.k) := by
  by_cases hf : ∀ d n, i ≠ .mxflg d n
  · have w := matrix_apart hr hi hf h
    obtain ⟨hex, hfcsr, _, halot, _, hmode, _, _, _, _, _, _, _, _, _, _, _, _, _, _, _, hacc, _⟩ := w.system
    obtain ⟨hv, _, _, hk, _⟩ := w.vk
    exact ⟨(w.outside rfl).1, w.g, w.c, hv, hfcsr (by decide), hex (by decide), halot, hmode, hacc, fun _ => hk⟩
  · push Not at hf
    obtain ⟨d, n, rfl⟩ := hf
    have w := mxflg_within hr h
    obtain ⟨hex, _, halot, _, hmode, _⟩ := w.special
    obtain ⟨_, _, _, _, _, hacc, _⟩ := w.core
    exact ⟨w.memory, w.g, w.c, Vector.ext fun n hn => (w.v ⟨n, hn⟩ (by simp)).1, w.quiet rfl, hex, halot, hmode, hacc,
      fun hf => absurd rfl (hf d n)⟩

theorem expiry_frame (hi : i.cls = .expiry) (h : exec i s = .next t) :
    (∀ q, t.byteAt q = s.byteAt q) ∧ t.tags = s.tags ∧ SameG s t i.scalarDest ∧ SameC s t i.scalarDest ∧
    SameVK s t ∧ SameSystem s t 0x000 ∧ ((∀ a, i ≠ .exset a) → t.thr.ex = s.thr.ex) := by
  by_cases hx : ∀ a, i ≠ .exset a
  · have w := expiry_apart hr hi hx h
    obtain ⟨hex, _⟩ := w.system
    exact ⟨w.bytes, w.tags, w.g, w.c, w.vk, w.system.weaken _, fun _ => hex (by decide)⟩
  · push Not at hx
    obtain ⟨a, rfl⟩ := hx
    have w := exset_apart hr h
    exact ⟨w.bytes, w.tags, w.g, w.c, w.vk, w.system, fun hx => absurd rfl (hx a)⟩

theorem sysRead_frame (hi : (∃ d sys, i = .srd d sys) ∨ (∃ d, i = .rdtime d)) (h : exec i s = .next t) :
    OnlyDest s t i.scalarDest ∧ t.thr.fcsr = s.thr.fcsr := by
  obtain ⟨d, sys, rfl⟩ | ⟨d, rfl⟩ := hi
  · have w := srd_within hr h
    exact ⟨w.onlyDest, w.quiet rfl⟩
  · have w := rdtime_within hr h
    exact ⟨w.onlyDest, w.quiet rfl⟩

/-- The forms of `SWR` but for `csplit`; that of `ex` alone reaches other parts of the machine. -/
theorem swr_frame {n : Nat} (hn : i.swrDest = some n) (h20 : n ≠ 0x020) (h : exec i s = .next t) :
    Apart n none (n != 0) s t := by
  have weaken {out : Bool} (hout : n ≠ 0 → out = true) (w : Apart n none out s t) : Apart n none (n != 0) s t :=
    { w with outside := fun hz => w.outside (hout (by simpa using hz)) }
  cases i with
  | swr sys a =>
    cases hn
    exact weaken (fun _ => rfl) (swr_apart hr h)
  | swrEx a =>
    cases hn
    exact swrEx_apart hr h
  | swrCsplit a =>
    cases hn
    exact absurd rfl h20
  | swrOvh a =>
    cases hn
    exact swrOvh_apart hr h
  | swrWdog a =>
    cases hn
    exact swrWdog_apart hr h
  | swrHvec a =>
    cases hn
    exact swrHvec_apart hr h
  | swrMq a =>
    cases hn
    exact swrMq_apart hr h
  | _ => cases hn

end

/-- Settles O8: the frame of each class from what its meanings may touch. -/
theorem registerFrames : Obligations.RegisterFrames := by
  unfold Obligations.RegisterFrames
  refine ⟨fun s t i hi h hr => int_frame hr hi h, fun s t i hi h hr => fp_frame hr hi h,
    fun s t i hi h hr => maskControl_frame hr hi h, fun s t i h hr => ⟨fun hi => matrix_frame hr hi h,
      fun hi => expiry_frame hr hi h, fun hi => sysRead_frame hr hi h, fun n hn h20 => ?_⟩⟩
  have w := swr_frame hr hn h20 h
  exact ⟨w.g, w.c, w.vk, w.system, w.bytes, w.tags, fun h0 => w.outside (by simpa using h0)⟩

end Sys2Proof.Machine
end

section
/-! SUPPORT. The shape that the instructions of the vector class share: the vectors they read, what their lanes give,
and
what they write (R336). -/
namespace Sys2Proof.Machine

/-! ## Lists of steps that leave the state -/

theorem mapM_apply {α β : Type} {l : List α} {f : α → M β} {g : α → β} {s : State} (h : ∀ a ∈ l, f a s = .ok (g a) s) :
    l.mapM f s = .ok (l.map g) s := by
  induction l with
  | nil => rfl
  | cons a l ih =>
    rw [List.mapM_cons, M.bind_apply, h a List.mem_cons_self]
    dsimp only
    rw [M.bind_apply, ih fun b hb => h b (List.mem_cons_of_mem _ hb)]
    rfl

theorem forM_apply {α : Type} {l : List α} {f : α → M PUnit} {s : State} (h : ∀ a ∈ l, f a s = .ok () s) :
    l.forM f s = .ok () s := by
  induction l with
  | nil => rfl
  | cons a l ih =>
    refine (M.bind_ok (h a List.mem_cons_self)).trans ?_
    exact ih fun b hb => h b (List.mem_cons_of_mem _ hb)

/-! ## The shape of a vector instruction -/

/-- What the lanes of a vector instruction depend on beside its vectors. -/
structure View where
  rm : Nat
  window : Nat
  mask : KReg → Mask
  sc : Sc → Word

def State.view (s : State) : View :=
  { rm := s.thr.rm, window := s.thr.window, mask := s.thr.mask, sc := s.operand }

/-- What a vector instruction writes beside vectors: nothing, a scalar register, or a mask register. -/
inductive VPost where
  | none
  | sc (d : Sc) (v : Word)
  | mask (d : KReg) (x : Mask)

def VPost.act : VPost → M Unit
  | .none => pure ()
  | .sc d v => wrS d v
  | .mask d x => wrK d x

def VPost.on (s : State) : VPost → State
  | .none => s
  | .sc d v => s.putSc d v
  | .mask d x => s.setThr (s.thr.putK d x)

theorem VPost.act_apply (p : VPost) (s : State) : p.act s = .ok () (p.on s) := by cases p <;> rfl

/-- What the lanes of a vector instruction give: the flags that it raises, if it can raise any, its vectors, and the
rest. -/
structure VRes where
  fl : Option Nat := none
  outs : List Vec := []
  post : VPost := .none

def raiseAny : Option Nat → M Unit
  | none => pure ()
  | some fl => raiseFlags fl

/-- A vector instruction that reads the vectors `reads`, and the old values of the registers `dst`, which it writes. -/
def vOp (reads dst : List VReg) (res : View → List Vec → List Vec → VRes) : M VOut := do
  let xs ← reads.mapM rdV
  let s ← get
  let olds ← dst.mapM oldV
  let r := res s.view xs olds
  raiseAny r.fl
  pure { vs := dst.zip r.outs, post := r.post.act }

/-- No raised flag is enabled (R75). -/
def State.quiet (s : State) (fl : Option Nat) : Prop := ∀ x, fl = some x → enabledFlags s.thr.fcsr x = 0

def State.flagged (s : State) : Option Nat → State
  | none => s
  | some fl => s.withFlags fl

theorem raiseAny_quiet {s : State} {fl : Option Nat} (h : s.quiet fl) : raiseAny fl s = .ok () (s.flagged fl) := by
  cases fl with
  | none => rfl
  | some fl => simp [raiseAny, raiseFlags, h fl rfl, State.flagged, State.withFlags]

theorem raiseAny_enabled {s : State} {fl : Nat} (h : enabledFlags s.thr.fcsr fl ≠ 0) :
    raiseAny (some fl) s = .error (.trap (mkTrap 0x1A 0 fl) true) (s.withFlags fl) := by
  simp [raiseAny, raiseFlags, h, State.withFlags]

theorem rdV_unported {s : State} {v : VReg} (h : s.thr.port? v = none) : rdV v s = .ok (s.thr.v.get v) s := by
  refine (M.bind_ok (M.get_apply s)).trans ?_
  dsimp only
  rw [h]
  rfl

theorem oldV_unported {s : State} {v : VReg} (h : s.thr.port? v = none) : oldV v s = .ok (s.thr.v.get v) s := by
  refine (M.bind_ok (getThr_apply s)).trans ?_
  rw [h]
  rfl

section
variable {reads dst : List VReg} {res : View → List Vec → List Vec → VRes}

/-- The tail of a vector instruction, once it has read its vectors. -/
theorem vOp_of_reads {s s1 : State} {xs olds : List Vec} (hr : reads.mapM rdV s = .ok xs s1)
    (ho : dst.mapM oldV s1 = .ok olds s1) :
    (s1.quiet (res s1.view xs olds).fl → vOp reads dst res s = .ok
      { vs := dst.zip (res s1.view xs olds).outs, post := (res s1.view xs olds).post.act }
      (s1.flagged (res s1.view xs olds).fl)) ∧
    (∀ fl, (res s1.view xs olds).fl = some fl → enabledFlags s1.thr.fcsr fl ≠ 0 →
      vOp reads dst res s = .error (.trap (mkTrap 0x1A 0 fl) true) (s1.withFlags fl)) := by
  have h : vOp reads dst res s = (do
      raiseAny (res s1.view xs olds).fl
      pure { vs := dst.zip (res s1.view xs olds).outs, post := (res s1.view xs olds).post.act } : M VOut) s1 := by
    refine (M.bind_ok hr).trans ((M.bind_ok (M.get_apply s1)).trans ?_)
    exact M.bind_ok ho
  refine ⟨fun hq => ?_, fun fl hf he => ?_⟩
  · rw [h, M.bind_apply, raiseAny_quiet hq]
    rfl
  · rw [h, M.bind_apply, hf, raiseAny_enabled he]

end

/-! ## What a vector instruction does once its lanes are there -/

/-- The registers of the list get their vectors. -/
def State.commit (s : State) (l : List (VReg × Vec)) : State := l.foldl (fun s e => s.setThr (s.thr.putV e.1 e.2)) s

@[simp] theorem Thread.port?_putV (t : Thread) (v w : VReg) (x : Vec) : (t.putV v x).port? w = t.port? w := rfl

theorem commitWrite_unported {s : State} {v : VReg} {x : Vec} (h : s.thr.port? v = none) :
    commitWrite v x s = .ok () (s.setThr (s.thr.putV v x)) := by
  refine (M.bind_ok (M.get_apply s)).trans ?_
  dsimp only
  rw [h]
  rfl

theorem commitWrites_unported {s : State} {l : List (VReg × Vec)} (h : ∀ e ∈ l, s.thr.port? e.1 = none) :
    l.forM (fun e => commitWrite e.1 e.2) s = .ok () (s.commit l) := by
  induction l generalizing s with
  | nil => rfl
  | cons e l ih =>
    refine (M.bind_ok (commitWrite_unported (h e List.mem_cons_self))).trans ?_
    exact ih fun a ha => by simpa using h a (List.mem_cons_of_mem _ ha)

theorem prePush_unported {s : State} {v : VReg} {n : Nat} (h : s.thr.port? v = none) : prePush n v s = .ok () s := by
  refine (M.bind_ok (M.get_apply s)).trans ?_
  rw [h]
  rfl

theorem publish_unported {i : Instr} {s : State} {v : VReg} {x : Vec} (h : s.thr.port? v = none) :
    publish i v x s = .ok () s := by
  refine (M.bind_ok (M.get_apply s)).trans ?_
  rw [h]
  rfl

theorem prePop_unported {s : State} {v : VReg} (h : s.thr.port? v = none) : prePop v s = .ok () s := by
  refine (M.bind_ok (getThr_apply s)).trans ?_
  rw [h]
  rfl

theorem commitPop_unported {s : State} {v : VReg} (h : s.thr.port? v = none) : commitPop v s = .ok () s := by
  refine (M.bind_ok (M.get_apply s)).trans ?_
  rw [h]
  rfl

theorem mem_of_once {v : VReg} {l : List VReg} (h : v ∈ once l) : v ∈ l := by
  induction l with
  | nil => exact h
  | cons a l ih =>
    unfold once at h
    split at h
    · exact List.mem_cons_of_mem _ (ih h)
    · exact (List.mem_cons.mp h).elim (fun e => e ▸ List.mem_cons_self) fun h => List.mem_cons_of_mem _ (ih h)

@[simp] theorem mem_once {v : VReg} {l : List VReg} : v ∈ once l ↔ v ∈ l := by
  induction l with
  | nil => rfl
  | cons a l ih =>
    unfold once
    split
    · next h =>
      have ha : a ∈ l := mem_of_once (List.contains_iff_mem.mp h)
      rw [ih, List.mem_cons]
      exact ⟨.inr, fun hv => hv.elim (fun e => e ▸ ha) id⟩
    · simp only [List.mem_cons, ih]

theorem nodup_once (l : List VReg) : (once l).Nodup := by
  induction l with
  | nil => exact List.nodup_nil
  | cons a l ih =>
    unfold once
    split
    · exact ih
    · next h => exact List.nodup_cons.mpr ⟨by simpa using h, ih⟩

section
variable {i : Instr} {src : List VReg} {body : M VOut} {s s1 s2 : State} {o : VOut}

/-- The end of a vector instruction that pushes into no port. -/
theorem vBody_pops (hb : body s = .ok o s1) (hd : ∀ e ∈ o.vs, s1.thr.port? e.1 = none)
    (hpre : (once src).forM prePop s1 = .ok () s1) (hpop : (once src).forM commitPop s1 = .ok () s2)
    (hp : ∀ e ∈ o.vs, s2.thr.port? e.1 = none) :
    vBody i src body s = (do o.post; pure Next.seq : M Next) (s2.commit o.vs) := by
  unfold vBody
  refine (M.bind_ok hb).trans ((M.bind_ok (getThr_apply s1)).trans ?_)
  dsimp only
  refine (M.bind_ok (forM_apply fun e he => prePush_unported (hd _ (List.of_mem_zip he).1))).trans ?_
  refine (M.bind_ok hpre).trans ((M.bind_ok (forM_apply fun e he => publish_unported (hd e he))).trans ?_)
  exact (M.bind_ok hpop).trans (M.bind_ok (commitWrites_unported hp))

/-- The end of a vector instruction without ports. -/
theorem vBody_unported (hb : body s = .ok o s1) (hd : ∀ e ∈ o.vs, s1.thr.port? e.1 = none)
    (hs : ∀ v ∈ src, s1.thr.port? v = none) :
    vBody i src body s = (do o.post; pure Next.seq : M Next) (s1.commit o.vs) :=
  vBody_pops hb hd (forM_apply fun v hv => prePop_unported (hs v (mem_once.mp hv)))
    (forM_apply fun v hv => commitPop_unported (hs v (mem_once.mp hv))) hd

theorem vBody_congr {x y : M VOut} (h : x s = y s) : vBody i src x s = vBody i src y s := by
  unfold vBody
  rw [M.bind_apply, M.bind_apply, h]

theorem vBody_error {e : Stop} (hb : body s = .error e s1) : vBody i src body s = .error e s1 := M.bind_error hb

end

/-! ## On registers that are no ports -/

section
variable {i : Instr} {u : Uses} {src reads dst : List VReg} {res : View → List Vec → List Vec → VRes} {s : State}

/-- What a vector instruction gives in a state whose registers are no ports. -/
def State.results (s : State) (reads dst : List VReg) (res : View → List Vec → List Vec → VRes) : VRes :=
  res s.view (reads.map s.thr.v.get) (dst.map s.thr.v.get)

/-- The state that a vector instruction leaves. -/
def State.after (s : State) (dst : List VReg) (r : VRes) : State := r.post.on ((s.flagged r.fl).commit (dst.zip r.outs))

@[simp] theorem State.flagged_ports (s : State) (fl : Option Nat) : (s.flagged fl).thr.ports = s.thr.ports := by
  cases fl <;> simp [State.flagged, State.withFlags]

theorem Thread.port?_congr {t u : Thread} (h : t.ports = u.ports) (v : VReg) : t.port? v = u.port? v := by
  simp [Thread.port?, h]

variable (hr : ∀ v ∈ reads, s.thr.port? v = none) (hd : ∀ v ∈ dst, s.thr.port? v = none)
  (hs : ∀ v ∈ src, s.thr.port? v = none)
include hr hd hs

theorem vBody_quiet (hq : s.quiet (s.results reads dst res).fl) :
    vBody i src (vOp reads dst res) s = .ok .seq (s.after dst (s.results reads dst res)) := by
  obtain ⟨h, _⟩ := vOp_of_reads (res := res) (mapM_apply fun v hv => rdV_unported (hr v hv))
    (mapM_apply fun v hv => oldV_unported (hd v hv))
  have hp (v : VReg) : (s.flagged (s.results reads dst res).fl).thr.port? v = s.thr.port? v :=
    Thread.port?_congr (by simp) v
  refine (vBody_unported (h hq) (fun e he => ?_) fun v hv => ?_).trans ?_
  · exact (hp _).trans (hd _ (List.of_mem_zip he).1)
  · exact (hp _).trans (hs v hv)
  · exact M.bind_ok (VPost.act_apply _ _)

omit hs in
theorem vBody_enabled {fl : Nat} (hf : (s.results reads dst res).fl = some fl) (he : enabledFlags s.thr.fcsr fl ≠ 0) :
    vBody i src (vOp reads dst res) s = .error (.trap (mkTrap 0x1A 0 fl) true) (s.withFlags fl) := by
  obtain ⟨_, h⟩ := vOp_of_reads (res := res) (mapM_apply fun v hv => rdV_unported (hr v hv))
    (mapM_apply fun v hv => oldV_unported (hd v hv))
  exact vBody_error (h fl hf he)

end

end Sys2Proof.Machine
end

section
/-! SUPPORT. Every instruction of the vector class in the shape of `vOp`. -/
namespace Sys2Proof.Machine

/-- The second source of a lane-wise instruction, read after `n` other vectors (R337). -/
def srcVec (t : ETy) (n : Nat) (xs : List Vec) : VSrc → Vec
  | .reg _ => xs.getD n 0
  | .imm x => pack t (fun _ => x.toNat)

/-- A lane-wise operation with flags. -/
def fpRes (t : ETy) (k : KReg) (f : View → List Vec → Nat → FRes) (w : View) (xs olds : List Vec) : VRes :=
  { fl := some (laneFlags (w.mask k) t.lanes fun j => (f w xs j).fl)
    outs := [merge t (w.mask k) (olds.getD 0 0) fun j => (f w xs j).bits] }

/-- A lane-wise operation without flags. -/
def intRes (t : ETy) (k : KReg) (f : View → List Vec → Nat → Nat) (w : View) (xs olds : List Vec) : VRes :=
  { outs := [merge t (w.mask k) (olds.getD 0 0) fun j => f w xs j] }

/-! ## The results of the instructions that are not lane-wise (R341, R348 to R350) -/

/-- Of `VFMA`, whose third vector is read last (R338). -/
def fmaLane (win : Bool) (t : ETy) (b : VSrc) (w : View) (xs : List Vec) (j : Nat) : FRes :=
  let x := lane t.bits (xs.getD 0 0) j
  let y := lane t.bits (srcVec t 1 xs b) j
  let z := lane t.bits (xs.getD (1 + (vsrcRegs b).length) 0) j
  if win then fmaWin t w.rm w.window x y z else fFma t w.rm x y z

/-- The element of the source that `VCVT` converts to the `j`-th of its part (R341). -/
def cvtSrc (dt st : ETy) (part : BitVec 6) (x : Vec) (j : Nat) : Nat :=
  let l := Nat.min dt.lanes st.lanes
  lane st.bits x (if l < st.lanes then part.toNat * l + j else j)

def cvtRes (dt st : ETy) (z sat : Bool) (part : BitVec 6) (k : KReg) (w : View) (xs olds : List Vec) : VRes :=
  let m := w.mask k
  let l := Nat.min dt.lanes st.lanes
  let cv (j : Nat) : FRes := convert dt z sat w.rm (valOf st z (cvtSrc dt st part (xs.getD 0 0) j))
  let first := if l < dt.lanes then part.toNat * l else 0
  { fl := some ((List.range l).foldl (fun acc j => if selects k m j then acc ||| (cv j).fl else acc) 0)
    outs := [pack dt fun e =>
      if decide (first ≤ e) && decide (e < first + l) && selects k m (e - first) then (cv (e - first)).bits
      else lane dt.bits (olds.getD 0 0) e] }

/-- The comparison of a lane, and its flags (R296, R349). -/
def cmpLane (cc : Cond) (z : Bool) (t : ETy) (p q : Nat) : Bool × Nat :=
  if t.isInt then (condHolds cc (laneBelow z t.bits p q) (p == q), 0) else fCompare t cc p q

def setcRes (cc : Cond) (z : Bool) (t : ETy) (d : KReg) (b : VSrc) (k : KReg) (w : View) (xs _olds : List Vec) : VRes :=
  let m := w.mask k
  let cmp (j : Nat) : Bool × Nat := cmpLane cc z t (lane t.bits (xs.getD 0 0) j) (lane t.bits (srcVec t 1 xs b) j)
  { fl := some (laneFlags m t.lanes fun j => (cmp j).2)
    post := .mask d (packMask (fun j => if m.getLsbD j then (cmp j).1 else (w.mask d).getLsbD j) t.lanes) }

def redRes (op : RedOp) (z win : Bool) (t : ETy) (d : Sc) (k : KReg) (w : View) (xs _olds : List Vec) : VRes :=
  let r := redList op z win t w.rm w.window (activeLanes t (w.mask k) (xs.getD 0 0))
  { fl := some r.fl, post := .sc d (if t.isInt then extend z t.bits r.bits else BitVec.ofNat 64 r.bits) }

def scanRes (op : RedOp) (z win : Bool) (t : ETy) (k : KReg) (w : View) (xs olds : List Vec) : VRes :=
  let m := w.mask k
  let r := scanGo op z win t w.rm w.window m (xs.getD 0 0) t.lanes 0 [] none
  { fl := some r.2, outs := [merge t m (olds.getD 0 0) fun j => (mapGet r.1 j).getD 0] }

def extRes (z : Bool) (t : ETy) (d b : Sc) (w : View) (xs _olds : List Vec) : VRes :=
  let j := w.sc b
  let v := if j.toNat < t.lanes then lane t.bits (xs.getD 0 0) j.toNat else 0
  { post := .sc d (if t.isInt then extend z t.bits v else BitVec.ofNat 64 v) }

def topkRes (t : ETy) (n : BitVec 6) (c : Sc) (k : KReg) (w : View) (xs _olds : List Vec) : VRes :=
  let es := ((List.range t.lanes).filter (fun j => (w.mask k).getLsbD j)).map
    (fun j => (lane t.bits (xs.getD 0 0) j, ((w.sc c).toNat + j) % 2 ^ 32))
  let top := (es.foldl (fun l e => rankIns t e l) []).take n.toNat
  { outs := [pack t (fun j => ((top[j]?).map (fun e => e.1)).getD (redEmpty .max false t)),
      pack .i32 (fun j => ((top[j]?).map (fun e => e.2)).getD 0xFFFFFFFF)] }

/-- Lane `j` of `VSLIDE` (R346). -/
def slideLane (t : ETy) (c : Sc) (w : View) (xs : List Vec) (j : Nat) : Nat :=
  let sh := Nat.min (w.sc c).toNat t.lanes
  if j + sh < t.lanes then lane t.bits (xs.getD 0 0) (j + sh) else lane t.bits (xs.getD 1 0) (j + sh - t.lanes)

/-- Lane `j` of `VRAND` (R347). -/
def randLane (a b c : Sc) (w : View) (_xs : List Vec) (j : Nat) : Nat :=
  let r := randBlock (w.sc a) (w.sc b) (w.sc c) (j / 4)
  match j % 4 with
  | 0 => r.1
  | 1 => r.2.1
  | 2 => r.2.2.1
  | _ => r.2.2.2

/-! ## The meanings in that shape -/

/-- The meaning in the shape of `vOp`. -/
structure Shape (i : Instr) (u : Uses) (src reads dst : List VReg) (res : View → List Vec → List Vec → VRes)
  : Prop where
  eq : ∀ s, exec i s = run i u (vBody i src (vOp reads dst res)) s

theorem fpV2_shape (i : Instr) (t : ETy) (d a : VReg) (b : VSrc) (k : KReg) (f : Nat → Nat → Nat → FRes) (s : State) :
    fpV2 i t d a b k f s = run i (vuses (some d) (a :: vsrcRegs b) k []) (vBody i (a :: vsrcRegs b)
      (vOp (a :: vsrcRegs b) [d] (fpRes t k fun w xs j =>
        f w.rm (lane t.bits (xs.getD 0 0) j) (lane t.bits (srcVec t 1 xs b) j)))) s := by
  unfold fpV2 runV
  cases b with
  | reg b =>
    simp only [vOp, vsrcRegs, List.mapM_cons, List.mapM_nil, bind_assoc, pure_bind]
    rfl
  | imm x =>
    simp only [vOp, vsrcRegs, List.mapM_cons, List.mapM_nil, bind_assoc, pure_bind]
    rfl

theorem fpV1_shape (i : Instr) (t : ETy) (d a : VReg) (k : KReg) (f : Nat → FRes) (s : State) :
    fpV1 i t d a k f s = run i (vuses (some d) [a] k []) (vBody i [a]
      (vOp [a] [d] (fpRes t k fun _ xs j => f (lane t.bits (xs.getD 0 0) j)))) s := by
  unfold fpV1 runV
  simp only [vOp, List.mapM_cons, List.mapM_nil, bind_assoc, pure_bind]
  rfl

theorem intV2_shape (i : Instr) (t : ETy) (d a : VReg) (b : VSrc) (k : KReg) (f : Nat → Nat → Nat) (s : State) :
    intV2 i t d a b k f s = run i (vuses (some d) (a :: vsrcRegs b) k []) (vBody i (a :: vsrcRegs b)
      (vOp (a :: vsrcRegs b) [d] (intRes t k fun _ xs j =>
        f (lane t.bits (xs.getD 0 0) j) (lane t.bits (srcVec t 1 xs b) j)))) s := by
  unfold intV2 runV
  cases b with
  | reg b =>
    simp only [vOp, vsrcRegs, List.mapM_cons, List.mapM_nil, bind_assoc, pure_bind]
    rfl
  | imm x =>
    simp only [vOp, vsrcRegs, List.mapM_cons, List.mapM_nil, bind_assoc, pure_bind]
    rfl

theorem vfma_shape (win : Bool) (t : ETy) (d a : VReg) (b : VSrc) (c : VReg) (k : KReg) :
    Shape (.vfma win t d a b c k) (vuses (some d) (a :: c :: vsrcRegs b) k []) (a :: c :: vsrcRegs b)
      (a :: (vsrcRegs b ++ [c])) [d] (fpRes t k (fmaLane win t b)) := by
  refine ⟨fun s => ?_⟩
  dsimp only [exec, execVfma, runV]
  cases b with
  | reg b =>
    simp only [vOp, vsrcRegs, List.cons_append, List.nil_append, List.mapM_cons, List.mapM_nil, bind_assoc, pure_bind]
    rfl
  | imm x =>
    simp only [vOp, vsrcRegs, List.nil_append, List.mapM_cons, List.mapM_nil, bind_assoc, pure_bind]
    rfl

theorem vcvt_shape (dt st : ETy) (z sat : Bool) (d a : VReg) (part : BitVec 6) (k : KReg) :
    Shape (.vcvt dt st z sat d a part k) (vuses (some d) [a] k []) [a] [a] [d] (cvtRes dt st z sat part k) := by
  refine ⟨fun s => ?_⟩
  dsimp only [exec, execVcvt, runV]
  simp only [vOp, List.mapM_cons, List.mapM_nil, bind_assoc, pure_bind]
  rfl

theorem vsetc_shape (cc : Cond) (z : Bool) (t : ETy) (d : KReg) (a : VReg) (b : VSrc) (k : KReg) :
    Shape (.vsetc cc z t d a b k) { vuses none (a :: vsrcRegs b) k [] with krd := if k == 0 then [k] else [k, d] }
      (a :: vsrcRegs b) (a :: vsrcRegs b) [] (setcRes cc z t d b k) := by
  refine ⟨fun s => ?_⟩
  dsimp only [exec, execVsetc, runV]
  cases b with
  | reg b =>
    simp only [vOp, vsrcRegs, List.mapM_cons, List.mapM_nil, bind_assoc, pure_bind]
    rfl
  | imm x =>
    simp only [vOp, vsrcRegs, List.mapM_cons, List.mapM_nil, bind_assoc, pure_bind]
    rfl

theorem vsel_shape (t : ETy) (d a b : VReg) (c k : KReg) :
    Shape (.vsel t d a b c k) { vuses (some d) [a, b] k [] with krd := [k, c] } [a, b] [a, b] [d]
      (intRes t k fun w xs j =>
        if (w.mask c).getLsbD j then lane t.bits (xs.getD 0 0) j else lane t.bits (xs.getD 1 0) j) := by
  refine ⟨fun s => ?_⟩
  dsimp only [exec, execVsel, runV]
  simp only [vOp, List.mapM_cons, List.mapM_nil, bind_assoc, pure_bind]
  rfl

theorem vred_shape (op : RedOp) (z win : Bool) (t : ETy) (d : Sc) (a : VReg) (k : KReg) :
    Shape (.vred op z win t d a k) { vuses none [a] k [] with dst := some d } [a] [a] [] (redRes op z win t d k) := by
  refine ⟨fun s => ?_⟩
  dsimp only [exec, execVred, runV]
  simp only [vOp, List.mapM_cons, List.mapM_nil, bind_assoc, pure_bind]
  rfl

theorem vscan_shape (op : RedOp) (z win : Bool) (t : ETy) (d a : VReg) (k : KReg) :
    Shape (.vscan op z win t d a k) (vuses (some d) [a] k []) [a] [a] [d] (scanRes op z win t k) := by
  refine ⟨fun s => ?_⟩
  dsimp only [exec, execVscan, runV]
  simp only [vOp, List.mapM_cons, List.mapM_nil, bind_assoc, pure_bind]
  rfl

theorem vperm_shape (t : ETy) (d a b : VReg) (k : KReg) :
    Shape (.vperm t d a b k) (vuses (some d) [a, b] k []) [a, b] [a, b] [d]
      (intRes t k fun _ xs j => lane t.bits (xs.getD 0 0) (lane t.bits (xs.getD 1 0) j % t.lanes)) := by
  refine ⟨fun s => ?_⟩
  dsimp only [exec, execVperm, runV]
  simp only [vOp, List.mapM_cons, List.mapM_nil, bind_assoc, pure_bind]
  rfl

theorem vslide_shape (t : ETy) (d a b : VReg) (c : Sc) (k : KReg) :
    Shape (.vslide t d a b c k) (vuses (some d) [a, b] k [c]) [a, b] [a, b] [d] (intRes t k (slideLane t c)) := by
  refine ⟨fun s => ?_⟩
  dsimp only [exec, execVslide, runV]
  simp only [vOp, List.mapM_cons, List.mapM_nil, bind_assoc, pure_bind]
  rfl

theorem vbcast_shape (t : ETy) (d : VReg) (a : Sc) (k : KReg) :
    Shape (.vbcast t d a k) (vuses (some d) [] k [a]) [] [] [d] (intRes t k fun w _ _ => (w.sc a).toNat % 2 ^ t.bits)
      := by
  refine ⟨fun s => ?_⟩
  dsimp only [exec, execVbcast, runV]
  simp only [vOp, List.mapM_cons, List.mapM_nil, bind_assoc, pure_bind]
  rfl

theorem vext_shape (z : Bool) (t : ETy) (d : Sc) (a : VReg) (b : Sc) :
    Shape (.vext z t d a b) { vuses none [a] 0 [b] with dst := some d } [a] [a] [] (extRes z t d b) := by
  refine ⟨fun s => ?_⟩
  dsimp only [exec, execVext, runV]
  simp only [vOp, List.mapM_cons, List.mapM_nil, bind_assoc, pure_bind]
  rfl

theorem vidx_shape (t : ETy) (d : VReg) (a : Sc) (k : KReg) :
    Shape (.vidx t d a k) (vuses (some d) [] k [a]) [] [] [d]
      (intRes t k fun w _ j => ((w.sc a).toNat + j) % 2 ^ t.bits) := by
  refine ⟨fun s => ?_⟩
  dsimp only [exec, execVidx, runV]
  simp only [vOp, List.mapM_cons, List.mapM_nil, bind_assoc, pure_bind]
  rfl

theorem vtopk_shape (t : ETy) (d a : VReg) (n : BitVec 6) (c : Sc) (k : KReg) :
    Shape (.vtopk t d a n c k)
      { rd := [c], vs := [d, d + 1, a], vrd := (if k == 0 then [] else [d, d + 1]) ++ [a], krd := [k] }
      [a] [a] [d, d + 1] (topkRes t n c k) := by
  refine ⟨fun s => ?_⟩
  dsimp only [exec, execVtopk, runV]
  simp only [vOp, List.mapM_cons, List.mapM_nil, bind_assoc, pure_bind]
  rfl

theorem vrand_shape (d : VReg) (a b c : Sc) (k : KReg) :
    Shape (.vrand d a b c k) (vuses (some d) [] k [a, b, c]) [] [] [d] (intRes .i32 k (randLane a b c)) := by
  refine ⟨fun s => ?_⟩
  dsimp only [exec, execVrand, runV]
  simp only [vOp, List.mapM_cons, List.mapM_nil, bind_assoc, pure_bind]
  rfl

end Sys2Proof.Machine
end

section
/-! SUPPORT. What the checks before a vector instruction look at, and what its results write. -/
namespace Sys2Proof.Machine

/-! ## The checks name the registers of R336 to R350 -/

/-- The checks before an instruction look at the registers that it names. -/
structure FitsNames (u : Uses) (n : VNames) : Prop where
  priv : u.priv = false
  allot : u.allot = false
  dst : u.dst = n.sd
  rd : u.rd = n.rd
  vs : ∀ v, v ∈ u.vs ↔ v ∈ n.src ++ n.dst
  vrd : ∀ v, v ∈ u.vrd ↔ v ∈ n.full
  krd : ∀ k, k ≠ 0 → (k ∈ u.krd ↔ k ∈ n.masks)

theorem fits_vuses (d : VReg) (src : List VReg) (k : KReg) (rd : List Sc) :
    FitsNames (vuses (some d) src k rd) { rd := rd, src := src, dst := [d], k := k } where
  priv := rfl
  allot := rfl
  dst := rfl
  rd := rfl
  vs v := by simp [vuses, or_comm]
  vrd v := by by_cases h : k = 0 <;> simp [vuses, VNames.full, h, or_comm]
  krd j _ := by simp [vuses, VNames.masks]

theorem fits_store (src : List VReg) (k : KReg) (rd : List Sc) :
    FitsNames (vuses none src k rd) { rd := rd, src := src, k := k } where
  priv := rfl
  allot := rfl
  dst := rfl
  rd := rfl
  vs v := by simp [vuses]
  vrd v := by simp [vuses, VNames.full]
  krd j _ := by simp [vuses, VNames.masks]

theorem fits_scalarDest (d : Sc) (src : List VReg) (k : KReg) (rd : List Sc) :
    FitsNames { vuses none src k rd with dst := some d } { rd := rd, sd := some d, src := src, k := k } where
  priv := rfl
  allot := rfl
  dst := rfl
  rd := rfl
  vs v := by simp [vuses]
  vrd v := by simp [vuses, VNames.full]
  krd j _ := by simp [vuses, VNames.masks]

theorem fits_vsetc (d : KReg) (src : List VReg) (k : KReg) :
    FitsNames { vuses none src k [] with krd := if k == 0 then [k] else [k, d] } { src := src, k := k, kd := some d }
      where
  priv := rfl
  allot := rfl
  dst := rfl
  rd := rfl
  vs v := by simp [vuses]
  vrd v := by simp [vuses, VNames.full]
  krd j _ := by by_cases h : k = 0 <;> simp [VNames.masks, h]

theorem fits_vsel (d : VReg) (src : List VReg) (k c : KReg) :
    FitsNames { vuses (some d) src k [] with krd := [k, c] } { src := src, dst := [d], k := k, kr := [c] } where
  priv := rfl
  allot := rfl
  dst := rfl
  rd := rfl
  vs v := by simp [vuses, or_comm]
  vrd v := by by_cases h : k = 0 <;> simp [vuses, VNames.full, h, or_comm]
  krd j _ := by simp [VNames.masks]

theorem fits_vtopk (d a : VReg) (c : Sc) (k : KReg) :
    FitsNames { rd := [c], vs := [d, d + 1, a], vrd := (if k == 0 then [] else [d, d + 1]) ++ [a], krd := [k] }
      { rd := [c], src := [a], dst := [d, d + 1], k := k } where
  priv := rfl
  allot := rfl
  dst := rfl
  rd := rfl
  vs v := by simp only [List.mem_append, List.mem_cons, List.not_mem_nil]; tauto
  vrd v := by by_cases h : k = 0 <;> simp [VNames.full, h]; tauto
  krd j _ := by simp [VNames.masks]

theorem fits_vins (d : VReg) (a b : Sc) :
    FitsNames { rd := [a, b], vs := [d], vrd := [d] } { rd := [a, b], src := [d], dst := [d] } where
  priv := rfl
  allot := rfl
  dst := rfl
  rd := rfl
  vs v := by simp
  vrd v := by simp [VNames.full]
  krd j hj := by simp [VNames.masks, hj]

/-! ## What the results may write -/

/-- The results of a vector instruction raise flags of R75 only, give a vector for each destination, and write no other
register than the named one. -/
structure FitsRes (r : VRes) (n : VNames) : Prop where
  flags : ∀ fl, r.fl = some fl → IsFlags fl
  outs : r.outs.length = n.dst.length
  sc : ∀ d v, r.post = .sc d v → n.sd = some d
  mask : ∀ d x, r.post = .mask d x → n.kd = some d

theorem isFlags_laneFlags {m : Mask} {l : Nat} {f : Nat → Nat} (hf : ∀ j, IsFlags (f j)) : IsFlags (laneFlags m l f) :=
  .foldl (fun _ _ hx => .ite (hx.or (hf _)) hx) .zero

theorem fitsRes_fpRes {t : ETy} {k : KReg} {f : View → List Vec → Nat → FRes} {n : VNames} {w : View}
    {xs olds : List Vec}
    (hf : ∀ w xs j, IsFlags (f w xs j).fl) (hd : n.dst.length = 1) : FitsRes (fpRes t k f w xs olds) n where
  flags _ h := by cases h; exact isFlags_laneFlags fun j => hf w xs j
  outs := by simp [fpRes, hd]
  sc := nofun
  mask := nofun

theorem fitsRes_intRes {t : ETy} {k : KReg} {f : View → List Vec → Nat → Nat} {n : VNames} {w : View}
    {xs olds : List Vec}
    (hd : n.dst.length = 1) : FitsRes (intRes t k f w xs olds) n where
  flags := nofun
  outs := by simp [intRes, hd]
  sc := nofun
  mask := nofun

namespace IsFlags

theorem winResult (t : ETy) (rm win : Nat) (nv : Bool) (ts : List FVal) : IsFlags (winResult t rm win nv ts).fl :=
  or (or (roundEx ..) (ite nx zero)) (nvIf _)

theorem fmaLane (win : Bool) (t : ETy) (b : VSrc) (w : View) (xs : List Vec) (j : Nat) :
    IsFlags (fmaLane win t b w xs j).fl := of_ite (winResult ..) (fFma ..)

theorem laneMaxMin (t : ETy) (z max : Bool) (a b : Nat) : IsFlags (laneMaxMin t z max a b).fl := of_ite zero
    (fMaxMin ..)

theorem redStep (op : RedOp) (z : Bool) (t : ETy) (rm a b : Nat) : IsFlags (redStep op z t rm a b).fl := by
  cases op with
  | add => exact of_ite zero (fAdd ..)
  | max | min => exact laneMaxMin ..

theorem redFirst (t : ETy) (v : Nat) : IsFlags (redFirst t v).fl := of_ite (nvIf _) zero

theorem redList (op : RedOp) (z win : Bool) (t : ETy) (rm w : Nat) (l : List Nat) :
    IsFlags (redList op z win t rm w l).fl := by
  cases l with
  | nil => exact zero
  | cons x r =>
    refine of_ite (winResult ..) ?_
    exact List.foldlRecOn (motive := fun a : FRes => IsFlags a.fl) r _ (redFirst ..) fun a ha y _ => or ha (redStep ..)

theorem scanGo (op : RedOp) (z win : Bool) (t : ETy) (rm w : Nat) (m : Mask) (x : Vec) (n j : Nat) (seen : List Nat)
    (acc : Option Nat) : IsFlags (scanGo op z win t rm w m x n j seen acc).2 := by
  induction n generalizing j seen acc with
  | zero => exact zero
  | succ n ih =>
    rw [Machine.scanGo]
    split
    · refine or (of_ite (winResult ..) ?_) (ih ..)
      cases acc with
      | none => exact redFirst ..
      | some a => exact redStep ..
    · exact ih ..

theorem cmpLane (cc : Cond) (z : Bool) (t : ETy) (p q : Nat) : IsFlags (cmpLane cc z t p q).2 := by
  unfold Machine.cmpLane
  split
  · exact zero
  · exact fCompare ..

end IsFlags

/-! ## Every instruction of the class -/

/-- The instruction has the shape of `vOp` on the registers that it names. -/
structure Formed (i : Instr) (n : VNames) (u : Uses) (src reads : List VReg)
    (res : View → List Vec → List Vec → VRes) : Prop where
  shape : Shape i u src reads n.dst res
  fits : FitsNames u n
  src : ∀ v, v ∈ src ↔ v ∈ n.src
  reads : ∀ v, v ∈ reads ↔ v ∈ n.src
  res : ∀ w xs olds, FitsRes (res w xs olds) n

def HasForm (i : Instr) (n : VNames) : Prop := ∃ u src reads res, Formed i n u src reads res

section
variable {i : Instr} {t : ETy} {d a : VReg} {b : VSrc} {k : KReg}

theorem hasForm_fpV2 {f : Nat → Nat → Nat → FRes} (h : ∀ s, exec i s = fpV2 i t d a b k f s)
    (hf : ∀ m x y, IsFlags (f m x y).fl) : HasForm i { src := a :: vsrcRegs b, dst := [d], k := k } :=
  ⟨_, _, _, _, ⟨fun s => (h s).trans (fpV2_shape ..)⟩, fits_vuses .., fun _ => .rfl, fun _ => .rfl,
    fun _ _ _ => fitsRes_fpRes (fun _ _ _ => hf ..) rfl⟩

theorem hasForm_fpV1 {f : Nat → FRes} (h : ∀ s, exec i s = fpV1 i t d a k f s) (hf : ∀ x, IsFlags (f x).fl) :
    HasForm i { src := [a], dst := [d], k := k } :=
  ⟨_, _, _, _, ⟨fun s => (h s).trans (fpV1_shape ..)⟩, fits_vuses .., fun _ => .rfl, fun _ => .rfl,
    fun _ _ _ => fitsRes_fpRes (fun _ _ _ => hf _) rfl⟩

theorem hasForm_intV2 {f : Nat → Nat → Nat} (h : ∀ s, exec i s = intV2 i t d a b k f s) :
    HasForm i { src := a :: vsrcRegs b, dst := [d], k := k } :=
  ⟨_, _, _, _, ⟨fun s => (h s).trans (intV2_shape ..)⟩, fits_vuses .., fun _ => .rfl, fun _ => .rfl,
    fun _ _ _ => fitsRes_intRes rfl⟩

end

/-- Every instruction that names vectors has the shape of `vOp`, but for the memory forms and `VINS`, which reads its
destination. -/
theorem form_or_other {i : Instr} {n : VNames} (hn : i.vnames = some n) :
    HasForm i n ∨ (∃ t d a b, i = .vins t d a b) ∨ i.cls = .vmem := by
  cases i with
  | vadd t d a b k =>
    cases hn
    exact .inl <| hasForm_fpV2 (fun s => by dsimp only [exec, execVadd]) fun _ _ _ => .fAdd ..
  | vsub t d a b k =>
    cases hn
    exact .inl <| hasForm_fpV2 (fun s => by dsimp only [exec, execVsub]) fun _ _ _ => .fSub ..
  | vmul t d a b k =>
    cases hn
    exact .inl <| hasForm_fpV2 (fun s => by dsimp only [exec, execVmul]) fun _ _ _ => .fMul ..
  | vdiv t d a b k =>
    cases hn
    exact .inl <| hasForm_fpV2 (fun s => by dsimp only [exec, execVdiv]) fun _ _ _ => .fDiv ..
  | vmin z t d a b k =>
    cases hn
    exact .inl <| hasForm_fpV2 (fun s => by dsimp only [exec, execVmin]) fun _ _ _ => .laneMaxMin ..
  | vmax z t d a b k =>
    cases hn
    exact .inl <| hasForm_fpV2 (fun s => by dsimp only [exec, execVmax]) fun _ _ _ => .laneMaxMin ..
  | vexp2 t d a k | vlog2 t d a k | vrcp t d a k | vrsq t d a k | vtanh t d a k =>
    cases hn
    exact .inl <| hasForm_fpV1 (fun s => by dsimp only [exec, execVexp2, execVlog2, execVrcp, execVrsq, execVtanh])
      fun _ => .fSpecial ..
  | vsgn op t d a b k =>
    cases hn
    exact .inl <| hasForm_intV2 (b := .reg b) fun s => by dsimp only [exec, execVsgn]
  | viadd z sat t d a b k | visub z sat t d a b k =>
    cases hn
    exact .inl <| hasForm_intV2 fun s => by dsimp only [exec, execViadd, execVisub]
  | vimul t d a b k | vand t d a b k | vor t d a b k | vxor t d a b k | vshl t d a b k | vshr t d a b k
  | vsar t d a b k =>
    cases hn
    exact .inl <| hasForm_intV2 fun s => by
      dsimp only [exec, execVimul, execVand, execVor, execVxor, execVshl, execVshr, execVsar]
  | vfma win t d a b c k =>
    cases hn
    exact .inl ⟨_, _, _, _, vfma_shape .., fits_vuses .., fun _ => .rfl, fun v => by simp [or_comm],
      fun _ _ _ => fitsRes_fpRes (fun _ _ _ => .fmaLane ..) rfl⟩
  | vcvt dt st z sat d a part k =>
    cases hn
    refine .inl ⟨_, _, _, _, vcvt_shape .., fits_vuses .., fun _ => .rfl, fun _ => .rfl, fun w xs olds =>
      ⟨?_, rfl, nofun, nofun⟩⟩
    rintro _ ⟨⟩
    exact .foldl (fun _ _ hx => .ite (hx.or (.convert ..)) hx) .zero
  | vsetc cc z t d a b k =>
    cases hn
    refine .inl ⟨_, _, _, _, vsetc_shape .., fits_vsetc .., fun _ => .rfl, fun _ => .rfl, fun w xs olds =>
      ⟨?_, rfl, nofun, ?_⟩⟩
    · rintro _ ⟨⟩
      exact isFlags_laneFlags fun _ => .cmpLane ..
    · rintro _ _ ⟨⟩
      rfl
  | vsel t d a b c k =>
    cases hn
    exact .inl ⟨_, _, _, _, vsel_shape .., fits_vsel .., fun _ => .rfl, fun _ => .rfl, fun _ _ _ => fitsRes_intRes rfl⟩
  | vred op z win t d a k =>
    cases hn
    refine .inl ⟨_, _, _, _, vred_shape .., fits_scalarDest .., fun _ => .rfl, fun _ => .rfl,
      fun w xs olds => ⟨?_, rfl, ?_, nofun⟩⟩
    · rintro _ ⟨⟩
      exact .redList ..
    · rintro _ _ ⟨⟩
      rfl
  | vscan op z win t d a k =>
    cases hn
    refine .inl ⟨_, _, _, _, vscan_shape .., fits_vuses .., fun _ => .rfl, fun _ => .rfl, fun w xs olds =>
      ⟨?_, rfl, nofun, nofun⟩⟩
    rintro _ ⟨⟩
    exact .scanGo ..
  | vperm t d a b k =>
    cases hn
    exact .inl ⟨_, _, _, _, vperm_shape .., fits_vuses .., fun _ => .rfl, fun _ => .rfl, fun _ _ _ =>
      fitsRes_intRes rfl⟩
  | vslide t d a b c k =>
    cases hn
    exact .inl ⟨_, _, _, _, vslide_shape .., fits_vuses .., fun _ => .rfl, fun _ => .rfl, fun _ _ _ =>
      fitsRes_intRes rfl⟩
  | vbcast t d a k =>
    cases hn
    exact .inl ⟨_, _, _, _, vbcast_shape .., fits_vuses .., fun _ => .rfl, fun _ => .rfl, fun _ _ _ =>
      fitsRes_intRes rfl⟩
  | vext z t d a b =>
    cases hn
    refine .inl ⟨_, _, _, _, vext_shape .., fits_scalarDest .., fun _ => .rfl, fun _ => .rfl,
      fun w xs olds => ⟨nofun, rfl, ?_, nofun⟩⟩
    rintro _ _ ⟨⟩
    rfl
  | vidx t d a k =>
    cases hn
    exact .inl ⟨_, _, _, _, vidx_shape .., fits_vuses .., fun _ => .rfl, fun _ => .rfl, fun _ _ _ => fitsRes_intRes rfl⟩
  | vtopk t d a n c k =>
    cases hn
    exact .inl ⟨_, _, _, _, vtopk_shape .., fits_vtopk .., fun _ => .rfl, fun _ => .rfl, fun _ _ _ =>
      ⟨nofun, rfl, nofun, nofun⟩⟩
  | vrand d a b c k =>
    cases hn
    exact .inl ⟨_, _, _, _, vrand_shape .., fits_vuses .., fun _ => .rfl, fun _ => .rfl, fun _ _ _ =>
      fitsRes_intRes rfl⟩
  | vins t d a b => exact .inr (.inl ⟨t, d, a, b, rfl⟩)
  | vld | vst | vgath | vscat => exact .inr (.inr rfl)
  | _ => cases hn

end Sys2Proof.Machine
end

section
/-! SUPPORT. The checks before a vector instruction, the registers it names, and its frame (R65, R69, R230, R336). -/
namespace Sys2Proof.Machine

/-! ## The checks, in their order (R94) -/

/-- The number of the first poisoned register that an instruction reads: a vector register, else a mask register
(R230). -/
def State.firstPoison (s : State) (u : Uses) : Option Nat :=
  ((u.vrd.find? fun v => s.thr.vPoison.getLsbD v.val && (s.thr.port? v).isNone).map fun v => v.val).or
    ((u.krd.find? fun k => s.thr.maskBad k).map fun k => k.val)

/-- What the checks of a vector instruction find before they look at a vector register: nothing. -/
structure ScalarsPass (s : State) (u : Uses) : Prop where
  priv : u.priv = false
  allot : u.allot = false
  dst : ∀ r, u.dst = some r → Sc.isI r = false
  full : ∀ r ∈ u.rd, s.scFull r = true
  pois : ∀ r ∈ u.rd, s.scPois r = false

theorem scalarsPass {s : State} {u : Uses} {n : VNames} (hf : FitsNames u n) (hr : s.readable n.rd = true)
    (hd : ∀ d, n.sd = some d → Sc.isI d = false) : ScalarsPass s u := by
  have hall := hr
  simp only [State.readable, Bool.and_eq_true, List.all_eq_true, Bool.not_eq_true'] at hall
  obtain ⟨_, hall⟩ := hall
  refine ⟨hf.priv, hf.allot, fun r h => hd r (hf.dst ▸ h), fun r h => ?_, fun r h => ?_⟩
  · exact (hall r (hf.rd ▸ h)).1.1
  · exact (hall r (hf.rd ▸ h)).1.2

section
variable {s : State} {u : Uses} (hp : ScalarsPass s u)
include hp

theorem ScalarsPass.dst_match : (match u.dst with | some r => Sc.isI r | none => false) = false := by
  cases h : u.dst with
  | none => rfl
  | some r => exact hp.dst r h

theorem ScalarsPass.full_any : u.rd.any (fun r => !s.isKept r && !s.scFull r) = false :=
  List.any_eq_false.mpr fun r hr => by simp [hp.full r hr]

theorem ScalarsPass.pois_find : u.rd.find? (fun r => !s.isKept r && s.scPois r) = none :=
  List.find?_eq_none.mpr fun r hr => by simp [hp.pois r hr]

theorem checkUses_past {v : VReg} (hv : v ∈ u.vs) (ha : s.thr.alot ≤ v.val) :
    checkUses u s = some (.trap (mkTrap 0x04 0 0) false) := by
  have hany : u.vs.any (fun v => decide (s.thr.alot ≤ v.val)) = true := List.any_eq_true.mpr ⟨v, hv, by simpa using ha⟩
  have hdst := hp.dst_match
  unfold checkUses
  cases hd : u.dst with
  | none => simp [hp.priv, hany]
  | some r => simp [hp.priv, hany, hp.dst r hd]

variable (ha : ∀ v ∈ u.vs, v.val < s.thr.alot)
include ha

omit hp in
theorem allotted_any : u.vs.any (fun v => decide (s.thr.alot ≤ v.val)) = false :=
  List.any_eq_false.mpr fun v hv => by simpa using ha v hv

theorem checkUses_empties {v : VReg} (hv : v ∈ u.vrd) (he : s.vFullAt v = false) :
    checkUses u s = some (.park (.regs u.rd u.vrd)) := by
  have hany : u.vrd.any (fun v => !s.vFullAt v) = true := List.any_eq_true.mpr ⟨v, hv, by simp [he]⟩
  have halot := allotted_any ha
  unfold checkUses
  cases hd : u.dst with
  | none => simp [hp.priv, hp.allot, halot, hany]
  | some r => simp [hp.priv, hp.allot, halot, hany, hp.dst r hd]

variable (he : ∀ v ∈ u.vrd, s.vFullAt v = true)
include he

/-- Once every register is full, the checks look at the poison of vector registers, then at that of masks. -/
theorem checkUses_full : checkUses u s = (s.firstPoison u).map fun x => .trap (mkTrap 0x13 0 x) false := by
  have hany : u.vrd.any (fun v => !s.vFullAt v) = false := List.any_eq_false.mpr fun v hv => by simp [he v hv]
  have halot := allotted_any ha
  have hrest : (u.rd.any (fun r => !s.isKept r && !s.scFull r) || u.vrd.any (fun v => !s.vFullAt v)) = false := by
    rw [hp.full_any, hany]
    rfl
  unfold checkUses State.firstPoison
  cases hd : u.dst with
  | none =>
    simp only [hp.priv, hp.allot, halot, hrest, hp.pois_find]
    cases u.vrd.find? (fun v => s.thr.vPoison.getLsbD v.val && (s.thr.port? v).isNone) with
    | some v => rfl
    | none => cases u.krd.find? (fun k => s.thr.maskBad k) <;> rfl
  | some r =>
    simp only [hp.priv, hp.allot, halot, hrest, hp.pois_find, hp.dst r hd]
    cases u.vrd.find? (fun v => s.thr.vPoison.getLsbD v.val && (s.thr.port? v).isNone) with
    | some v => rfl
    | none => cases u.krd.find? (fun k => s.thr.maskBad k) <;> rfl

theorem checkUses_poison {v : VReg} (hv : v ∈ u.vrd) (hb : s.thr.vPoison.getLsbD v.val = true)
    (hn : s.thr.port? v = none) :
    ∃ w ∈ u.vrd, s.thr.vPoison.getLsbD w.val = true ∧ checkUses u s = some (.trap (mkTrap 0x13 0 w.val) false) := by
  rw [checkUses_full hp ha he, State.firstPoison]
  cases hf : u.vrd.find? (fun v => s.thr.vPoison.getLsbD v.val && (s.thr.port? v).isNone) with
  | none => exact absurd (List.find?_eq_none.mp hf v hv) (by simp [hb, hn])
  | some w =>
    have hw := List.find?_some hf
    simp only [Bool.and_eq_true] at hw
    exact ⟨w, List.mem_of_find?_eq_some hf, hw.1, rfl⟩

variable (hb : ∀ v ∈ u.vrd, s.thr.port? v = none → s.thr.vPoison.getLsbD v.val = false)
include hb

omit hp ha he in
theorem poison_find : u.vrd.find? (fun v => s.thr.vPoison.getLsbD v.val && (s.thr.port? v).isNone) = none :=
  List.find?_eq_none.mpr fun v hv => by
    cases h : s.thr.port? v with
    | none => rw [hb v hv h]; simp
    | some p => simp

theorem checkUses_maskPoison {k : KReg} (hk : k ∈ u.krd) (hm : s.thr.maskBad k = true) :
    ∃ j ∈ u.krd, s.thr.maskBad j = true ∧ checkUses u s = some (.trap (mkTrap 0x13 0 j.val) false) := by
  rw [checkUses_full hp ha he, State.firstPoison, poison_find hb]
  cases hf : u.krd.find? (fun k => s.thr.maskBad k) with
  | none => exact absurd (List.find?_eq_none.mp hf k hk) (by simp [hm])
  | some j => exact ⟨j, List.mem_of_find?_eq_some hf, List.find?_some hf, rfl⟩

theorem checkUses_passes (hk : ∀ k ∈ u.krd, s.thr.maskBad k = false) : checkUses u s = none := by
  rw [checkUses_full hp ha he, State.firstPoison, poison_find hb,
    List.find?_eq_none.mpr fun k h => by simp [hk k h]]
  rfl

end

/-! ## The registers of an instruction that names vectors (R65, R69, R230) -/

/-- The meaning starts with the checks of the registers that the instruction names. -/
def Named (i : Instr) (n : VNames) : Prop := ∃ u body, (∀ s, exec i s = run i u body s) ∧ FitsNames u n

theorem HasForm.named {i : Instr} {n : VNames} (h : HasForm i n) : Named i n := by
  obtain ⟨u, src, reads, res, hf⟩ := h
  exact ⟨u, _, hf.shape.eq, hf.fits⟩

theorem named {i : Instr} {n : VNames} (hn : i.vnames = some n) : Named i n := by
  rcases form_or_other hn with h | ⟨t, d, a, b, rfl⟩ | hi
  · exact h.named
  · cases hn
    exact ⟨_, _, fun s => by dsimp only [exec, execVins, runV], fits_vins ..⟩
  · replace hi := clsOf_eq hi (by decide)
    cases i with
    | vld t d a off k =>
      cases hn
      exact ⟨_, _, fun s => by dsimp only [exec, execVld, runV], fits_vuses ..⟩
    | vst t a off b k =>
      cases hn
      exact ⟨_, _, fun s => by dsimp only [exec, execVst, runV], fits_store ..⟩
    | vgath t d a off b k =>
      cases hn
      exact ⟨_, _, fun s => by dsimp only [exec, execVgath, runV], fits_vuses ..⟩
    | vscat t a off d b k =>
      cases hn
      exact ⟨_, _, fun s => by dsimp only [exec, execVscat, runV], fits_store ..⟩
    | vspill | vfill => cases hn
    | _ => cases hi

section
variable {i : Instr} {n : VNames} {s : State} (hn : i.vnames = some n) (hr : s.readable n.rd = true)
  (hd : ∀ d, n.sd = some d → Sc.isI d = false)
include hn hr hd

theorem exec_pastAllotment (h : ∃ v ∈ n.src ++ n.dst, s.thr.alot ≤ v.val) : exec i s = .next (s.trapped i 0x04 0 0)
    := by
  obtain ⟨u, body, hx, hf⟩ := named hn
  obtain ⟨v, hv, ha⟩ := h
  rw [hx]
  exact run_checked (State.readable_thread hr) (checkUses_past (scalarsPass hf hr hd) ((hf.vs v).mpr hv) ha)

variable (ha : ∀ v ∈ n.src ++ n.dst, v.val < s.thr.alot)
include ha

include ha in
theorem exec_empty {v : VReg} (hv : v ∈ n.full) (he : s.vFullAt v = false) :
    ∃ a b, exec i s = .next (s.parkHere i (.regs a b)) ∧ v ∈ b := by
  obtain ⟨u, body, hx, hf⟩ := named hn
  have hc := checkUses_empties (scalarsPass hf hr hd) (fun v hv => ha v ((hf.vs v).mp hv)) ((hf.vrd v).mpr hv) he
  refine ⟨u.rd, u.vrd, ?_, (hf.vrd v).mpr hv⟩
  obtain ⟨t, ht⟩ := Option.isSome_iff_exists.mp (State.readable_thread hr)
  rw [hx]
  simp only [run, ht, hc]

variable (he : ∀ v ∈ n.full, s.vFullAt v = true)
include he

theorem exec_poisonedVector {v : VReg} (hv : v ∈ n.full) (hb : s.thr.vPoison.getLsbD v.val = true)
    (hp : s.thr.port? v = none) :
    ∃ v ∈ n.full, s.thr.vPoison.getLsbD v.val = true ∧ exec i s = .next (s.trapped i 0x13 0 v.val) := by
  obtain ⟨u, body, hx, hf⟩ := named hn
  obtain ⟨w, hw, hwb, hc⟩ := checkUses_poison (scalarsPass hf hr hd) (fun v hv => ha v ((hf.vs v).mp hv))
    (fun v hv => he v ((hf.vrd v).mp hv)) ((hf.vrd v).mpr hv) hb hp
  exact ⟨w, (hf.vrd w).mp hw, hwb, (hx s).trans (run_checked (State.readable_thread hr) hc)⟩

theorem exec_poisonedMask (hb : ∀ v ∈ n.full, s.thr.port? v = none → s.thr.vPoison.getLsbD v.val = false)
    (hk : s.kreadable n.masks = false) :
    ∃ k ∈ n.masks, s.thr.maskBad k = true ∧ exec i s = .next (s.trapped i 0x13 0 k.val) := by
  obtain ⟨u, body, hx, hf⟩ := named hn
  obtain ⟨k, hkm, hkb⟩ : ∃ k ∈ n.masks, s.thr.maskBad k = true := by
    simpa [State.kreadable] using hk
  have hmem {k : KReg} (hb : s.thr.maskBad k = true) : k ∈ u.krd ↔ k ∈ n.masks :=
    hf.krd k (by rintro rfl; simp [Thread.maskBad] at hb)
  obtain ⟨j, hj, hjb, hc⟩ := checkUses_maskPoison (scalarsPass hf hr hd) (fun v hv => ha v ((hf.vs v).mp hv))
    (fun v hv => he v ((hf.vrd v).mp hv)) (fun v hv => hb v ((hf.vrd v).mp hv)) ((hmem hkb).mpr hkm) hkb
  exact ⟨j, (hmem hjb).mp hj, hjb, (hx s).trans (run_checked (State.readable_thread hr) hc)⟩

end

/-! ## The frame (R63, R75, R336) -/

namespace Within

variable {w : Touch} {r s : State}

theorem flagged (h : Within w r s) (hw : w.flags = true) {fl : Option Nat} (hf : ∀ x, fl = some x → IsFlags x) :
    Within w r (s.flagged fl) := by
  cases fl with
  | none => exact h
  | some fl => exact h.addFlags hw (hf fl rfl)

theorem commit (h : Within w r s) {l : List (VReg × Vec)} (hl : ∀ e ∈ l, e.1 ∈ w.vs) : Within w r (s.commit l) :=
  List.foldlRecOn (motive := Within w r) l _ h fun _ hu e he => hu.putV (hl e he) _

theorem post (h : Within w r s) {p : VPost} (hs : ∀ d v, p = .sc d v → w.d = some d)
    (hm : ∀ d x, p = .mask d x → w.k = some d) : Within w r (p.on s) := by
  cases p with
  | none => exact h
  | sc d v => exact h.putSc (hs d v rfl) v
  | mask d x => exact h.putK (hm d x rfl) x

end Within

theorem port?_nil {t : Thread} (h : t.ports = []) (v : VReg) : t.port? v = none := by simp [Thread.port?, h]

/-- What `VINS` writes (R340). -/
def insRes (t : ETy) (a b : Sc) (w : View) (_xs olds : List Vec) : VRes :=
  { outs := [pack t fun e => if e == (w.sc b).toNat then (w.sc a).toNat % 2 ^ t.bits else lane t.bits (olds.getD 0 0)
    e] }

/-- On a register that is no port, `VINS` has the shape of `vOp` too. -/
theorem exec_vins {t : ETy} {d : VReg} {a b : Sc} {s : State} (hp : s.thr.port? d = none) :
    exec (.vins t d a b) s = run (.vins t d a b) { rd := [a, b], vs := [d], vrd := [d] }
      (vBody (.vins t d a b) [] (vOp [] [d] (insRes t a b))) s := by
  dsimp only [exec, execVins, runV]
  refine run_congr (vBody_congr ?_)
  have hvop : vOp [] [d] (insRes t a b) s = .ok { vs := [(d, _)] } s :=
    (vOp_of_reads (s1 := s) (xs := []) rfl (mapM_apply fun v hv => oldV_unported (by simp_all))).1 nofun
  refine Eq.trans ?_ hvop.symm
  refine (M.bind_ok (getThr_apply s)).trans ?_
  rw [hp]
  rfl

/-- A vector instruction on registers that are no ports touches what it names. -/
theorem vOp_within {i : Instr} {n : VNames} {src reads : List VReg} {res : View → List Vec → List Vec → VRes}
    {s : State} (hf : ∀ w xs olds, FitsRes (res w xs olds) n) (hp : s.thr.ports = []) :
    Preserves (Within { d := n.sd, vs := n.dst, k := n.kd, flags := true } s) (vBody i src (vOp reads n.dst res)) := by
  intro x hx
  have hport (v : VReg) : x.thr.port? v = none := port?_nil (hx.ports.trans hp) v
  have hres := hf x.view (reads.map x.thr.v.get) (n.dst.map x.thr.v.get)
  by_cases hq : x.quiet (x.results reads n.dst res).fl
  · rw [vBody_quiet (fun v _ => hport v) (fun v _ => hport v) (fun v _ => hport v) hq]
    exact ((hx.flagged rfl hres.flags).commit fun e he => (List.of_mem_zip he).1).post hres.sc hres.mask
  · obtain ⟨fl, hfl, he⟩ : ∃ fl, (x.results reads n.dst res).fl = some fl ∧ enabledFlags x.thr.fcsr fl ≠ 0 := by
      simpa [State.quiet] using hq
    rw [vBody_enabled (fun v _ => hport v) (fun v _ => hport v) hfl he]
    exact hx.addFlags rfl (hres.flags fl hfl)

theorem vec_within {i : Instr} {n : VNames} {s t : State} (hi : i.cls = .vec) (hn : i.vnames = some n)
    (hp : s.thr.ports = []) (h : exec i s = .next t) (hr : Ran s t) :
    Within { d := n.sd, vs := n.dst, k := n.kd, flags := true } s t := by
  rcases form_or_other hn with ⟨u, src, reads, res, hf⟩ | ⟨ty, d, a, b, rfl⟩ | hm
  · rw [hf.shape.eq] at h
    exact run_within (vOp_within hf.res hp) h hr
  · cases hn
    rw [exec_vins (port?_nil hp d)] at h
    exact run_within (vOp_within (res := insRes ty a b) (fun _ _ _ => ⟨nofun, rfl, nofun, nofun⟩) hp) h hr
  · simp [hi] at hm

theorem vnames_scalarDest {i : Instr} {n : VNames} (hi : i.cls = .vec) (hn : i.vnames = some n)
    : n.sd = i.scalarDest := by
  replace hi := clsOf_eq hi (by decide)
  cases i with
  | vld | vst | vgath | vscat => cases hi
  | _ => cases hn <;> rfl

theorem vec_named {i : Instr} (hi : i.cls = .vec) : ∃ n, i.vnames = some n := by
  replace hi := clsOf_eq hi (by decide)
  cases i with
  | vadd | vsub | vmul | vdiv | vmin | vmax | vexp2 | vlog2 | vrcp | vrsq | vtanh | vsgn | viadd | visub | vimul | vand
  | vor | vxor | vshl | vshr | vsar | vfma | vcvt | vsetc | vsel | vred | vscan | vperm | vslide | vbcast | vext | vidx
  | vtopk | vrand | vins => exact ⟨_, rfl⟩
  | _ => cases hi

/-- Settles O21: the frame from what the results of each instruction may write. -/
theorem vectorFrame : Obligations.VectorFrame := by
  unfold Obligations.VectorFrame
  intro s t i hi hp h hr
  obtain ⟨n, hn⟩ := vec_named hi
  have w := vec_within hi hn hp h hr
  have hd := vnames_scalarDest hi hn
  exact ⟨w.memory, w.others, hd ▸ w.g, hd ▸ w.c, w.special, w.core, w.part, w.sticky, w.modes, n, hn, w.v, w.k⟩

end Sys2Proof.Machine
end

section
/-! SUPPORT. Vector instructions whose source or destination is a stream port of the chain (R182, R184). -/
namespace Sys2Proof.Machine

/-! ## A trap is no completion -/

theorem instrLen_pos {i : Instr} (h : i.cls ≠ .event) : 0 < instrLen i ∧ instrLen i < 2 ^ 64 := by
  unfold Instr.cls at h
  unfold instrLen
  cases hf : encodeF i with
  | none => simp [hf] at h
  | some f =>
    dsimp only
    unfold lenBytes
    split
    · decide
    · split <;> decide

theorem ofNat_instrLen_ne {i : Instr} (h : i.cls ≠ .event) : BitVec.ofNat 64 (instrLen i) ≠ 0#64 := by
  obtain ⟨h0, h1⟩ := instrLen_pos h
  intro e
  have e2 := congrArg BitVec.toNat e
  rw [BitVec.toNat_ofNat, Nat.mod_eq_of_lt h1] at e2
  exact absurd e2 (by simpa using Nat.ne_of_gt h0)

/-- An instruction that takes a fault has not completed. -/
theorem takeTrap_not_completed {i : Instr} {s x : State} {w : Option Latched} {tr : Trap} (hi : i.cls ≠ .event)
    (hcur : x.cur = s.cur) (htr : x.thr.trapent = s.thr.trapent) (hpc : x.thr.pc = s.thr.pc) :
    ¬ Completed i s (x.takeTrap s.cur w tr) := by
  rintro ⟨hran, _, hend⟩
  rw [takeTrap_of_ran hcur htr hran, hpc] at hend
  exact ofNat_instrLen_ne hi (by simpa using hend.symm)

/-! ## The one port of a thread -/

section
variable {t : Thread} {v : VReg} {p : Port} (h : t.ports = [(v.val, p)])
include h

theorem port?_self : t.port? v = some p := by simp [Thread.port?, h, mapGet_cons]

theorem port?_ne {w : VReg} (hw : w ≠ v) : t.port? w = none := by
  have : v.val ≠ w.val := fun e => hw (Fin.ext e.symm)
  simp [Thread.port?, h, mapGet_cons, this]

end

/-- The thread's one port replaced. -/
def State.withPort (s : State) (v : VReg) (p : Port) : State :=
  s.setThr { s.thr with ports := mapPut s.thr.ports v.val p }

theorem mapPut_single {α : Type} (k : Nat) (a b : α) : mapPut [(k, a)] k b = [(k, b)] := by simp [mapPut]

/-- The oldest vector of a chain queue stands in the port that receives it (R182). -/
def State.drew (s : State) (v : VReg) (p : Port) (q : Nat) (x : Vec) (rest : List Vec) : State :=
  State.withPort { s with chains := mapPut s.chains q rest } v { p with drawn := some x, h := 0 }

section
variable {s : State} {v : VReg} {p : Port} {q : Nat} {x : Vec} {rest : List Vec}

theorem receives_of_chain (hk : p.kind = 6 ∨ p.kind = 7) : p.receives = true := by
  rcases hk with h | h <;> simp [Port.receives, h]

theorem sends_of_chain (hk : p.kind = 4 ∨ p.kind = 5) : p.receives = false := by
  rcases hk with h | h <;> simp [Port.receives, h]

theorem rdV_draws (hp : s.thr.ports = [(v.val, p)]) (hd : p.drawn = none) (hk : p.kind = 6 ∨ p.kind = 7)
    (hq : chainIn s.core p.kind = some q) (hc : mapGet s.chains q = some (x :: rest)) :
    rdV v s = .ok x (s.drew v p q x rest) := by
  have h0 : (p.kind == 0) = false := by rcases hk with h | h <;> simp [h]
  have h2 : (p.kind == 2) = false := by rcases hk with h | h <;> simp [h]
  refine (M.bind_ok (M.get_apply s)).trans ?_
  simp only [port?_self hp, receives_of_chain hk, h0, h2, hq, hc, hd, Option.getD_some]
  simp [hp, hd, M.bind_apply, setPort, State.drew, State.withPort]
  rfl

theorem rdV_drawn {s : State} (hp : s.thr.port? v = some p) (hd : p.drawn = some x) (hk : p.kind = 6 ∨ p.kind = 7)
    (hq : chainIn s.core p.kind = some q) : rdV v s = .ok x s := by
  have h0 : (p.kind == 0) = false := by rcases hk with h | h <;> simp [h]
  have h2 : (p.kind == 2) = false := by rcases hk with h | h <;> simp [h]
  refine (M.bind_ok (M.get_apply s)).trans ?_
  simp only [hp, receives_of_chain hk, h0, h2, hq, hd]
  rfl

end

/-! ## Lists of steps of which one does not leave the state -/

section
variable {α β : Type} {l : List α} {v : α} {s t : State}

theorem mapM_error {f : α → M β} {g : α → β} {e : Stop} (hv : v ∈ l) (h : ∀ w ∈ l, w ≠ v → f w s = .ok (g w) s)
    (he : f v s = .error e s) : l.mapM f s = .error e s := by
  induction l with
  | nil => cases hv
  | cons a l ih =>
    rw [List.mapM_cons]
    by_cases ha : a = v
    · subst ha
      exact M.bind_error he
    · refine (M.bind_ok (h a List.mem_cons_self ha)).trans (M.bind_error ?_)
      exact ih ((List.mem_cons.mp hv).resolve_left (Ne.symm ha)) fun w hw => h w (List.mem_cons_of_mem _ hw)

theorem forM_one {f : α → M PUnit} (hl : l.Nodup) (hv : v ∈ l) (hs : ∀ w ∈ l, w ≠ v → f w s = .ok () s)
    (he : f v s = .ok () t) (ht : ∀ w ∈ l, w ≠ v → f w t = .ok () t) : l.forM f s = .ok () t := by
  induction l with
  | nil => cases hv
  | cons a l ih =>
    obtain ⟨ha, hl⟩ := List.nodup_cons.mp hl
    by_cases hav : a = v
    · subst hav
      refine (M.bind_ok he).trans (forM_apply fun w hw => ht w (List.mem_cons_of_mem _ hw) ?_)
      rintro rfl
      exact ha hw
    · refine (M.bind_ok (hs a List.mem_cons_self hav)).trans ?_
      exact ih hl ((List.mem_cons.mp hv).resolve_left (Ne.symm hav)) (fun w hw => hs w (List.mem_cons_of_mem _ hw))
        fun w hw => ht w (List.mem_cons_of_mem _ hw)

end

/-! ## Reads of vectors, the port among them -/

section
variable {s : State} {v : VReg} {p : Port} (hp : s.thr.ports = [(v.val, p)])
include hp

/-- Reads of registers that are not the port. -/
theorem mapM_rdV_other {l : List VReg} (hl : v ∉ l) : l.mapM rdV s = .ok (l.map s.thr.v.get) s :=
  mapM_apply fun _ hw => rdV_unported (port?_ne hp (by rintro rfl; exact hl hw))

/-- A list that holds the port's register, up to the first time. -/
theorem mapM_rdV_split {l : List VReg} (hl : v ∈ l) :
    ∃ l1 l2, l = l1 ++ v :: l2 ∧ v ∉ l1 ∧ l.mapM rdV s = (do
      let x ← rdV v
      let xs ← l2.mapM rdV
      pure (l1.map s.thr.v.get ++ x :: xs) : M (List Vec)) s := by
  obtain ⟨l1, l2, rfl, h1⟩ := List.eq_append_cons_of_mem hl
  refine ⟨l1, l2, rfl, h1, ?_⟩
  rw [List.mapM_append]
  refine (M.bind_ok (mapM_rdV_other hp h1)).trans ?_
  rw [List.mapM_cons]
  simp only [bind_assoc, pure_bind]

theorem mapM_rdV_misuse {l : List VReg} (hl : v ∈ l) (hr : p.receives = false) :
    l.mapM rdV s = .error (.trap (mkTrap 0x0D 0 2) false) s := by
  refine mapM_error hl (g := s.thr.v.get) (fun w _ hw => rdV_unported (port?_ne hp hw)) ?_
  refine (M.bind_ok (M.get_apply s)).trans ?_
  simp only [port?_self hp, hr]
  rfl

theorem mapM_oldV_misuse {l : List VReg} (hl : v ∈ l) (hr : p.receives = true) :
    l.mapM oldV s = .error (.trap (mkTrap 0x0D 0 2) false) s := by
  refine mapM_error hl (g := s.thr.v.get) (fun w _ hw => oldV_unported (port?_ne hp hw)) ?_
  refine (M.bind_ok (getThr_apply s)).trans ?_
  simp only [port?_self hp, hr]
  rfl

theorem oldV_sends (hr : p.receives = false) : oldV v s = .ok 0 s := by
  refine (M.bind_ok (getThr_apply s)).trans ?_
  simp only [port?_self hp, hr]
  rfl

variable {q : Nat} {x : Vec} {rest : List Vec} (hd : p.drawn = none) (hk : p.kind = 6 ∨ p.kind = 7)
  (hq : chainIn s.core p.kind = some q) (hc : mapGet s.chains q = some (x :: rest))
include hd hk hq hc

omit hd hk hq hc in
theorem drew_ports : (s.drew v p q x rest).thr.ports = [(v.val, { p with drawn := some x, h := 0 })] := by
  have h : ({ s with chains := mapPut s.chains q rest } : State).thr.ports = [(v.val, p)] := hp
  simp [State.drew, State.withPort, h, mapPut_single]

theorem mapM_rdV_draws {l : List VReg} (hl : v ∈ l) :
    l.mapM rdV s = .ok (l.map fun w => if w = v then x else s.thr.v.get w) (s.drew v p q x rest) := by
  obtain ⟨l1, l2, rfl, h1, e⟩ := mapM_rdV_split hp hl
  have hports := drew_ports (q := q) (x := x) (rest := rest) hp
  have h2 : l2.mapM rdV (s.drew v p q x rest) =
      .ok (l2.map fun w => if w = v then x else s.thr.v.get w) (s.drew v p q x rest) := by
    refine mapM_apply fun w _ => ?_
    by_cases hw : w = v
    · subst hw
      rw [if_pos rfl]
      exact rdV_drawn (port?_self hports) rfl hk hq
    · rw [if_neg hw]
      have hv : (s.drew v p q x rest).thr.v.get w = s.thr.v.get w := by
        rw [State.drew, State.withPort, State.thr_setThr]
        rfl
      rw [← hv]
      exact rdV_unported (port?_ne hports hw)
  rw [e]
  refine (M.bind_ok (rdV_draws hp hd hk hq hc)).trans ((M.bind_ok h2).trans ?_)
  have h1' : l1.map s.thr.v.get = l1.map fun w => if w = v then x else s.thr.v.get w :=
    List.map_congr_left fun w hw => by rw [if_neg (by rintro rfl; exact h1 hw)]
  simp [h1']

end

/-! ## The end of an instruction that pops or pushes -/

/-- A chain queue with one vector more (R184). -/
def State.pushed (s : State) (q : Nat) (x : Vec) : State :=
  { s with chains := mapPut s.chains q ((mapGet s.chains q).getD [] ++ [x]) }

section
variable {s : State} {v : VReg} {p : Port} (hp : s.thr.ports = [(v.val, p)])
include hp

theorem withPort_ports (p' : Port) : (s.withPort v p').thr.ports = [(v.val, p')] := by
  simp [State.withPort, hp, mapPut_single]

/-- The pops of an instruction, of which the port's is the only one. -/
theorem commitPops_chain {l : List VReg} (hl : v ∈ l) (hk : p.kind = 6 ∨ p.kind = 7) :
    (once l).forM commitPop s = .ok () (s.withPort v { p with h := 0, drawn := none }) := by
  refine forM_one (nodup_once l) (mem_once.mpr hl) (fun w _ hw => commitPop_unported (port?_ne hp hw)) ?_
    fun w _ hw => commitPop_unported (port?_ne (withPort_ports hp _) hw)
  have h0 : (p.kind == 0) = false := by rcases hk with h | h <;> simp [h]
  have h2 : (p.kind == 2) = false := by rcases hk with h | h <;> simp [h]
  have h67 : (p.kind == 6 || p.kind == 7) = true := by rcases hk with h | h <;> simp [h]
  refine (M.bind_ok (M.get_apply s)).trans ?_
  simp only [port?_self hp, h0, h2, h67]
  rfl

theorem prePops_chain {l : List VReg} (hk : p.kind = 6 ∨ p.kind = 7) : (once l).forM prePop s = .ok () s := by
  refine forM_apply fun w _ => ?_
  by_cases hw : w = v
  · subst hw
    have h2 : (p.kind == 2) = false := by rcases hk with h | h <;> simp [h]
    refine (M.bind_ok (getThr_apply s)).trans ?_
    simp only [port?_self hp, h2]
    rfl
  · exact prePop_unported (port?_ne hp hw)

variable (hk : p.kind = 4 ∨ p.kind = 5)
include hk

theorem prePush_chain (hl : ((mapGet s.chains (chainOut s.core p.kind)).getD []).length < 4) :
    prePush 0 v s = .ok () s := by
  have h1 : (p.kind == 1) = false := by rcases hk with h | h <;> simp [h]
  have h3 : (p.kind == 3) = false := by rcases hk with h | h <;> simp [h]
  refine (M.bind_ok (M.get_apply s)).trans ?_
  simp only [port?_self hp, sends_of_chain hk, h1, h3]
  rw [if_neg (by simp), if_neg (by simp), if_neg (by simp), if_neg (by omega)]
  rfl

theorem prePush_full (hl : ((mapGet s.chains (chainOut s.core p.kind)).getD []).length = 4) :
    prePush 0 v s = .error (.park (.drain (chainOut s.core p.kind) 1)) s := by
  have h1 : (p.kind == 1) = false := by rcases hk with h | h <;> simp [h]
  have h3 : (p.kind == 3) = false := by rcases hk with h | h <;> simp [h]
  refine (M.bind_ok (M.get_apply s)).trans ?_
  simp only [port?_self hp, sends_of_chain hk, h1, h3]
  rw [if_neg (by simp), if_neg (by simp), if_neg (by simp), if_pos (by omega)]
  rfl

theorem publish_chain {i : Instr} {x : Vec} : publish i v x s = .ok () s := by
  have h1 : (p.kind == 1) = false := by rcases hk with h | h <;> simp [h]
  have h3 : (p.kind == 3) = false := by rcases hk with h | h <;> simp [h]
  refine (M.bind_ok (M.get_apply s)).trans ?_
  simp only [port?_self hp, h1, h3]
  rfl

theorem commitWrite_chain {x : Vec} : commitWrite v x s = .ok () (s.pushed (chainOut s.core p.kind) x) := by
  have h1 : (p.kind == 1) = false := by rcases hk with h | h <;> simp [h]
  have h3 : (p.kind == 3) = false := by rcases hk with h | h <;> simp [h]
  refine (M.bind_ok (M.get_apply s)).trans ?_
  simp only [port?_self hp, h1, h3]
  rfl

end

/-- The end of an instruction that pushes one vector. -/
theorem vBody_pushes {i : Instr} {src : List VReg} {body : M VOut} {s s1 : State} {o : VOut} {v : VReg} {x : Vec}
    {p : Port}
    (hb : body s = .ok o s1) (ho : o.vs = [(v, x)]) (hp : s1.thr.ports = [(v.val, p)]) (hk : p.kind = 4 ∨ p.kind = 5)
    (hs : v ∉ src) :
    (((mapGet s1.chains (chainOut s1.core p.kind)).getD []).length < 4 → vBody i src body s =
      (do o.post; pure Next.seq : M Next) (s1.pushed (chainOut s1.core p.kind) x)) ∧
    (((mapGet s1.chains (chainOut s1.core p.kind)).getD []).length = 4 → vBody i src body s =
      .error (.park (.drain (chainOut s1.core p.kind) 1)) s1) := by
  have hsrc (w : VReg) (hw : w ∈ once src) : s1.thr.port? w = none :=
    port?_ne hp (by rintro rfl; exact hs (mem_once.mp hw))
  constructor
  · intro hl
    unfold vBody
    refine (M.bind_ok hb).trans ((M.bind_ok (getThr_apply s1)).trans ?_)
    rw [ho]
    refine (M.bind_ok (s1 := s1) (a := ()) ?_).trans ?_
    · exact M.bind_ok (prePush_chain hp hk hl)
    refine (M.bind_ok (forM_apply fun w hw => prePop_unported (hsrc w hw))).trans ?_
    refine (M.bind_ok (s1 := s1) (a := ()) ?_).trans ?_
    · exact M.bind_ok (publish_chain hp hk)
    refine (M.bind_ok (forM_apply fun w hw => commitPop_unported (hsrc w hw))).trans ?_
    exact M.bind_ok (M.bind_ok (commitWrite_chain hp hk))
  · intro hl
    unfold vBody
    refine (M.bind_ok hb).trans ((M.bind_ok (getThr_apply s1)).trans ?_)
    rw [ho]
    exact M.bind_error (M.bind_error (prePush_full hp hk hl))

end Sys2Proof.Machine
end

section
/-! SUPPORT. A vector instruction at a port does what it does at a register (R182). -/
namespace Sys2Proof.Machine

/-- The state in which the port's register holds a vector, and no port is bound. -/
def State.asRegister (s : State) (v : VReg) (x : Vec) : State := s.setThr { s.thr.putV v x with ports := [] }

section
variable (s : State) (v : VReg) (x : Vec)

@[simp] theorem State.asRegister_thr : (s.asRegister v x).thr = { s.thr.putV v x with ports := [] }
    := State.thr_setThr ..

theorem State.asRegister_port? (w : VReg) : (s.asRegister v x).thr.port? w = none := port?_nil (by simp) w

theorem State.asRegister_self : (s.asRegister v x).thr.v.get v = x := by
  rw [State.asRegister_thr]
  exact Vector.getElem_set_self v.isLt

theorem State.asRegister_ne {w : VReg} (h : w ≠ v) : (s.asRegister v x).thr.v.get w = s.thr.v.get w := by
  rw [State.asRegister_thr]
  exact Vector.getElem_set_ne v.isLt w.isLt fun e => h (Fin.ext e).symm

theorem State.asRegister_get : (s.asRegister v x).thr.v.get = fun w => if w = v then x else s.thr.v.get w := by
  funext w
  by_cases h : w = v
  · subst h
    rw [if_pos rfl, State.asRegister_self]
  · rw [if_neg h, State.asRegister_ne _ _ _ h]

theorem State.asRegister_sc (r : Sc) : (s.asRegister v x).sc r = s.sc r := by
  cases r with
  | g n => simp [State.sc, Thread.putV]
  | c n | i n | zr => rfl

theorem State.asRegister_view : (s.asRegister v x).view = s.view := by
  unfold State.view
  simp only [State.asRegister_thr]
  congr 1
  funext r
  exact State.operand_thread (by simp [Thread.putV]) r (s.asRegister_sc v x r)

theorem State.asRegister_readable {l : List Sc} (h : s.readable l = true) : (s.asRegister v x).readable l = true := by
  rw [State.readable_iff] at h ⊢
  obtain ⟨_, hl⟩ := h
  refine ⟨?_, fun r hr => ?_⟩
  · exact Option.isSome_iff_exists.mpr ⟨_, State.thread_setThr ..⟩
  · obtain ⟨hfull, hpois, hkept⟩ := hl r hr
    have hk : (s.asRegister v x).isKept r = false := by simpa [State.isKept, Thread.putV] using hkept
    cases r with
    | g n => exact ⟨by simpa [State.scFull, Thread.putV] using hfull,
      by simpa [State.scPois, Thread.putV] using hpois, hk⟩
    | c n | i n | zr => exact ⟨hfull, hpois, hk⟩

theorem State.asRegister_full (w : VReg) :
    (s.asRegister v x).vFullAt w = (decide (w = v) || s.thr.vFull.getLsbD w.val) := by
  unfold State.vFullAt
  rw [s.asRegister_port? v x w, State.asRegister_thr]
  by_cases h : w = v
  · subst h
    simp only [decide_true, Bool.true_or]
    exact getLsbD_setBit_self _ w.isLt
  · simp only [h, decide_false, Bool.false_or]
    exact getLsbD_setBit_ne _ fun e => h (Fin.ext e).symm

theorem State.asRegister_poison (w : VReg) :
    (s.asRegister v x).thr.vPoison.getLsbD w.val = (!decide (w = v) && s.thr.vPoison.getLsbD w.val) := by
  rw [State.asRegister_thr]
  by_cases h : w = v
  · subst h
    simp only [decide_true, Bool.not_true, Bool.false_and]
    exact getLsbD_clrBit_self _ _
  · simp only [h, decide_false, Bool.not_false, Bool.true_and]
    exact getLsbD_clrBit_ne _ fun e => h (Fin.ext e).symm

end

/-! ## The checks pass, at the port and at the register -/

/-- What the statement of the ports asks of a state: every register that the instruction names can be read, but for the
one that is bound to the port. -/
structure PortReady (s : State) (n : VNames) (v : VReg) (p : Port) : Prop where
  readable : s.readable n.rd = true
  dest : ∀ d, n.sd = some d → Sc.isI d = false
  allotted : ∀ u ∈ n.src ++ n.dst, u.val < s.thr.alot
  full : ∀ u ∈ n.full, u ≠ v → s.thr.vFull.getLsbD u.val = true ∧ s.thr.vPoison.getLsbD u.val = false
  masks : s.kreadable n.masks = true
  ports : s.thr.ports = [(v.val, p)]

section
variable {s : State} {n : VNames} {v : VReg} {p : Port} {u : Uses} (h : PortReady s n v p) (hf : FitsNames u n)
include h hf

theorem PortReady.masksGood : ∀ k ∈ u.krd, s.thr.maskBad k = false := by
  intro k hk
  by_cases h0 : k = 0
  · subst h0
    rfl
  · exact State.kreadable_iff.mp h.masks k ((hf.krd k h0).mp hk)

theorem PortReady.checks (hv : v ∈ n.full → s.vFullAt v = true) : checkUses u s = none := by
  refine checkUses_passes (scalarsPass hf h.readable h.dest) (fun w hw => h.allotted w ((hf.vs w).mp hw))
    (fun w hw => ?_)
    (fun w hw hn => ?_) (h.masksGood hf)
  · have hw := (hf.vrd w).mp hw
    by_cases e : w = v
    · subst e
      exact hv hw
    · unfold State.vFullAt
      rw [port?_ne h.ports e]
      exact (h.full w hw e).1
  · have e : w ≠ v := by
      rintro rfl
      simp [port?_self h.ports] at hn
    exact (h.full w ((hf.vrd w).mp hw) e).2

theorem PortReady.checks_asRegister (x : Vec) : checkUses u (s.asRegister v x) = none := by
  refine checkUses_passes (scalarsPass hf (State.asRegister_readable s v x h.readable) h.dest) (fun w hw => ?_)
    (fun w hw => ?_) (fun w hw _ => ?_) (fun k hk => ?_)
  · rw [State.asRegister_thr]
    exact h.allotted w ((hf.vs w).mp hw)
  · rw [State.asRegister_full]
    by_cases e : w = v
    · simp [e]
    · simp [(h.full w ((hf.vrd w).mp hw) e).1]
  · rw [State.asRegister_poison]
    by_cases e : w = v
    · simp [e]
    · rw [(h.full w ((hf.vrd w).mp hw) e).2, Bool.and_false]
  · rw [State.asRegister_thr]
    exact h.masksGood hf k hk

end

/-! ## The instruction at the register -/

/-- A fault that keeps what the instruction has done, where no vector was drawn. -/
theorem run_kept {i : Instr} {u : Uses} {body : M Next} {s s1 : State} {tr : Trap}
    (ht : (s.thread? s.cur).isSome = true)
    (hu : checkUses u s = none) (hb : body s = .error (.trap tr true) s1) (hp : s1.thr.ports = s.thr.ports) :
    run i u body s = .next (s1.takeTrap s.cur (some (.instr i)) tr) := by
  obtain ⟨x, ht⟩ := Option.isSome_iff_exists.mp ht
  simp [run, ht, hu, hb, State.undrawSince, hp]

section
variable {s : State} {i : Instr} {n : VNames} {v : VReg} {p : Port} {u : Uses} {src reads : List VReg}
  {res : View → List Vec → List Vec → VRes} (hi : i.cls = .vec) (h : PortReady s n v p)
  (hf : Formed i n u src reads res)
include hi h hf

/-- Where it completes, no raised flag is enabled, and it has written its results. -/
theorem PortReady.completes_asRegister {x : Vec} {t : State} (ht : exec i (s.asRegister v x) = .next t)
    (hc : Completed i s t) :
    (s.asRegister v x).quiet ((s.asRegister v x).results reads n.dst res).fl ∧
      t = ((s.asRegister v x).after n.dst ((s.asRegister v x).results reads n.dst res)).goesOn i := by
  have hthread := State.readable_thread (State.asRegister_readable s v x h.readable)
  have hchecks := h.checks_asRegister hf.fits x
  have hport := s.asRegister_port? v x
  rw [hf.shape.eq] at ht
  by_cases hq : (s.asRegister v x).quiet ((s.asRegister v x).results reads n.dst res).fl
  · refine ⟨hq, ?_⟩
    have e := vBody_quiet (i := i) (src := src) (fun w _ => hport w) (fun w _ => hport w) (fun w _ => hport w) hq
    rw [run_ok hthread hchecks e] at ht
    exact (Host.Outcome.next.inj ht).symm
  · obtain ⟨fl, hfl, he⟩ : ∃ fl, ((s.asRegister v x).results reads n.dst res).fl = some fl ∧
        enabledFlags (s.asRegister v x).thr.fcsr fl ≠ 0 := by
      simpa [State.quiet] using hq
    have e := vBody_enabled (i := i) (src := src) (fun w _ => hport w) (fun w _ => hport w) hfl he
    rw [run_kept hthread hchecks e (by simp [State.withFlags])] at ht
    have ht := Host.Outcome.next.inj ht
    subst ht
    refine absurd hc (takeTrap_not_completed (by simp [hi]) ?_ ?_ ?_)
    · rfl
    · simp [State.withFlags, Thread.putV]
    · simp [State.withFlags, Thread.putV]

end

/-! ## What the instruction does at the port is what it does at the register -/

/-- Two states that agree in what a statement of the ports speaks of: the registers of the thread but for the vector
register `v`, its flags, and the cores. -/
structure Alike (v : VReg) (a b : State) : Prop where
  cur : b.cur = a.cur
  cycle : b.cycle = a.cycle
  cores : b.cores = a.cores
  g : b.thr.g = a.thr.g
  k : b.thr.k = a.thr.k
  fcsr : b.thr.fcsr = a.thr.fcsr
  v : ∀ w, w ≠ v → b.thr.v.get w = a.thr.v.get w

namespace Alike

variable {v : VReg} {a b : State}

theorem flagged (h : Alike v a b) (fl : Option Nat) : Alike v (a.flagged fl) (b.flagged fl) := by
  cases fl with
  | none => exact h
  | some fl =>
    constructor
    · exact h.cur
    · exact h.cycle
    · exact h.cores
    · simpa [State.flagged, State.withFlags] using h.g
    · simpa [State.flagged, State.withFlags] using h.k
    · simp [State.flagged, State.withFlags, h.fcsr]
    · simpa [State.flagged, State.withFlags] using h.v

theorem putV (h : Alike v a b) (w : VReg) (x : Vec) : Alike v (a.setThr (a.thr.putV w x)) (b.setThr (b.thr.putV w x))
    := by
  constructor
  · exact h.cur
  · exact h.cycle
  · exact h.cores
  · simpa [Thread.putV] using h.g
  · simpa [Thread.putV] using h.k
  · simpa [Thread.putV] using h.fcsr
  · intro u hu
    simp only [State.thr_setThr]
    by_cases e : u = w
    · subst e
      exact (Vector.getElem_set_self u.isLt).trans (Vector.getElem_set_self u.isLt).symm
    · have hne : w.val ≠ u.val := fun he => e (Fin.ext he).symm
      exact (Vector.getElem_set_ne w.isLt u.isLt hne).trans ((h.v u hu).trans
        (Vector.getElem_set_ne w.isLt u.isLt hne).symm)

theorem commit (h : Alike v a b) (l : List (VReg × Vec)) : Alike v (a.commit l) (b.commit l) := by
  induction l generalizing a b with
  | nil => exact h
  | cons e l ih => exact ih (h.putV e.1 e.2)

theorem post (h : Alike v a b) (p : VPost) : Alike v (p.on a) (p.on b) := by
  have hcore : b.core = a.core := by rw [State.core, State.core, h.cur]
  cases p with
  | none => exact h
  | mask d x =>
    constructor
    · exact h.cur
    · exact h.cycle
    · exact h.cores
    · simpa [VPost.on] using h.g
    · simp only [VPost.on, State.thr_setThr, Thread.putK]
      split
      · exact h.k
      · simp [h.k]
    · simpa [VPost.on] using h.fcsr
    · simpa [VPost.on] using h.v
  | sc d y =>
    cases d with
    | i n | zr => exact h
    | g n =>
      constructor
      · exact h.cur
      · exact h.cycle
      · exact h.cores
      · simp [VPost.on, State.putSc, Thread.putG, h.g]
      · simpa [VPost.on, State.putSc, Thread.putG] using h.k
      · simpa [VPost.on, State.putSc, Thread.putG] using h.fcsr
      · simpa [VPost.on, State.putSc, Thread.putG] using h.v
    | c n =>
      refine ⟨h.cur, h.cycle, ?_, h.g, h.k, h.fcsr, h.v⟩
      simp [VPost.on, State.putSc, State.putC, State.changeC, hcore, h.cycle, h.cores, State.coreAt]

theorem goesOn (h : Alike v a b) (i : Instr) : Alike v (a.goesOn i) (b.goesOn i) := by
  constructor
  · simpa using h.cur
  · simpa using h.cycle
  · simpa [State.goesOn_eq] using h.cores
  · simpa [Thread.retire] using h.g
  · simpa [Thread.retire] using h.k
  · simpa [Thread.retire] using h.fcsr
  · simpa [Thread.retire] using h.v

/-- A change of the ports alone. -/
theorem withPort (h : Alike v a b) (w : VReg) (p : Port) : Alike v a (b.withPort w p) := by
  constructor
  · exact h.cur
  · exact h.cycle
  · exact h.cores
  · simpa [State.withPort] using h.g
  · simpa [State.withPort] using h.k
  · simpa [State.withPort] using h.fcsr
  · simpa [State.withPort] using h.v

end Alike

/-! ## What the steps after the lanes leave -/

section
variable (s : State)

@[simp] theorem State.flagged_chains (fl : Option Nat) : (s.flagged fl).chains = s.chains := by cases fl <;> rfl
@[simp] theorem State.flagged_cur (fl : Option Nat) : (s.flagged fl).cur = s.cur := by cases fl <;> rfl
@[simp] theorem State.flagged_v (fl : Option Nat) : (s.flagged fl).thr.v = s.thr.v := by
  cases fl <;> simp [State.flagged, State.withFlags]
@[simp] theorem State.flagged_pc (fl : Option Nat) : (s.flagged fl).thr.pc = s.thr.pc := by
  cases fl <;> simp [State.flagged, State.withFlags]
@[simp] theorem State.flagged_trapent (fl : Option Nat) : (s.flagged fl).thr.trapent = s.thr.trapent := by
  cases fl <;> simp [State.flagged, State.withFlags]
theorem State.flagged_fcsr (fl : Option Nat) (t : State) (h : t.thr.fcsr = s.thr.fcsr) :
    (t.flagged fl).thr.fcsr = (s.flagged fl).thr.fcsr := by
  cases fl <;> simp [State.flagged, State.withFlags, h]

@[simp] theorem State.post_chains (p : VPost) : (p.on s).chains = s.chains := by
  cases p with
  | none | mask d x => rfl
  | sc d v => cases d <;> rfl
@[simp] theorem State.post_cur (p : VPost) : (p.on s).cur = s.cur := by
  cases p with
  | none | mask d x => rfl
  | sc d v => cases d <;> rfl
@[simp] theorem State.post_v (p : VPost) : (p.on s).thr.v = s.thr.v := by
  cases p with
  | none => rfl
  | mask d x => simp [VPost.on]
  | sc d v => cases d <;> simp [VPost.on, State.putSc_thr, Thread.putG]
@[simp] theorem State.post_fcsr (p : VPost) : (p.on s).thr.fcsr = s.thr.fcsr := by
  cases p with
  | none => rfl
  | mask d x => simp [VPost.on]
  | sc d v => simp [VPost.on]
@[simp] theorem State.post_pc (p : VPost) : (p.on s).thr.pc = s.thr.pc := by
  cases p with
  | none => rfl
  | mask d x => simp [VPost.on]
  | sc d v => simp [VPost.on]
@[simp] theorem State.post_trapent (p : VPost) : (p.on s).thr.trapent = s.thr.trapent := by
  cases p with
  | none => rfl
  | mask d x => simp [VPost.on]
  | sc d v => simp [VPost.on]

variable (l : List (VReg × Vec))

@[simp] theorem State.commit_chains : (s.commit l).chains = s.chains :=
  List.foldlRecOn (motive := fun u : State => u.chains = s.chains) l _ rfl fun _ hu _ _ => hu
@[simp] theorem State.commit_cur : (s.commit l).cur = s.cur :=
  List.foldlRecOn (motive := fun u : State => u.cur = s.cur) l _ rfl fun _ hu _ _ => hu
@[simp] theorem State.commit_pc : (s.commit l).thr.pc = s.thr.pc :=
  List.foldlRecOn (motive := fun u : State => u.thr.pc = s.thr.pc) l _ rfl fun _ hu _ _ =>
    by simpa [Thread.putV] using hu
@[simp] theorem State.commit_fcsr : (s.commit l).thr.fcsr = s.thr.fcsr :=
  List.foldlRecOn (motive := fun u : State => u.thr.fcsr = s.thr.fcsr) l _ rfl
    fun _ hu _ _ => by simpa [Thread.putV] using hu
@[simp] theorem State.commit_trapent : (s.commit l).thr.trapent = s.thr.trapent :=
  List.foldlRecOn (motive := fun u : State => u.thr.trapent = s.thr.trapent) l _ rfl
    fun _ hu _ _ => by simpa [Thread.putV] using hu
theorem State.commit_v {v : VReg} (hv : ∀ e ∈ l, e.1 ≠ v) : (s.commit l).thr.v.get v = s.thr.v.get v :=
  List.foldlRecOn (motive := fun u : State => u.thr.v.get v = s.thr.v.get v) l _ rfl fun _ hu e he => by
    rw [State.thr_setThr]
    exact (Vector.getElem_set_ne e.1.isLt v.isLt fun h => hv e he (Fin.ext h)).trans hu

end

theorem State.commit_self (s : State) (v : VReg) (x : Vec) : (s.commit [(v, x)]).thr.v.get v = x := by
  simp only [State.commit, List.foldl_cons, List.foldl_nil, State.thr_setThr]
  exact Vector.getElem_set_self v.isLt

/-- Where no port holds a drawn vector, none goes back. -/
theorem State.undraw_none {s : State} (h : ∀ e ∈ s.thr.ports, e.2.drawn = none) : s.undraw = s := by
  have hfind (k j : Nat) : s.thr.ports.find? (fun x => x.2.kind == k && x.2.h == j && x.2.drawn.isSome) = none :=
    List.find?_eq_none.mpr fun e he => by simp [h e he]
  refine List.foldlRecOn (motive := fun u : State => u = s) _ _ rfl fun u hu e _ => ?_
  subst hu
  dsimp only
  rw [hfind]

/-! ## A vector drawn from its queue -/

section
variable (s : State) {v : VReg} {p : Port} {q : Nat} {x : Vec} {rest : List Vec}

@[simp] theorem State.drew_cur : (s.drew v p q x rest).cur = s.cur := rfl
@[simp] theorem State.drew_chains : (s.drew v p q x rest).chains = mapPut s.chains q rest := rfl
@[simp] theorem State.withPort_cur : (s.withPort v p).cur = s.cur := rfl
@[simp] theorem State.withPort_chains : (s.withPort v p).chains = s.chains := rfl
@[simp] theorem State.withPort_thr : (s.withPort v p).thr = { s.thr with ports := mapPut s.thr.ports v.val p } :=
  State.thr_setThr ..
@[simp] theorem State.pushed_cur : (s.pushed q x).cur = s.cur := rfl
@[simp] theorem State.pushed_thr : (s.pushed q x).thr = s.thr := rfl
@[simp] theorem State.pushed_chains :
    (s.pushed q x).chains = mapPut s.chains q ((mapGet s.chains q).getD [] ++ [x]) := rfl

@[simp] theorem State.drew_thr : (s.drew v p q x rest).thr =
    { s.thr with ports := mapPut s.thr.ports v.val { p with drawn := some x, h := 0 } } := by
  rw [State.drew, State.withPort, State.thr_setThr]
  rfl

theorem State.drew_view : (s.drew v p q x rest).view = s.view := by
  unfold State.view
  simp only [State.drew_thr]
  congr 1
  funext r
  refine State.operand_thread (by simp [State.drew_thr]) r ?_
  cases r with
  | g n => simp [State.sc, State.drew_thr]
  | c n | i n | zr => rfl

theorem State.alike_drew : Alike v (s.asRegister v x) (s.drew v p q x rest) := by
  constructor
  · rfl
  · rfl
  · rfl
  · simp [State.drew_thr, Thread.putV]
  · simp [State.drew_thr, Thread.putV]
  · simp [State.drew_thr, Thread.putV]
  · intro w hw
    rw [State.asRegister_ne _ _ _ hw, State.drew_thr]

/-- The queue of a receiving port holds a vector. -/
theorem State.vFullAt_queue (hp : s.thr.ports = [(v.val, p)]) (hk : p.kind = 6 ∨ p.kind = 7)
    (hq : chainIn s.core p.kind = some q) (hc : (mapGet s.chains q).getD [] ≠ []) : s.vFullAt v = true := by
  have h67 : (p.kind == 6 || p.kind == 7) = true := by rcases hk with h | h <;> simp [h]
  simp [State.vFullAt, port?_self hp, h67, hq, List.isEmpty_eq_false_iff.mpr hc]

/-- The queue of a receiving port holds none. -/
theorem State.vFullAt_drained (hp : s.thr.ports = [(v.val, p)]) (hd : p.drawn = none) (hk : p.kind = 6 ∨ p.kind = 7)
    (hq : chainIn s.core p.kind = some q) (hc : (mapGet s.chains q).getD [] = []) : s.vFullAt v = false := by
  have h67 : (p.kind == 6 || p.kind == 7) = true := by rcases hk with h | h <;> simp [h]
  simp [State.vFullAt, port?_self hp, h67, hq, hd, hc]

/-- A port of another kind counts as full. -/
theorem State.vFullAt_other (hp : s.thr.ports = [(v.val, p)]) (hk : ¬(p.kind = 6 ∨ p.kind = 7))
    : s.vFullAt v = true := by
  simp only [not_or] at hk
  simp [State.vFullAt, port?_self hp, hk]

end

/-! ## The four ends at a port -/

section
variable {s : State} {i : Instr} {n : VNames} {v : VReg} {p : Port} {u : Uses} {src reads : List VReg}
  {res : View → List Vec → List Vec → VRes} (h : PortReady s n v p) (hf : Formed i n u src reads res)
include h hf

/-- A read of a sending port, and a write of a receiving one (R182). -/
theorem PortReady.misuses (hv : v ∈ n.full → s.vFullAt v = true)
    (hm : (v ∈ n.src ∧ p.receives = false) ∨ (v ∉ n.src ∧ v ∈ n.dst ∧ p.receives = true)) :
    exec i s = .next (s.trapped i 0x0D 0 2) := by
  have herr : vOp reads n.dst res s = .error (.trap (mkTrap 0x0D 0 2) false) s := by
    rcases hm with ⟨hs, hr⟩ | ⟨hs, hd, hr⟩
    · exact M.bind_error (mapM_rdV_misuse h.ports ((hf.reads v).mpr hs) hr)
    · refine (M.bind_ok (mapM_rdV_other h.ports fun e => hs ((hf.reads v).mp e))).trans ?_
      exact (M.bind_ok (M.get_apply s)).trans (M.bind_error (mapM_oldV_misuse h.ports hd hr))
  rw [hf.shape.eq]
  exact run_trap (State.readable_thread h.readable) (h.checks hf.fits hv) (vBody_error herr)

/-- At a receiving port the instruction does what it does with the oldest vector in the register, and takes that vector
from the queue (R182). -/
theorem PortReady.pops (hi : i.cls = .vec) (hsrc : v ∈ n.src) (hdst : v ∉ n.dst) (hdrawn : p.drawn = none) {q : Nat}
    {x : Vec}
    {rest : List Vec} (hk : p.kind = 6 ∨ p.kind = 7) (hq : chainIn s.core p.kind = some q)
    (hc : mapGet s.chains q = some (x :: rest)) {t : State} (ht : exec i (s.asRegister v x) = .next t)
    (hct : Completed i s t) :
    ∃ u', exec i s = .next u' ∧ Completed i s u' ∧ mapGet u'.chains q = some rest ∧ u'.thr.v.get v = s.thr.v.get v ∧
      Alike v t u' := by
  obtain ⟨hquiet, rfl⟩ := h.completes_asRegister hi hf ht hct
  generalize hr : (s.asRegister v x).results reads n.dst res = r at *
  have hports := drew_ports (q := q) (x := x) (rest := rest) h.ports
  have halike : Alike v (s.asRegister v x) (s.drew v p q x rest) := s.alike_drew
  have hne {w : VReg} (hw : w ∈ n.dst) : w ≠ v := by
    rintro rfl
    exact hdst hw
  have holds : n.dst.mapM oldV (s.drew v p q x rest) = .ok (n.dst.map (s.asRegister v x).thr.v.get)
    (s.drew v p q x rest) := by
    refine mapM_apply fun w hw => ?_
    rw [← halike.v w (hne hw)]
    exact oldV_unported (port?_ne hports (hne hw))
  have hreads := mapM_rdV_draws h.ports hdrawn hk hq hc ((hf.reads v).mpr hsrc)
  rw [← State.asRegister_get] at hreads
  have hres : res (s.drew v p q x rest).view (reads.map (s.asRegister v x).thr.v.get)
      (n.dst.map (s.asRegister v x).thr.v.get) = r := by
    rw [State.drew_view, ← State.asRegister_view s v x]
    exact hr
  obtain ⟨hok, _⟩ := vOp_of_reads (res := res) hreads holds
  rw [hres] at hok
  have hq' : (s.drew v p q x rest).quiet r.fl := fun fl e => by
    rw [halike.fcsr]
    exact hquiet fl e
  have hfp := (State.flagged_ports (s.drew v p q x rest) r.fl).trans hports
  have hbody := vBody_pops (i := i) (src := src) (hok hq')
    (fun e he => port?_ne hfp (hne (List.of_mem_zip he).1)) (prePops_chain hfp hk)
    (commitPops_chain hfp ((hf.src v).mpr hsrc) hk)
    (fun e he => port?_ne (withPort_ports hfp _) (hne (List.of_mem_zip he).1))
  have hbody := hbody.trans (M.bind_ok (VPost.act_apply _ _))
  have hchecks := h.checks hf.fits fun _ => s.vFullAt_queue h.ports hk hq (by simp [hc])
  have hex : exec i s = .next (State.goesOn _ i) :=
    (hf.shape.eq s).trans (run_ok (State.readable_thread h.readable) hchecks hbody)
  refine ⟨_, hex, Completed.of_goesOn ?_ ?_ ?_, ?_, ?_,
    ((((halike.flagged _).withPort _ _).commit _).post _).goesOn _⟩
  · simp
  · simp
  · simp
  · simp [State.goesOn_eq]
  · simp only [State.goesOn_thr, Thread.retire, State.post_v]
    rw [State.commit_v _ _ fun e he => hne (List.of_mem_zip he).1]
    simp

/-- At a sending port the instruction pushes what it would write into the register, which stays (R182). -/
theorem PortReady.pushes (hi : i.cls = .vec) (hsrc : v ∉ n.src) (hdst : n.dst = [v]) (hdrawn : p.drawn = none)
    (hk : p.kind = 4 ∨ p.kind = 5) {t : State} (ht : exec i (s.asRegister v 0) = .next t) (hct : Completed i s t) :
    (((mapGet s.chains (chainOut s.core p.kind)).getD []).length < 4 →
      ∃ u', exec i s = .next u' ∧ Completed i s u' ∧ u'.thr.v = s.thr.v ∧
        mapGet u'.chains (chainOut s.core p.kind) =
          some ((mapGet s.chains (chainOut s.core p.kind)).getD [] ++ [t.thr.v.get v]) ∧ u'.thr.fcsr = t.thr.fcsr) ∧
    (((mapGet s.chains (chainOut s.core p.kind)).getD []).length = 4 →
      ∃ u', exec i s = .next u' ∧ u'.thr.park = some (.drain (chainOut s.core p.kind) 1) ∧ u'.thr.pc = s.thr.pc ∧
        mapGet u'.chains (chainOut s.core p.kind) = mapGet s.chains (chainOut s.core p.kind)) := by
  obtain ⟨hquiet, rfl⟩ := h.completes_asRegister hi hf ht hct
  have hone : ((s.asRegister v 0).results reads n.dst res).outs.length = 1 := by
    exact (hf.res _ _ _).outs.trans (by rw [hdst]; rfl)
  generalize hr : (s.asRegister v 0).results reads n.dst res = r at *
  obtain ⟨y, hy⟩ := List.length_eq_one_iff.mp hone
  have hreads : reads.mapM rdV s = .ok (reads.map (s.asRegister v 0).thr.v.get) s := by
    refine mapM_apply fun w hw => ?_
    have hw : w ≠ v := by
      rintro rfl
      exact hsrc ((hf.reads w).mp hw)
    rw [State.asRegister_ne _ _ _ hw]
    exact rdV_unported (port?_ne h.ports hw)
  have holds : n.dst.mapM oldV s = .ok (n.dst.map (s.asRegister v 0).thr.v.get) s := by
    refine mapM_apply fun w hw => ?_
    rw [hdst, List.mem_singleton] at hw
    subst hw
    rw [State.asRegister_self]
    exact oldV_sends h.ports (sends_of_chain hk)
  obtain ⟨hok, _⟩ := vOp_of_reads (res := res) hreads holds
  have hres : res s.view (reads.map (s.asRegister v 0).thr.v.get) (n.dst.map (s.asRegister v 0).thr.v.get) = r := by
    rw [← State.asRegister_view s v 0]
    exact hr
  rw [hres] at hok
  have hfcsr : (s.asRegister v 0).thr.fcsr = s.thr.fcsr := by simp [Thread.putV]
  have hq' : s.quiet r.fl := fun fl e => by
    rw [← hfcsr]
    exact hquiet fl e
  have hvs : n.dst.zip r.outs = [(v, y)] := by rw [hdst, hy]; rfl
  have hchecks := h.checks hf.fits fun _ => s.vFullAt_other h.ports (by omega)
  obtain ⟨hroom, hfull⟩ := vBody_pushes (i := i) (src := src) (hok hq') hvs ((State.flagged_ports ..).trans h.ports) hk
    (mt (hf.src v).mp hsrc)
  have hthread := State.readable_thread h.readable
  have hcore : (s.flagged r.fl).core = s.core := by simp [State.core]
  rw [State.flagged_chains, hcore] at hroom hfull
  constructor
  · intro hl
    have hex : exec i s = .next (State.goesOn _ i) :=
      (hf.shape.eq s).trans (run_ok hthread hchecks ((hroom hl).trans (M.bind_ok (VPost.act_apply _ _))))
    refine ⟨_, hex, Completed.of_goesOn ?_ ?_ ?_, ?_, ?_, ?_⟩
    · simp
    · simp
    · simp
    · simp
    · simp only [State.goesOn_thr, Thread.retire, State.after, State.post_v, hvs, State.commit_self]
      simp [State.goesOn_eq]
    · simpa [State.after] using (s.flagged_fcsr r.fl _ hfcsr).symm
  · intro hl
    have hex := (hf.shape.eq s).trans (run_park hthread hchecks (hfull hl))
    refine ⟨_, hex, State.parkBegun_park .., ?_, ?_⟩
    · simp
    · have hports : ((s.flagged r.fl).parkHere i (.drain (chainOut s.core p.kind) 1)).thr.ports = [(v.val, p)] := by
        simp [State.parkHere, h.ports]
      rw [State.parkBegun, State.undraw_none fun e he => by simp_all]
      exact congrArg (mapGet · _) (State.flagged_chains ..)

end

/-! ## The statement -/

/-- An instruction of the class that names the port as a source alone, or as a destination alone, is no `VINS`, which
reads the register it writes: it has the shared shape. -/
theorem form_of_port {i : Instr} {n : VNames} (hi : i.cls = .vec) (hn : i.vnames = some n) {v : VReg}
    (hv : ¬(v ∈ n.src ↔ v ∈ n.dst)) : HasForm i n := by
  rcases form_or_other hn with hf | ⟨t, d, a, b, rfl⟩ | hm
  · exact hf
  · cases hn
    exact absurd Iff.rfl hv
  · simp [hi] at hm

theorem Alike.cWrites {v : VReg} {a b : State} (h : Alike v a b) (c : Nat) : (b.coreAt c).cWrites =
    (a.coreAt c).cWrites := by
  rw [State.coreAt, State.coreAt, h.cores]

theorem VNames.not_full_of_dst {n : VNames} {v : VReg} (hs : v ∉ n.src) (hk : n.k = 0) : v ∉ n.full := by
  simp [VNames.full, hs, hk]

/-- Settles O22: at a port the instruction draws, waits, pushes or faults; and the checks of the registers it names. -/
theorem vectorRegisters : Obligations.VectorRegisters := by
  unfold Obligations.VectorRegisters
  refine ⟨?_, ?_⟩
  · intro s i n v p hi hn hr hd ha hfull hm hports hdrawn
    have h : PortReady s n v p := ⟨hr, hd, ha, hfull, hm, hports⟩
    refine ⟨fun hsrc hdst => ?_, fun hdst hsrc => ?_⟩
    · obtain ⟨u, src, reads, res, hf⟩ := form_of_port hi hn (v := v) (by simp [hsrc, hdst])
      have hvfull : v ∈ n.full := List.mem_append_left _ hsrc
      refine ⟨fun q x rest hk hq hc t ht hct => ?_, fun q hk hq hc => ?_, fun hrec => ?_⟩
      · obtain ⟨u', hu, hcu, hqu, hvu, hal⟩ := h.pops hf hi hsrc hdst hdrawn hk hq hc ht hct
        exact ⟨u', hu, hcu, hqu, hal.v, hvu, hal.k, hal.g, hal.fcsr, hal.cWrites _⟩
      · exact exec_empty hn hr hd ha hvfull (s.vFullAt_drained hports hdrawn hk hq hc)
      · refine h.misuses hf (fun _ => s.vFullAt_other hports ?_) (.inl ⟨hsrc, hrec⟩)
        rintro (hk | hk) <;> simp [Port.receives, hk] at hrec
    · obtain ⟨u, src, reads, res, hf⟩ := form_of_port hi hn (v := v) (by simp [hsrc, hdst])
      refine ⟨fun hrec hk => h.misuses hf (fun hv => ?_) (.inr ⟨hsrc, hdst, hrec⟩), fun hone hk t ht hct => ?_⟩
      · rcases hk with hk | hk
        · exact absurd hv (VNames.not_full_of_dst hsrc hk)
        · exact s.vFullAt_other hports (by omega)
      · exact h.pushes hf hi hsrc hone hdrawn hk ht hct
  · intro s i n hn hr hd hports
    have hfullAt (v : VReg) : s.vFullAt v = s.thr.vFull.getLsbD v.val := by
      rw [State.vFullAt, port?_nil hports]
    refine ⟨exec_pastAllotment hn hr hd, fun ha => ⟨fun v hv he => ?_, fun he => ⟨?_, fun hb hm => ?_⟩⟩⟩
    · exact exec_empty hn hr hd ha hv ((hfullAt v).trans he)
    · rintro ⟨v, hv, hb⟩
      exact exec_poisonedVector hn hr hd ha (fun w hw => (hfullAt w).trans (he w hw)) hv hb (port?_nil hports v)
    · exact exec_poisonedMask hn hr hd ha (fun w hw => (hfullAt w).trans (he w hw)) (fun w hw _ => hb w hw) hm

end Sys2Proof.Machine
end

section
/-! SUPPORT. Vector conversions, comparisons and selections on registers that can be read (R341, R349). -/
namespace Sys2Proof.Machine

/-! ## The lanes of a packed vector -/

/-- A digit of a number whose digits are `f j`, `f (j + 1)`, … -/
theorem packN_digit (w : Nat) (f : Nat → Nat) (n s j : Nat) :
    packN w f n s / 2 ^ (w * j) % 2 ^ w = if j < n then f (s + j) % 2 ^ w else 0 := by
  induction n generalizing s j with
  | zero => simp [packN]
  | succ n ih =>
    unfold packN
    cases j with
    | zero => simp
    | succ j =>
      have h : (f s % 2 ^ w + 2 ^ w * packN w f n (s + 1)) / 2 ^ w = packN w f n (s + 1) := by
        rw [Nat.add_mul_div_left _ _ (Nat.two_pow_pos w), Nat.div_eq_of_lt (Nat.mod_lt _ (Nat.two_pow_pos w)),
          Nat.zero_add]
      rw [Nat.mul_succ, Nat.add_comm (w * j), Nat.pow_add, ← Nat.div_div_eq_div_mul, h, ih]
      simp [Nat.add_assoc, Nat.add_comm 1]

theorem packN_lt (w : Nat) (f : Nat → Nat) (n s : Nat) : packN w f n s < 2 ^ (w * n) := by
  induction n generalizing s with
  | zero => simp [packN]
  | succ n ih =>
    have h1 := ih (s + 1)
    have h2 := Nat.mod_lt (f s) (Nat.two_pow_pos w)
    calc packN w f (n + 1) s < 2 ^ w + 2 ^ w * packN w f n (s + 1) := Nat.add_lt_add_right h2 _
      _ = 2 ^ w * (packN w f n (s + 1) + 1) := by rw [Nat.mul_succ, Nat.add_comm]
      _ ≤ 2 ^ w * 2 ^ (w * n) := Nat.mul_le_mul_left _ h1
      _ = 2 ^ (w * (n + 1)) := by rw [← Nat.pow_add, Nat.mul_succ, Nat.add_comm]

theorem bits_mul_lanes (t : ETy) : t.bits * t.lanes = 2048 := by cases t <;> rfl

theorem lane_pack {t : ETy} {f : Nat → Nat} {j : Nat} (h : j < t.lanes) : lane t.bits (pack t f)
    j = f j % 2 ^ t.bits := by
  have hlt := packN_lt t.bits f t.lanes 0
  rw [bits_mul_lanes] at hlt
  rw [lane, pack, BitVec.toNat_ofNat, Nat.mod_eq_of_lt hlt, Nat.shiftRight_eq_div_pow, packN_digit, if_pos h,
    Nat.zero_add]

theorem lane_lt (w : Nat) (x : Vec) (j : Nat) : lane w x j < 2 ^ w := Nat.mod_lt _ (Nat.two_pow_pos w)

theorem lane_merge {t : ETy} {m : Mask} {old : Vec} {f : Nat → Nat} {j : Nat} (h : j < t.lanes) :
    lane t.bits (merge t m old f) j = if m.getLsbD j then f j % 2 ^ t.bits else lane t.bits old j := by
  rw [merge, lane_pack h]
  split
  · rfl
  · exact Nat.mod_eq_of_lt (lane_lt ..)

theorem getLsbD_packMask {f : Nat → Bool} {l j : Nat} (hl : l ≤ 256) :
    (packMask f l).getLsbD j = (decide (j < l) && f j) := by
  have hlt := Nat.lt_of_lt_of_le (packN_lt 1 (fun j => if f j then 1 else 0) l 0)
    (Nat.pow_le_pow_right (by decide) (show 1 * l ≤ 256 by omega))
  rw [packMask, BitVec.getLsbD, BitVec.toNat_ofNat, Nat.mod_eq_of_lt hlt, Nat.testBit_eq_decide_div_mod_eq]
  have hd := packN_digit 1 (fun j => if f j then 1 else 0) l 0 j
  simp only [Nat.one_mul, Nat.pow_one, Nat.zero_add] at hd
  rw [hd]
  by_cases hj : j < l <;> cases f j <;> simp [hj]

/-- The second source, lane by lane (R337). -/
theorem lane_srcVec {s : State} {t : ETy} {b : VSrc} (hb : b.fits t = true) (x : Vec) {j : Nat} (h : j < t.lanes) :
    lane t.bits (srcVec t 1 (x :: (vsrcRegs b).map s.thr.v.get) b) j = s.vsrc t b j := by
  cases b with
  | reg v => rfl
  | imm y =>
    have hb : y.toNat < 2 ^ t.bits := by simpa [VSrc.fits] using hb
    exact (lane_pack h).trans (Nat.mod_eq_of_lt hb)

/-! ## An instruction whose registers can be read -/

/-- Every register that the instruction names can be read, and none is a port. -/
structure Readied (s : State) (n : VNames) : Prop where
  readable : s.readable n.rd = true
  dest : ∀ d, n.sd = some d → Sc.isI d = false
  regs : ∀ v ∈ n.src ++ n.dst, v.val < s.thr.alot ∧ s.thr.port? v = none
  full : ∀ v ∈ n.full, s.thr.vFull.getLsbD v.val = true ∧ s.thr.vPoison.getLsbD v.val = false
  masks : ∀ k ∈ n.masks, s.thr.maskBad k = false

section
variable {i : Instr} {n : VNames} {u : Uses} {src reads : List VReg} {res : View → List Vec → List Vec → VRes}
  {s : State} (h : Readied s n) (hf : FitsNames u n)
include h hf

theorem Readied.checks : checkUses u s = none := by
  have hport (w : VReg) (hw : w ∈ u.vs) : s.thr.port? w = none := (h.regs w ((hf.vs w).mp hw)).2
  refine checkUses_passes (scalarsPass hf h.readable h.dest) (fun w hw => (h.regs w ((hf.vs w).mp hw)).1)
    (fun w hw => ?_) (fun w hw _ => (h.full w ((hf.vrd w).mp hw)).2) (fun k hk => ?_)
  · have hw := (hf.vrd w).mp hw
    have hin : w ∈ n.src ++ n.dst := by
      rcases List.mem_append.mp hw with hw | hw
      · exact List.mem_append_left _ hw
      · split at hw
        · cases hw
        · exact List.mem_append_right _ hw
    rw [State.vFullAt, (h.regs w hin).2]
    exact (h.full w hw).1
  · by_cases h0 : k = 0
    · subst h0
      rfl
    · exact h.masks k ((hf.krd k h0).mp hk)

variable (hshape : Shape i u src reads n.dst res) (hsrc : ∀ v ∈ src, v ∈ n.src) (hreads : ∀ v ∈ reads, v ∈ n.src)
include hshape hsrc hreads

/-- It ends with its results, or with the FP-exception fault (R75). -/
theorem Readied.ends : (s.quiet (s.results reads n.dst res).fl →
      exec i s = .next ((s.after n.dst (s.results reads n.dst res)).goesOn i)) ∧
    (∀ fl, (s.results reads n.dst res).fl = some fl → enabledFlags s.thr.fcsr fl ≠ 0 →
      exec i s = .next ((s.withFlags fl).trapped i 0x1A 0 fl)) := by
  have hr (v : VReg) (hv : v ∈ reads) : s.thr.port? v = none :=
    (h.regs v (List.mem_append_left _ (hreads v hv))).2
  have hs (v : VReg) (hv : v ∈ src) : s.thr.port? v = none :=
    (h.regs v (List.mem_append_left _ (hsrc v hv))).2
  have hd (v : VReg) (hv : v ∈ n.dst) : s.thr.port? v = none := (h.regs v (List.mem_append_right _ hv)).2
  have hthread := State.readable_thread h.readable
  refine ⟨fun hq => ?_, fun fl hfl he => ?_⟩
  · exact (hshape.eq s).trans (run_ok hthread (h.checks hf) (vBody_quiet hr hd hs hq))
  · exact (hshape.eq s).trans (run_kept hthread (h.checks hf) (vBody_enabled hr hd hfl he) (by simp [State.withFlags]))

end

/-- What `vreadyFor` says of each register. -/
theorem readied_of_vreadyFor {s : State} {rd : List Sc} {d src : List VReg} {k : KReg} {kr : List KReg}
    {kd : Option KReg}
    (h : s.vreadyFor rd d src k = true) (hkr : s.kreadable kr = true)
    (hkd : k = 0 ∨ s.kreadable kd.toList = true) :
    Readied s { rd := rd, src := src, dst := d, k := k, kr := kr, kd := kd } := by
  simp only [State.vreadyFor, State.vreadable, State.kreadable, Bool.and_eq_true, List.all_eq_true, decide_eq_true_eq,
    Bool.not_eq_true', Option.isNone_iff_eq_none] at h hkr hkd
  obtain ⟨⟨hrd, hall, hfull⟩, hk⟩ := h
  refine ⟨hrd, nofun, fun v hv => hall v ?_, fun v hv => ?_, fun j hj => ?_⟩
  · simpa [or_comm] using hv
  · refine (hfull v ?_).1
    by_cases h0 : k = 0 <;> simp_all [VNames.full, or_comm]
  · simp only [VNames.masks, List.cons_append, List.mem_cons, List.mem_append] at hj
    rcases hj with rfl | hj | hj
    · exact hk j List.mem_cons_self
    · exact hkr j hj
    · split at hj
      · cases hj
      · exact hkd.resolve_left ‹_› j hj

/-! ## The three instructions -/

theorem quiet_some {s : State} {fl : Nat} (h : enabledFlags s.thr.fcsr fl = 0) : s.quiet (some fl) := by
  rintro _ ⟨⟩
  exact h

section
variable {s : State}

theorem vcvt_ends {dt st : ETy} {z sat : Bool} {d a : VReg} {part : BitVec 6} {k : KReg}
    (h : s.vreadyFor [] [d] [a] k = true) :
    let l := min dt.lanes st.lanes
    let on (j : Nat) : Bool := k == 0 || (s.thr.mask k).getLsbD j
    let x (j : Nat) := lane st.bits (s.thr.v.get a) (if l < st.lanes then part.toNat * l + j else j)
    let f (j : Nat) : FRes := convert dt z sat s.thr.rm (valOf st z (x j))
    let fl := (List.range l).foldl (fun acc j => if on j then acc ||| (f j).fl else acc) 0
    let first := if l < dt.lanes then part.toNat * l else 0
    let i : Instr := .vcvt dt st z sat d a part k
    (enabledFlags s.thr.fcsr fl = 0 → exec i s = .next ((s.withFlags fl).vdone i d (pack dt fun e =>
      if decide (first ≤ e) && decide (e < first + l) && on (e - first) then (f (e - first)).bits
      else lane dt.bits (s.thr.v.get d) e))) ∧
    (enabledFlags s.thr.fcsr fl ≠ 0 → exec i s = .next ((s.withFlags fl).trapped i 0x1A 0 fl)) := by
  obtain ⟨hquiet, htrap⟩ := (readied_of_vreadyFor (kr := []) (kd := none) h rfl (.inr rfl)).ends (fits_vuses ..)
    (vcvt_shape dt st z sat d a part k) (fun _ => id) fun _ => id
  exact ⟨fun he => hquiet (quiet_some he), fun he => htrap _ rfl he⟩

theorem vsetc_ends {cc : Cond} {z : Bool} {t : ETy} {d : KReg} {a : VReg} {b : VSrc} {k : KReg}
    (h : s.vreadyFor [] [] (a :: vsrcRegs b) k = true) (hd : s.kreadable [d] = true ∨ k = 0) :
    let m := s.thr.mask k
    let cmp (j : Nat) := cmpLane cc z t (lane t.bits (s.thr.v.get a) j)
      (lane t.bits (srcVec t 1 (s.thr.v.get a :: (vsrcRegs b).map s.thr.v.get) b) j)
    let fl := laneFlags m t.lanes fun j => (cmp j).2
    let i : Instr := .vsetc cc z t d a b k
    (enabledFlags s.thr.fcsr fl = 0 → exec i s = .next ((s.withFlags fl).kdone i d
      (packMask (fun j => if m.getLsbD j then (cmp j).1 else (s.thr.mask d).getLsbD j) t.lanes))) ∧
    (enabledFlags s.thr.fcsr fl ≠ 0 → exec i s = .next ((s.withFlags fl).trapped i 0x1A 0 fl)) := by
  obtain ⟨hquiet, htrap⟩ := (readied_of_vreadyFor (kr := []) (kd := some d) h rfl hd.symm).ends (fits_vsetc ..)
    (vsetc_shape cc z t d a b k) (fun _ => id) fun _ => id
  exact ⟨fun he => hquiet (quiet_some he), fun he => htrap _ rfl he⟩

/-- The comparison of a lane as the statement has it. -/
theorem cmpLane_fst (cc : Cond) (z : Bool) (t : ETy) (p q : Nat) : (cmpLane cc z t p q).1 =
    if t.isInt then condHolds cc (if z then decide (p < q) else decide (sgnOf t.bits p < sgnOf t.bits q)) (p == q)
    else (fCompare t cc p q).1 := by
  unfold cmpLane laneBelow
  split <;> rfl

theorem laneFlags_congr {m : Mask} {l : Nat} {f g : Nat → Nat} (h : ∀ j < l, f j = g j) :
    laneFlags m l f = laneFlags m l g := by
  unfold laneFlags
  refine List.foldl_ext _ _ _ fun acc j hj => ?_
  rw [h j (List.mem_range.mp hj)]

theorem laneFlags_zero (m : Mask) (l : Nat) : (laneFlags m l fun _ => 0) = 0 :=
  List.foldlRecOn (motive := fun x => x = 0) _ _ rfl fun x hx j _ => by simp [hx]

/-- The flags of a vector comparison: those of the floating-point comparisons (R296). -/
theorem laneFlags_cmpLane (cc : Cond) (z : Bool) (t : ETy) (m : Mask) (x y : Nat → Nat) :
    (laneFlags m t.lanes fun j => (cmpLane cc z t (x j) (y j)).2) =
      if t.isInt then 0 else flagsOf t m fun j => { bits := 0, fl := (fCompare t cc (x j) (y j)).2 } := by
  by_cases h : t.isInt
  · simp only [cmpLane, h, if_true]
    exact laneFlags_zero ..
  · simp only [cmpLane, h]
    rfl

theorem vsel_ends {t : ETy} {d a b : VReg} {c k : KReg} (h : s.vreadyFor [] [d] [a, b] k = true)
    (hc : s.kreadable [c] = true) :
    exec (.vsel t d a b c k) s = .next (s.vdone (.vsel t d a b c k) d (merge t (s.thr.mask k) (s.thr.v.get d) fun j =>
      if (s.thr.mask c).getLsbD j then lane t.bits (s.thr.v.get a) j else lane t.bits (s.thr.v.get b) j)) :=
  ((readied_of_vreadyFor (kr := [c]) (kd := none) h hc (.inr rfl)).ends (fits_vsel ..) (vsel_shape ..) (fun _ => id)
    fun _ => id).1 nofun

end

/-- The parts of a conversion lie in the vector (R341). -/
theorem cvt_part_le {dt st : ETy} {p : Nat} (hp : p < max dt.lanes st.lanes / min dt.lanes st.lanes) :
    p * min dt.lanes st.lanes + min dt.lanes st.lanes ≤ max dt.lanes st.lanes := by
  rw [← Nat.succ_mul]
  exact (Nat.mul_le_mul_right _ hp).trans (Nat.div_mul_le_self ..)

/-- What a conversion leaves in the destination: the elements of the part, and the rest (R341). -/
theorem lane_cvt {dt st : ETy} {p : Nat} {on : Nat → Bool} {f : Nat → Nat} {old : Vec}
    (hp : p < max dt.lanes st.lanes / min dt.lanes st.lanes) :
    let l := min dt.lanes st.lanes
    let first := if l < dt.lanes then p * l else 0
    let r := pack dt fun e =>
      if decide (first ≤ e) && decide (e < first + l) && on (e - first) then f (e - first) else lane dt.bits old e
    (∀ j < l, lane dt.bits r (if l < dt.lanes then p * l + j else j) = if on j then f j % 2 ^ dt.bits
      else lane dt.bits old (if l < dt.lanes then p * l + j else j)) ∧
    (∀ e < dt.lanes, l < dt.lanes → (e < p * l ∨ p * l + l ≤ e) → lane dt.bits r e = lane dt.bits old e) := by
  intro l first r
  have hpart : p * l + l ≤ max dt.lanes st.lanes := cvt_part_le hp
  have hold (e : Nat) : lane dt.bits old e % 2 ^ dt.bits = lane dt.bits old e := Nat.mod_eq_of_lt (lane_lt ..)
  refine ⟨fun j hj => ?_, fun e he hl hout => ?_⟩
  · have hat : (if l < dt.lanes then p * l + j else j) = first + j := by
      by_cases h : l < dt.lanes <;> simp [first, h]
    have hlt : first + j < dt.lanes := by
      by_cases h : l < dt.lanes
      · have : max dt.lanes st.lanes = dt.lanes := by omega
        simp only [first, h, if_true]
        omega
      · simp only [first, h, if_false]
        omega
    rw [hat, lane_pack hlt]
    have hin : (decide (first ≤ first + j) && decide (first + j < first + l)) = true := by simp [hj]
    rw [hin, Bool.true_and, Nat.add_sub_cancel_left]
    split
    · rfl
    · exact hold _
  · have hfirst : first = p * l := if_pos hl
    have hno : (decide (first ≤ e) && decide (e < first + l)) = false := by
      rw [hfirst]
      simp
      omega
    rw [lane_pack he, hno, Bool.false_and, if_neg (by simp), hold]

/-- Settles O18: the results of the three instructions, lane by lane. -/
theorem vectorComparisons : Obligations.VectorComparisons := by
  unfold Obligations.VectorComparisons
  refine ⟨fun s dt st z sat d a part k hw h => ?_, fun s t cc z a b2 b k _ hb =>
    ⟨fun d hw h hd => ?_, fun d c _ h hc => ?_⟩⟩
  · have hp : part.toNat < max dt.lanes st.lanes / min dt.lanes st.lanes := by
      simp only [Instr.wf, Bool.and_eq_true, decide_eq_true_eq] at hw
      exact hw.2
    obtain ⟨hquiet, htrap⟩ := vcvt_ends (dt := dt) (st := st) (z := z) (sat := sat) (part := part) h
    intro l m on x f fl i
    exact ⟨fun he => ⟨_, hquiet he, lane_cvt (on := on) (f := fun j => (f j).bits) (old := s.thr.v.get d) hp⟩, htrap⟩
  · intro y i lt res fl
    obtain ⟨hquiet, htrap⟩ := vsetc_ends (cc := cc) (z := z) (t := t) (d := d) h hd
    have hlane (j : Nat) (hj : j < t.lanes) := lane_srcVec (s := s) hb (s.thr.v.get a) hj
    have hfl : (laneFlags (s.thr.mask k) t.lanes fun j => (cmpLane cc z t (lane t.bits (s.thr.v.get a) j)
        (lane t.bits (srcVec t 1 (s.thr.v.get a :: (vsrcRegs b).map s.thr.v.get) b) j)).2) = fl :=
      (laneFlags_congr fun j hj => by rw [hlane j hj]).trans (laneFlags_cmpLane cc z t _ _ y)
    have hl : t.lanes ≤ 256 := by
      simp only [Instr.wf, Bool.and_eq_true] at hw
      obtain ⟨⟨ht, _⟩, _⟩ := hw
      revert ht
      cases t <;> simp [ETy.isVecInt, ETy.isVecFp, ETy.lanes, ETy.bits]
    rw [hfl] at hquiet htrap
    refine ⟨fun he => ⟨_, hquiet he, fun j _ => ?_⟩, htrap⟩
    rw [getLsbD_packMask hl]
    by_cases hj : j < t.lanes
    · simp only [hlane j hj, cmpLane_fst]
      rfl
    · simp [hj]
  · exact ⟨_, vsel_ends h hc, fun j hj => by rw [lane_merge hj]⟩

end Sys2Proof.Machine
end

section
/-! SUPPORT. The real numbers that exact results stand for (R101, R290). -/
namespace Sys2Proof.Machine

/-! ## Finite values and exact results -/

theorem real_fin (n : Bool) (m : Nat) (e : Int) :
    ((FVal.fin n m e).real : ℝ) = (if n then -1 else 1) * (m * (2 : ℝ) ^ e) := by
  cases n <;> simp [FVal.real]

theorem two_zpow_pos (e : Int) : (0 : ℝ) < (2 : ℝ) ^ e := zpow_pos (by norm_num) e

/-- The magnitude that an exact result gives under its sign. -/
theorem stands_signed {neg rest : Bool} {m : Nat} {e : Int} {y : ℝ} (h0 : 0 < y)
    (h : if rest then 2 ^ 63 ≤ m ∧ (m : ℝ) * (2 : ℝ) ^ e < y ∧ y < ((m : ℝ) + 1) * (2 : ℝ) ^ e
      else y = (m : ℝ) * (2 : ℝ) ^ e) :
    (Ex.num neg m e rest).Stands ((if neg then -1 else 1) * y) := by
  have hy : (if neg then -((if neg then -1 else 1) * y) else (if neg then -1 else 1) * y) = y := by cases neg <;> simp
  unfold Ex.Stands
  dsimp only
  rw [hy]
  exact ⟨h0, h⟩

/-- A finite value is its own exact result. -/
theorem stands_fin {n : Bool} {m : Nat} {e : Int} (hm : m ≠ 0) :
    (Ex.num n m e false).Stands ((FVal.fin n m e).real : ℝ) := by
  rw [real_fin]
  have hm : (0 : ℝ) < m := by exact_mod_cast Nat.pos_of_ne_zero hm
  exact stands_signed (mul_pos hm (two_zpow_pos e)) rfl

theorem real_zero (n : Bool) (e : Int) : ((FVal.fin n 0 e).real : ℝ) = 0 := by simp [FVal.real]

theorem real_eq_zero {n : Bool} {m : Nat} {e : Int} : ((FVal.fin n m e).real : ℝ) = 0 ↔ m = 0 := by
  rw [real_fin]
  have := (two_zpow_pos e).ne'
  cases n <;> simp [this]

theorem stands_toEx (n : Bool) (m : Nat) (e : Int) : (FVal.fin n m e).toEx.Stands ((FVal.fin n m e).real : ℝ) := by
  by_cases hm : m = 0
  · subst hm
    rw [real_zero]
    rfl
  · simpa [FVal.toEx, hm] using stands_fin hm

@[simp] theorem real_negate (x : FVal) : x.negate.real = -x.real := by
  cases x with
  | fin n m e => cases n <;> simp [FVal.negate, FVal.real]
  | nan | inf => simp [FVal.negate, FVal.real]

@[simp] theorem isNan_negate (x : FVal) : x.negate.isNan = x.isNan := by cases x <;> rfl
@[simp] theorem isSig_negate (x : FVal) : x.negate.isSig = x.isSig := by cases x <;> rfl

/-! ## Sums -/

/-- A signed multiple of a power of two. -/
theorem real_ofMultiple (s : Int) (q : Int) : ((FVal.fin (decide (s < 0)) s.natAbs q).real : ℝ) = s * (2 : ℝ) ^ q := by
  rw [real_fin]
  rcases lt_or_ge s 0 with h | h
  · have : ((s.natAbs : ℕ) : ℝ) = -(s : ℝ) := by
      rw [Nat.cast_natAbs, abs_of_neg h, Int.cast_neg]
    simp [h, this]
  · have : ((s.natAbs : ℕ) : ℝ) = (s : ℝ) := by
      rw [Nat.cast_natAbs, abs_of_nonneg h]
    simp [not_lt.mpr h, this]

/-- A finite value as a multiple of a power of two not above its own. -/
theorem atExp_real {n : Bool} {m : Nat} {e q : Int} (h : q ≤ e) :
    (atExp n m e q : ℝ) * (2 : ℝ) ^ q = ((FVal.fin n m e).real : ℝ) := by
  have hp : ((2 : ℝ) ^ (e - q).toNat) * (2 : ℝ) ^ q = (2 : ℝ) ^ e := by
    rw [← zpow_natCast, ← zpow_add₀ (by norm_num)]
    congr 1
    omega
  rw [real_fin, ← hp]
  cases n <;> simp [atExp, mul_assoc]

/-- The sum of two finite values, as a multiple of the smaller power of two. -/
def sumMul (n1 : Bool) (m1 : Nat) (e1 : Int) (n2 : Bool) (m2 : Nat) (e2 : Int) : Int :=
  atExp n1 m1 e1 (minE e1 e2) + atExp n2 m2 e2 (minE e1 e2)

section
variable (mode : Nat) (n1 : Bool) (m1 : Nat) (e1 : Int) (n2 : Bool) (m2 : Nat) (e2 : Int)

theorem sumMul_real : (sumMul n1 m1 e1 n2 m2 e2 : ℝ) * (2 : ℝ) ^ minE e1 e2 =
    ((FVal.fin n1 m1 e1).real : ℝ) + ((FVal.fin n2 m2 e2).real : ℝ) := by
  have h1 : minE e1 e2 ≤ e1 := by unfold minE; split <;> omega
  have h2 : minE e1 e2 ≤ e2 := by unfold minE; split <;> omega
  rw [← atExp_real h1, ← atExp_real h2, sumMul, Int.cast_add, add_mul]

theorem sumMul_eq_zero : sumMul n1 m1 e1 n2 m2 e2 = 0 ↔
    ((FVal.fin n1 m1 e1).real : ℝ) + ((FVal.fin n2 m2 e2).real : ℝ) = 0 := by
  rw [← sumMul_real]
  simp [(two_zpow_pos (minE e1 e2)).ne']

theorem sumFin_zero (h : ((FVal.fin n1 m1 e1).real : ℝ) + ((FVal.fin n2 m2 e2).real : ℝ) = 0) :
    sumFin mode n1 m1 e1 n2 m2 e2 = .zero (if m1 = 0 ∧ m2 = 0 ∧ n1 = n2 then n1 else decide (mode = 3)) := by
  have h0 := (sumMul_eq_zero n1 m1 e1 n2 m2 e2).mpr h
  unfold sumMul at h0
  unfold sumFin
  simp only [h0]
  by_cases hs : m1 = 0 ∧ m2 = 0 ∧ n1 = n2
  · obtain ⟨rfl, rfl, rfl⟩ := hs
    simp
  · rw [if_neg hs]
    have : (m1 == 0 && m2 == 0 && n1 == n2) = false := by
      rw [← Bool.not_eq_true]
      simpa [and_assoc] using hs
    simp only [this, beq_self_eq_true, Bool.false_eq_true, if_true, if_false]
    rfl

theorem sumFin_stands : (sumFin mode n1 m1 e1 n2 m2 e2).Stands
    (((FVal.fin n1 m1 e1).real : ℝ) + ((FVal.fin n2 m2 e2).real : ℝ)) := by
  by_cases h : ((FVal.fin n1 m1 e1).real : ℝ) + ((FVal.fin n2 m2 e2).real : ℝ) = 0
  · rw [sumFin_zero _ _ _ _ _ _ _ h, h]
    rfl
  · have hs := mt (sumMul_eq_zero n1 m1 e1 n2 m2 e2).mp h
    have : sumFin mode n1 m1 e1 n2 m2 e2 = .num (decide (sumMul n1 m1 e1 n2 m2 e2 < 0))
        (sumMul n1 m1 e1 n2 m2 e2).natAbs (minE e1 e2) false := by
      unfold sumFin
      exact if_neg fun h => hs (beq_iff_eq.mp h)
    rw [this, ← sumMul_real, ← real_ofMultiple]
    exact stands_fin (Int.natAbs_ne_zero.mpr hs)

end

/-! ## Products and quotients -/

theorem real_mul (n1 : Bool) (m1 : Nat) (e1 : Int) (n2 : Bool) (m2 : Nat) (e2 : Int) :
    ((FVal.fin (n1 != n2) (m1 * m2) (e1 + e2)).real : ℝ) =
      ((FVal.fin n1 m1 e1).real : ℝ) * ((FVal.fin n2 m2 e2).real : ℝ) := by
  rw [real_fin, real_fin, real_fin, zpow_add₀ (by norm_num)]
  cases n1 <;> cases n2 <;> push_cast <;> simp <;> ring

/-- A quotient of natural numbers, cut to its integer part, of which there are 64 bits. -/
theorem stands_quotient {neg : Bool} {N d : Nat} {e : Int} (hN : N ≠ 0) (hd : d ≠ 0) (h : 2 ^ 63 ≤ N / d) :
    (Ex.num neg (N / d) e (N % d != 0)).Stands ((if neg then -1 else 1) * ((N : ℝ) / d * (2 : ℝ) ^ e)) := by
  have hdp : (0 : ℝ) < d := by exact_mod_cast Nat.pos_of_ne_zero hd
  have hNp : (0 : ℝ) < N := by exact_mod_cast Nat.pos_of_ne_zero hN
  have he := two_zpow_pos e
  refine stands_signed (by positivity) ?_
  have hdiv : (d : ℝ) * (N / d : ℕ) + (N % d : ℕ) = N := by exact_mod_cast Nat.div_add_mod N d
  have hlt : ((N % d : ℕ) : ℝ) < d := by exact_mod_cast Nat.mod_lt N (Nat.pos_of_ne_zero hd)
  have hq : (N : ℝ) / d = (N / d : ℕ) + ((N % d : ℕ) : ℝ) / d := by
    rw [← hdiv]
    field_simp
  by_cases hr : N % d = 0
  · simp [hr, hq]
  · have hr0 : (0 : ℝ) < (N % d : ℕ) := by exact_mod_cast Nat.pos_of_ne_zero hr
    have h1 : ((N % d : ℕ) : ℝ) / d < 1 := (div_lt_one hdp).mpr hlt
    have h2 : 0 < ((N % d : ℕ) : ℝ) / d := div_pos hr0 hdp
    have hb : (N % d != 0) = true := by simpa using hr
    rw [hb, if_pos rfl, hq]
    exact ⟨h, mul_lt_mul_of_pos_right (by linarith) he, mul_lt_mul_of_pos_right (by linarith) he⟩

theorem lt_two_pow_bitLen (m : Nat) : m < 2 ^ bitLen m := by
  unfold bitLen
  split
  · simp_all
  · exact Nat.lt_log2_self

/-- A quotient of magnitudes to 200 bits and more. -/
theorem quotient_large {m1 m2 : Nat} (h1 : m1 ≠ 0) (h2 : m2 ≠ 0) : 2 ^ 63 ≤ m1 * 2 ^ (200 + bitLen m2) / m2 := by
  rw [Nat.le_div_iff_mul_le (Nat.pos_of_ne_zero h2)]
  calc 2 ^ 63 * m2 ≤ 2 ^ 200 * 2 ^ bitLen m2 :=
        Nat.mul_le_mul (Nat.pow_le_pow_right (by decide) (by decide)) (lt_two_pow_bitLen m2).le
    _ = 2 ^ (200 + bitLen m2) := (Nat.pow_add ..).symm
    _ ≤ m1 * 2 ^ (200 + bitLen m2) := Nat.le_mul_of_pos_left _ (Nat.pos_of_ne_zero h1)

theorem divEx_fin (n1 : Bool) (m1 : Nat) (e1 : Int) (n2 : Bool) (m2 : Nat) (e2 : Int) :
    divEx (.fin n1 m1 e1) (.fin n2 m2 e2) =
      if m2 = 0 then (if m1 = 0 then (.nan, flNV) else (.inf (n1 != n2), flDZ))
      else if m1 = 0 then (.zero (n1 != n2), 0)
      else (.num (n1 != n2) (m1 * 2 ^ (200 + bitLen m2) / m2) (e1 - e2 - (200 + bitLen m2 : Nat))
        (m1 * 2 ^ (200 + bitLen m2) % m2 != 0), 0) := by
  simp only [divEx, FVal.isNan, FVal.neg, Bool.or_self, Bool.false_eq_true, if_false, beq_iff_eq]

theorem divEx_stands {n1 : Bool} {m1 : Nat} {e1 : Int} {n2 : Bool} {m2 : Nat} {e2 : Int} (h2 : m2 ≠ 0) :
    (divEx (.fin n1 m1 e1) (.fin n2 m2 e2)).1.Stands
      (((FVal.fin n1 m1 e1).real : ℝ) / ((FVal.fin n2 m2 e2).real : ℝ)) := by
  rw [divEx_fin, if_neg h2]
  by_cases h1 : m1 = 0
  · subst h1
    rw [if_pos rfl, real_zero, zero_div]
    rfl
  · rw [if_neg h1]
    have h := stands_quotient (neg := n1 != n2) (e := e1 - e2 - (200 + bitLen m2 : Nat))
      (Nat.mul_ne_zero h1 (Nat.two_pow_pos (200 + bitLen m2)).ne') h2 (quotient_large h1 h2)
    convert h using 1
    have hm : (m2 : ℝ) ≠ 0 := by exact_mod_cast h2
    rw [real_fin, real_fin, zpow_sub₀ (by norm_num), zpow_sub₀ (by norm_num), zpow_natCast]
    have hk : (2 : ℝ) ^ (200 + bitLen m2) ≠ 0 := by positivity
    have he1 := (two_zpow_pos e1).ne'
    have he2 := (two_zpow_pos e2).ne'
    push_cast
    cases n1 <;> cases n2 <;> simp <;> field_simp

/-! ## Roots -/

theorem isqrt_spec (n b r : Nat) (h : r * r ≤ n) (h' : n < (r + 2 ^ b) * (r + 2 ^ b)) :
    isqrt n b r * isqrt n b r ≤ n ∧ n < (isqrt n b r + 1) * (isqrt n b r + 1) := by
  induction b generalizing r with
  | zero => exact ⟨h, h'⟩
  | succ b ih =>
    unfold isqrt
    split
    · next hle =>
      refine ih _ hle ?_
      rwa [Nat.add_assoc, ← Nat.two_mul, ← Nat.pow_succ']
    · next hlt => exact ih _ h (Nat.lt_of_not_le hlt)

theorem isqrt_eq_sqrt (n : Nat) : isqrt n (bitLen n / 2 + 1) 0 = Nat.sqrt n := by
  have hn : n < (0 + 2 ^ (bitLen n / 2 + 1)) * (0 + 2 ^ (bitLen n / 2 + 1)) := by
    rw [Nat.zero_add, ← Nat.pow_add]
    exact (lt_two_pow_bitLen n).trans_le (Nat.pow_le_pow_right (by decide) (by omega))
  obtain ⟨h1, h2⟩ := isqrt_spec n (bitLen n / 2 + 1) 0 (Nat.zero_le _) hn
  exact Nat.eq_sqrt.mpr ⟨h1, h2⟩

/-- The root of a natural number, cut to its integer part, of which there are 64 bits. -/
theorem stands_root {N : Nat} {e : Int} (h : 2 ^ 126 ≤ N) :
    (Ex.num false (Nat.sqrt N) e (Nat.sqrt N * Nat.sqrt N != N)).Stands (Real.sqrt N * (2 : ℝ) ^ e) := by
  have he := two_zpow_pos e
  have hN : (0 : ℝ) < N := by
    have : 0 < N := lt_of_lt_of_le (by norm_num) h
    exact_mod_cast this
  have hr : 2 ^ 63 ≤ Nat.sqrt N := Nat.le_sqrt.mpr (by simpa [← Nat.pow_add] using h)
  have hs := stands_signed (neg := false) (rest := Nat.sqrt N * Nat.sqrt N != N) (m := Nat.sqrt N) (e := e)
    (y := Real.sqrt N * (2 : ℝ) ^ e) (mul_pos (Real.sqrt_pos.mpr hN) he)
  simp only [Bool.false_eq_true, if_false, one_mul] at hs
  refine hs ?_
  by_cases hsq : Nat.sqrt N * Nat.sqrt N = N
  · have : Real.sqrt N = Nat.sqrt N := by
      rw [← hsq, Nat.cast_mul, Real.sqrt_mul_self (Nat.cast_nonneg _), hsq]
    simp [hsq, this]
  · have hb : (Nat.sqrt N * Nat.sqrt N != N) = true := by simpa using hsq
    rw [hb, if_pos rfl]
    have h1 : (Nat.sqrt N : ℝ) < Real.sqrt N := by
      refine Real.lt_sqrt_of_sq_lt ?_
      rw [pow_two]
      exact_mod_cast lt_of_le_of_ne (Nat.sqrt_le N) hsq
    have h2 : Real.sqrt N < Nat.sqrt N + 1 := by
      rw [Real.sqrt_lt' (by positivity), pow_two]
      exact_mod_cast Nat.lt_succ_sqrt N
    exact ⟨hr, mul_lt_mul_of_pos_right h1 he, mul_lt_mul_of_pos_right h2 he⟩

/-- The power of two under which the root is taken leaves an even one. -/
def rootExp (e : Int) : Nat := 400 + (if (e - 400) % 2 = 0 then 0 else 1)

theorem rootExp_even (e : Int) : 2 * ((e - rootExp e) / 2) = e - rootExp e := by
  unfold rootExp
  split <;> simp_all <;> omega

theorem sqrtEx_fin (m : Nat) (e : Int) (hm : m ≠ 0) : sqrtEx (.fin false m e) =
    (.num false (Nat.sqrt (m * 2 ^ rootExp e)) ((e - rootExp e) / 2)
      (Nat.sqrt (m * 2 ^ rootExp e) * Nat.sqrt (m * 2 ^ rootExp e) != m * 2 ^ rootExp e), 0) := by
  rw [← isqrt_eq_sqrt]
  simp only [sqrtEx, beq_iff_eq, hm, if_false, Bool.false_eq_true]
  rfl

theorem sqrtEx_stands {m : Nat} {e : Int} (hm : m ≠ 0) :
    (sqrtEx (.fin false m e)).1.Stands (Real.sqrt ((FVal.fin false m e).real : ℝ)) := by
  have hlarge : 2 ^ 126 ≤ m * 2 ^ rootExp e :=
    (Nat.pow_le_pow_right (by decide) (by unfold rootExp; omega)).trans
      (Nat.le_mul_of_pos_left (2 ^ rootExp e) (Nat.pos_of_ne_zero hm))
  have h := stands_root (e := (e - rootExp e) / 2) hlarge
  rw [sqrtEx_fin m e hm]
  convert h using 1
  have hp : (2 : ℝ) ^ ((e - rootExp e) / 2) = Real.sqrt ((2 : ℝ) ^ (e - rootExp e)) := by
    rw [← rootExp_even e, two_mul, zpow_add₀ (by norm_num), Real.sqrt_mul_self (two_zpow_pos _).le]
    congr 1
    omega
  rw [hp, ← Real.sqrt_mul (Nat.cast_nonneg _), real_fin]
  congr 1
  have : (2 : ℝ) ^ (e - rootExp e) * (2 : ℝ) ^ rootExp e = (2 : ℝ) ^ e := by
    rw [← zpow_natCast, ← zpow_add₀ (by norm_num)]
    congr 1
    omega
  push_cast
  rw [← this]
  simp
  ring

end Sys2Proof.Machine
end

section
/-! SUPPORT. Scalar floating-point arithmetic (R289, R290). -/
namespace Sys2Proof.Machine

/-! ## The end of a scalar floating-point instruction (R75, R289) -/

/-- It writes its result and adds its flags, or takes the FP-exception fault with the destination unchanged. -/
def FpEnds (s : State) (i : Instr) (d : Sc) (r : FRes) : Prop :=
  (enabledFlags s.thr.fcsr r.fl = 0 → exec i s = .next ((s.withFlags r.fl).done i d (BitVec.ofNat 64 r.bits))) ∧
  (enabledFlags s.thr.fcsr r.fl ≠ 0 → exec i s = .next ((s.withFlags r.fl).trapped i 0x1A 0 r.fl))

section
variable {s : State} {i : Instr} {d : Sc} {l : List Sc} (h : s.readable l = true) (hd : Sc.isI d = false)
include h hd

theorem fpEnds {rd : List Sc} {body : M Next} {r : FRes} (hrd : rd ⊆ l)
    (hx : exec i s = run i { dst := some d, rd := rd } body s) (hb : body s = fpDest d r s) : FpEnds s i d r := by
  have hread : s.readable rd = true := by
    rw [State.readable_iff] at h ⊢
    obtain ⟨ht, hl⟩ := h
    exact ⟨ht, fun q hq => hl q (hrd hq)⟩
  have hc : checkUses { dst := some d, rd := rd } s = none := State.readable_checks hread (by simp [hd])
  rw [FpEnds, hx]
  refine ⟨fun he => ?_, fun he => ?_⟩
  · refine run_ok (s1 := (s.withFlags r.fl).putSc d (BitVec.ofNat 64 r.bits)) (nx := .seq) (State.readable_thread h)
      hc ?_
    refine hb.trans ((M.bind_ok (s1 := s.withFlags r.fl) (a := ()) ?_).trans rfl)
    simp [raiseFlags, he, State.withFlags]
  · refine run_kept (s1 := s.withFlags r.fl) (State.readable_thread h) hc ?_ (by simp [State.withFlags])
    refine hb.trans (M.bind_error ?_)
    simp [raiseFlags, he, State.withFlags]

theorem fp2_ends {t : ETy} {a b : Sc} {f : Nat → Nat → Nat → FRes} (ha : a ∈ l) (hb : b ∈ l)
    (hx : exec i s = fp2 i t d a b f s) : FpEnds s i d (f s.thr.rm (low t (s.sc a)) (low t (s.sc b))) := by
  refine fpEnds h hd (rd := [a, b]) (by simp [ha, hb]) hx ?_
  rw [← State.readable_operand h ha, ← State.readable_operand h hb]
  rfl

end

/-- The arithmetic instructions, each with its exact result rounded once. -/
theorem floatEnds {s : State} {t : ETy} {d a b c : Sc} (h : s.readable [a, b, c] = true) (hd : Sc.isI d = false) :
    let x := low t (s.sc a)
    let y := low t (s.sc b)
    let z := low t (s.sc c)
    FpEnds s (.fadd t d a b) d (fAdd t s.thr.rm x y) ∧ FpEnds s (.fsub t d a b) d (fSub t s.thr.rm x y) ∧
    FpEnds s (.fmul t d a b) d (fMul t s.thr.rm x y) ∧ FpEnds s (.ffma t d a b c) d (fFma t s.thr.rm x y z) ∧
    FpEnds s (.fdiv t d a b) d (fDiv t s.thr.rm x y) ∧ FpEnds s (.fsqrt t d a) d (fSqrt t s.thr.rm x) := by
  have ha : a ∈ [a, b, c] := by simp
  have hb : b ∈ [a, b, c] := by simp
  have hc : c ∈ [a, b, c] := by simp
  refine ⟨fp2_ends h hd ha hb rfl, fp2_ends h hd ha hb rfl, fp2_ends h hd ha hb rfl, ?_, fp2_ends h hd ha hb rfl, ?_⟩
  · refine fpEnds h hd (rd := [a, b, c]) (fun _ => id) rfl ?_
    rw [← State.readable_operand h ha, ← State.readable_operand h hb, ← State.readable_operand h hc]
    rfl
  · refine fpEnds h hd (rd := [a]) (by simp) rfl ?_
    rw [← State.readable_operand h ha]
    rfl

/-! ## Exact results of finite operands -/

section
variable (mode : Nat) (n1 n2 n3 : Bool) (m1 m2 m3 : Nat) (e1 e2 e3 : Int)

theorem addEx_fin : addEx mode (.fin n1 m1 e1) (.fin n2 m2 e2) = (sumFin mode n1 m1 e1 n2 m2 e2, 0) := rfl

theorem mulEx_fin : mulEx (.fin n1 m1 e1) (.fin n2 m2 e2) = ((FVal.fin (n1 != n2) (m1 * m2) (e1 + e2)).toEx, 0) := by
  simp [mulEx, zeroTimesInf, FVal.isInf, FVal.isNan, mulVal]

theorem fmaEx_fin : fmaEx mode (.fin n1 m1 e1) (.fin n2 m2 e2) (.fin n3 m3 e3) =
    (sumFin mode (n1 != n2) (m1 * m2) (e1 + e2) n3 m3 e3, 0) := by
  simp [fmaEx, zeroTimesInf, FVal.isInf, FVal.isNan, mulVal, addEx_fin]

variable {mode n1 n2 n3 m1 m2 m3 e1 e2 e3}

/-- The sign of an exact zero of a fused sum (R290). -/
theorem fmaEx_zero (h : ((FVal.fin (n1 != n2) (m1 * m2) (e1 + e2)).real : ℝ) + ((FVal.fin n3 m3 e3).real : ℝ) = 0) :
    (fmaEx mode (.fin n1 m1 e1) (.fin n2 m2 e2) (.fin n3 m3 e3)).1 =
      .zero (if (m1 = 0 ∨ m2 = 0) ∧ m3 = 0 ∧ (n1 != n2) = n3 then n3 else decide (mode = 3)) := by
  rw [fmaEx_fin, sumFin_zero _ _ _ _ _ _ _ h]
  simp only [Nat.mul_eq_zero]
  by_cases hs : (m1 = 0 ∨ m2 = 0) ∧ m3 = 0 ∧ (n1 != n2) = n3
  · rw [if_pos hs, if_pos hs, hs.2.2]
  · rw [if_neg hs, if_neg hs]

theorem sqrtEx_real (h : m1 = 0 ∨ n1 = false) :
    (sqrtEx (.fin n1 m1 e1)).1.Stands (Real.sqrt ((FVal.fin n1 m1 e1).real : ℝ)) ∧ (sqrtEx (.fin n1 m1 e1)).2 = 0 := by
  by_cases hm : m1 = 0
  · subst hm
    rw [real_zero, Real.sqrt_zero]
    exact ⟨rfl, rfl⟩
  · obtain rfl := h.resolve_left hm
    exact ⟨sqrtEx_stands hm, by rw [sqrtEx_fin _ _ hm]⟩

end

/-! ## The special operands (R290) -/

section
variable {mode : Nat} {x y c : FVal}

theorem zeroTimesInf_iff : zeroTimesInf x y = true ↔
    (x.isZero = true ∧ y.isInf = true) ∨ (x.isInf = true ∧ y.isZero = true) := by
  simp [zeroTimesInf]

theorem zeroTimesInf_of_nan (h : x.isNan = true ∨ y.isNan = true) : zeroTimesInf x y = false := by
  rcases h with h | h
  · cases x <;> simp_all [FVal.isNan, zeroTimesInf, FVal.isZero, FVal.isInf]
  · cases y <;> simp_all [FVal.isNan, zeroTimesInf, FVal.isZero, FVal.isInf]

theorem addEx_nan (h : x.isNan = true ∨ y.isNan = true) : addEx mode x y = (.nan, nvIf ([x, y].any FVal.isSig)) := by
  simp [addEx, h]

theorem mulEx_nan (h : x.isNan = true ∨ y.isNan = true) : mulEx x y = (.nan, nvIf ([x, y].any FVal.isSig)) := by
  simp [mulEx, h, zeroTimesInf_of_nan h]

theorem divEx_nan (h : x.isNan = true ∨ y.isNan = true) : divEx x y = (.nan, nvIf ([x, y].any FVal.isSig)) := by
  simp [divEx, h]

theorem fmaEx_nan (h : x.isNan = true ∨ y.isNan = true ∨ c.isNan = true) (hz : zeroTimesInf x y = false) :
    fmaEx mode x y c = (.nan, nvIf ([x, y, c].any FVal.isSig)) := by
  simp [fmaEx, hz, h, Bool.or_assoc]

theorem sqrtEx_nan (h : x.isNan = true) : sqrtEx x = (.nan, nvIf ([x].any FVal.isSig)) := by
  cases x <;> simp_all [FVal.isNan, sqrtEx, FVal.isSig]

/-- A product of which one factor is infinite and none is zero or a NaN. -/
theorem mulVal_inf (hx : x.isNan = false) (hy : y.isNan = false) (hz : zeroTimesInf x y = false)
    (h : x.isInf = true ∨ y.isInf = true) : mulVal x y = .inf (x.neg != y.neg) := by
  cases x with
  | nan => cases hx
  | inf a =>
    cases y with
    | nan => cases hy
    | inf b => rfl
    | fin n m e =>
      have hm : m ≠ 0 := by simpa [zeroTimesInf, FVal.isZero, FVal.isInf] using hz
      simp [mulVal, hm, FVal.neg, bne_comm]
  | fin n m e =>
    cases y with
    | nan => cases hy
    | inf b =>
      have hm : m ≠ 0 := by simpa [zeroTimesInf, FVal.isZero, FVal.isInf] using hz
      simp [mulVal, hm, FVal.neg]
    | fin => simp [FVal.isInf] at h

theorem fmaEx_inf (hx : x.isNan = false) (hy : y.isNan = false) (hz : zeroTimesInf x y = false) (hc : c.isNan = false)
    (h : x.isInf = true ∨ y.isInf = true) : fmaEx mode x y c =
      if c.isInf = true ∧ c.neg ≠ (x.neg != y.neg) then (.nan, 4) else (.inf (x.neg != y.neg), 0) := by
  simp only [fmaEx, hz, hx, hy, hc, Bool.or_self, Bool.false_eq_true, if_false, mulVal_inf hx hy hz h]
  cases c with
  | nan => cases hc
  | inf n => cases n <;> cases x.neg <;> cases y.neg <;> rfl
  | fin => rfl

theorem fmaEx_inf_addend (hx : x.isNan = false) (hy : y.isNan = false) (hxi : x.isInf = false) (hyi : y.isInf = false)
    (hci : c.isInf = true) : fmaEx mode x y c = (.inf c.neg, 0) := by
  cases x with
  | nan => cases hx
  | inf => cases hxi
  | fin =>
    cases y with
    | nan => cases hy
    | inf => cases hyi
    | fin =>
      cases c with
      | nan | fin => cases hci
      | inf n => simp [fmaEx, zeroTimesInf, FVal.isInf, FVal.isNan, mulVal, addEx, FVal.neg]

theorem addEx_inf_inf (mode : Nat) (a b : Bool) :
    addEx mode (.inf a) (.inf b) = if a = b then (.inf a, 0) else (.nan, 4) := by
  cases a <;> cases b <;> rfl

theorem sqrtEx_inf (a : Bool) : sqrtEx (.inf a) = if a then (.nan, 4) else (.inf false, 0) := rfl

theorem mulEx_inf_fin (a n : Bool) {m : Nat} (e : Int) (hm : m ≠ 0) :
    mulEx (.inf a) (.fin n m e) = (.inf (a != n), 0) ∧ mulEx (.fin n m e) (.inf a) = (.inf (a != n), 0) := by
  simp [mulEx, zeroTimesInf, FVal.isInf, FVal.isZero, FVal.isNan, mulVal, FVal.toEx, hm, bne_comm]

end

/-! ## The statement -/

/-- Settles O9: the ends of the instructions, and the exact results of finite and of special operands. -/
theorem floatResults : Obligations.FloatResults := by
  unfold Obligations.FloatResults
  refine ⟨fun s t d a b c h hd _ => floatEnds h hd, fun t mode x y c => ?_⟩
  refine ⟨fun _ => rfl, ?_, ?_, fun h => ⟨addEx_nan h, ?_, mulEx_nan h, divEx_nan h⟩, fun h hz => fmaEx_nan h hz,
    sqrtEx_nan, ?_, ?_,
    fun hx hy hz hc => ⟨fmaEx_inf hx hy hz hc, fun hxi hyi hci => fmaEx_inf_addend hx hy hxi hyi hci⟩⟩
  · rintro n1 n2 n3 m1 m2 m3 e1 e2 e3 rfl rfl rfl
    have hsub : (((FVal.fin n1 m1 e1).real : ℝ) - ((FVal.fin n2 m2 e2).real : ℝ)) =
        ((FVal.fin n1 m1 e1).real : ℝ) + ((FVal.fin (!n2) m2 e2).real : ℝ) := by
      rw [sub_eq_add_neg, ← Rat.cast_neg, ← real_negate]
      rfl
    have hmul := real_mul n1 m1 e1 n2 m2 e2
    refine ⟨⟨sumFin_stands .., rfl⟩, ⟨?_, rfl⟩, ⟨?_, by rw [mulEx_fin]⟩, ⟨?_, by rw [fmaEx_fin]⟩,
      fun h2 => ⟨divEx_stands h2, ?_⟩, sqrtEx_real, fun h => sumFin_zero _ _ _ _ _ _ _ h, fun h => ?_, fun h => ?_,
      fun h => fmaEx_zero (hmul ▸ h), fun h1 h2 => ?_, fun h2 => ?_, fun h1 => ?_, fun h1 hn => ?_⟩
    · rw [hsub]
      exact sumFin_stands ..
    · rw [mulEx_fin, ← hmul]
      exact stands_toEx ..
    · rw [fmaEx_fin, ← hmul]
      exact sumFin_stands ..
    · rw [divEx_fin, if_neg h2]
      split <;> rfl
    · rw [hsub] at h
      exact sumFin_zero _ _ _ _ _ _ _ h
    · rw [mulEx_fin]
      simp [FVal.toEx, h]
    · rw [divEx_fin, if_neg h2, if_pos h1]
    · rw [divEx_fin, if_pos h2]
      rfl
    · subst h1
      rfl
    · subst hn
      simp [sqrtEx, h1]
      rfl
  · intro h
    have hz := zeroTimesInf_iff.mpr h
    exact ⟨by simp [mulEx, hz]; rfl, by simp [fmaEx, hz]; rfl⟩
  · have h' : x.isNan = true ∨ y.negate.isNan = true := by rwa [isNan_negate]
    have hany : [x, y.negate].any FVal.isSig = [x, y].any FVal.isSig := by simp
    rw [addEx_nan h', hany]
    rfl
  · rintro a b rfl rfl
    exact ⟨addEx_inf_inf mode a b, rfl, rfl, sqrtEx_inf a⟩
  · rintro a n m e rfl rfl
    refine ⟨rfl, rfl, mulEx_inf_fin a n e, rfl, rfl⟩

end Sys2Proof.Machine
end

section
/-! SUPPORT. Windowed sums (R106 to R108). -/
namespace Sys2Proof.Machine

/-! ## Leading bits and cut terms -/

theorem bitLen_eq {m : Nat} (hm : m ≠ 0) : bitLen m = Nat.log2 m + 1 := by simp [bitLen, hm]

theorem two_zpow_posQ (e : Int) : (0 : ℚ) < (2 : ℚ) ^ e := zpow_pos (by norm_num) e

theorem abs_real_fin (n : Bool) (m : Nat) (e : Int) : |(FVal.fin n m e).real| = (m : ℚ) * (2 : ℚ) ^ e := by
  have h : (0 : ℚ) ≤ (m : ℚ) * (2 : ℚ) ^ e := mul_nonneg (Nat.cast_nonneg _) (two_zpow_posQ e).le
  cases n <;> simp [FVal.real, abs_mul, abs_of_pos (two_zpow_posQ e)]

theorem realQ_eq_zero {n : Bool} {m : Nat} {e : Int} : (FVal.fin n m e).real = 0 ↔ m = 0 := by
  rw [← real_eq_zero (n := n) (e := e)]
  exact_mod_cast Iff.rfl

/-- The magnitude of a finite value lies in the binade of its leading bit. -/
theorem msb_bounds {m : Nat} (hm : m ≠ 0) (e : Int) :
    (2 : ℚ) ^ msb m e ≤ m * (2 : ℚ) ^ e ∧ m * (2 : ℚ) ^ e < (2 : ℚ) ^ (msb m e + 1) := by
  have hmsb : msb m e = (Nat.log2 m : Int) + e := by
    rw [msb, bitLen_eq hm]
    push_cast
    ring
  have h1 : ((2 : ℚ) ^ Nat.log2 m) ≤ m := by exact_mod_cast Nat.log2_self_le hm
  have h2 : (m : ℚ) < (2 : ℚ) ^ (Nat.log2 m + 1) := by exact_mod_cast Nat.lt_log2_self
  have he := two_zpow_posQ e
  have hnext : (Nat.log2 m : Int) + e + 1 = ((Nat.log2 m + 1 : Nat) : Int) + e := by
    push_cast
    ring
  rw [hmsb, hnext, zpow_add₀ (by norm_num), zpow_natCast, zpow_add₀ (by norm_num), zpow_natCast]
  exact ⟨mul_le_mul_of_nonneg_right h1 he.le, mul_lt_mul_of_pos_right h2 he⟩

theorem log_abs_real {n : Bool} {m : Nat} {e : Int} (hm : m ≠ 0) : Int.log 2 |(FVal.fin n m e).real| = msb m e := by
  obtain ⟨h1, h2⟩ := msb_bounds hm e
  rw [abs_real_fin]
  have hpos : (0 : ℚ) < m * (2 : ℚ) ^ e := lt_of_lt_of_le (two_zpow_posQ _) h1
  have hle := (Int.zpow_le_iff_le_log (b := 2) (by decide) hpos).mp (by exact_mod_cast h1)
  have hlt := (Int.lt_zpow_iff_log_lt (b := 2) (by decide) hpos).mp (by exact_mod_cast h2)
  omega

/-- A magnitude as a multiple of a power of two and what is cut off. -/
theorem scaleTo_spec (m : Nat) (e q : Int) : (m : ℚ) * (2 : ℚ) ^ e =
      ((scaleTo m e q).1 + ((scaleTo m e q).2.1 : ℚ) / 2 ^ (scaleTo m e q).2.2) * (2 : ℚ) ^ q ∧
    (scaleTo m e q).2.1 < 2 ^ (scaleTo m e q).2.2 := by
  unfold scaleTo
  split
  · next h =>
    have hp : (2 : ℚ) ^ (e - q).toNat * (2 : ℚ) ^ q = (2 : ℚ) ^ e := by
      rw [← zpow_natCast, ← zpow_add₀ (by norm_num)]
      congr 1
      omega
    refine ⟨?_, Nat.one_pos⟩
    push_cast
    rw [← hp]
    ring
  · next h =>
    have hp : (2 : ℚ) ^ (q - e).toNat * (2 : ℚ) ^ e = (2 : ℚ) ^ q := by
      rw [← zpow_natCast, ← zpow_add₀ (by norm_num)]
      congr 1
      omega
    refine ⟨?_, Nat.mod_lt _ (Nat.two_pow_pos _)⟩
    have hdiv : ((2 ^ (q - e).toNat : ℕ) : ℚ) * (m / 2 ^ (q - e).toNat : ℕ) + (m % 2 ^ (q - e).toNat : ℕ) = m := by
      exact_mod_cast Nat.div_add_mod m (2 ^ (q - e).toNat)
    dsimp only
    rw [← hp]
    conv_lhs => rw [← hdiv]
    push_cast
    field_simp

theorem floor_scaleTo (m : Nat) (e q : Int) : ⌊(m : ℚ) * (2 : ℚ) ^ e / (2 : ℚ) ^ q⌋ = ((scaleTo m e q).1 : Int) := by
  obtain ⟨h, hlt⟩ := scaleTo_spec m e q
  rw [h, mul_div_assoc, div_self (two_zpow_posQ q).ne', mul_one]
  have hp : (0 : ℚ) < 2 ^ (scaleTo m e q).2.2 := by positivity
  have hlt : ((scaleTo m e q).2.1 : ℚ) < 2 ^ (scaleTo m e q).2.2 := by exact_mod_cast hlt
  rw [Int.floor_eq_iff]
  push_cast
  exact ⟨le_add_of_nonneg_right (by positivity), by linarith [(div_lt_one hp).mpr hlt]⟩

/-- The term cut to the window whose last bit stands for 2^lsb, as a multiple of that. -/
def cutTo (lsb : Int) : FVal → Int
  | .fin n m e => if n then -((scaleTo m e lsb).1 : Int) else (scaleTo m e lsb).1
  | _ => 0

/-- Is the term cut by the window? -/
def isCut (lsb : Int) : FVal → Bool
  | .fin _ m e => (scaleTo m e lsb).2.1 != 0
  | _ => false

/-- The cut term as the statement has it. -/
def cutReal (lsb : Int) (q : FVal) : ℚ :=
  (if q.neg then -1 else 1) * (⌊|q.real| / (2 : ℚ) ^ lsb⌋ : ℚ) * (2 : ℚ) ^ lsb

theorem cutReal_fin (lsb : Int) (n : Bool) (m : Nat) (e : Int) :
    cutReal lsb (.fin n m e) = cutTo lsb (.fin n m e) * (2 : ℚ) ^ lsb := by
  rw [cutReal, abs_real_fin, floor_scaleTo]
  cases n <;> simp [FVal.neg, cutTo]

theorem cutReal_ne_iff (lsb : Int) (n : Bool) (m : Nat) (e : Int) :
    cutReal lsb (.fin n m e) ≠ (FVal.fin n m e).real ↔ isCut lsb (.fin n m e) = true := by
  obtain ⟨h, _⟩ := scaleTo_spec m e lsb
  have hreal : (FVal.fin n m e).real = (if n then -1 else 1) * ((m : ℚ) * (2 : ℚ) ^ e) := by
    cases n <;> simp [FVal.real]
  have hq := (two_zpow_posQ lsb).ne'
  rw [cutReal, abs_real_fin, floor_scaleTo, hreal, h]
  cases n <;> simp [FVal.neg, isCut, hq]

/-! ## The sum over the window -/

/-- The highest leading bit so far. -/
def leadStep (acc : Option Int) (t : FVal) : Option Int :=
  match t with
  | .fin _ m e =>
    if m == 0 then acc
    else match acc with
      | some x => if x < msb m e then some (msb m e) else acc
      | none => some (msb m e)
  | _ => acc

/-- The leading bit of a term that is not zero is `b`. -/
def Leads (q : FVal) (b : Int) : Prop := q.real ≠ 0 ∧ Int.log 2 |q.real| = b

theorem leadStep_of_leads {q : FVal} {b : Int} (acc : Option Int) (hf : ∃ n m e, q = .fin n m e) (h : Leads q b) :
    leadStep acc q = some (max (acc.getD b) b) := by
  obtain ⟨n, m, e, rfl⟩ := hf
  obtain ⟨h0, hb⟩ := h
  have hm : m ≠ 0 := mt realQ_eq_zero.mpr h0
  rw [log_abs_real hm] at hb
  subst hb
  unfold leadStep
  cases acc with
  | none => simp [hm]
  | some x =>
    simp only [beq_iff_eq, hm, if_false, Option.getD_some]
    split <;> congr 1 <;> omega

theorem leadStep_zero {q : FVal} (acc : Option Int) (hf : ∃ n m e, q = .fin n m e) (h : q.real = 0) :
    leadStep acc q = acc := by
  obtain ⟨n, m, e, rfl⟩ := hf
  simp [leadStep, realQ_eq_zero.mp h]

theorem foldl_leadStep {E : Int} {ts : List FVal} (acc : Option Int) (hf : ∀ q ∈ ts, ∃ n m e, q = .fin n m e)
    (hle : ∀ q ∈ ts, q.real ≠ 0 → Int.log 2 |q.real| ≤ E) (hacc : ∀ x, acc = some x → x ≤ E)
    (hE : acc = some E ∨ ∃ q ∈ ts, Leads q E) : ts.foldl leadStep acc = some E := by
  induction ts generalizing acc with
  | nil => simpa using hE
  | cons q ts ih =>
    have hq := hf q List.mem_cons_self
    rw [List.foldl_cons]
    refine ih _ (fun p hp => hf p (List.mem_cons_of_mem _ hp)) (fun p hp => hle p (List.mem_cons_of_mem _ hp)) ?_ ?_
    · intro x hx
      by_cases h0 : q.real = 0
      · exact hacc x (leadStep_zero acc hq h0 ▸ hx)
      · have hl := hle q List.mem_cons_self h0
        rw [leadStep_of_leads acc hq ⟨h0, rfl⟩, Option.some_inj] at hx
        have : acc.getD (Int.log 2 |q.real|) ≤ E := by
          cases acc with
          | none => exact hl
          | some y => exact hacc y rfl
        omega
    · by_cases h0 : q.real = 0
      · rw [leadStep_zero acc hq h0]
        refine hE.imp_right fun ⟨p, hp, hl⟩ => ⟨p, (List.mem_cons.mp hp).resolve_left ?_, hl⟩
        rintro rfl
        exact hl.1 h0
      · have hl := hle q List.mem_cons_self h0
        rw [leadStep_of_leads acc hq ⟨h0, rfl⟩, Option.some_inj]
        rcases hE with rfl | ⟨p, hp, hlead⟩
        · exact .inl (by simpa using hl)
        · rcases List.mem_cons.mp hp with rfl | hp
          · refine .inl ?_
            rw [hlead.2]
            refine max_eq_right ?_
            cases acc with
            | none => exact le_refl _
            | some y => exact hacc y rfl
          · exact .inr ⟨p, hp, hlead⟩

/-- The cut terms added, and whether one was cut. -/
def cutStep (lsb : Int) (acc : Int × Bool) (t : FVal) : Int × Bool :=
  match t with
  | .fin n m e =>
    let (r, rem, _) := scaleTo m e lsb
    (acc.1 + (if n then -(r : Int) else r), acc.2 || rem != 0)
  | _ => acc

theorem foldl_cutStep (lsb : Int) (ts : List FVal) (a : Int) (b : Bool) :
    ts.foldl (cutStep lsb) (a, b) = (a + (ts.map (cutTo lsb)).sum, b || ts.any (isCut lsb)) := by
  induction ts generalizing a b with
  | nil => simp
  | cons q ts ih =>
    have hq : cutStep lsb (a, b) q = (a + cutTo lsb q, b || isCut lsb q) := by
      cases q <;> simp [cutStep, cutTo, isCut]
    rw [List.foldl_cons, hq, ih]
    simp [add_assoc, Bool.or_assoc]

section
variable {mode w : Nat} {ts : List FVal}

/-- A sum of finite terms of which one is not zero. -/
theorem winSum_finite {E : Int} (hf : ∀ q ∈ ts, ∃ n m e, q = .fin n m e) (hE : ∃ q ∈ ts, Leads q E)
    (hle : ∀ q ∈ ts, q.real ≠ 0 → Int.log 2 |q.real| ≤ E) :
    let lsb : Int := E - w + 1
    let s := (ts.map (cutTo lsb)).sum
    winSum mode w ts = (if s = 0 then .zero (decide (mode = 3)) else .num (decide (s < 0)) s.natAbs lsb false,
      ts.any (isCut lsb)) := by
  intro lsb s
  have hnan : ts.any FVal.isNan = false := List.any_eq_false.mpr fun q hq => by
    obtain ⟨_, _, _, rfl⟩ := hf q hq
    simp [FVal.isNan]
  have hpos : ts.any (fun t => t.isInf && !t.neg) = false := List.any_eq_false.mpr fun q hq => by
    obtain ⟨_, _, _, rfl⟩ := hf q hq
    simp [FVal.isInf]
  have hneg : ts.any (fun t => t.isInf && t.neg) = false := List.any_eq_false.mpr fun q hq => by
    obtain ⟨_, _, _, rfl⟩ := hf q hq
    simp [FVal.isInf]
  have hzero : ts.all FVal.isZero = false := by
    obtain ⟨q, hq, h0, _⟩ := hE
    obtain ⟨n, m, e, rfl⟩ := hf q hq
    refine List.all_eq_false.mpr ⟨_, hq, ?_⟩
    simpa [FVal.isZero] using mt realQ_eq_zero.mpr h0
  have hlead : ts.foldl leadStep none = some E := foldl_leadStep none hf hle nofun (.inr hE)
  have hcut := foldl_cutStep lsb ts 0 false
  unfold winSum
  simp only [hnan, hpos, hneg, hzero, Bool.false_and, Bool.or_self, Bool.false_eq_true, if_false]
  change (match ts.foldl (cutStep ((ts.foldl leadStep none).getD 0 - w + 1)) (0, false) with
    | (sum, ls) => if sum == 0 then (Ex.zero (mode == 3), ls)
      else (Ex.num (decide (sum < 0)) sum.natAbs ((ts.foldl leadStep none).getD 0 - w + 1) false, ls)) = _
  rw [hlead, Option.getD_some, hcut]
  simp only [Int.zero_add, Bool.false_or]
  by_cases hs : s = 0
  · rw [if_pos (by simpa using hs), if_pos hs]
    rfl
  · rw [if_neg (by simpa using hs), if_neg hs]

/-- What the sum over the window is in real numbers (R106). -/
theorem winSum_real {E : Int} (hf : ∀ q ∈ ts, ∃ n m e, q = .fin n m e) (hE : ∃ q ∈ ts, Leads q E)
    (hle : ∀ q ∈ ts, q.real ≠ 0 → Int.log 2 |q.real| ≤ E) :
    let lsb : Int := E - w + 1
    let s : ℚ := (ts.map (cutReal lsb)).sum
    ((winSum mode w ts).2 = true ↔ ∃ q ∈ ts, cutReal lsb q ≠ q.real) ∧
    (s = 0 → (winSum mode w ts).1 = .zero (decide (mode = 3))) ∧ (s ≠ 0 → (winSum mode w ts).1.Stands (s : ℝ)) := by
  intro lsb s
  rw [winSum_finite hf hE hle]
  have hs : s = ((ts.map (cutTo lsb)).sum : ℤ) * (2 : ℚ) ^ lsb := by
    have hmap : ts.map (cutReal lsb) = ts.map fun q => (cutTo lsb q : ℚ) * (2 : ℚ) ^ lsb :=
      List.map_congr_left fun q hq => by
        obtain ⟨n, m, e, rfl⟩ := hf q hq
        exact cutReal_fin ..
    show (ts.map (cutReal lsb)).sum = _
    rw [hmap, List.sum_map_mul_right]
    push_cast
    rw [List.map_map]
    rfl
  have hs0 : s = 0 ↔ (ts.map (cutTo lsb)).sum = 0 := by
    rw [hs, mul_eq_zero, or_iff_left (two_zpow_posQ lsb).ne', Int.cast_eq_zero]
  refine ⟨?_, fun h => ?_, fun h => ?_⟩
  · rw [List.any_eq_true]
    refine exists_congr fun q => and_congr_right fun hq => ?_
    obtain ⟨n, m, e, rfl⟩ := hf q hq
    exact (cutReal_ne_iff ..).symm
  · exact if_pos (hs0.mp h)
  · have h := mt hs0.mpr h
    dsimp only
    rw [if_neg h, hs, Rat.cast_mul, Rat.cast_zpow, Rat.cast_intCast, Rat.cast_ofNat, ← real_ofMultiple]
    exact stands_fin (Int.natAbs_ne_zero.mpr h)

/-! ## Special terms (R106) -/

theorem any_isNan : ts.any FVal.isNan = true ↔ ∃ q ∈ ts, q.isNan = true := List.any_eq_true

theorem any_isInf (n : Bool) : ts.any (fun q => q.isInf && (q.neg == n)) = true ↔ .inf n ∈ ts := by
  rw [List.any_eq_true]
  refine ⟨fun ⟨q, hq, h⟩ => ?_, fun h => ⟨_, h, by simp [FVal.isInf, FVal.neg]⟩⟩
  cases q with
  | inf b =>
    obtain rfl : b = n := by simpa [FVal.isInf, FVal.neg] using h
    exact hq
  | nan | fin => simp [FVal.isInf] at h

theorem any_posInf : ts.any (fun q => q.isInf && !q.neg) = true ↔ .inf false ∈ ts := by
  simpa using any_isInf (ts := ts) false

theorem any_negInf : ts.any (fun q => q.isInf && q.neg) = true ↔ .inf true ∈ ts := by
  simpa using any_isInf (ts := ts) true

theorem winSum_nan (h : (∃ q ∈ ts, q.isNan = true) ∨ (.inf false ∈ ts ∧ .inf true ∈ ts)) :
    winSum mode w ts = (.nan, false) := by
  rw [← any_isNan, ← any_posInf, ← any_negInf] at h
  unfold winSum
  exact if_pos (by simpa using h)

theorem winSum_inf {n : Bool} (hn : ¬∃ q ∈ ts, q.isNan = true) (h : .inf n ∈ ts) (h' : .inf (!n) ∉ ts) :
    winSum mode w ts = (.inf n, false) := by
  rw [← any_isNan, Bool.not_eq_true] at hn
  unfold winSum
  cases n with
  | false =>
    have hneg := Bool.eq_false_iff.mpr (mt any_negInf.mp h')
    simp only [hn, any_posInf.mpr h, hneg, Bool.and_false, Bool.or_self, Bool.false_eq_true, if_false, if_true]
  | true =>
    have hpos := Bool.eq_false_iff.mpr (mt any_posInf.mp h')
    simp only [hn, any_negInf.mpr h, hpos, Bool.false_and, Bool.or_self, Bool.false_eq_true, if_false, if_true]

theorem winSum_zeros (hts : ts ≠ []) (h : ∀ q ∈ ts, q.isZero = true) :
    winSum mode w ts = (.zero (ts.all FVal.neg), false) := by
  have hfin (q : FVal) (hq : q ∈ ts) : q.isNan = false ∧ q.isInf = false := by
    have := h q hq
    cases q <;> simp_all [FVal.isZero, FVal.isNan, FVal.isInf]
  have hnan : ts.any FVal.isNan = false := List.any_eq_false.mpr fun q hq => by simp [hfin q hq]
  have hpos : ts.any (fun t => t.isInf && !t.neg) = false := List.any_eq_false.mpr fun q hq => by simp [hfin q hq]
  have hneg : ts.any (fun t => t.isInf && t.neg) = false := List.any_eq_false.mpr fun q hq => by simp [hfin q hq]
  have hzero : ts.all FVal.isZero = true := List.all_eq_true.mpr h
  have hne : ts.isEmpty = false := by simpa using hts
  unfold winSum
  simp only [hnan, hpos, hneg, hzero, hne, Bool.and_false, Bool.or_self, Bool.false_eq_true, if_false, if_true,
    Bool.not_false, Bool.and_true]

/-- The flags of a vector sum (R108). -/
theorem winResult_fl (t : ETy) (nv : Bool) : (winResult t mode w nv ts).fl =
    (roundEx t mode false (winSum mode w ts).1).fl ||| (if (winSum mode w ts).2 then 64 else 0) |||
      (if nv = true ∨ (.inf false ∈ ts ∧ .inf true ∈ ts ∧ ¬∃ q ∈ ts, q.isNan = true) then 4 else 0) := by
  have h : (nv || ts.any (fun v => v.isInf && v.neg) && ts.any (fun v => v.isInf && !v.neg) &&
      !ts.any FVal.isNan) = true ↔ nv = true ∨ (.inf false ∈ ts ∧ .inf true ∈ ts ∧ ¬∃ q ∈ ts, q.isNan = true) := by
    simp only [Bool.or_eq_true, Bool.and_eq_true, Bool.not_eq_true', ← Bool.not_eq_true, any_isNan, any_posInf,
      any_negInf]
    tauto
  refine congrArg₂ (· ||| ·) rfl ?_
  by_cases hc : nv = true ∨ (.inf false ∈ ts ∧ .inf true ∈ ts ∧ ¬∃ q ∈ ts, q.isNan = true)
  · rw [if_pos hc, h.mpr hc]
    rfl
  · rw [if_neg hc, Bool.eq_false_iff.mpr (mt h.mp hc)]
    rfl

end

/-! ## The terms of a fused sum and of a matrix step (R106, R108) -/

theorem real_mulVal {x y : FVal} (hx : ∃ n m e, x = .fin n m e) (hy : ∃ n m e, y = .fin n m e) :
    mxProduct x y = mulVal x y ∧ (∃ n m e, mulVal x y = .fin n m e) ∧ (mulVal x y).real = x.real * y.real := by
  obtain ⟨n1, m1, e1, rfl⟩ := hx
  obtain ⟨n2, m2, e2, rfl⟩ := hy
  have h := real_mul n1 m1 e1 n2 m2 e2
  refine ⟨by simp [mxProduct, zeroTimesInf, FVal.isInf], ⟨_, _, _, rfl⟩, ?_⟩
  exact_mod_cast h

theorem fin_of {x : FVal} (hn : x.isNan = false) (hi : x.isInf = false) : ∃ n m e, x = .fin n m e := by
  cases x with
  | nan => cases hn
  | inf => cases hi
  | fin n m e => exact ⟨n, m, e, rfl⟩

/-- The product of a fused sum as a term of the window. -/
theorem mxProduct_spec (x y : FVal) :
    (x.isNan = true ∨ y.isNan = true ∨ zeroTimesInf x y = true → (mxProduct x y).isNan = true) ∧
    (x.isNan = false → y.isNan = false → zeroTimesInf x y = false →
      (x.isInf = true ∨ y.isInf = true → mxProduct x y = .inf (x.neg != y.neg)) ∧
      (x.isInf = false → y.isInf = false →
        (∃ n m e, mxProduct x y = .fin n m e) ∧ (mxProduct x y).real = x.real * y.real)) := by
  refine ⟨fun h => ?_, fun hx hy hz => ⟨fun h => ?_, fun hxi hyi => ?_⟩⟩
  · by_cases hz : zeroTimesInf x y = true
    · simp [mxProduct, hz, FVal.isNan]
    · rw [mxProduct, if_neg hz]
      cases x <;> cases y <;> simp_all [mulVal, FVal.isNan]
  · rw [mxProduct, if_neg (by simp [hz])]
    exact mulVal_inf hx hy hz h
  · obtain ⟨he, hfin, hreal⟩ := real_mulVal (fin_of hx hxi) (fin_of hy hyi)
    rw [he]
    exact ⟨hfin, hreal⟩

/-- The value of half a TW8 weight (R99). -/
theorem real_half (s c : Nat) :
    (FVal.fin (s == 1) 1 (-(c : Int))).real = (if s = 1 then -1 else 1) * (2 : ℚ) ^ (-(c : Int)) := by
  by_cases h : s = 1 <;> simp [FVal.real, h]

/-- The terms that half a TW8 weight gives: none for code 7. -/
theorem real_halfTerms {a : FVal} (ha : ∃ n m e, a = .fin n m e) (s c : Nat) :
    (if (c == 7) = true then [] else [mxProduct a (.fin (s == 1) 1 (-(c : Int)))]).map FVal.real =
      if c = 7 then [] else [a.real * ((if s = 1 then -1 else 1) * (2 : ℚ) ^ (-(c : Int)))] := by
  by_cases h : c = 7
  · simp [h]
  · obtain ⟨he, _, hr⟩ := real_mulVal ha ⟨s == 1, 1, -(c : Int), rfl⟩
    rw [if_neg (by simpa using h), if_neg h, he, List.map_singleton, hr, real_half]

theorem products_real {t : ETy} {a : FVal} {b : Nat} (ht : t ≠ .tw8) (ha : ∃ n m e, a = .fin n m e)
    (hb : ∃ n m e, valOf t false b = .fin n m e) :
    (products t a (b, none)).map FVal.real = [a.real * (valOf t false b).real] := by
  obtain ⟨he, _, hr⟩ := real_mulVal ha hb
  have h : products t a (b, none) = [mxProduct a (valOf t false b)] := if_neg (by simpa using ht)
  rw [h, he, List.map_singleton, hr]

theorem products_tw8_real {a : FVal} {b : Nat} (ha : ∃ n m e, a = .fin n m e) :
    let half (s c : Nat) : List ℚ :=
      if c = 7 then [] else [a.real * ((if s = 1 then -1 else 1) * (2 : ℚ) ^ (-(c : Int)))]
    let l := half (b / 128 % 2) (b / 16 % 8) ++ half (b / 8 % 2) (b % 8)
    (products .tw8 a (b, none)).map FVal.real = if l = [] then [0] else l := by
  intro half l
  let terms (s c : Nat) : List FVal := if (c == 7) = true then [] else [mxProduct a (.fin (s == 1) 1 (-(c : Int)))]
  have hl : (terms (b / 128 % 2) (b / 16 % 8) ++ terms (b / 8 % 2) (b % 8)).map FVal.real = l := by
    rw [List.map_append]
    exact congrArg₂ (· ++ ·) (real_halfTerms ha _ _) (real_halfTerms ha _ _)
  have hp : products .tw8 a (b, none) =
      if (terms (b / 128 % 2) (b / 16 % 8) ++ terms (b / 8 % 2) (b % 8)).isEmpty then [mxProduct a (.fin false 0 0)]
      else terms (b / 128 % 2) (b / 16 % 8) ++ terms (b / 8 % 2) (b % 8) := rfl
  rw [hp]
  by_cases h : terms (b / 128 % 2) (b / 16 % 8) ++ terms (b / 8 % 2) (b % 8) = []
  · obtain ⟨he, _, hr⟩ := real_mulVal ha ⟨false, 0, 0, rfl⟩
    have hnil : l = [] := by rw [← hl, h]; rfl
    rw [if_pos (by simp [h]), if_pos hnil, he, List.map_singleton, hr]
    simp [FVal.real]
  · have hnil : l ≠ [] := by
      rw [← hl]
      simpa using h
    rw [if_neg (by simpa using h), if_neg hnil, hl]

end Sys2Proof.Machine
end

section
/-! SUPPORT. The special functions where their value is exact, and their special operands (R105). -/
namespace Sys2Proof.Machine

/-! ## Reciprocal and reciprocal root -/

theorem real_one : ((FVal.fin false 1 0).real : ℝ) = 1 := by simp [FVal.real]

theorem rcp_stands {n : Bool} {m : Nat} {e : Int} (hm : m ≠ 0) :
    (spEx .rcp (.fin n m e)).1.Stands (1 / ((FVal.fin n m e).real : ℝ)) ∧ (spEx .rcp (.fin n m e)).2 = 0 := by
  have h : spEx .rcp (.fin n m e) = divEx (.fin false 1 0) (.fin n m e) := by simp [spEx, hm]
  rw [h, ← real_one]
  refine ⟨divEx_stands hm, ?_⟩
  rw [divEx_fin, if_neg hm]
  rfl

/-- The power of two of which the reciprocal root is taken. -/
def rsqExp (m : Nat) (e : Int) : Nat := 2 * bitLen m + 400 + (if e % 2 = 0 then 0 else 1)

theorem rsqExp_even (m : Nat) (e : Int) : 2 * (-(e + rsqExp m e) / 2) = -(e + rsqExp m e) := by
  unfold rsqExp
  split <;> push_cast <;> omega

theorem rsqNum_eq (m : Nat) (e : Int) : rsqNum m e = .num false (Nat.sqrt (2 ^ rsqExp m e / m)) (-(e + rsqExp m e) / 2)
    (Nat.sqrt (2 ^ rsqExp m e / m) * Nat.sqrt (2 ^ rsqExp m e / m) * m != 2 ^ rsqExp m e) := by
  rw [← isqrt_eq_sqrt]
  simp only [rsqNum, beq_iff_eq]
  rfl

/-- The root of a quotient of natural numbers, cut to its integer part, of which there are 64 bits. -/
theorem stands_quotientRoot {N d : Nat} {e : Int} (hd : d ≠ 0) (h : 2 ^ 126 ≤ N / d) :
    (Ex.num false (Nat.sqrt (N / d)) e (Nat.sqrt (N / d) * Nat.sqrt (N / d) * d != N)).Stands
      (Real.sqrt ((N : ℝ) / d) * (2 : ℝ) ^ e) := by
  have he := two_zpow_pos e
  have hdp : (0 : ℝ) < d := by exact_mod_cast Nat.pos_of_ne_zero hd
  have hNp : (0 : ℝ) < N := by
    have : 0 < N := Nat.pos_of_ne_zero fun h0 => by simp [h0] at h
    exact_mod_cast this
  have hr : 2 ^ 63 ≤ Nat.sqrt (N / d) := Nat.le_sqrt.mpr (by simpa [← Nat.pow_add] using h)
  have hs := stands_signed (neg := false) (rest := Nat.sqrt (N / d) * Nat.sqrt (N / d) * d != N)
    (m := Nat.sqrt (N / d)) (e := e) (y := Real.sqrt ((N : ℝ) / d) * (2 : ℝ) ^ e)
    (mul_pos (Real.sqrt_pos.mpr (div_pos hNp hdp)) he)
  simp only [Bool.false_eq_true, if_false, one_mul] at hs
  refine hs ?_
  have hle : Nat.sqrt (N / d) * Nat.sqrt (N / d) * d ≤ N :=
    (Nat.mul_le_mul_right d (Nat.sqrt_le (N / d))).trans (Nat.div_mul_le_self N d)
  by_cases hsq : Nat.sqrt (N / d) * Nat.sqrt (N / d) * d = N
  · have hq : (N : ℝ) / d = Nat.sqrt (N / d) * Nat.sqrt (N / d) := by
      rw [div_eq_iff hdp.ne']
      exact_mod_cast hsq.symm
    rw [hq, Real.sqrt_mul_self (Nat.cast_nonneg _)]
    simp [hsq]
  · have hb : (Nat.sqrt (N / d) * Nat.sqrt (N / d) * d != N) = true := by simpa using hsq
    rw [hb, if_pos rfl]
    have h1 : (Nat.sqrt (N / d) : ℝ) < Real.sqrt ((N : ℝ) / d) := by
      refine Real.lt_sqrt_of_sq_lt ?_
      rw [pow_two, lt_div_iff₀ hdp]
      exact_mod_cast lt_of_le_of_ne hle hsq
    have h2 : Real.sqrt ((N : ℝ) / d) < Nat.sqrt (N / d) + 1 := by
      rw [Real.sqrt_lt' (by positivity), pow_two, div_lt_iff₀ hdp]
      exact_mod_cast Nat.lt_mul_of_div_lt (Nat.lt_succ_sqrt (N / d)) (Nat.pos_of_ne_zero hd)
    exact ⟨hr, mul_lt_mul_of_pos_right h1 he, mul_lt_mul_of_pos_right h2 he⟩

theorem rsqExp_large {m : Nat} (e : Int) (hm : m ≠ 0) : 2 ^ 126 ≤ 2 ^ rsqExp m e / m := by
  rw [Nat.le_div_iff_mul_le (Nat.pos_of_ne_zero hm)]
  calc 2 ^ 126 * m ≤ 2 ^ 126 * 2 ^ bitLen m := Nat.mul_le_mul_left _ (lt_two_pow_bitLen m).le
    _ = 2 ^ (126 + bitLen m) := (Nat.pow_add ..).symm
    _ ≤ 2 ^ rsqExp m e := Nat.pow_le_pow_right (by decide) (by unfold rsqExp; omega)

theorem rsq_stands {m : Nat} {e : Int} (hm : m ≠ 0) :
    (spEx .rsq (.fin false m e)).1.Stands (1 / Real.sqrt ((FVal.fin false m e).real : ℝ)) ∧
      (spEx .rsq (.fin false m e)).2 = 0 := by
  have h : spEx .rsq (.fin false m e) = (rsqNum m e, 0) := by simp [spEx, hm]
  rw [h, rsqNum_eq]
  refine ⟨?_, rfl⟩
  have hst := stands_quotientRoot (e := -(e + rsqExp m e) / 2) hm (rsqExp_large e hm)
  convert hst using 1
  have hmp : (0 : ℝ) < m := by exact_mod_cast Nat.pos_of_ne_zero hm
  have hp : (2 : ℝ) ^ (-(e + rsqExp m e) / 2) = Real.sqrt ((2 : ℝ) ^ (-(e + rsqExp m e))) := by
    rw [← rsqExp_even m e, two_mul, zpow_add₀ (by norm_num), Real.sqrt_mul_self (two_zpow_pos _).le]
    congr 1
    omega
  rw [hp, ← Real.sqrt_mul (by positivity), one_div, ← Real.sqrt_inv, real_fin]
  congr 1
  rw [zpow_neg, zpow_add₀ (by norm_num), zpow_natCast]
  push_cast
  have he := (two_zpow_pos e).ne'
  simp
  field_simp

/-! ## Powers of two -/

theorem toFx_of_natural {n : Bool} {m : Nat} {e : Int} {k : Nat} (h : |(FVal.fin n m e).real| = k) :
    toFx m e = k * 2 ^ fxBits := by
  rw [abs_real_fin] at h
  have hf := floor_scaleTo m e (-(fxBits : Int))
  rw [h, zpow_neg, zpow_natCast, div_inv_eq_mul] at hf
  have hc : ((k : ℚ) * 2 ^ fxBits) = ((k * 2 ^ fxBits : ℕ) : ℤ) := by push_cast; rfl
  rw [hc, Int.floor_intCast] at hf
  exact (Int.ofNat.inj hf).symm

theorem msb_lt_of_abs_lt {n : Bool} {m : Nat} {e : Int} {b : Nat} (hm : m ≠ 0)
    (h : |(FVal.fin n m e).real| < (2 : ℚ) ^ b) : msb m e < b := by
  rw [abs_real_fin] at h
  have h2 : (2 : ℚ) ^ msb m e < (2 : ℚ) ^ (b : Int) := by
    rw [zpow_natCast]
    exact lt_of_le_of_lt (msb_bounds hm e).1 h
  exact (zpow_lt_zpow_iff_right₀ (by norm_num)).mp h2

theorem le_msb_of_le_abs {n : Bool} {m : Nat} {e : Int} {b : Nat} (hm : m ≠ 0)
    (h : (2 : ℚ) ^ b ≤ |(FVal.fin n m e).real|) : b ≤ msb m e := by
  rw [abs_real_fin] at h
  have h2 : (2 : ℚ) ^ (b : Int) < (2 : ℚ) ^ (msb m e + 1) := by
    rw [zpow_natCast]
    exact lt_of_le_of_lt h (msb_bounds hm e).2
  have := (zpow_lt_zpow_iff_right₀ (by norm_num)).mp h2
  omega

/-- The sign of an integer value. -/
theorem int_of_real {n : Bool} {m : Nat} {e k : Int} (h : (FVal.fin n m e).real = k) (hm : m ≠ 0) :
    k = if n then -(k.natAbs : Int) else k.natAbs := by
  have hpos : (0 : ℚ) < (m : ℚ) * (2 : ℚ) ^ e :=
    mul_pos (by exact_mod_cast Nat.pos_of_ne_zero hm) (two_zpow_posQ e)
  cases n with
  | false =>
    have : (0 : ℚ) < k := by rw [← h]; simpa [FVal.real] using hpos
    have : 0 < k := by exact_mod_cast this
    simp only [Bool.false_eq_true, if_false]
    omega
  | true =>
    have : (k : ℚ) < 0 := by rw [← h]; simpa [FVal.real] using hpos
    have : k < 0 := by exact_mod_cast this
    simp only [if_true]
    omega

theorem exp2_stands {n : Bool} {m : Nat} {e k : Int} (hm : m ≠ 0) (h : (FVal.fin n m e).real = k)
    (hlt : |(FVal.fin n m e).real| < (2 : ℚ) ^ 13) :
    (spEx .exp2 (.fin n m e)).1.Stands ((2 : ℝ) ^ k) ∧ (spEx .exp2 (.fin n m e)).2 = 0 := by
  have hmsb : ¬12 < msb m e := by
    have := msb_lt_of_abs_lt (b := 13) hm hlt
    omega
  have hfx : toFx m e = k.natAbs * 2 ^ fxBits := by
    refine toFx_of_natural (n := n) ?_
    rw [h, Nat.cast_natAbs, Int.cast_abs]
  have hval : spEx .exp2 (.fin n m e) = (.num false 1 k false, 0) := by
    have hp : 0 < 2 ^ fxBits := Nat.two_pow_pos _
    simp only [spEx, beq_iff_eq, hm, if_false, exp2Num, if_neg hmsb, hfx, Nat.mul_div_cancel _ hp, Nat.mul_mod_left,
      if_true]
    rw [← int_of_real h hm]
  rw [hval]
  refine ⟨?_, rfl⟩
  have hst := stands_signed (neg := false) (rest := false) (m := 1) (e := k) (two_zpow_pos k) (by simp)
  simpa using hst

/-! ## Logarithms of powers of two -/

theorem log2_stands {m : Nat} {e k : Int} (hm : m ≠ 0) (h : (FVal.fin false m e).real = (2 : ℚ) ^ k) :
    (spEx .log2 (.fin false m e)).1.Stands (k : ℝ) ∧ (spEx .log2 (.fin false m e)).2 = 0 := by
  have hreal : (m : ℚ) * (2 : ℚ) ^ e = (2 : ℚ) ^ k := by simpa [FVal.real] using h
  have hmk : (m : ℚ) = (2 : ℚ) ^ (k - e) := by
    rw [zpow_sub₀ (by norm_num), ← hreal, mul_div_assoc, div_self (two_zpow_posQ e).ne', mul_one]
  have hke : 0 ≤ k - e := by
    have h1 : (1 : ℚ) ≤ (2 : ℚ) ^ (k - e) := by rw [← hmk]; exact_mod_cast Nat.pos_of_ne_zero hm
    by_contra hneg
    exact absurd (zpow_lt_one_of_neg₀ (by norm_num : (1 : ℚ) < 2) (not_le.mp hneg)) (not_lt.mpr h1)
  obtain ⟨j, hj⟩ := Int.eq_ofNat_of_zero_le hke
  have hm2 : m = 2 ^ j := by
    rw [hj] at hmk
    exact_mod_cast hmk
  have hl : bitLen m - 1 = j := by
    rw [bitLen_eq hm, hm2, Nat.add_sub_cancel]
    exact Nat.log2_two_pow
  have hkj : e + (j : Int) = k := by omega
  have hval : spEx .log2 (.fin false m e) =
      (if k = 0 then .zero false else .num (decide (k < 0)) k.natAbs 0 false, 0) := by
    simp only [spEx, beq_iff_eq, hm, if_false, Bool.false_eq_true, log2Num, hl, hkj, if_pos hm2]
  rw [hval]
  refine ⟨?_, rfl⟩
  by_cases h0 : k = 0
  · simp [h0, Ex.Stands]
  · rw [if_neg h0]
    have hst := stands_fin (n := decide (k < 0)) (e := 0) (Int.natAbs_ne_zero.mpr h0)
    rw [real_ofMultiple, zpow_zero, mul_one] at hst
    exact hst

/-! ## A power far out of range (R103, R105) -/

theorem exp2_overflows {t : ETy} (ht : t = .f32 ∨ t = .bf16 ∨ t = .f16) {m : Nat} {e : Int} (hm : m ≠ 0)
    (h : (2 : ℚ) ^ 13 ≤ (FVal.fin false m e).real) :
    finishEx t 0 (spEx .exp2 (.fin false m e)) = { bits := infBits t false, fl := 0x50 } := by
  have hmsb : 12 < msb m e := by
    have := le_msb_of_le_abs (b := 13) hm (h.trans (le_abs_self _))
    omega
  have hval : spEx .exp2 (.fin false m e) = (.num false 1 6000 false, 0) := by
    simp only [spEx, beq_iff_eq, hm, if_false, exp2Num, if_pos hmsb, Bool.false_eq_true]
  rw [hval]
  rcases ht with rfl | rfl | rfl <;> decide +kernel

theorem exp2_underflows {t : ETy} (ht : t = .f32 ∨ t = .bf16 ∨ t = .f16) {m : Nat} {e : Int} (hm : m ≠ 0)
    (h : (FVal.fin true m e).real ≤ -(2 : ℚ) ^ 13) :
    finishEx t 0 (spEx .exp2 (.fin true m e)) = { bits := 0, fl := 0x60 } := by
  have hmsb : 12 < msb m e := by
    have := le_msb_of_le_abs (b := 13) hm ((le_neg_of_le_neg h).trans (neg_le_abs _))
    omega
  have hval : spEx .exp2 (.fin true m e) = (.num false 1 (-6000) true, 0) := by
    simp only [spEx, beq_iff_eq, hm, if_false, exp2Num, if_pos hmsb, if_true]
  rw [hval]
  rcases ht with rfl | rfl | rfl <;> decide +kernel

/-- The sign of a value. -/
theorem real_sign {n : Bool} {m : Nat} {e : Int} (hm : m ≠ 0) :
    if n then (FVal.fin n m e).real < 0 else 0 < (FVal.fin n m e).real := by
  have hpos : (0 : ℚ) < (m : ℚ) * (2 : ℚ) ^ e :=
    mul_pos (by exact_mod_cast Nat.pos_of_ne_zero hm) (two_zpow_posQ e)
  cases n <;> simpa [FVal.real] using hpos

theorem eq_false_of_pos {n : Bool} {m : Nat} {e : Int} (hm : m ≠ 0) (h : 0 < (FVal.fin n m e).real) : n = false := by
  have hs := real_sign (n := n) (e := e) hm
  cases n with
  | false => rfl
  | true => exact absurd h (lt_asymm hs)

theorem eq_true_of_neg {n : Bool} {m : Nat} {e : Int} (hm : m ≠ 0) (h : (FVal.fin n m e).real < 0) : n = true := by
  have hs := real_sign (n := n) (e := e) hm
  cases n with
  | false => exact absurd h (lt_asymm hs)
  | true => rfl

/-! ## The statement -/

theorem tanh_inf (n : Bool) : (spEx .tanh (.inf n)).1.Stands (if n then -1 else 1) ∧ (spEx .tanh (.inf n)).2 = 0 := by
  cases n <;> simp [spEx, Ex.Stands]

/-- Settles O12: the special functions by range of the operand, and the sums of a window. -/
theorem specialFunctions : Obligations.SpecialFunctions := by
  unfold Obligations.SpecialFunctions
  refine ⟨fun t a ht _ => ⟨fun _ => rfl, ?_, ?_, ?_, ?_⟩, fun t mode w ts =>
    ⟨winSum_nan, fun hn hp hm => ?_, fun hn hm hp => ?_,
    winSum_zeros, ?_, fun nv => ⟨rfl, winResult_fl t nv⟩, fun a b c => ?_, ?_, rfl⟩⟩
  · intro s hx fn
    rw [hx]
    rfl
  · intro n hx
    rw [hx]
    refine ⟨?_, ?_, rfl, ?_, tanh_inf n⟩ <;> cases n <;> rfl
  · intro n e hx
    rw [hx]
    refine ⟨⟨?_, rfl⟩, rfl, rfl, rfl, rfl⟩
    simp [spEx, Ex.Stands]
  · intro n m e hx hm
    have hfs (fn : SpFn) : fSpecial fn t a = finishEx t 0 (spEx fn (valOf t false a)) := rfl
    simp only [hfs, hx]
    refine ⟨rcp_stands hm, ?_, ?_, ?_, ?_, ?_, ?_⟩
    · rintro rfl
      exact rsq_stands hm
    · rintro rfl
      simp [spEx, hm, flNV]
    · intro k hk hlt
      exact exp2_stands hm (by exact_mod_cast hk) (by exact_mod_cast hlt)
    · intro k hk
      have hk : (FVal.fin n m e).real = (2 : ℚ) ^ k := Rat.cast_injective (α := ℝ)
        (by rw [hk, Rat.cast_zpow, Rat.cast_ofNat])
      obtain rfl := eq_false_of_pos hm (hk ▸ two_zpow_posQ k)
      exact log2_stands hm hk
    · intro h
      have h : (2 : ℚ) ^ 13 ≤ (FVal.fin n m e).real := by exact_mod_cast h
      obtain rfl := eq_false_of_pos hm (lt_of_lt_of_le (by positivity) h)
      exact exp2_overflows ht hm h
    · intro h
      have h : (FVal.fin n m e).real ≤ -(2 : ℚ) ^ 13 := by exact_mod_cast h
      obtain rfl := eq_true_of_neg hm (lt_of_le_of_lt h (by norm_num))
      exact exp2_underflows ht hm h
  · exact winSum_inf hn hp hm
  · exact winSum_inf hn hm hp
  · intro _ hf E hE hle
    exact winSum_real hf hE hle
  · exact ⟨_, rfl, mxProduct_spec _ _⟩
  · rintro a b n m e rfl
    exact ⟨fun ht n' m' e' hb => products_real ht ⟨n, m, e, rfl⟩ ⟨n', m', e', hb⟩, products_tw8_real ⟨n, m, e, rfl⟩⟩

end Sys2Proof.Machine
end
